-- ==== Sys2Proof/Word.lean ====
section
/-!
DEFINITION. The word types of the module: a register word is 32 bits (R7), memory is addressed by bytes (R9).
-/

namespace Sys2Proof

/-- A register word (R7). -/
abbrev Word := BitVec 32

/-- A byte of memory. -/
abbrev Byte := BitVec 8

end Sys2Proof
end

