-- ==== Sys2Proof/Syntax.lean ====
section
/-!
DEFINITION. The commands of the module: one constructor for each row of spec/opcode_table.json, with the operands this
model gives it. The table states no operands; a command's operands are what comes from outside the state when the step
happens: who acts, on which unit, and the data that arrives (a packet, a sensor value, what a decoder found on a word).
-/
namespace Sys2Proof

/-- The tiers that patrol scrub covers (R34, R40). -/
inductive ScrubTier where
  | sram | hbm | lp
  deriving DecidableEq, Repr

/-- What the decoder finds on one 32-byte word: the symbols it reports in error (0 when the error passes unnoticed), and
the data it delivers where the word is miscorrected or passes unnoticed (R33, R35); whether an HBM stack's on-die ECC
signals a correction of it (R21). -/
structure Upset where
  addr : Nat
  sym : Nat
  data : Option (List Byte)
  onDie : Bool
  deriving DecidableEq, Repr

/-- A privilege mode of an application core's hart (R138). -/
inductive Priv where
  | user
  | supervisor
  | machine
  deriving DecidableEq, Repr

/-- A scalar floating-point format of a hart. -/
inductive HartFmt where
  | half
  | single
  | double
  deriving DecidableEq, Repr

/-- A floating-point operation of a hart that gives a floating-point value: of two operands, of one (`sqrt`), or fused
`±(a × b) ± c` with the signs of the product and of the addend turned (R149). -/
inductive FpOp where
  | add
  | sub
  | mul
  | div
  | sqrt
  | min
  | max
  | fma (negProduct negAddend : Bool)
  deriving DecidableEq, Repr

/-- A floating-point comparison of a hart. -/
inductive FpCmp where
  | eq
  | lt
  | le
  deriving DecidableEq, Repr

/-- How a CSR instruction combines the old value and its operand. -/
inductive CsrHow where
  | write
  | set
  | clear
  deriving DecidableEq, Repr

/-- An instruction of an application core's hart (R137, R138, R149), after its fetch and accesses. `fp` to `fcmp` are the
scalar floating-point instructions (`rm` the rounding-mode field), `vfp` an elementwise vector one (`rs` a scalar operand in
place of `vs1`, `rev` the operands exchanged, `onto` vd as the addend of a fused operation), `vfred` a vector sum (`widen`
vfwredosum and vfwredusum, `ordered` the two ordered forms), `vset` the setting of vl and vtype, `csr` an access to a CSR
(`val` the value of the source operand, none where nothing is written). `hyper` is an instruction of the hypervisor
extension, `ecall` an environment call other than the three of R138, `trap` an exception that the RISC-V text itself raises.
`retire` is any other instruction, with what the RISC-V text makes it write to the x, f and v registers and the next pc. -/
inductive HartOp where
  | fp (op : FpOp) (fmt : HartFmt) (rm : Fin 8) (rd rs1 rs2 rs3 : Fin 32)
  | fcvt (dst src : HartFmt) (rm : Fin 8) (rd rs1 : Fin 32)
  | fcvtToInt (src : HartFmt) (signed long : Bool) (rm : Fin 8) (rd rs1 : Fin 32)
  | fcvtFromInt (dst : HartFmt) (signed long : Bool) (rm : Fin 8) (rd rs1 : Fin 32)
  | fcmp (op : FpCmp) (fmt : HartFmt) (rd rs1 rs2 : Fin 32)
  | vfp (op : FpOp) (vd vs2 vs1 : Fin 32) (rs : Option (Fin 32)) (rev onto masked : Bool)
  | vfred (widen ordered : Bool) (vd vs2 vs1 : Fin 32) (masked : Bool)
  | vset (rd : Fin 32) (avl : Option Nat) (vtype : Nat)
  | csr (how : CsrHow) (num : Fin 4096) (rd : Fin 32) (val : Option Nat)
  | wfi
  | sret
  | ecall
  | hyper
  | trap (cause tval : Nat)
  | retire (pc : Nat) (xs fs vs : List (Fin 32 × Nat))
  deriving DecidableEq, Repr

/-- What an application core does: a load of `size` bytes, a store, an instruction fetch, the execution of an instruction;
`upsets` is what the decoder finds on words read, `evict` the addresses of cached lines that the access displaces. -/
inductive AcAccess where
  | load (addr size : Nat) (upsets : List Upset) (evict : List Nat)
  | store (addr : Nat) (data : List Byte) (upsets : List Upset) (evict : List Nat)
  | fetch (addr size : Nat) (upsets : List Upset)
  | hart (op : HartOp)
  deriving DecidableEq, Repr

/-- What a job that was a step of a pipeline of tenant 0 brings to its step marker (R174, R181): the pipeline; the places in
the replay log of the records that the step consumed, as (segment, offset), the segment by its sequence number or during a
replay by its place among the copies; the decode contexts whose pictures it expected; its result frames in release order, as
(flow, frame number). -/
structure PipeStep where
  pipeline : Fin 8
  inputs : List (Nat × Nat)
  contexts : List Nat
  frames : List (Fin 64 × Nat)
  deriving DecidableEq, Repr

/-- Where a serving command comes from: the next command of a host port's queues, or a management core on behalf of
tenant 0 with the 64-byte payload (R220). -/
inductive ServeSrc where
  | host (port : Fin 4)
  | mgmt (payload : List Byte)
  deriving DecidableEq, Repr

/-- A frame on FP0 that carries UDP (R249, R250): what the MAC and the IP layer find, the source address as an IPv6 address
(IPv4 as ::ffff:), the destination port, the length of the frame, the UDP payload. -/
structure UdpIn where
  fcsBad : Bool
  fragment : Bool
  vlan : Option Nat
  src : List Byte
  dport : Nat
  frameLen : Nat
  payload : List Byte
  deriving DecidableEq, Repr

/-- A server response to the RTSP client (R254): its status, the authentication it offers (Digest with SHA-256, with MD5,
Basic), and from DESCRIBE whether a video media section is acceptable, with its parameter sets; from OPTIONS whether Public lists
GET_PARAMETER; from SETUP the session timeout in seconds; from DESCRIBE or SETUP the group (an IPv6 address, IPv4 as ::ffff:) and
the port of a multicast session. -/
structure RtspReply where
  status : Nat
  sha256 : Bool
  md5 : Bool
  basic : Bool
  media : Bool
  params : List Byte
  getParam : Bool
  timeout : Option Nat
  group : Option (List Byte × Nat)
  deriving DecidableEq, Repr

/-- A request to FP0's addresses (R249): ARP or neighbour discovery for an address, IGMP or MLD query. -/
inductive NbrReq where
  | arp (ip : Nat)
  | ndisc (ip : Nat)
  | igmpQuery
  | mldQuery
  deriving DecidableEq, Repr

/-- What a configuration write changes (R310, R326, R341): a base address register, BAR2's size as a power of two, the command
register, the MSI-X capability, VF Enable, or another register at an offset. -/
inductive CfgWrite where
  | bar (n : Fin 6) (value : Nat)
  | bar2Size (log2 : Nat)
  | command (value : Nat)
  | msix (value : Nat)
  | vfEnable (on : Bool)
  | other (off value : Nat)
  deriving DecidableEq, Repr

/-- A bus access: a read of bytes, or a write. -/
inductive BusAcc where
  | read (n : Nat)
  | write (data : List Byte)
  deriving DecidableEq, Repr

/-- Who asks for a rotation (R344): a write of ROTATE, or the vendor-defined request in a session. -/
inductive RotSrc where
  | reg (ini : Nat)
  | vendor (p : Fin 5) (sid : Nat)
  deriving DecidableEq, Repr

/-- Where an operation of the update unit comes from: the update protocol on a port, or UPD_CTRL. -/
inductive UpdSrc where
  | port (p : Fin 5)
  | reg (ini : Nat)
  deriving DecidableEq, Repr

/-- A frame that arrives on RING_IN (R436): whether its tag (or CRC) verifies under the key that its hop uses, SRC, HOP_FROM,
HOPS, DST, HOP_SEQ, the cycles for which this node holds it before it forwards it (R439), and the payload in plain text (of a
JOIN message, the content of all its frames). -/
structure RingFrame where
  auth : Bool
  src : Fin 16
  hopFrom : Fin 16
  hops : Fin 16
  dst : Fin 256
  hopSeq : Nat
  residence : Nat
  payload : List Byte
  deriving DecidableEq, Repr

/-- The commands of the module, in the order of spec/opcode_table.json. -/
inductive Instr where
  /-- A write to a register field that has no behaviour of its own takes effect under its access code (R8). `ini` is
      the initiator ID (R11), `addr` the module address, `size` the bytes written. -/
  | registerWrite (ini : Nat) (addr : Nat) (size : Nat) (value : Nat)
  /-- An application-core load or store reaches its tier under the memory attributes the firmware set (R140).
      Application core `k` of cluster `c` of die `d`. -/
  | acLoadStore (d : Fin 4) (c : Fin 8) (k : Fin 2) (acc : AcAccess)
  /-- The controller decodes a detected word with double correction and writes it back or poisons it (R35). `addr` is
      the word's address; `miscorrect` is what double correction leaves when it miscorrects three symbols without
      notice. -/
  | targetedScrub (addr : Nat) (miscorrect : Option (List Byte))
  /-- A scheduled write-back of a corrected word is applied, or dropped when a newer write came first (R33). `addr` is
      the word's address. -/
  | correctionWriteback (addr : Nat)
  /-- A tier's scrub period begins and a new patrol pass starts (R40). -/
  | patrolScrubPassStart (tier : ScrubTier)
  /-- Patrol scrub reads one word, corrects it with a compare-and-write, or poisons it (R34). `upset` is what the
      decoder finds on the word, if anything. -/
  | patrolScrubRead (tier : ScrubTier) (upset : Option Upset)
  /-- A die-to-die flit with two or three symbols in error is retransmitted and LINK_RETRIES increments (R37). `link`
      in the SPACE 4 numbering of R384; `far` says that the end at the next die or the hub detects it; `retries`
      retransmissions were made. -/
  | linkFlitError (link : Fin 8) (far : Bool) (retries : Fin 5) (recovered : Bool)
  /-- A stack completes training and valid-code initialisation, or fails and is fenced (R24). -/
  | hbmTrainingDone (k : Fin 8) (ok : Bool)
  /-- LPDDR5X completes training and is written with valid code, and LP_READY sets (R24). -/
  | lpddrTrainingDone (ok : Bool)
  /-- A write to the slot map substitutes or releases the spare slot when both slots are idle (R15). -/
  | clSlotMapWrite (ini : Nat) (d : Fin 4) (c : Fin 8) (value : Word)
  /-- Background zeroing finishes a DIRTY or SCRUBBING region and makes it FREE (R315). `r` numbers the region as the
      region table does. -/
  | regionZeroed (r : Nat)
  /-- Internal reset is released, module time starts at 0 and start-up begins (R6). -/
  | internalResetRelease
  /-- A write to the last word of a staging window pushes the record into the slot's launch queue (R79). `value` is
      the last word of staging window `win` (0 management, 1 work distributor, 2 and 3 the application cores); the
      other words are in the window. -/
  | launchRecordPush (ini : Nat) (d : Fin 4) (c : Fin 8) (sl : Fin 9) (win : Fin 4) (value : Word)
  /-- The sequencer takes the head launch record after the previous kernel ends, checks it and starts the kernel
      (R80). -/
  | kernelStart (d : Fin 4) (c : Fin 8) (sl : Fin 9)
  /-- The fetch of an image's code and constants into the slot completes and the kernel begins to run (R80). -/
  | codeFetchDone (d : Fin 4) (c : Fin 8) (sl : Fin 9)
  /-- A kernel ends; its completion record is written and DONE_OBJ is signalled (R107). -/
  | kernelEnd (d : Fin 4) (c : Fin 8) (sl : Fin 9)
  /-- A tile-core command's writes become visible; its status word is written and its header signal is applied (R77).
      `queue`: 0 ME, 1 VE0, 2 VE1, 3 DMA. -/
  | commandComplete (d : Fin 4) (c : Fin 8) (sl : Fin 9) (queue : Fin 4)
  /-- The sequencer executes a header-only command with its wait and signal (R89). `desc` holds the descriptor's
      words; an OPCODE that R89 does not list stays, for the check of R90. -/
  | nop (d : Fin 4) (c : Fin 8) (sl : Fin 9) (desc : List Word)
  /-- A SYNC command with MODE 0 waits on an object with an optional timeout (R89). -/
  | syncWait (d : Fin 4) (c : Fin 8) (sl : Fin 9) (desc : List Word)
  /-- A SYNC command with MODE 1 signals an object by its increment (R89). -/
  | syncSignal (d : Fin 4) (c : Fin 8) (sl : Fin 9) (desc : List Word)
  /-- The matrix engine computes a chunked, exactly accumulated matrix product (R93). -/
  | mma (d : Fin 4) (c : Fin 8) (sl : Fin 9) (desc : List Word)
  /-- The matrix engine computes a windowed product over the address generator's walk (R119). -/
  | conv (d : Fin 4) (c : Fin 8) (sl : Fin 9) (desc : List Word)
  /-- Fused attention over KV pages runs on the matrix engine and both vector engines (R196). -/
  | attn (d : Fin 4) (c : Fin 8) (sl : Fin 9) (desc : List Word)
  /-- The vector engines evaluate a reduction tree over chunk partials and convert the root (R96). -/
  | xrd (d : Fin 4) (c : Fin 8) (sl : Fin 9) (desc : List Word)
  /-- The DMA engine moves rows between memory or NAND, with optional fill, truncation and fold (R103). `upsets`: what
      the decoder finds on words read; `badBlocks`: NAND blocks whose LDPC decode fails after read-retry. -/
  | dma (d : Fin 4) (c : Fin 8) (sl : Fin 9) (desc : List Word) (upsets : List Upset) (badBlocks : List Nat)
  /-- Vector operation 0x00 copies elements (R98). -/
  | mov (d : Fin 4) (c : Fin 8) (sl : Fin 9) (desc : List Word)
  /-- Vector operation 0x01 converts elements between formats (R98). -/
  | cvt (d : Fin 4) (c : Fin 8) (sl : Fin 9) (desc : List Word)
  /-- Vector operation 0x02 produces MX blocks and their scales (R98). -/
  | mxq (d : Fin 4) (c : Fin 8) (sl : Fin 9) (desc : List Word)
  /-- Vector operation 0x03 widens MX elements with their scales (R98). -/
  | mxd (d : Fin 4) (c : Fin 8) (sl : Fin 9) (desc : List Word)
  /-- Vector operation 0x08 adds elements (R98). -/
  | add (d : Fin 4) (c : Fin 8) (sl : Fin 9) (desc : List Word)
  /-- Vector operation 0x09 subtracts elements (R98). -/
  | sub (d : Fin 4) (c : Fin 8) (sl : Fin 9) (desc : List Word)
  /-- Vector operation 0x0A multiplies elements (R98). -/
  | mul (d : Fin 4) (c : Fin 8) (sl : Fin 9) (desc : List Word)
  /-- Vector operation 0x0B divides elements (R98). -/
  | div (d : Fin 4) (c : Fin 8) (sl : Fin 9) (desc : List Word)
  /-- Vector operation 0x0C computes a fused multiply-add (R98). -/
  | fma (d : Fin 4) (c : Fin 8) (sl : Fin 9) (desc : List Word)
  /-- Vector operation 0x0D takes the minimumNumber of elements (R98). -/
  | min (d : Fin 4) (c : Fin 8) (sl : Fin 9) (desc : List Word)
  /-- Vector operation 0x0E takes the maximumNumber of elements (R98). -/
  | max (d : Fin 4) (c : Fin 8) (sl : Fin 9) (desc : List Word)
  /-- Vector operation 0x0F takes absolute values (R98). -/
  | abs (d : Fin 4) (c : Fin 8) (sl : Fin 9) (desc : List Word)
  /-- Vector operation 0x10 negates elements (R98). -/
  | neg (d : Fin 4) (c : Fin 8) (sl : Fin 9) (desc : List Word)
  /-- Vector operation 0x11 takes square roots (R98). -/
  | sqrt (d : Fin 4) (c : Fin 8) (sl : Fin 9) (desc : List Word)
  /-- Vector operation 0x12 takes reciprocals (R98). -/
  | recip (d : Fin 4) (c : Fin 8) (sl : Fin 9) (desc : List Word)
  /-- Vector operation 0x13 takes reciprocal square roots (R98). -/
  | rsqrt (d : Fin 4) (c : Fin 8) (sl : Fin 9) (desc : List Word)
  /-- Special function 0x18, the exponential (R98). -/
  | exp (d : Fin 4) (c : Fin 8) (sl : Fin 9) (desc : List Word)
  /-- Special function 0x19, the base-2 exponential (R98). -/
  | exp2 (d : Fin 4) (c : Fin 8) (sl : Fin 9) (desc : List Word)
  /-- Special function 0x1A, the natural logarithm (R98). -/
  | log (d : Fin 4) (c : Fin 8) (sl : Fin 9) (desc : List Word)
  /-- Special function 0x1B, the base-2 logarithm (R98). -/
  | log2 (d : Fin 4) (c : Fin 8) (sl : Fin 9) (desc : List Word)
  /-- Special function 0x1C, exp(x) minus 1 (R98). -/
  | expm1 (d : Fin 4) (c : Fin 8) (sl : Fin 9) (desc : List Word)
  /-- Special function 0x1D, log(1 plus x) (R98). -/
  | log1p (d : Fin 4) (c : Fin 8) (sl : Fin 9) (desc : List Word)
  /-- Special function 0x1E, the sine (R98). -/
  | sin (d : Fin 4) (c : Fin 8) (sl : Fin 9) (desc : List Word)
  /-- Special function 0x1F, the cosine (R98). -/
  | cos (d : Fin 4) (c : Fin 8) (sl : Fin 9) (desc : List Word)
  /-- Special function 0x20, the hyperbolic tangent (R98). -/
  | tanh (d : Fin 4) (c : Fin 8) (sl : Fin 9) (desc : List Word)
  /-- Special function 0x21, the sigmoid (R98). -/
  | sigmoid (d : Fin 4) (c : Fin 8) (sl : Fin 9) (desc : List Word)
  /-- Special function 0x22, the error function (R98). -/
  | erf (d : Fin 4) (c : Fin 8) (sl : Fin 9) (desc : List Word)
  /-- Special function 0x23, GELU in erf form (R98). -/
  | gelu (d : Fin 4) (c : Fin 8) (sl : Fin 9) (desc : List Word)
  /-- Vector operation 0x28 compares elements by a predicate (R98). -/
  | cmp (d : Fin 4) (c : Fin 8) (sl : Fin 9) (desc : List Word)
  /-- Vector operation 0x29 selects between two sources by a condition (R98). -/
  | sel (d : Fin 4) (c : Fin 8) (sl : Fin 9) (desc : List Word)
  /-- Vector operation 0x30 sums each row in a fixed tree (R99). -/
  | rsum (d : Fin 4) (c : Fin 8) (sl : Fin 9) (desc : List Word)
  /-- Vector operation 0x31 takes each row's maximum (R98). -/
  | rmax (d : Fin 4) (c : Fin 8) (sl : Fin 9) (desc : List Word)
  /-- Vector operation 0x32 takes each row's minimum (R98). -/
  | rmin (d : Fin 4) (c : Fin 8) (sl : Fin 9) (desc : List Word)
  /-- Vector operation 0x33 takes a dot product per row (R98). -/
  | rdot (d : Fin 4) (c : Fin 8) (sl : Fin 9) (desc : List Word)
  /-- Vector operation 0x38 computes a row softmax (R100). -/
  | smax (d : Fin 4) (c : Fin 8) (sl : Fin 9) (desc : List Word)
  /-- Vector operation 0x39 computes a row RMS normalisation (R100). -/
  | rmsn (d : Fin 4) (c : Fin 8) (sl : Fin 9) (desc : List Word)
  /-- Vector operation 0x3A computes a row layer normalisation (R100). -/
  | lnrm (d : Fin 4) (c : Fin 8) (sl : Fin 9) (desc : List Word)
  /-- Vector operation 0x40 adds INT32 values (R98). -/
  | iadd (d : Fin 4) (c : Fin 8) (sl : Fin 9) (desc : List Word)
  /-- Vector operation 0x41 subtracts INT32 values (R98). -/
  | isub (d : Fin 4) (c : Fin 8) (sl : Fin 9) (desc : List Word)
  /-- Vector operation 0x42 multiplies INT32 values (R98). -/
  | imul (d : Fin 4) (c : Fin 8) (sl : Fin 9) (desc : List Word)
  /-- Vector operation 0x43 shifts INT32 values right with rounding (R98). -/
  | ishr (d : Fin 4) (c : Fin 8) (sl : Fin 9) (desc : List Word)
  /-- Vector operation 0x48 gathers elements through INT32 indices (R101). -/
  | gath (d : Fin 4) (c : Fin 8) (sl : Fin 9) (desc : List Word)
  /-- Vector operation 0x49 scatters elements through indices; the highest index wins (R101). -/
  | scat (d : Fin 4) (c : Fin 8) (sl : Fin 9) (desc : List Word)
  /-- Vector operation 0x4A scatter-adds elements in ascending order (R101). -/
  | scadd (d : Fin 4) (c : Fin 8) (sl : Fin 9) (desc : List Word)
  /-- A write of TC_CTRL.HALT stops the slot from taking further launch records (R108). -/
  | tcHalt (ini : Nat) (d : Fin 4) (c : Fin 8) (sl : Fin 9) (halt : Bool)
  /-- A write of TC_CTRL.ABORT stops issue and stops queued commands at their next boundary (R108). `tie`: the write
      falls in the cycle in which the kernel's last command completes. -/
  | tcAbort (ini : Nat) (d : Fin 4) (c : Fin 8) (sl : Fin 9) (tie : Bool)
  /-- FLUSH written with ABORT discards every queued launch record (R108). ABORT and FLUSH in one write. -/
  | tcFlush (ini : Nat) (d : Fin 4) (c : Fin 8) (sl : Fin 9) (tie : Bool)
  /-- An aborted kernel ends with RESULT 3, writes its completion record and signals DONE_OBJ (R108). -/
  | abortComplete (d : Fin 4) (c : Fin 8) (sl : Fin 9)
  /-- The halo deadline passes without the post, and the copy from ALT_ADDR begins (R131). -/
  | haloDeadlineExpiry (d : Fin 4) (c : Fin 8) (sl : Fin 9)
  /-- The mailbox copy ends; BEGIN_OBJ is checked and the copy is kept or discarded (R131). -/
  | haloMailboxCopyDone (d : Fin 4) (c : Fin 8) (sl : Fin 9)
  /-- The copy of the halo rows from ALT_ADDR ends and the CONV reads A (R131). -/
  | haloAltCopyDone (d : Fin 4) (c : Fin 8) (sl : Fin 9)
  /-- A START write makes the boot firmware check the image and entry and boot the core (R150). -/
  | acStart (ini : Nat) (d : Fin 4) (c : Fin 8) (k : Fin 2)
  /-- The core enters S-mode at its entry with its arguments (R150). -/
  | acBootDone (d : Fin 4) (c : Fin 8) (k : Fin 2)
  /-- Setting or clearing HALT stops or resumes the hart (R150). -/
  | acHalt (ini : Nat) (d : Fin 4) (c : Fin 8) (k : Fin 2) (halt : Bool)
  /-- A RESET write cancels the wait slots, writes back dirty lines and invalidates the caches (R150). -/
  | acReset (ini : Nat) (d : Fin 4) (c : Fin 8) (k : Fin 2)
  /-- The core's STATE returns to RESET (R150). -/
  | acResetDone (d : Fin 4) (c : Fin 8) (k : Fin 2)
  /-- A store to AC_SIG_OBJ applies a signal with AC_SIG_INC, with release semantics (R146). -/
  | acSigObjWrite (d : Fin 4) (c : Fin 8) (k : Fin 2) (value : Word)
  /-- A store with ARM arms a wait slot with its threshold and timeout (R147). -/
  | acWaitArm (d : Fin 4) (c : Fin 8) (k : Fin 2) (slot : Fin 4) (value : Word)
  /-- Management writes the high word of AC_MSG_IN and sets MSG_IN (R148). -/
  | acMsgInWrite (ini : Nat) (d : Fin 4) (c : Fin 8) (k : Fin 2) (value : Word)
  /-- The hart writes the high word of AC_MSG_OUT and raises management attention (R148). -/
  | acMsgOutWrite (d : Fin 4) (c : Fin 8) (k : Fin 2) (value : Word)
  /-- An enabled AC_IRQ_STATUS bit asserts the S-mode external interrupt and wakes a core in WFI (R148). -/
  | acInterrupt (d : Fin 4) (c : Fin 8) (k : Fin 2)
  /-- Module time reaches stimecmp and the core's timer interrupt is raised (R148). -/
  | stimecmpExpiry (d : Fin 4) (c : Fin 8) (k : Fin 2)
  /-- The service call puts the core into HALTED (R138). -/
  | haltSelf (d : Fin 4) (c : Fin 8) (k : Fin 2)
  /-- The service call returns the core's identity (R138). -/
  | readOwnIdentity (d : Fin 4) (c : Fin 8) (k : Fin 2)
  /-- The service call reports a fatal condition of the core (R138). -/
  | reportFatal (d : Fin 4) (c : Fin 8) (k : Fin 2) (code : Nat)
  /-- A cache-block clean writes a line back to its tier (R142). -/
  | cboClean (d : Fin 4) (c : Fin 8) (k : Fin 2) (addr : Nat)
  /-- A cache-block flush writes a line back and invalidates it (R142). -/
  | cboFlush (d : Fin 4) (c : Fin 8) (k : Fin 2) (addr : Nat)
  /-- A cache-block invalidate drops a line (R142). -/
  | cboInval (d : Fin 4) (c : Fin 8) (k : Fin 2) (addr : Nat)
  /-- A signal commits to an object and the pending waits and watches on it are tested (R154). `i` is the place of the
      operation among those on their way to a sync block. -/
  | signalCommit (i : Nat)
  /-- A wait registers at its object's sync block and is met at once when the threshold is already reached (R155). `i`
      is the place of the wait among those on their way to a sync block. -/
  | waitRegister (i : Nat)
  /-- A wait's deadline passes unmet and it is resolved as timed out in the deadline cycle plus 1 (R155). `i` is the
      place of the wait among the registered ones. -/
  | waitTimeout (i : Nat)
  /-- Management sets an object's value through SYNC_VALUE (R153). -/
  | syncValueWrite (ini : Nat) (d : Fin 4) (c : Fin 8) (n : Fin 8192) (value : Word)
  /-- Setting EN arms a barrier context and clears GEN and STATE (R160). `value` is the word written to CTRL. -/
  | barrierContextEnable (ini : Nat) (b : Fin 32) (value : Word)
  /-- Each die commits the release to RELEASE_OBJ 64 cycles after the last arrival (R161). -/
  | barrierReleaseCommit (b : Fin 32)
  /-- A module commits a ring barrier release in the first cycle at or after T_rel (R162). -/
  | ringBarrierReleaseCommit (b : Fin 32)
  /-- A generation that is incomplete at its timeout breaks the context and raises attention (R164). -/
  | barrierContextTimeout (b : Fin 32)
  /-- A write of a job window's last word submits a job record, which the home distributor checks and accepts (R167).
      `win` is 0 MGMT, 1 ADM, 2 AC0, 3 AC1 of the home cluster; `value` is the last word. -/
  | jobSubmit (ini : Nat) (d : Fin 4) (c : Fin 8) (win : Fin 4) (value : Word)
  /-- A CL_JOB_MGMT claim lapses after 100 µs and discards its partial record with code 10 (R167). -/
  | jobWindowClaimLapse (d : Fin 4) (c : Fin 8)
  /-- A distributor pushes the launch record of the next tile to a slot that has room (R169). The distributor of
      cluster `c` of die `d` serves logical slot `l`. -/
  | tilePush (d : Fin 4) (c : Fin 8) (l : Fin 8)
  /-- With BAL_EN, a distributor with room claims the next CLAIM tiles from the home counter (R170). -/
  | tileClaim (d : Fin 4) (c : Fin 8)
  /-- When every pushed tile has ended, the home distributor writes the job result and signals DONE_OBJ (R171). `d`,
      `c` is the home cluster. -/
  | jobEnd (d : Fin 4) (c : Fin 8) (step : Option PipeStep)
  /-- Every 1 ms a phase-sample record is logged (R179). `logFull` says that the hub's staging buffers are full. -/
  | phaseSample (logFull : Bool)
  /-- A segment about to be reused is copied to the NAND overflow area (R182). -/
  | logSegmentCopy
  /-- When the staging buffers drain, a gap record for the dropped records is logged (R183). -/
  | logGapRecord
  /-- Management starts a replay of recorded pipeline steps (R184). Steps `first` to `last` of a pipeline, from copies
      of log segments at module addresses `segs`. -/
  | replayStart (ini : Nat) (pipeline : Fin 8) (first : Nat) (last : Nat) (segs : List Nat)
  /-- The KVP block finishes writing the summaries of a step's qualifying pages (R206). The lane of tenant `t` and
      model `m`; `summAddr` is the tenant's summary array (R205). -/
  | summaryDone (t m : Fin 16) (summAddr : Nat)
  /-- A spill or prefetch copy becomes visible and the page metadata is switched (R212). Move `k` of those in
      progress. -/
  | pageMoveDone (k : Nat)
  /-- The page walker starts another move when it has room in flight and free HBM pages (R211). -/
  | prefetchMoveStart (t m : Fin 16)
  /-- A write of MODEL_COUNT checks the model descriptors and starts the lanes (R216). -/
  | rqtModelCountWrite (ini : Nat) (t : Fin 16) (value : Word)
  /-- A SUBMIT serving command is stamped and appended to the tenant's inbox (R221). -/
  | submit (src : ServeSrc)
  /-- A CANCEL serving command is stamped and appended to the inbox (R245). -/
  | cancel (src : ServeSrc)
  /-- A PAUSE serving command is stamped and appended to the inbox (R240). -/
  | pause (src : ServeSrc)
  /-- A RESUME serving command is stamped and appended to the inbox (R242). -/
  | resume (src : ServeSrc)
  /-- A step's DONE_OBJ commits and the lane runs the twelve steps of its boundary (R225). `retrieve` says whether the
      next step's program retrieves (R211). -/
  | stepBoundary (t m : Fin 16) (retrieve : Bool)
  /-- An idle lane performs an empty boundary every IDLE_US (R215). -/
  | emptyBoundary (t m : Fin 16) (retrieve : Bool)
  /-- Lovage starts an accepted lookup when fewer than 8 are in flight (R236). -/
  | lookupStart
  /-- A lookup reaches a block with no matching node, or its last examined block, and ends (R236). Lookup `k` of those
      in flight. -/
  | lookupEnd (k : Nat)
  /-- A UDP datagram on FP0 is delivered to its decode context, to RTCP handling, or dropped (R250). -/
  | udpDatagramRx (x : UdpIn) (logFull : Bool)
  /-- REORDER_US after its first packet, an access unit closes, damaged if a gap remains (R252). -/
  | auReorderTimeout (c : Fin 128)
  /-- Every 5 s the firmware sends an RTCP receiver report (R251). -/
  | rtcpReceiverReport (c : Fin 128)
  /-- The firmware RTSP client takes a server response and advances its session sequence (R254). -/
  | rtspResponse (c : Fin 128) (r : RtspReply)
  /-- Every half session timeout the client keeps the session alive (R254). -/
  | rtspKeepalive (c : Fin 128)
  /-- An error response or TCP failure ends the session, sends TEARDOWN and sets STATE to DOWN (R255). -/
  | rtspSessionLost (c : Fin 128)
  /-- The back-off interval expires and the client tries to connect again (R255). -/
  | rtspRetry (c : Fin 128)
  /-- No packet arrives for SILENCE_MS and ERR 0x14 is set (R255). -/
  | streamSilence (c : Fin 128)
  /-- OPEN checks a decode descriptor and admits the context or refuses it (R258). -/
  | decodeOpen (ini : Nat) (c : Fin 128)
  /-- CLOSE stops a decode context taking packets and abandons its picture in progress (R258). -/
  | decodeClose (ini : Nat) (c : Fin 128)
  /-- A closing context reaches STATE 0 (R258). -/
  | contextClosed (encode : Bool) (c : Fin 128)
  /-- The firmware parses an access unit's headers and the picture waits for a decoder, or is dropped (R264). -/
  | headersParsed (c : Fin 128)
  /-- A free decoder takes the first-ranked waiting picture (R259). -/
  | decoderStart
  /-- A picture is decoded into the decoded-picture buffer (R263). -/
  | decodeDone (i : Fin 4)
  /-- A free pre-processor takes a picture, tests CONS_OBJ and writes views or counts an overrun (R272). -/
  | preprocessStart
  /-- One view of a picture is written and visible (R264). -/
  | viewWritten (i : Fin 4)
  /-- After every view is visible the record is written and OUT_OBJ is signalled (R272). -/
  | pictureRecordWrite (i : Fin 4)
  /-- OPEN checks an encode descriptor and admits the context (R275). -/
  | encodeOpen (ini : Nat) (e : Fin 64)
  /-- CLOSE stops an encode context (R275). -/
  | encodeClose (ini : Nat) (e : Fin 64)
  /-- A free encoder takes the first-ranked source picture once IN_OBJ has reached it (R259). -/
  | encodeStart
  /-- A picture is coded under rate control and its access unit is written to its destinations (R277). -/
  | encodeDone (i : Fin 2)
  /-- An accepted edge on the phase inputs moves COUNT and the velocity estimate (R282). The levels of PHASE_A,
      PHASE_B and PHASE_Z, and the cycles since the first sample of the newest. -/
  | phaseCountEdge (a : Bool) (b : Bool) (z : Bool) (held : Nat)
  /-- A forward index edge resets COUNT and records the correction (R283). The cycles since the first sample of the
      new level. -/
  | zEdge (held : Nat)
  /-- In pulse mode a synthesised count arrives when FRAC would overflow (R284). -/
  | synthCount
  /-- The phase watchdog expires and the phase is declared lost (R287). -/
  | phaseLoss
  /-- An 802.1AS Sync message on FP1 updates the offset, slews module time and tracks lock (R290). The offset from the
      grandmaster in ns, and TAI. -/
  | asSyncMessage (offsetNs : Int) (tai : Nat)
  /-- A ring PHASE frame updates the phase of a SEL 5 follower (R285). -/
  | phaseFrame (f : RingFrame)
  /-- A SIGNAL event entry fires and signals its object (R291). `i` is the index of the entry. -/
  | eventSignal (i : Fin 4096)
  /-- An INGEST entry fires and selects one picture, or a NONE record, for each windowed context (R273). -/
  | eventIngest (i : Fin 4096)
  /-- A DEADLINE entry fires and decides the next frame of its flow as a result or safe frame (R297). -/
  | eventDeadline (i : Fin 4096)
  /-- A RELEASE entry fires and queues the decided frame in its traffic class (R298). -/
  | eventRelease (i : Fin 4096)
  /-- A SNAPSHOT entry fires a Dill trigger, and a checkpoint when CHECKPOINT is set (R399). -/
  | eventSnapshot (i : Fin 4096)
  /-- An ACTIVATE entry fires the activation point of its ticket (R378). -/
  | eventActivate (i : Fin 4096)
  /-- A write of THY_SRC changes the phase source and restarts acquisition (R281). -/
  | thySrcWrite (ini : Nat) (value : Word)
  /-- A write of THY_EVT_INDEX loads the entry into DATA0-7 (R304). -/
  | thyEvtIndexWrite (ini : Nat) (value : Word)
  /-- COMMIT writes DATA0-7 into the indexed entry in one cycle (R304). -/
  | thyEvtCommit (ini : Nat) (value : Word)
  /-- A write of a flow descriptor word sets or clears EN, or writes the descriptor while EN is 0 (R453). -/
  | flowDescWrite (ini : Nat) (f : Fin 64) (w : Fin 16) (value : Word)
  /-- A FORCE write forces a flow, replaces unstarted frames and queues an immediate safe frame (R300). -/
  | flowForce (ini : Nat) (f : Fin 64)
  /-- An UNFORCE write clears FORCED at the next deadline, or is refused (R302). -/
  | flowUnforce (ini : Nat) (f : Fin 64)
  /-- A forced flow with no frame for SAFE_PERIOD_US queues another safe frame (R300). -/
  | safePeriodExpiry (f : Fin 64)
  /-- A queued FP1 frame starts in the first gate window that holds it whole (R298). -/
  | frameTxStart
  /-- The transmission of an FP1 frame ends (R301). -/
  | frameTxEnd
  /-- A received FP1 frame is matched to a filter, written into its ring and signalled, or dropped (R303). `frame`
      runs from the destination address to the end of the payload; `logFull` says that the log's staging buffers are
      full. -/
  | fp1RxFrame (frame : List Byte) (logFull : Bool)
  /-- A CHANGE write schedules a new gate control list at its base time (R296). -/
  | gclChange (ini : Nat) (value : Word)
  /-- The administrative base time arrives and the new gate list takes effect (R296). -/
  | gclBaseTime
  /-- A port's link reaches L0 and RB_N is driven per its conditions (R307). `speed` in the codes of PCI_STATUS.SPEED. -/
  | pcieLinkUp (p : Fin 4) (speed : Fin 7) (width : Fin 17) (flit : Bool)
  /-- A port's link leaves L0 and recovery starts (R327). -/
  | pcieLinkDown (p : Fin 4)
  /-- A link out of L0 for 10 ms without recovery takes effect as a port reset (R327). -/
  | linkDownTimeout (p : Fin 4)
  /-- PERST_N held low for 1 µs causes a port reset or module reset (R327). -/
  | perstNAssert (p : Fin 4)
  /-- PERST_N held high for 1 µs lets the link train, or ends a module reset (R431). -/
  | perstNDeassert (p : Fin 4)
  /-- A Hot Reset in training sets resets the port (R327). -/
  | hotReset (p : Fin 4)
  /-- An ACTIVATE write checks a tenant's partition, creates its keys and takes its regions (R312). -/
  | tenantActivate (ini : Nat) (t : Fin 16)
  /-- A teardown trigger starts the tenant's constant-duration scrub (R328). -/
  | tenantTeardown (ini : Nat) (t : Fin 16)
  /-- 400 ms after the trigger the tenant becomes CLOSED or OPENING and SCRUB_DONE sets (R328). `stuck`: a step of the
      scrub is still incomplete. -/
  | scrubEnd (t : Fin 16) (stuck : Bool)
  /-- A host access to a tenant's BAR2 reaches its device memory, or answers Unsupported Request (R314). -/
  | bar2Access (p : Fin 4) (t : Fin 16) (off : Nat) (acc : BusAcc)
  /-- A write of a new SQ tail makes commands available for fetching (R317). -/
  | sqDoorbell (t : Fin 16) (q : Fin 64) (value : Word)
  /-- A write of a new CQ head frees completion entries (R317). -/
  | cqDoorbell (t : Fin 16) (q : Fin 64) (value : Word)
  /-- A NOP host command completes at once (R320). The next command of port `p` that may be fetched; one with an
      OPCODE that R320 does not list is fetched here too. -/
  | hostNop (p : Fin 4)
  /-- LOAD_IMAGE runs the load-time checks and places the image or rejects it (R84). -/
  | loadImage (p : Fin 4)
  /-- UNLOAD_IMAGE frees an image's run once nothing uses its handle (R320). -/
  | unloadImage (p : Fin 4)
  /-- LOAD_WEIGHTS with OP 0 checks a weight package and starts writing its blocks (R355). `badBlocks`: NAND blocks of
      the package's header and index whose LDPC decode fails. -/
  | loadWeights (p : Fin 4) (badBlocks : List Nat)
  /-- LOAD_WEIGHTS with OP 1 clears the weight-region marks of a handle (R354). -/
  | unloadWeights (p : Fin 4)
  /-- One block of a package is decrypted, checked, written to its slot and re-checked against the versions and
      consents (R355). `i` counts the loads in progress. -/
  | weightBlockLoad (i : Fin 256) (badBlocks : List Nat)
  /-- A JOB host command submits a job record to the work distributors (R320). -/
  | job (p : Fin 4)
  /-- COPY_IN moves bytes from host memory into device memory (R320). -/
  | copyIn (p : Fin 4)
  /-- COPY_OUT moves bytes from device memory to host memory (R320). -/
  | copyOut (p : Fin 4)
  /-- STREAM_OPEN runs OPEN for a tenant's stream context (R320). -/
  | streamOpen (p : Fin 4)
  /-- STREAM_CLOSE closes a tenant's stream context (R320). -/
  | streamClose (p : Fin 4)
  /-- PARTITION_INFO writes the partition description to host memory (R320). -/
  | partitionInfo (p : Fin 4)
  /-- A host command completes and its completion is written to its CQ, or held if the CQ is full (R321). `i` counts
      the function's commands in flight in order of fetch. -/
  | hostCommandComplete (t : Fin 16) (i : Fin 256)
  /-- A held completion is written once its CQ has room (R321). -/
  | heldCompletionPost (t : Fin 16)
  /-- A Function Level Reset stops and clears the tenant function's queues, kernels, jobs, requests and streams
      (R325). -/
  | flr (t : Fin 16)
  /-- An FLR of the management function resets MCTP and SPDM state and clears VF Enable (R326). -/
  | managementFlr (p : Fin 4)
  /-- Clearing VF Enable tears down every tenant bound to the port as a virtual function (R326). -/
  | vfEnableClear (p : Fin 4)
  /-- A module reset forces every flow, stores the counter snapshot and re-enters start-up (R327). -/
  | moduleReset (ini : Nat)
  /-- A configuration write reaches a function, and a locked TDI enters ERROR when a BAR, command register or MSI-X
      changes (R341). Function of tenant `t`; 0 is the management function. -/
  | configWrite (p : Fin 4) (t : Fin 16) (w : CfgWrite)
  /-- Sage answers the TDISP GET_VERSION message (R341). In SPDM session `sid` of port `p`. -/
  | tdispGetVersion (p : Fin 4) (sid : Nat)
  /-- Sage answers the TDISP GET_CAPABILITIES message (R341). -/
  | tdispGetCapabilities (p : Fin 4) (sid : Nat)
  /-- LOCK_INTERFACE locks a TDI's configuration (R341). -/
  | lockInterface (p : Fin 4) (sid : Nat) (t : Fin 16)
  /-- Sage returns the interface report of a TDI (R341). -/
  | getDeviceInterfaceReport (p : Fin 4) (sid : Nat) (t : Fin 16)
  /-- Sage returns the state of a TDI (R341). -/
  | getDeviceInterfaceState (p : Fin 4) (sid : Nat) (t : Fin 16)
  /-- START_INTERFACE moves a TDI to RUN when its traffic is on an enabled IDE stream (R341). -/
  | startInterface (p : Fin 4) (sid : Nat) (t : Fin 16)
  /-- STOP_INTERFACE tears the tenant down (R341). -/
  | stopInterface (p : Fin 4) (sid : Nat) (t : Fin 16)
  /-- An IDE_KM KEY_PROG derives the stream's keys from the session secret (R341). The stream carries the traffic of
      tenant `t`'s function; `keyIv` holds the key and IV fields. -/
  | ideKeyProg (p : Fin 4) (sid : Nat) (stream : Fin 256) (t : Fin 16) (set : Fin 2) (dir : Fin 2) (sub : Fin 8) (keyIv : List Byte)
  /-- Sage answers SPDM GET_VERSION (R336). `p` is a host port, or 4 for the endpoint that the ring reaches (R446); so
      in every SPDM and update message. -/
  | spdmGetVersion (p : Fin 5)
  /-- Sage answers SPDM GET_CAPABILITIES (R336). -/
  | spdmGetCapabilities (p : Fin 5)
  /-- Sage answers NEGOTIATE_ALGORITHMS with its fixed algorithm set (R336). -/
  | negotiateAlgorithms (p : Fin 5)
  /-- Sage returns the digests of its certificate slots (R336). -/
  | getDigests (p : Fin 5)
  /-- Sage returns a certificate chain from slots 0-2 (R335). -/
  | getCertificate (p : Fin 5) (slot : Fin 8) (off len : Nat)
  /-- Sage answers an SPDM CHALLENGE (R336). -/
  | challenge (p : Fin 5) (slot : Fin 8) (nonce : List Byte)
  /-- Sage returns the measurement blocks, signed or unsigned (R338). Index 0xFF asks for every block. -/
  | getMeasurements (p : Fin 5) (index : Fin 256) (signed : Bool) (nonce : List Byte)
  /-- KEY_EXCHANGE opens an SPDM session, or answers Busy beyond 4 sessions (R336). -/
  | keyExchange (p : Fin 5) (share : List Byte)
  /-- FINISH completes the session handshake (R336). `ok`: the request's HMAC verifies. -/
  | finish (p : Fin 5) (sid : Nat) (ok : Bool)
  /-- A HEARTBEAT keeps an SPDM session alive (R336). -/
  | heartbeat (p : Fin 5) (sid : Nat)
  /-- KEY_UPDATE updates the session keys (R336). -/
  | keyUpdate (p : Fin 5) (sid : Nat)
  /-- END_SESSION ends an SPDM session and destroys its keys (R336). -/
  | endSession (p : Fin 5) (sid : Nat)
  /-- CHUNK_SEND takes one chunk of a large SPDM request (R336). The chunks make up the payload of a vendor-defined
      request. -/
  | chunkSend (p : Fin 5) (sid : Nat) (chunk : List Byte) (last : Bool)
  /-- CHUNK_GET returns one chunk of a large SPDM response (R336). -/
  | chunkGet (p : Fin 5)
  /-- A session with no message for 180 s ends (R336). -/
  | spdmSessionTimeout (p : Fin 5) (sid : Nat)
  /-- The vendor request returns a tenant's signed attestation report, or is refused (R339). -/
  | getReport (p : Fin 5) (sid : Nat) (t : Fin 16) (nonce : List Byte)
  /-- The vendor request returns a fresh consent nonce (R337). -/
  | getNonce (p : Fin 5)
  /-- The vendor request submits a crate record, which Sage checks and accepts, replaces or refuses (R349). -/
  | putCrate (p : Fin 5) (sid : Nat) (record : List Byte)
  /-- A ROTATE write or request generates the tenant's new memory key and starts the sweep (R344). -/
  | rotate (src : RotSrc) (t : Fin 16)
  /-- The vendor request sets a locked tenant's consent key (R358). -/
  | setConsentKey (p : Fin 5) (sid : Nat) (t : Fin 16) (key : List Byte)
  /-- The sweep re-encrypts one unit under the new key and advances the region's pointer (R344). Tiers 0–7 are the HBM
      stacks, 8 is LPDDR5X. -/
  | rotationSweepUnit (t : Fin 16) (tier : Fin 9)
  /-- Once OLD_REGIONS and OLD_READS are both 0, Sage destroys the old key slot and ends the rotation (R346). -/
  | oldKeyDestroy (t : Fin 16)
  /-- Every 600 s the lease clock is stored in MRAM (R350). -/
  | leaseClockStore
  /-- SUBMIT passes a consent token to Sage, which checks it and activates it or refuses it (R359). -/
  | consentSubmit (ini : Nat)
  /-- REVOKE ends one active consent (R360). -/
  | consentRevoke (ini : Nat) (index : Fin 16)
  /-- NEW_NONCE places a fresh nonce in SGE_NONCE (R358). -/
  | newNonce (ini : Nat)
  /-- LEASE_CLOCK reaches a consent's NOT_AFTER; the consent ends and the units it halted resume (R360). -/
  | consentExpiry (index : Fin 16)
  /-- A consent nonce becomes invalid after 600 s (R358). The oldest nonce. -/
  | nonceExpiry
  /-- A failed entropy health test stops key generation and is recorded as class F (R334). -/
  | entropyHealthFailure
  /-- A hop key reaches 2^31 frames or 24 h and the link is rekeyed (R342). -/
  | hopRekey
  /-- MOD_PWR_EN rises; the input switch conducts, charges the bulk and sequences the rails (R428). -/
  | modPwrEnRise
  /-- MOD_PWR_EN falls, the input switch opens and the module goes dark (R428). -/
  | modPwrEnFall
  /-- Start-up step 1 ends after the bank is chosen and its components are verified and started (R362). `ok0` and
      `ok1`: bank 0 and 1 verify; `identityOk`: the derived identity is the certified one. -/
  | firmwareVerifyDone (ok0 ok1 identityOk : Bool)
  /-- Start-up step 3 reads and checks the standing configuration (R364). Whether the decryption tags of the two
      configuration copies verify. -/
  | configReadDone (tags0 tags1 : Bool)
  /-- Start-up step 4 activates tenant 0 and loads its images and weight packages (R362). `bad`: NAND blocks whose
      LDPC decode fails. -/
  | standingLoad (bad : List Nat)
  /-- JOIN_WAIT expires and start-up continues outside the ring (R365). -/
  | joinWaitExpiry
  /-- LOCK_WAIT expires and PHASE_BOUND flows start forced (R365). -/
  | lockWaitExpiry
  /-- Start-up step 7 opens streams, enables flows, runs the start list, and then releases RB_N (R362). -/
  | pipelineStart
  /-- A TRIAL bank that has not ended step 3 within 30 s is marked BAD and the module resets (R376). -/
  | trialStartTimeout
  /-- A firmware watchdog expires while a TRIAL bank is active and the bank is marked BAD (R376). -/
  | firmwareWatchdogExpiry
  /-- After 600 s a TRIAL bank becomes GOOD and the SVN floors are raised (R376). -/
  | trialGood
  /-- STORE latches every RWP field and starts writing the older settings copy (R371). -/
  | nvsStore (ini : Nat)
  /-- A settings store finishes and BUSY clears (R371). `ok`: written and read back. -/
  | nvsStoreDone (ok : Bool)
  /-- DISCARD returns every RWP field to the newest stored copy (R371). -/
  | nvsDiscard (ini : Nat)
  /-- DEFAULTS makes the next start-up ignore both copies (R371). -/
  | nvsDefaults (ini : Nat)
  /-- Each SNAP_PERIOD_S the firmware writes a counter snapshot to MRAM (R397). -/
  | counterSnapshot
  /-- PUT delivers one unit of an update package; the prefix is checked and each block's digest is checked (R375). -/
  | updatePut (p : Fin 5) (index : Nat) (data : List Byte)
  /-- END checks the package and starts writing the inactive bank or configuration copy (R375). -/
  | updateEnd (p : Fin 5)
  /-- The new bank is written, read back and marked STAGED (R375). `ok`: programmed and read back. -/
  | stagingDone (ok : Bool)
  /-- ARM sets the activation point and, with SHARE, sends the activation frame (R378). -/
  | updateArm (p : Fin 5) (ticket : Word) (kind : Fin 2) (share : Bool) (at_ : BitVec 64)
  /-- DISARM cancels an arm that has not yet reached its point (R378). -/
  | updateDisarm (src : UpdSrc)
  /-- ABORT discards a package that is not yet staged (R375). -/
  | updateAbort (src : UpdSrc)
  /-- STATUS returns UPD_STATE, UPD_BANKS and UPD_UNITS (R375). -/
  | updateStatus (p : Fin 5)
  /-- The armed module time is reached and activation of the staged package begins (R378). -/
  | activationPoint
  /-- The next component switches to its new image and runs its check, rolling back on failure (R377). `ok`: the
      component's own check passes. -/
  | componentSwitch (ok : Bool)
  /-- A component's activation limit passes and the switched components are rolled back with 0x6E (R377). -/
  | activationLimitExpiry
  /-- Sorrel classifies a presented error, escalates it if its slot is held, captures a record and starts the class
      reactions (R382). -/
  | errorClassify
  /-- The hardware FAULT_N pulse ends after 1.0-1.1 ms (R390). -/
  | faultNPulseEnd
  /-- A write of 1 to SRL_ACK frees a held first-error slot at the end of the cycle (R386). -/
  | srlAckWrite (ini : Nat) (value : Word)
  /-- A management core writes its SRL_WDOG bit and re-arms its 50 ms watchdog (R386). -/
  | srlWdogKick (ini : Nat) (value : Word)
  /-- A management core's watchdog expires and is classified once as SOURCE 0x31 (R386). -/
  | mgmtWatchdogExpiry (k : Fin 2)
  /-- Each second of module time a new storm window starts with a zero count (R387). -/
  | stormWindowStart
  /-- A class quiet for QUIET_S leaves its degraded state and RECOV increments (R393). -/
  | degradedExit (cls : Fin 3)
  /-- A management write of DIL_TRIGGER triggers a snapshot (R399). -/
  | dilTriggerWrite (ini : Nat) (value : Word)
  /-- PERIOD_MS passes and the timer triggers a snapshot (R399). -/
  | dilTimerExpiry
  /-- Every ROH and RW1C field is latched into shadow registers 64 cycles after a trigger, or at the ring release time
      (R400). -/
  | snapshotLatch
  /-- The shadow registers are copied to a staging slot and NEWEST is set (R401). -/
  | snapshotCopyDone
  /-- A checkpoint's regions are copied, digested and headed, and CKPT_OBJ is signalled (R405). -/
  | checkpointDone
  /-- Every 1 ms every temperature sensor is sampled, excluded if faulty, and the stop test runs (R409). `temps`: the
      306 readings, signed in 1/64 °C, in the order of R409; `powers`: the 13 domains in mW. -/
  | sensorSample (temps : List (BitVec 16)) (powers : List Nat)
  /-- Every 1 µs the input power is measured and the energy windows are updated (R410). `volts` in units of 10 mV. -/
  | inputSample (volts milliwatts : Nat)
  /-- Every 10 ms the governor updates R-hat and the allowances and moves each throttle (R414). -/
  | governorPeriod
  /-- After 3,600 s of load the firmware sets a zero R_BASE to the mean R-hat (R417). -/
  | baselineSet (k : Fin 13)
  /-- A clamp not released within 5 s is classified as class F with CAUSE 1 (R418). -/
  | clampTimeout
  /-- Input outside 38-62 V for 1 ms causes class F with CAUSE 5 and a shutdown (R419). -/
  | inputVoltageFault
  /-- A regulator over-current or loss of regulation causes class F with CAUSE 6 and a shutdown (R419). -/
  | regulatorFault
  /-- 50 ms after a shutdown classification every point-of-load rail switches off (R420). -/
  | shutdownRailsOff
  /-- A COOL_OK level held for 100 µs is taken at the next sensor sample (R431). -/
  | coolOkChange (level : Bool)
  /-- MOD_FENCE OP 1 starts the test of a fenced or out-of-service unit, or is refused (R422). `unit` is a UNIT code
      of R391. -/
  | unitTest (ini unit : Nat)
  /-- MOD_FENCE OP 2 fences a unit (R422). -/
  | unitFence (ini unit : Nat)
  /-- MOD_FENCE OP 3 lifts a tested fence, making the stack's unassigned regions DIRTY (R422). -/
  | fenceLift (ini unit : Nat)
  /-- A unit test ends as passed or failed (R421). -/
  | unitTestDone (ok : Bool)
  /-- A ring TIME frame updates the node's offset and time lock (R444). -/
  | timeFrame (f : RingFrame)
  /-- A returning CAL frame gives the time master a new loop delay (R444). -/
  | calFrame (f : RingFrame)
  /-- The context's ring master takes a member's completion report and, on the last, broadcasts T_rel (R162). -/
  | barrierReportFrame (f : RingFrame)
  /-- A module takes a ring release time, or commits at once when the frame is late (R162). -/
  | barrierReleaseFrame (f : RingFrame)
  /-- A ring SNAPSHOT frame schedules a latch at T_rel when RING_ACCEPT is set (R399). -/
  | snapshotFrame (f : RingFrame)
  /-- A ring ACTIVATE frame arms the same point when the same package is staged, or counts RING_MISMATCH (R378). -/
  | activateFrame (f : RingFrame)
  /-- A ring STATUS frame carrying a module's status and pipeline pace is received (R445). -/
  | statusFrame (f : RingFrame)
  /-- A JOIN HELLO from the downstream node is checked and answered with SHARE (R440). The payload is the content of
      the message, all fragments together. -/
  | hello (f : RingFrame)
  /-- A JOIN SHARE from the upstream node is checked and the hop key is established (R440). -/
  | share (f : RingFrame)
  /-- The ring service returns Sorrel records from the store (R446). From node `src`. -/
  | readStore (src : Fin 16) (first : Word) (count : BitVec 16)
  /-- The ring service returns bytes of a snapshot staging slot (R446). -/
  | readSnapshot (src : Fin 16) (slot : BitVec 8) (off : Word) (len : BitVec 16)
  /-- The ring service returns bytes of a checkpoint buffer (R446). -/
  | readCheckpoint (src : Fin 16) (pipe buf : BitVec 8) (off : BitVec 64) (len : BitVec 16)
  /-- The ring service returns bytes of the newest counter snapshot (R446). -/
  | readCounters (src : Fin 16) (off : Word) (len : BitVec 16)
  /-- The ring service forces every enabled flow with REASON 4 (R446). -/
  | forceAll (src : Fin 16)
  /-- Every 1 ms the time master sends a TIME frame (R438). -/
  | timeFrameSend
  /-- Every 50 µs the Thyme ring master sends a PHASE frame (R438). -/
  | phaseFrameSend
  /-- Every 10 ms each module sends a STATUS frame (R438). -/
  | statusFrameSend
  /-- Every 1 s the time master sends a CAL frame (R438). -/
  | calFrameSend
  /-- The retimer holds lock for 1 ms; the bypass opens and joining starts (R441). -/
  | retimerLock
  /-- The retimer loses lock and the node re-forms the ring (R442). -/
  | retimerLockLoss
  /-- Both links are not keyed 200 ms after the bypass opened; the bypass closes and the join restarts (R441). -/
  | joinTimeout
  /-- TIME_LOCK clears after 100 ms without a TIME frame (R444). -/
  | timeLockLapse
  /-- A write of RNG_CTRL.EN makes the module leave or join the ring (R443). -/
  | ringEnWrite (ini : Nat) (value : Word)
  /-- The TAP instruction EXTEST drives the boundary-scan cells when consent allows (R448). `cells` is what the shift
      leaves in the boundary-scan cells, bit i for contact G(10 + i). -/
  | extest (cells : BitVec 18)
  /-- The TAP instruction IDCODE returns the 32-bit identification (R448). -/
  | idcode
  /-- The TAP instruction SAMPLE/PRELOAD samples the boundary-scan cells when consent allows (R448). `cells` as for
      EXTEST. -/
  | samplePreload (cells : BitVec 18)
  /-- The TAP instruction BYPASS selects the 1-bit register (R448). -/
  | bypass
  /-- The DAP_ADDR instruction shifts in the address of the next debug access (R448). -/
  | dapAddr (addr : BitVec 48)
  /-- A DAP_DATA shift performs one 32-bit debug access under consent and returns the previous result (R449). `op` is
      bits [33:32] shifted in: 0 none, 1 read, 2 write. -/
  | dapData (op : Fin 4) (data : Word)
  /-- The DAP_STATUS instruction returns the consent and refusal status (R448). -/
  | dapStatus
  /-- The NAND controller finishes initialising and reading its area table, and MOD_MEM_STATUS.NAND_READY sets (R363). -/
  | nandReady
  /-- A 25GBASE-KR field port (FP0 or FP1) completes auto-negotiation and FEC selection, and LINK and FEC_ACTIVE are
      set (R249). `fec` is what negotiation gives. -/
  | fieldPortLinkUp (port : Fin 2) (fec : Fin 3)
  /-- A field port loses its link, LINK clears, traffic stops and FP1's 802.1AS time source falls silent (R296). -/
  | fieldPortLinkDown (port : Fin 2)
  /-- An ARP, neighbour-discovery or IGMP/MLD query frame arrives on FP0 and the management firmware answers it for
      the port's configured addresses (R249). -/
  | arpNeighbourRequest (r : NbrReq)
  /-- The IDE_KM K_SET_GO message enables a selective IDE stream's key set, putting the stream in the ENABLED state
      that START_INTERFACE requires (R341). -/
  | ideKSetGo (p : Fin 4) (sid : Nat) (stream : Fin 256) (set : Fin 2)
  /-- The IDE_KM K_SET_STOP message stops a selective IDE stream and its keys are destroyed (R334). -/
  | ideKSetStop (p : Fin 4) (sid : Nat) (stream : Fin 256)
  /-- The 54 V input drops out or falls below 30 V; the bulk feeds the rails, and the ring bypass closes within 100 µs
      (R429). The voltage it falls to, in units of 10 mV. -/
  | inputDropout (volts : Nat)
  deriving DecidableEq, Repr

end Sys2Proof
end

