-- ==== Sys2Proof/Config.lean ====
section
/-!
DEFINITION. What the spec leaves open: free values, and functions whose results the spec does not give bit by bit. Each is
an opaque constant, so no proof can see a value of it.
-/
namespace Sys2Proof.Config

/-- A value the spec leaves open, numbered by the state's `freeCtr`.
Log entry 5 (DESIGN CHOICE). -/
opaque freeValue : Nat → Nat

/-- The special functions of R98 (codes 0x13 and 0x18–0x23) on the encoding of a finite FP32 (width 32) or FP64 (width 64)
input, under a rounding mode: which of the results that R67 admits the hardware gives, since R67 bounds the result and gives no
bits.
Log entry 43 (DEDUCED). -/
opaque special : (op width x mode : Nat) → Nat

/-- The source MAC address of field port 0 (FP0) or 1 (FP1), below 2^48; the spec gives no value.
Log entry 106 (DESIGN CHOICE). -/
opaque portMac : Nat → Nat

/-- IDCODE's stepping and Merdomer's JEP106 code (R448); the spec gives no values.
Log entry 186 (DESIGN CHOICE). -/
opaque idStepping : BitVec 4
opaque jep106 : BitVec 11

/-! ## Video coding: the codecs are defined by their own standards (R261, R263, R276) -/

/-- What the headers of an access unit say (R261–R263): whether it holds a picture; its profile (its place in the codec's row
of R261), ten times its level, whether its chroma is 4:2:0, whether it codes fields (field pictures, PAFF, MBAFF), whether it uses
FMO, ASO, redundant slices or AV1 large-scale tiles; its size, bit depth, chroma location type, range, BT.2020 matrix, film
grain, random-access point, RASL picture, access units it references, and access units whose pictures it makes available for
output, in output order. -/
structure AuInfo where
  pic : Bool
  profile : Nat
  level : Nat
  chroma420 : Bool
  fields : Bool
  slices : Bool
  w : Nat
  h : Nat
  depth : Nat
  loc : Nat
  full : Bool
  bt2020 : Bool
  grain : Bool
  rap : Bool
  rasl : Bool
  refs : List Nat
  shows : List Nat
  deriving DecidableEq, Repr, Inhabited

/-- The headers of the last access unit of a stream of a codec; `data` are its undamaged access units so far, each with its
number.
Log entry 94 (DESIGN CHOICE). -/
opaque videoHeaders : (codec : Nat) → (data : List (Nat × List Byte)) → AuInfo

/-- Whether slice or tile data of the last access unit of a stream holds a syntax error.
Log entry 94 (DESIGN CHOICE). -/
opaque videoBad : (codec : Nat) → (data : List (Nat × List Byte)) → Bool

/-- The picture that the last access unit of a stream decodes to: luma samples in row order, then both chroma planes.
Log entry 94 (DESIGN CHOICE). -/
opaque videoPicture : (codec : Nat) → (data : List (Nat × List Byte)) → List Nat

/-- A picture as an encoder codes it (R276): descriptor, firmware version, the source pictures so far, whether it is intra,
and the quantiser.
Log entry 94 (DESIGN CHOICE). -/
opaque videoCode : (desc : List Byte) → (fw : Nat) → (sources : List (List Nat)) → (intra : Bool) → (q : Nat) → List Byte

/-- The NAL units or OBUs of an access unit that an encoder made.
Log entry 94 (DESIGN CHOICE). -/
opaque videoUnits : (codec : Nat) → (bytes : List Byte) → List (List Byte)

/-- FP0's IPv4 and IPv6 addresses by a standing configuration (R249), whose layout gives them no place (0: none).
Log entry 207 (DESIGN CHOICE). -/
opaque fp0Address : (config : List Byte) → Nat × Nat

/-- The cycles after its last message, one at least, from which a time source counts as silent: SEL 4 is FP1's 802.1AS time, SEL 5 the ring's
phase.
Log entry 208 (DESIGN CHOICE). -/
opaque silence : (sel : Nat) → Nat

/-- The access unit of the fallback skip() (R277).
Log entry 94 (DESIGN CHOICE). -/
opaque videoSkip : (desc : List Byte) → (fw : Nat) → (sources : List (List Nat)) → List Byte

/-! ## Cryptography: the algorithms are defined by their own standards (R334, R336, R348, R352) -/

/-- The ML-DSA-87 signature that Sage makes with one of its keys (0 identity, 1 attestation, 2 record signing) over the
SHA3-384 digest of a message.
Log entry 132 (DESIGN CHOICE). -/
opaque sign : (key : Nat) → (message : List Byte) → List Byte

/-- Whether a signature over the SHA3-384 digest of a message verifies under an ML-DSA-87 public key.
Log entry 132 (DESIGN CHOICE). -/
opaque verify : (pk message signature : List Byte) → Bool

/-- The shared secret that the module's provisioning key (0) or a drawn key recovers from an ML-KEM-1024 ciphertext.
Log entry 132 (DESIGN CHOICE). -/
opaque kemDecap : (key : Nat) → (ct : List Byte) → Option (List Byte)

/-- The ML-KEM-1024 encapsulation key of a drawn key pair. -/
opaque kemPublic : (key : Nat) → List Byte

/-- Encapsulation to an ML-KEM-1024 key with a draw of randomness: the shared secret and the ciphertext. -/
opaque kemEncap : (ek : List Byte) → (draw : Nat) → List Byte × List Byte

/-- This module's device certificate (R335). -/
opaque deviceCert : List Byte

/-- The public key that a device certificate certifies, where the certificate chains to the Merdomer root (R440). -/
opaque certKey : (cert : List Byte) → Option (List Byte)

/-- HKDF-SHA3-384 of a secret and a label. -/
opaque hkdf : (secret label : List Byte) → List Byte

/-- AES-256-GCM: the plaintext of a ciphertext that ends with its tag; none where the tag fails.
Log entry 132 (DESIGN CHOICE). -/
opaque gcmOpen : (key nonce aad ct : List Byte) → Option (List Byte)

/-- The certificate chain of SPDM slot 0, 1 or 2 (R335) under a Sage firmware measurement. -/
opaque certChain : (slot : Nat) → (measurement : List Byte) → List Byte

/-- Whether a digest is one of the firmware-signing key digests in Sage's boot ROM (R372). -/
opaque firmwareSigner : (digest : List Byte) → Bool

/-- The module serial (R335). -/
opaque serial : Nat

end Sys2Proof.Config
end

