-- ==== Sys2Proof/Machine/RegTable.lean ====
section
/-!
DEFINITION. The register tables of the spec, as data: for every register page (R30) its registers, with offset, width,
repetition, the fields with their access codes (R8) and reset values, and who may write them (R109, R186, R213, R248,
R279, R304, R332, R361, R379, R408, R423, R451). A bit that no field lists is reserved and reads as 0 (R8).
-/
namespace Sys2Proof.Machine

/-- The access codes of R8. -/
inductive Acc where
  | ro | rw | rw1c | wo | rwp | roh
  deriving DecidableEq, Repr

/-- Who may write a register: the management cores and management functions; the application core of the page (`hart`);
the window's own source (R79, R167); the tenant function's own BAR0 (R332). -/
inductive Right where
  | mgmt | hart | window | bar0
  deriving DecidableEq, Repr

/-- The blocks that own register pages (R30), and a tenant function's BAR0 (R316). -/
inductive Blk where
  | tc
  | ac
  | cl
  | sync
  | dieBar
  | dieThm
  | dieHbm
  | dieLink
  | diePwr
  | mod
  | hub
  | pci
  | fpt
  | bar
  | thy
  | sge
  | lov
  | rqt
  | kvp
  | srlA
  | srlB
  | dil
  | pwr
  | thm
  | nvs
  | upd
  | rng
  | vid
  | vdec
  | venc
  | fn
  deriving DecidableEq, Repr

/-- One field: bits `hi`..`lo` of the whole register (a 64-bit or longer register counts its bits from its first word). -/
structure FieldSpec where
  name : String
  hi : Nat
  lo : Nat
  acc : Acc
  reset : Nat
  deriving DecidableEq, Repr

/-- One register of a block, `count` copies `stride` bytes apart, `width` bits each. -/
structure RegSpec where
  name : String
  off : Nat
  width : Nat
  count : Nat
  stride : Nat
  right : Right
  fields : List FieldSpec
  deriving DecidableEq, Repr

/-- Tile-core slot page (TC_, SQ_, AG_, DMA_ registers): R74, R79, R109, R110, R136, R176. -/
def tcRegs0 : List RegSpec := [
  ⟨"TC_ID", 0x0, 32, 1, 0, .mgmt, [⟨"DIE", 12, 11, .ro, 0⟩, ⟨"CLUSTER", 10, 8, .ro, 0⟩, ⟨"PSLOT", 7, 4, .ro, 0⟩, ⟨"SERVING", 3, 3, .roh, 0⟩, ⟨"LSLOT", 2, 0, .roh, 0⟩]⟩,
  ⟨"TC_CTRL", 0x4, 32, 1, 0, .mgmt, [⟨"FLUSH", 2, 2, .wo, 0⟩, ⟨"ABORT", 1, 1, .wo, 0⟩, ⟨"HALT", 0, 0, .rw, 0⟩]⟩,
  ⟨"TC_STATUS", 0x8, 32, 1, 0, .mgmt, [⟨"STATE", 31, 28, .roh, 0⟩, ⟨"ABORT_LATE", 27, 27, .rw1c, 0⟩, ⟨"BUSY", 19, 16, .roh, 0⟩, ⟨"CODE_HANDLE", 15, 0, .roh, 0⟩]⟩,
  ⟨"TC_LQ_STATUS", 0x20, 32, 1, 0, .mgmt, [⟨"DROP", 31, 28, .rw1c, 0⟩, ⟨"FLUSHED", 27, 20, .roh, 0⟩, ⟨"USED", 9, 5, .roh, 0⟩, ⟨"FREE", 4, 0, .roh, 16⟩]⟩,
  ⟨"TC_ERR_INFO", 0x30, 32, 1, 0, .mgmt, [⟨"VALID", 31, 31, .rw1c, 0⟩, ⟨"CODE", 23, 16, .roh, 0⟩, ⟨"OPCODE", 15, 8, .roh, 0⟩, ⟨"TAG_LOW", 7, 0, .roh, 0⟩]⟩,
  ⟨"TC_STAGE", 0x100, 32, 32, 4, .window, [⟨"RECORD", 31, 0, .wo, 0⟩]⟩,
  ⟨"SQ_PC", 0x200, 32, 1, 0, .mgmt, [⟨"PC", 16, 0, .roh, 0⟩]⟩,
  ⟨"SQ_LAST_STATUS", 0x210, 32, 4, 4, .mgmt, [⟨"STATUS", 31, 0, .roh, 0⟩]⟩,
  ⟨"TC_NUM_FLAGS", 0x300, 32, 1, 0, .mgmt, [⟨"SPILL_LOSSY", 6, 6, .rw1c, 0⟩, ⟨"SAT", 5, 5, .rw1c, 0⟩, ⟨"NAN_IN", 4, 4, .rw1c, 0⟩, ⟨"INVALID", 3, 3, .rw1c, 0⟩, ⟨"OVERFLOW", 2, 2, .rw1c, 0⟩, ⟨"UNDERFLOW", 1, 1, .rw1c, 0⟩, ⟨"STICKY", 0, 0, .rw1c, 0⟩]⟩,
  ⟨"TC_STICKY_COUNT", 0x304, 32, 1, 0, .mgmt, [⟨"STICKY_CHUNKS", 31, 0, .roh, 0⟩]⟩]

/-- Tile-core slot page (TC_, SQ_, AG_, DMA_ registers): R74, R79, R109, R110, R136, R176. -/
def tcRegs1 : List RegSpec := [
  ⟨"TC_BUSY", 0x400, 64, 4, 8, .mgmt, [⟨"COUNT", 63, 0, .roh, 0⟩]⟩,
  ⟨"TC_CYCLES", 0x420, 64, 1, 0, .mgmt, [⟨"COUNT", 63, 0, .roh, 0⟩]⟩,
  ⟨"AG_STATUS", 0x500, 32, 1, 0, .mgmt, [⟨"WALKS", 19, 16, .roh, 0⟩, ⟨"HALO_COPY", 1, 1, .roh, 0⟩, ⟨"HALO_WAIT", 0, 0, .roh, 0⟩]⟩,
  ⟨"AG_HALO_MAIL", 0x504, 32, 1, 0, .mgmt, [⟨"COUNT", 31, 0, .roh, 0⟩]⟩,
  ⟨"AG_HALO_ALT", 0x508, 32, 1, 0, .mgmt, [⟨"COUNT", 31, 0, .roh, 0⟩]⟩,
  ⟨"AG_HALO_TORN", 0x50c, 32, 1, 0, .mgmt, [⟨"COUNT", 31, 0, .roh, 0⟩]⟩,
  ⟨"DMA_FOLD", 0x600, 64, 32, 8, .mgmt, [⟨"ACC", 63, 0, .rw, 0⟩]⟩]

/-- Tile-core slot page (TC_, SQ_, AG_, DMA_ registers): R74, R79, R109, R110, R136, R176. All of the page. -/
def tcRegs : List RegSpec := tcRegs0 ++ tcRegs1

/-- Application-core page: R146-R150. -/
def acRegs0 : List RegSpec := [
  ⟨"AC_ID", 0x0, 32, 1, 0, .mgmt, [⟨"DIE", 12, 11, .ro, 0⟩, ⟨"CLUSTER", 10, 8, .ro, 0⟩, ⟨"CORE", 7, 7, .ro, 0⟩, ⟨"OWNED", 4, 4, .roh, 0⟩, ⟨"TENANT", 3, 0, .roh, 0⟩]⟩,
  ⟨"AC_CTRL", 0x4, 32, 1, 0, .mgmt, [⟨"RESET", 2, 2, .wo, 0⟩, ⟨"HALT", 1, 1, .rw, 0⟩, ⟨"START", 0, 0, .wo, 0⟩]⟩,
  ⟨"AC_STATUS", 0x8, 32, 1, 0, .mgmt, [⟨"STATE", 31, 28, .roh, 0⟩, ⟨"ERR", 27, 27, .rw1c, 0⟩, ⟨"WFI", 0, 0, .roh, 0⟩]⟩,
  ⟨"AC_ENTRY", 0x10, 32, 1, 0, .mgmt, [⟨"IMAGE_HANDLE", 31, 16, .rw, 0⟩, ⟨"ENTRY", 15, 0, .rw, 0⟩]⟩,
  ⟨"AC_ARG", 0x18, 64, 1, 0, .mgmt, [⟨"ARG", 47, 0, .rw, 0⟩]⟩,
  ⟨"AC_SIG_INC", 0x100, 32, 1, 0, .hart, [⟨"INC", 31, 0, .rw, 1⟩]⟩,
  ⟨"AC_SIG_OBJ", 0x104, 32, 1, 0, .hart, [⟨"OBJ", 17, 0, .wo, 0⟩]⟩,
  ⟨"AC_WAIT_OBJ", 0x110, 32, 4, 16, .hart, [⟨"ARM", 31, 31, .wo, 0⟩, ⟨"OBJ", 17, 0, .rw, 0⟩]⟩,
  ⟨"AC_WAIT_THR", 0x114, 32, 4, 16, .hart, [⟨"THRESHOLD", 31, 0, .rw, 0⟩]⟩,
  ⟨"AC_WAIT_TMO", 0x118, 32, 4, 16, .hart, [⟨"TIMEOUT", 31, 0, .rw, 0⟩]⟩]

/-- Application-core page: R146-R150. -/
def acRegs1 : List RegSpec := [
  ⟨"AC_WAIT_RES", 0x11c, 32, 4, 16, .hart, [⟨"STATE", 31, 30, .roh, 0⟩]⟩,
  ⟨"AC_IRQ_STATUS", 0x200, 32, 1, 0, .hart, [⟨"LQ_DROP", 6, 6, .rw1c, 0⟩, ⟨"ACC_ERR", 5, 5, .rw1c, 0⟩, ⟨"MSG_IN", 4, 4, .rw1c, 0⟩, ⟨"WAIT_DONE", 3, 0, .rw1c, 0⟩]⟩,
  ⟨"AC_IRQ_EN", 0x204, 32, 1, 0, .hart, [⟨"LQ_DROP", 6, 6, .rw, 0⟩, ⟨"ACC_ERR", 5, 5, .rw, 0⟩, ⟨"MSG_IN", 4, 4, .rw, 0⟩, ⟨"WAIT_DONE", 3, 0, .rw, 0⟩]⟩,
  ⟨"AC_MSG_IN", 0x210, 64, 1, 0, .mgmt, [⟨"MSG", 63, 0, .rw, 0⟩]⟩,
  ⟨"AC_MSG_OUT", 0x218, 64, 1, 0, .hart, [⟨"MSG", 63, 0, .rw, 0⟩]⟩,
  ⟨"AC_CYCLES", 0x400, 64, 1, 0, .mgmt, [⟨"COUNT", 63, 0, .roh, 0⟩]⟩,
  ⟨"AC_INSTRET", 0x408, 64, 1, 0, .mgmt, [⟨"COUNT", 63, 0, .roh, 0⟩]⟩]

/-- Application-core page: R146-R150. All of the page. -/
def acRegs : List RegSpec := acRegs0 ++ acRegs1

/-- Cluster page: R15, R166, R167. -/
def clRegs : List RegSpec := [
  ⟨"CL_SLOT_MAP", 0x40, 32, 1, 0, .mgmt, [⟨"SPARE_ACTIVE", 31, 31, .rw, 0⟩, ⟨"MAP_REJECT", 30, 30, .rw1c, 0⟩, ⟨"SPARE_FOR", 26, 24, .rw, 0⟩, ⟨"FENCED", 8, 0, .roh, 0⟩]⟩,
  ⟨"CL_JOB_WINDOW", 0x200, 512, 4, 64, .window, [⟨"RECORD", 511, 0, .wo, 0⟩]⟩,
  ⟨"CL_WD_STATUS", 0x300, 32, 1, 0, .mgmt, [⟨"FREE", 4, 0, .roh, 16⟩]⟩,
  ⟨"CL_WD_REJECT", 0x304, 32, 1, 0, .mgmt, [⟨"VALID", 31, 31, .rw1c, 0⟩, ⟨"CODE", 3, 0, .roh, 0⟩]⟩]

/-- Sync block page: R153, R186. -/
def syncRegs : List RegSpec := [
  ⟨"SYNC_VALUE", 0x0, 32, 8192, 4, .mgmt, [⟨"VALUE", 31, 0, .rw, 0⟩]⟩,
  ⟨"SYNC_STATUS", 0x8000, 32, 1, 0, .mgmt, [⟨"SAT", 0, 0, .rw1c, 0⟩]⟩,
  ⟨"SYNC_SAT_COUNT", 0x8004, 32, 1, 0, .mgmt, [⟨"COUNT", 31, 0, .roh, 0⟩]⟩,
  ⟨"SYNC_WAITERS", 0x8008, 32, 1, 0, .mgmt, [⟨"PENDING", 11, 0, .roh, 0⟩]⟩]

/-- Barrier unit of a die: R160. -/
def dieBarRegs : List RegSpec := [
  ⟨"BAR_DIE_ARRIVED", 0x0, 32, 1, 0, .mgmt, [⟨"ARRIVED", 31, 0, .roh, 0⟩]⟩]

/-- Junction sensors of a die: R409, R423. -/
def dieThmRegs : List RegSpec := [
  ⟨"THM_SITE", 0x0, 32, 64, 4, .mgmt, [⟨"T", 15, 0, .roh, 0⟩]⟩,
  ⟨"THM_HBM", 0x100, 32, 4, 4, .mgmt, [⟨"T", 15, 0, .roh, 0⟩]⟩,
  ⟨"THM_HBM1", 0x110, 32, 4, 4, .mgmt, [⟨"T", 15, 0, .roh, 0⟩]⟩]

/-- HBM controller page of a die (R30); the spec lists no register of its own in it. -/
def dieHbmRegs : List RegSpec := []

/-- Link-port page of a die (R30); the spec lists no register of its own in it. -/
def dieLinkRegs : List RegSpec := []

/-- Throttle of a die: R413, R423. -/
def diePwrRegs : List RegSpec := [
  ⟨"PWR_LEVEL", 0x0, 32, 1, 0, .mgmt, [⟨"FAST", 4, 4, .roh, 0⟩, ⟨"LEVEL", 3, 0, .roh, 0⟩]⟩,
  ⟨"PWR_HBM_B", 0x4, 32, 2, 4, .mgmt, [⟨"B", 3, 0, .roh, 8⟩]⟩]

/-- Module-wide page: R24, R25, R40, R332, R362, R379, R422, R423. -/
def modRegs0 : List RegSpec := [
  ⟨"MOD_MEM_STATUS", 0x100, 32, 1, 0, .mgmt, [⟨"MRAM_READY", 19, 19, .roh, 0⟩, ⟨"NOR_READY", 18, 18, .roh, 0⟩, ⟨"NAND_READY", 17, 17, .roh, 0⟩, ⟨"LP_READY", 16, 16, .roh, 0⟩, ⟨"HBM_FENCED", 15, 8, .roh, 0⟩, ⟨"HBM_READY", 7, 0, .roh, 0⟩]⟩,
  ⟨"MOD_SCRUB_CTRL", 0x110, 32, 1, 0, .mgmt, [⟨"TARGETED_EN", 3, 3, .rwp, 1⟩, ⟨"LP_EN", 2, 2, .rwp, 1⟩, ⟨"HBM_EN", 1, 1, .rwp, 1⟩, ⟨"SRAM_EN", 0, 0, .rwp, 1⟩]⟩,
  ⟨"MOD_SCRUB_PERIOD_SRAM", 0x114, 32, 1, 0, .mgmt, [⟨"PERIOD_S", 31, 0, .rwp, 600⟩]⟩,
  ⟨"MOD_SCRUB_PERIOD_HBM", 0x118, 32, 1, 0, .mgmt, [⟨"PERIOD_S", 31, 0, .rwp, 14400⟩]⟩,
  ⟨"MOD_SCRUB_PERIOD_LP", 0x11c, 32, 1, 0, .mgmt, [⟨"PERIOD_S", 31, 0, .rwp, 28800⟩]⟩,
  ⟨"MOD_SCRUB_PASS_A", 0x120, 32, 1, 0, .mgmt, [⟨"HBM_PASSES", 31, 16, .roh, 0⟩, ⟨"SRAM_PASSES", 15, 0, .roh, 0⟩]⟩,
  ⟨"MOD_SCRUB_PASS_B", 0x124, 32, 1, 0, .mgmt, [⟨"LP_PASSES", 15, 0, .roh, 0⟩]⟩,
  ⟨"MOD_START_STATUS", 0x200, 32, 1, 0, .mgmt, [⟨"STEP", 31, 28, .roh, 0⟩, ⟨"FAILED", 21, 16, .roh, 0⟩]⟩,
  ⟨"MOD_START_TIME", 0x218, 64, 8, 8, .mgmt, [⟨"TIME", 63, 0, .roh, 0⟩]⟩,
  ⟨"MOD_FENCE", 0x300, 32, 1, 0, .mgmt, [⟨"OP", 17, 16, .wo, 0⟩, ⟨"UNIT", 15, 0, .wo, 0⟩]⟩]

/-- Module-wide page: R24, R25, R40, R332, R362, R379, R422, R423. -/
def modRegs1 : List RegSpec := [
  ⟨"MOD_FENCE_STATUS", 0x304, 32, 1, 0, .mgmt, [⟨"STATE", 31, 28, .roh, 0⟩, ⟨"CODE", 27, 24, .roh, 0⟩, ⟨"UNIT", 15, 0, .roh, 0⟩]⟩,
  ⟨"MOD_TENANT_CTRL", 0x1000, 32, 16, 64, .mgmt, [⟨"ACTIVATE", 31, 31, .wo, 0⟩, ⟨"TEARDOWN", 30, 30, .wo, 0⟩, ⟨"AUTO_REOPEN", 29, 29, .rwp, 0⟩, ⟨"PORT", 11, 8, .rwp, 15⟩, ⟨"KIND", 7, 7, .rwp, 0⟩, ⟨"FUNC", 3, 0, .rwp, 0⟩]⟩,
  ⟨"MOD_TENANT_CLUSTERS", 0x1004, 32, 16, 64, .mgmt, [⟨"MASK", 31, 0, .rwp, 0⟩]⟩,
  ⟨"MOD_TENANT_STATUS", 0x1008, 32, 16, 64, .mgmt, [⟨"STATE", 31, 28, .roh, 0⟩, ⟨"ERR", 27, 20, .roh, 0⟩]⟩,
  ⟨"MOD_TENANT_LP_REGIONS", 0x100c, 32, 16, 64, .mgmt, [⟨"COUNT", 18, 0, .rwp, 0⟩]⟩,
  ⟨"MOD_TENANT_HBM_REGIONS0", 0x1010, 32, 16, 64, .mgmt, [⟨"COUNT1", 31, 16, .rwp, 0⟩, ⟨"COUNT0", 15, 0, .rwp, 0⟩]⟩,
  ⟨"MOD_TENANT_HBM_REGIONS1", 0x1014, 32, 16, 64, .mgmt, [⟨"COUNT3", 31, 16, .rwp, 0⟩, ⟨"COUNT2", 15, 0, .rwp, 0⟩]⟩,
  ⟨"MOD_TENANT_HBM_REGIONS2", 0x1018, 32, 16, 64, .mgmt, [⟨"COUNT5", 31, 16, .rwp, 0⟩, ⟨"COUNT4", 15, 0, .rwp, 0⟩]⟩,
  ⟨"MOD_TENANT_HBM_REGIONS3", 0x101c, 32, 16, 64, .mgmt, [⟨"COUNT7", 31, 16, .rwp, 0⟩, ⟨"COUNT6", 15, 0, .rwp, 0⟩]⟩,
  ⟨"MOD_TENANT_NAND_FIRST", 0x1020, 32, 16, 64, .mgmt, [⟨"BLOCK", 31, 0, .rwp, 0⟩]⟩]

/-- Module-wide page: R24, R25, R40, R332, R362, R379, R422, R423. -/
def modRegs2 : List RegSpec := [
  ⟨"MOD_TENANT_NAND_BLOCKS", 0x1024, 32, 16, 64, .mgmt, [⟨"COUNT", 31, 0, .rwp, 0⟩]⟩,
  ⟨"MOD_TENANT_TEARDOWNS", 0x1028, 32, 16, 64, .mgmt, [⟨"COUNT", 31, 0, .roh, 0⟩]⟩,
  ⟨"MOD_TENANT_DEV_BYTES", 0x1030, 64, 16, 64, .mgmt, [⟨"BYTES", 63, 0, .roh, 0⟩]⟩]

/-- Module-wide page: R24, R25, R40, R332, R362, R379, R422, R423. All of the page. -/
def modRegs : List RegSpec := modRegs0 ++ modRegs1 ++ modRegs2

/-- Replay-log registers: R179-R186. -/
def hubRegs : List RegSpec := [
  ⟨"HUB_LOG_CTRL", 0x400, 32, 1, 0, .mgmt, [⟨"NAND_EN", 1, 1, .rwp, 1⟩, ⟨"EN", 0, 0, .rwp, 1⟩]⟩,
  ⟨"HUB_LOG_STATUS", 0x404, 32, 1, 0, .mgmt, [⟨"STATE", 31, 30, .roh, 0⟩]⟩,
  ⟨"HUB_LOG_LOST", 0x408, 32, 1, 0, .mgmt, [⟨"COUNT", 31, 0, .roh, 0⟩]⟩,
  ⟨"HUB_LOG_NEWEST", 0x410, 64, 1, 0, .mgmt, [⟨"SEGMENT", 63, 0, .roh, 0⟩]⟩,
  ⟨"HUB_LOG_OLDEST", 0x418, 64, 1, 0, .mgmt, [⟨"SEGMENT", 63, 0, .roh, 0⟩]⟩]

/-- Host port page: R305-R308, R323, R332. -/
def pciRegs : List RegSpec := [
  ⟨"PCI_CFG", 0x0, 32, 1, 0, .mgmt, [⟨"PERST_SCOPE", 7, 7, .rwp, 0⟩, ⟨"BIFURCATE", 3, 3, .rwp, 0⟩, ⟨"MAX_SPEED", 2, 0, .rwp, 6⟩]⟩,
  ⟨"PCI_STATUS", 0x4, 32, 1, 0, .mgmt, [⟨"RB", 31, 31, .roh, 0⟩, ⟨"LINK_UP", 30, 30, .roh, 0⟩, ⟨"FLIT", 29, 29, .roh, 0⟩, ⟨"SLOW", 28, 28, .roh, 0⟩, ⟨"WIDTH", 23, 16, .roh, 0⟩, ⟨"SPEED", 15, 8, .roh, 0⟩, ⟨"RB_REASON", 7, 4, .roh, 1⟩]⟩,
  ⟨"PCI_COUNT", 0x10, 32, 5, 4, .mgmt, [⟨"COUNT", 31, 0, .roh, 0⟩]⟩]

/-- Field-port page: R249, R279, R296-R304. -/
def fptRegs0 : List RegSpec := [
  ⟨"FPT_FP0_CTRL", 0x0, 32, 1, 0, .mgmt, [⟨"VLAN_ID", 27, 16, .rwp, 0⟩, ⟨"FEC", 3, 2, .rwp, 3⟩, ⟨"VLAN_EN", 1, 1, .rwp, 0⟩, ⟨"EN", 0, 0, .rwp, 1⟩]⟩,
  ⟨"FPT_FP0_STATUS", 0x4, 32, 1, 0, .mgmt, [⟨"FEC_ACTIVE", 2, 1, .roh, 0⟩, ⟨"LINK", 0, 0, .roh, 0⟩]⟩,
  ⟨"FPT_FP0_COUNT", 0x10, 32, 5, 4, .mgmt, [⟨"COUNT", 31, 0, .roh, 0⟩]⟩,
  ⟨"FPT_FP0_RX_BYTES", 0x28, 64, 1, 0, .mgmt, [⟨"COUNT", 63, 0, .roh, 0⟩]⟩,
  ⟨"FPT_FP1_CTRL", 0x1000, 32, 1, 0, .mgmt, [⟨"SAFE_TC", 6, 4, .rwp, 7⟩, ⟨"FEC", 3, 2, .rwp, 3⟩, ⟨"EN", 0, 0, .rwp, 1⟩]⟩,
  ⟨"FPT_FP1_STATUS", 0x1004, 32, 1, 0, .mgmt, [⟨"AS_STATE", 4, 3, .roh, 0⟩, ⟨"FEC_ACTIVE", 2, 1, .roh, 0⟩, ⟨"LINK", 0, 0, .roh, 0⟩]⟩,
  ⟨"FPT_FP1_ETHERTYPE", 0x1008, 32, 1, 0, .mgmt, [⟨"TYPE", 15, 0, .rwp, 0x88B5⟩]⟩,
  ⟨"FPT_FP1_AS_OFFSET", 0x1018, 64, 1, 0, .mgmt, [⟨"NS", 63, 0, .roh, 0⟩]⟩,
  ⟨"FPT_FP1_GCL_CYCLE", 0x1020, 32, 1, 0, .mgmt, [⟨"CYCLE_NS", 31, 0, .rw, 1000000⟩]⟩,
  ⟨"FPT_FP1_GCL_BASE", 0x1028, 64, 1, 0, .mgmt, [⟨"BASE", 63, 0, .rw, 0⟩]⟩]

/-- Field-port page: R249, R279, R296-R304. -/
def fptRegs1 : List RegSpec := [
  ⟨"FPT_FP1_GCL_CTRL", 0x1030, 32, 1, 0, .mgmt, [⟨"CHANGE", 31, 31, .wo, 0⟩, ⟨"ACTIVE", 30, 30, .roh, 0⟩, ⟨"LENGTH", 6, 0, .rw, 1⟩]⟩,
  ⟨"FPT_FP1_COUNT", 0x1040, 32, 7, 4, .mgmt, [⟨"COUNT", 31, 0, .roh, 0⟩]⟩,
  ⟨"FPT_FP1_GCL_ENTRY", 0x1100, 64, 64, 8, .mgmt, [⟨"GATES", 39, 32, .rw, 0xFF⟩, ⟨"INTERVAL_NS", 31, 0, .rw, 1000000⟩]⟩,
  ⟨"FPT_FP1_FILTER0", 0x1400, 32, 16, 16, .mgmt, [⟨"EN", 31, 31, .rw, 0⟩, ⟨"VLAN_ID", 27, 16, .rw, 0⟩, ⟨"ETHERTYPE", 15, 0, .rw, 0⟩]⟩,
  ⟨"FPT_FP1_FILTER1", 0x1404, 64, 16, 16, .mgmt, [⟨"RING_SLOTS", 63, 48, .rw, 0⟩, ⟨"RING_ADDR", 47, 0, .rw, 0⟩]⟩,
  ⟨"FPT_FP1_FILTER3", 0x140c, 32, 16, 16, .mgmt, [⟨"OBJ", 17, 0, .rw, 0⟩]⟩,
  ⟨"FPT_FP1_FLOW_DESC", 0x2000, 32, 1024, 4, .mgmt, [⟨"DESC", 31, 0, .rw, 0⟩]⟩,
  ⟨"FPT_FP1_FLOW_CTRL", 0x3000, 32, 64, 16, .mgmt, [⟨"FORCE", 1, 1, .wo, 0⟩, ⟨"UNFORCE", 0, 0, .wo, 0⟩]⟩,
  ⟨"FPT_FP1_FLOW_STATUS", 0x3004, 32, 64, 16, .mgmt, [⟨"FORCED", 31, 31, .roh, 0⟩, ⟨"REASON", 30, 28, .roh, 0⟩, ⟨"UNFORCE_REFUSED", 27, 27, .rw1c, 0⟩]⟩,
  ⟨"FPT_FP1_FLOW_SEQ", 0x3008, 64, 64, 16, .mgmt, [⟨"SEQ", 63, 0, .roh, 0⟩]⟩]

/-- Field-port page: R249, R279, R296-R304. All of the page. -/
def fptRegs : List RegSpec := fptRegs0 ++ fptRegs1

/-- Module barrier master: R159-R164, R186. -/
def barRegs0 : List RegSpec := [
  ⟨"BAR_CYCLE", 0x0, 64, 1, 0, .mgmt, [⟨"CYCLE", 63, 0, .roh, 0⟩]⟩,
  ⟨"BAR_RING_LEAD", 0x10, 32, 1, 0, .mgmt, [⟨"LEAD_NS", 31, 0, .rwp, 20000⟩]⟩,
  ⟨"BAR_LATE_COUNT", 0x14, 32, 1, 0, .mgmt, [⟨"COUNT", 31, 0, .roh, 0⟩]⟩,
  ⟨"BAR_CTX_CTRL", 0x1000, 32, 32, 32, .mgmt, [⟨"EN", 31, 31, .rw, 0⟩, ⟨"RING_EN", 30, 30, .rw, 0⟩, ⟨"TENANT", 23, 20, .rw, 0⟩]⟩,
  ⟨"BAR_CTX_MASK", 0x1004, 32, 32, 32, .mgmt, [⟨"CLUSTERS", 31, 0, .rw, 0⟩]⟩,
  ⟨"BAR_CTX_OBJ", 0x1008, 32, 32, 32, .mgmt, [⟨"ARRIVE_OBJ", 28, 16, .rw, 0⟩, ⟨"RELEASE_OBJ", 12, 0, .rw, 0⟩]⟩,
  ⟨"BAR_CTX_PER", 0x100c, 32, 32, 32, .mgmt, [⟨"PER", 31, 0, .rw, 1⟩]⟩,
  ⟨"BAR_CTX_TMO", 0x1010, 32, 32, 32, .mgmt, [⟨"TIMEOUT", 31, 0, .rw, 0⟩]⟩,
  ⟨"BAR_CTX_RING", 0x1014, 32, 32, 32, .mgmt, [⟨"NODES", 15, 0, .rw, 0⟩]⟩,
  ⟨"BAR_CTX_STATUS", 0x1018, 32, 32, 32, .mgmt, [⟨"STATE", 31, 30, .roh, 0⟩, ⟨"LATE", 29, 29, .rw1c, 0⟩]⟩]

/-- Module barrier master: R159-R164, R186. -/
def barRegs1 : List RegSpec := [
  ⟨"BAR_CTX_GEN", 0x101c, 32, 32, 32, .mgmt, [⟨"GEN", 31, 0, .roh, 0⟩]⟩]

/-- Module barrier master: R159-R164, R186. All of the page. -/
def barRegs : List RegSpec := barRegs0 ++ barRegs1

/-- Thyme: R280-R288, R304. -/
def thyRegs0 : List RegSpec := [
  ⟨"THY_SRC", 0x0, 32, 1, 0, .mgmt, [⟨"FILTER_NS", 23, 16, .rwp, 20⟩, ⟨"VEL_SHIFT", 10, 8, .rwp, 4⟩, ⟨"INVERT_DIR", 6, 6, .rwp, 0⟩, ⟨"Z_MODE", 5, 4, .rwp, 0⟩, ⟨"SEL", 2, 0, .rwp, 0⟩]⟩,
  ⟨"THY_CPC", 0x4, 32, 1, 0, .mgmt, [⟨"CPC", 31, 0, .rwp, 4096⟩]⟩,
  ⟨"THY_EPOCH", 0x8, 64, 1, 0, .mgmt, [⟨"EPOCH", 63, 0, .rwp, 0⟩]⟩,
  ⟨"THY_WDOG", 0x10, 32, 1, 0, .mgmt, [⟨"WDOG_US", 31, 0, .rwp, 100000⟩]⟩,
  ⟨"THY_CTRL", 0x14, 32, 1, 0, .mgmt, [⟨"RING_MASTER", 1, 1, .rwp, 0⟩, ⟨"EN", 0, 0, .rwp, 1⟩]⟩,
  ⟨"THY_STATE", 0x18, 32, 1, 0, .mgmt, [⟨"LOCK", 31, 28, .roh, 1⟩, ⟨"OVERSPEED", 27, 27, .rw1c, 0⟩, ⟨"REVERSE", 26, 26, .roh, 0⟩]⟩,
  ⟨"THY_PHASE", 0x20, 64, 1, 0, .mgmt, [⟨"CYCLE", 63, 32, .roh, 0⟩, ⟨"COUNT", 31, 0, .roh, 0⟩]⟩,
  ⟨"THY_FINE", 0x28, 32, 1, 0, .mgmt, [⟨"FRAC", 31, 0, .roh, 0⟩]⟩,
  ⟨"THY_VELOCITY", 0x30, 64, 1, 0, .mgmt, [⟨"V", 63, 0, .roh, 0⟩]⟩,
  ⟨"THY_Z_ERR", 0x38, 32, 1, 0, .mgmt, [⟨"CORR", 31, 0, .roh, 0⟩]⟩]

/-- Thyme: R280-R288, R304. -/
def thyRegs1 : List RegSpec := [
  ⟨"THY_COUNT", 0x40, 32, 5, 4, .mgmt, [⟨"COUNT", 31, 0, .roh, 0⟩]⟩,
  ⟨"THY_EVT_INDEX", 0x100, 32, 1, 0, .mgmt, [⟨"INDEX", 11, 0, .rw, 0⟩]⟩,
  ⟨"THY_EVT_COMMIT", 0x104, 32, 1, 0, .mgmt, [⟨"COMMIT", 0, 0, .wo, 0⟩]⟩,
  ⟨"THY_EVT_FREE", 0x108, 32, 1, 0, .mgmt, [⟨"FREE", 12, 0, .roh, 4096⟩]⟩,
  ⟨"THY_EVT_DATA", 0x120, 32, 8, 4, .mgmt, [⟨"DATA", 31, 0, .rw, 0⟩]⟩]

/-- Thyme: R280-R288, R304. All of the page. -/
def thyRegs : List RegSpec := thyRegs0 ++ thyRegs1

/-- Sage: R333-R361. -/
def sgeRegs0 : List RegSpec := [
  ⟨"SGE_STATUS", 0x0, 32, 1, 0, .mgmt, [⟨"STATE", 31, 28, .roh, 0⟩, ⟨"TAI_SEEN", 27, 27, .roh, 0⟩, ⟨"DEBUG_OPEN", 26, 26, .roh, 0⟩, ⟨"CONSENTS", 4, 0, .roh, 0⟩]⟩,
  ⟨"SGE_SERIAL", 0x8, 64, 1, 0, .mgmt, [⟨"SERIAL", 63, 0, .ro, 0⟩]⟩,
  ⟨"SGE_LEASE_CLOCK", 0x10, 64, 1, 0, .mgmt, [⟨"SECONDS", 63, 0, .roh, 0⟩]⟩,
  ⟨"SGE_BOOT_COUNT", 0x18, 32, 1, 0, .mgmt, [⟨"COUNT", 31, 0, .roh, 0⟩]⟩,
  ⟨"SGE_CONSENT_CTRL", 0x20, 32, 1, 0, .mgmt, [⟨"SUBMIT", 31, 31, .wo, 0⟩, ⟨"REVOKE", 30, 30, .wo, 0⟩, ⟨"NEW_NONCE", 29, 29, .wo, 0⟩, ⟨"INDEX", 3, 0, .rw, 0⟩]⟩,
  ⟨"SGE_CONSENT_RESULT", 0x24, 32, 1, 0, .mgmt, [⟨"CODE", 31, 24, .roh, 0⟩, ⟨"ACTIVE", 15, 0, .roh, 0⟩]⟩,
  ⟨"SGE_TOKEN_ADDR", 0x28, 64, 1, 0, .mgmt, [⟨"ADDR", 47, 0, .rw, 0⟩]⟩,
  ⟨"SGE_NONCE", 0x40, 32, 8, 4, .mgmt, [⟨"NONCE", 31, 0, .roh, 0⟩]⟩,
  ⟨"SGE_COUNT", 0x80, 32, 5, 4, .mgmt, [⟨"COUNT", 31, 0, .roh, 0⟩]⟩,
  ⟨"SGE_TENANT_CTRL", 0x1000, 32, 16, 128, .mgmt, [⟨"ROTATE", 31, 31, .wo, 0⟩]⟩]

/-- Sage: R333-R361. -/
def sgeRegs1 : List RegSpec := [
  ⟨"SGE_TENANT_STATUS", 0x1004, 32, 16, 128, .mgmt, [⟨"ROTATING", 31, 31, .roh, 0⟩, ⟨"EPOCH", 30, 30, .roh, 0⟩, ⟨"REFUSE", 29, 24, .roh, 0⟩]⟩,
  ⟨"SGE_TENANT_OLD_REGIONS", 0x1008, 32, 16, 128, .mgmt, [⟨"COUNT", 31, 0, .roh, 0⟩]⟩,
  ⟨"SGE_TENANT_OLD_READS", 0x100c, 32, 16, 128, .mgmt, [⟨"COUNT", 31, 0, .roh, 0⟩]⟩,
  ⟨"SGE_TENANT_ROTATIONS", 0x1010, 32, 16, 128, .mgmt, [⟨"COUNT", 31, 0, .roh, 0⟩]⟩,
  ⟨"SGE_TENANT_CONSENT_KEY", 0x1020, 384, 16, 128, .mgmt, [⟨"DIGEST", 383, 0, .rw, 0⟩]⟩,
  ⟨"SGE_CRATE", 0x3000, 288, 16, 64, .mgmt, [⟨"VALID", 256, 256, .roh, 0⟩, ⟨"ISSUED", 255, 192, .roh, 0⟩, ⟨"LEASE_END", 191, 128, .roh, 0⟩, ⟨"CRATE_ID", 127, 0, .roh, 0⟩]⟩,
  ⟨"SGE_BROKER", 0x4000, 384, 8, 64, .mgmt, [⟨"DIGEST", 383, 0, .rwp, 0⟩]⟩]

/-- Sage: R333-R361. All of the page. -/
def sgeRegs : List RegSpec := sgeRegs0 ++ sgeRegs1

/-- Lovage: R235-R239, R248. -/
def lovRegs0 : List RegSpec := [
  ⟨"LOV_CTRL", 0x0, 32, 1, 0, .mgmt, [⟨"EN", 0, 0, .rw, 0⟩]⟩,
  ⟨"LOV_STATUS", 0x4, 32, 1, 0, .mgmt, [⟨"IN_FLIGHT", 3, 0, .roh, 0⟩]⟩,
  ⟨"LOV_NODE_BASE", 0x100, 64, 16, 128, .mgmt, [⟨"ADDR", 47, 0, .rw, 0⟩]⟩,
  ⟨"LOV_NODE_COUNT", 0x108, 32, 16, 128, .mgmt, [⟨"COUNT", 31, 0, .rw, 0⟩]⟩,
  ⟨"LOV_BUCKET_BITS", 0x10c, 32, 16, 128, .mgmt, [⟨"BITS", 31, 0, .rw, 0⟩]⟩,
  ⟨"LOV_BUCKET_BASE", 0x110, 64, 16, 128, .mgmt, [⟨"ADDR", 47, 0, .rw, 0⟩]⟩,
  ⟨"LOV_VEC_BASE", 0x118, 64, 16, 128, .mgmt, [⟨"ADDR", 47, 0, .rw, 0⟩]⟩,
  ⟨"LOV_VEC_BYTES", 0x120, 32, 16, 128, .mgmt, [⟨"BYTES", 31, 0, .rw, 0⟩]⟩,
  ⟨"LOV_LOW_WM", 0x124, 32, 16, 128, .mgmt, [⟨"COUNT", 31, 0, .rw, 0⟩]⟩,
  ⟨"LOV_HIGH_WM", 0x128, 32, 16, 128, .mgmt, [⟨"COUNT", 31, 0, .rw, 0⟩]⟩]

/-- Lovage: R235-R239, R248. -/
def lovRegs1 : List RegSpec := [
  ⟨"LOV_FREE", 0x12c, 32, 16, 128, .mgmt, [⟨"COUNT", 31, 0, .roh, 0⟩]⟩,
  ⟨"LOV_HITS", 0x130, 32, 16, 128, .mgmt, [⟨"COUNT", 31, 0, .roh, 0⟩]⟩,
  ⟨"LOV_LOOKUPS", 0x134, 32, 16, 128, .mgmt, [⟨"COUNT", 31, 0, .roh, 0⟩]⟩,
  ⟨"LOV_COLLISIONS", 0x138, 32, 16, 128, .mgmt, [⟨"COUNT", 31, 0, .roh, 0⟩]⟩,
  ⟨"LOV_INSERTED", 0x13c, 32, 16, 128, .mgmt, [⟨"COUNT", 31, 0, .roh, 0⟩]⟩,
  ⟨"LOV_INSERT_SKIPPED", 0x140, 32, 16, 128, .mgmt, [⟨"COUNT", 31, 0, .roh, 0⟩]⟩,
  ⟨"LOV_RECLAIMED", 0x144, 32, 16, 128, .mgmt, [⟨"COUNT", 31, 0, .roh, 0⟩]⟩]

/-- Lovage: R235-R239, R248. All of the page. -/
def lovRegs : List RegSpec := lovRegs0 ++ lovRegs1

/-- Serving request table: R214-R248. -/
def rqtRegs0 : List RegSpec := [
  ⟨"RQT_CTRL", 0x0, 32, 1, 0, .mgmt, [⟨"IDLE_US", 31, 16, .rwp, 1000⟩, ⟨"EN", 0, 0, .rw, 0⟩]⟩,
  ⟨"RQT_STATUS", 0x4, 32, 1, 0, .mgmt, [⟨"WRITE_REFUSED", 31, 31, .rw1c, 0⟩, ⟨"LANES", 21, 15, .roh, 0⟩, ⟨"LIVE", 14, 0, .roh, 0⟩]⟩,
  ⟨"RQT_MODELS", 0x100, 64, 16, 128, .mgmt, [⟨"ADDR", 47, 0, .rw, 0⟩]⟩,
  ⟨"RQT_MODEL_COUNT", 0x108, 32, 16, 128, .mgmt, [⟨"COUNT", 31, 0, .rw, 0⟩]⟩,
  ⟨"RQT_MAX_ENTRIES", 0x10c, 32, 16, 128, .mgmt, [⟨"COUNT", 31, 0, .rw, 0⟩]⟩,
  ⟨"RQT_HBM_SLOT_BASE", 0x110, 64, 16, 128, .mgmt, [⟨"ADDR", 47, 0, .rw, 0⟩]⟩,
  ⟨"RQT_HBM_SLOT_COUNT", 0x118, 32, 16, 128, .mgmt, [⟨"COUNT", 31, 0, .rw, 0⟩]⟩,
  ⟨"RQT_SLOT_BYTES", 0x11c, 32, 16, 128, .mgmt, [⟨"BYTES", 31, 0, .rw, 0⟩]⟩,
  ⟨"RQT_LP_SLOT_BASE", 0x120, 64, 16, 128, .mgmt, [⟨"ADDR", 47, 0, .rw, 0⟩]⟩,
  ⟨"RQT_LP_SLOT_COUNT", 0x128, 32, 16, 128, .mgmt, [⟨"COUNT", 31, 0, .rw, 0⟩]⟩]

/-- Serving request table: R214-R248. -/
def rqtRegs1 : List RegSpec := [
  ⟨"RQT_LIVE", 0x12c, 32, 16, 128, .mgmt, [⟨"COUNT", 31, 0, .roh, 0⟩]⟩,
  ⟨"RQT_SUBMITS", 0x130, 32, 16, 128, .mgmt, [⟨"COUNT", 31, 0, .roh, 0⟩]⟩,
  ⟨"RQT_REJECTS", 0x134, 32, 16, 128, .mgmt, [⟨"COUNT", 31, 0, .roh, 0⟩]⟩,
  ⟨"RQT_INBOX_FULL", 0x138, 32, 16, 128, .mgmt, [⟨"COUNT", 31, 0, .roh, 0⟩]⟩,
  ⟨"RQT_CANCELLED", 0x13c, 32, 16, 128, .mgmt, [⟨"COUNT", 31, 0, .roh, 0⟩]⟩,
  ⟨"RQT_CANCEL_LATE", 0x140, 32, 16, 128, .mgmt, [⟨"COUNT", 31, 0, .roh, 0⟩]⟩,
  ⟨"RQT_EXPIRED", 0x144, 32, 16, 128, .mgmt, [⟨"COUNT", 31, 0, .roh, 0⟩]⟩,
  ⟨"RQT_DEADLINE_DROPS", 0x148, 32, 16, 128, .mgmt, [⟨"COUNT", 31, 0, .roh, 0⟩]⟩,
  ⟨"RQT_SPEC_OFFS", 0x14c, 32, 16, 128, .mgmt, [⟨"COUNT", 31, 0, .roh, 0⟩]⟩,
  ⟨"RQT_STEP_RETRIES", 0x150, 32, 16, 128, .mgmt, [⟨"COUNT", 31, 0, .roh, 0⟩]⟩]

/-- Serving request table: R214-R248. -/
def rqtRegs2 : List RegSpec := [
  ⟨"RQT_PAUSE_RESIDENT", 0x154, 32, 16, 128, .mgmt, [⟨"COUNT", 31, 0, .roh, 0⟩]⟩]

/-- Serving request table: R214-R248. All of the page. -/
def rqtRegs : List RegSpec := rqtRegs0 ++ rqtRegs1 ++ rqtRegs2

/-- KV page block: R206-R213. -/
def kvpRegs0 : List RegSpec := [
  ⟨"KVP_CTRL", 0x0, 32, 1, 0, .mgmt, [⟨"PF_DEPTH", 15, 8, .rwp, 32⟩, ⟨"SUMM_EN", 2, 2, .rwp, 1⟩, ⟨"PF_EN", 1, 1, .rwp, 1⟩, ⟨"SPILL_EN", 0, 0, .rwp, 1⟩]⟩,
  ⟨"KVP_STATUS", 0x4, 32, 1, 0, .mgmt, [⟨"STATE", 31, 30, .roh, 0⟩, ⟨"SUMM_BUSY", 29, 29, .roh, 0⟩, ⟨"IN_FLIGHT", 15, 0, .roh, 0⟩]⟩,
  ⟨"KVP_DECAY", 0x8, 32, 1, 0, .mgmt, [⟨"DECAY_SHIFT", 4, 0, .rwp, 4⟩]⟩,
  ⟨"KVP_META_BASE", 0x100, 64, 16, 64, .mgmt, [⟨"ADDR", 47, 0, .rw, 0⟩]⟩,
  ⟨"KVP_META_COUNT", 0x108, 32, 16, 64, .mgmt, [⟨"COUNT", 23, 0, .rw, 0⟩]⟩,
  ⟨"KVP_HBM_FREE", 0x10c, 32, 16, 64, .mgmt, [⟨"PAGES", 31, 0, .rw, 0⟩]⟩,
  ⟨"KVP_LP_FREE", 0x110, 32, 16, 64, .mgmt, [⟨"PAGES", 31, 0, .rw, 0⟩]⟩,
  ⟨"KVP_LOW_WM", 0x114, 32, 16, 64, .mgmt, [⟨"PAGES", 31, 0, .rw, 0⟩]⟩,
  ⟨"KVP_HIGH_WM", 0x118, 32, 16, 64, .mgmt, [⟨"PAGES", 31, 0, .rw, 0⟩]⟩,
  ⟨"KVP_SPILLS", 0x11c, 32, 16, 64, .mgmt, [⟨"COUNT", 31, 0, .roh, 0⟩]⟩]

/-- KV page block: R206-R213. -/
def kvpRegs1 : List RegSpec := [
  ⟨"KVP_FETCHES", 0x120, 32, 16, 64, .mgmt, [⟨"COUNT", 31, 0, .roh, 0⟩]⟩,
  ⟨"KVP_LATE_READS", 0x124, 32, 16, 64, .mgmt, [⟨"COUNT", 31, 0, .roh, 0⟩]⟩,
  ⟨"KVP_EVICTIONS", 0x128, 32, 16, 64, .mgmt, [⟨"COUNT", 31, 0, .roh, 0⟩]⟩,
  ⟨"KVP_SUMMARIES", 0x12c, 32, 16, 64, .mgmt, [⟨"COUNT", 31, 0, .roh, 0⟩]⟩,
  ⟨"KVP_SPILL_STARVED", 0x130, 32, 16, 64, .mgmt, [⟨"COUNT", 31, 0, .roh, 0⟩]⟩]

/-- KV page block: R206-R213. All of the page. -/
def kvpRegs : List RegSpec := kvpRegs0 ++ kvpRegs1

/-- Sorrel page 0x0D: R386-R397, R408. -/
def srlARegs0 : List RegSpec := [
  ⟨"SRL_CTRL", 0x0, 32, 1, 0, .mgmt, [⟨"FAULT_HOLD", 0, 0, .rw, 0⟩]⟩,
  ⟨"SRL_QUIET", 0x4, 32, 1, 0, .mgmt, [⟨"QUIET_S", 31, 0, .rwp, 10⟩]⟩,
  ⟨"SRL_THRESH", 0x8, 32, 1, 0, .mgmt, [⟨"C_STORM", 31, 0, .rwp, 10000⟩]⟩,
  ⟨"SRL_STATE", 0xc, 32, 1, 0, .mgmt, [⟨"PULSE", 4, 4, .roh, 0⟩, ⟨"DEGRADED", 2, 0, .roh, 0⟩]⟩,
  ⟨"SRL_WDOG", 0x10, 32, 1, 0, .mgmt, [⟨"KICK", 1, 0, .wo, 0⟩]⟩,
  ⟨"SRL_STORE_SEQ", 0x14, 32, 1, 0, .mgmt, [⟨"SEQ", 31, 0, .roh, 0⟩]⟩,
  ⟨"SRL_COUNT", 0x20, 32, 6, 4, .mgmt, [⟨"COUNT", 31, 0, .roh, 0⟩]⟩,
  ⟨"SRL_RECOV_A", 0x38, 32, 1, 0, .mgmt, [⟨"RECOV_U", 31, 16, .roh, 0⟩, ⟨"RECOV_C", 15, 0, .roh, 0⟩]⟩,
  ⟨"SRL_RECOV_B", 0x3c, 32, 1, 0, .mgmt, [⟨"RECOV_F", 15, 0, .roh, 0⟩]⟩,
  ⟨"SRL_POISON_READS", 0x40, 32, 1, 0, .mgmt, [⟨"COUNT", 31, 0, .roh, 0⟩]⟩]

/-- Sorrel page 0x0D: R386-R397, R408. -/
def srlARegs1 : List RegSpec := [
  ⟨"SRL_FENCED_ACCESSES", 0x44, 32, 1, 0, .mgmt, [⟨"COUNT", 31, 0, .roh, 0⟩]⟩,
  ⟨"SRL_LINK_RETRIES", 0x60, 32, 8, 4, .mgmt, [⟨"COUNT", 31, 0, .roh, 0⟩]⟩,
  ⟨"SRL_HBM_ODECC", 0x80, 32, 8, 4, .mgmt, [⟨"COUNT", 31, 0, .roh, 0⟩]⟩,
  ⟨"SRL_NAND_WRITTEN", 0xa0, 64, 1, 0, .mgmt, [⟨"BYTES", 63, 0, .roh, 0⟩]⟩]

/-- Sorrel page 0x0D: R386-R397, R408. All of the page. -/
def srlARegs : List RegSpec := srlARegs0 ++ srlARegs1

/-- Sorrel page 0x0E: the three first-error slots and their acknowledgement (R383, R386). -/
def srlBRegs : List RegSpec := [
  ⟨"SRL_FE", 0x0, 512, 3, 64, .mgmt, [⟨"RECORD", 511, 0, .roh, 0⟩]⟩,
  ⟨"SRL_ACK", 0xc0, 32, 1, 0, .mgmt, [⟨"HELD", 2, 0, .rw1c, 0⟩]⟩]

/-- Dill: R399-R408. -/
def dilRegs0 : List RegSpec := [
  ⟨"DIL_CTRL", 0x0, 32, 1, 0, .mgmt, [⟨"EN", 31, 31, .rwp, 1⟩, ⟨"RING_ACCEPT", 30, 30, .rwp, 1⟩, ⟨"RING_SEND", 29, 29, .rwp, 0⟩, ⟨"FAULT_MASK", 2, 0, .rwp, 6⟩]⟩,
  ⟨"DIL_TIMER", 0x4, 32, 1, 0, .mgmt, [⟨"PERIOD_MS", 31, 0, .rwp, 0⟩]⟩,
  ⟨"DIL_TRIGGER", 0x8, 32, 1, 0, .mgmt, [⟨"TAG", 15, 0, .wo, 0⟩]⟩,
  ⟨"DIL_STATUS", 0xc, 32, 1, 0, .mgmt, [⟨"BUSY", 31, 31, .roh, 0⟩, ⟨"NEWEST", 1, 0, .roh, 0⟩]⟩,
  ⟨"DIL_SEQ", 0x10, 64, 1, 0, .mgmt, [⟨"SNAP_SEQ", 63, 0, .roh, 0⟩]⟩,
  ⟨"DIL_COUNT", 0x20, 32, 3, 4, .mgmt, [⟨"COUNT", 31, 0, .roh, 0⟩]⟩,
  ⟨"DIL_CKPT_BASE", 0x40, 64, 1, 0, .mgmt, [⟨"OFFSET", 47, 0, .rw, 0⟩]⟩,
  ⟨"DIL_CKPT_BYTES", 0x48, 32, 1, 0, .mgmt, [⟨"BYTES", 31, 0, .rw, 0⟩]⟩,
  ⟨"DIL_CKPT_OBJ", 0x4c, 32, 1, 0, .mgmt, [⟨"OBJ", 17, 0, .rw, 0⟩]⟩,
  ⟨"DIL_REGION_CTRL", 0x100, 32, 16, 16, .mgmt, [⟨"EN", 31, 31, .rw, 0⟩, ⟨"PIPELINE", 2, 0, .rw, 0⟩]⟩]

/-- Dill: R399-R408. -/
def dilRegs1 : List RegSpec := [
  ⟨"DIL_REGION_OFF", 0x104, 64, 16, 16, .mgmt, [⟨"DEV_OFF", 47, 0, .rw, 0⟩]⟩,
  ⟨"DIL_REGION_LEN", 0x10c, 32, 16, 16, .mgmt, [⟨"LENGTH", 31, 0, .rw, 0⟩]⟩,
  ⟨"DIL_LAST_STEP", 0x200, 64, 8, 32, .mgmt, [⟨"LAST_STEP", 63, 0, .roh, 0⟩]⟩,
  ⟨"DIL_LAST_TIME", 0x208, 64, 8, 32, .mgmt, [⟨"LAST_TIME", 63, 0, .roh, 0⟩]⟩,
  ⟨"DIL_PERIOD_NS", 0x210, 32, 8, 32, .mgmt, [⟨"PERIOD_NS", 31, 0, .roh, 0⟩]⟩,
  ⟨"DIL_RESUME_STEP", 0x218, 64, 8, 32, .mgmt, [⟨"RESUME_STEP", 63, 0, .rw, 0⟩]⟩]

/-- Dill: R399-R408. All of the page. -/
def dilRegs : List RegSpec := dilRegs0 ++ dilRegs1

/-- Power governor: R410-R419, R423. -/
def pwrRegs : List RegSpec := [
  ⟨"PWR_CAP", 0x0, 32, 1, 0, .mgmt, [⟨"CAP_W", 10, 0, .rwp, 1600⟩]⟩,
  ⟨"PWR_MARGIN", 0x4, 32, 1, 0, .mgmt, [⟨"TREND_PCT", 15, 8, .rwp, 125⟩, ⟨"MARGIN", 7, 0, .rwp, 5⟩]⟩,
  ⟨"PWR_STATUS", 0x8, 32, 1, 0, .mgmt, [⟨"CLAMP", 31, 31, .roh, 0⟩, ⟨"LIMITED", 30, 30, .roh, 0⟩, ⟨"HOLD", 29, 29, .roh, 0⟩, ⟨"TREND", 12, 0, .roh, 0⟩]⟩,
  ⟨"PWR_INPUT", 0xc, 32, 1, 0, .mgmt, [⟨"CENTIVOLTS", 31, 16, .roh, 0⟩, ⟨"WATTS", 15, 0, .roh, 0⟩]⟩,
  ⟨"PWR_FAULT", 0x10, 32, 1, 0, .mgmt, [⟨"CAUSE", 7, 0, .roh, 0⟩]⟩,
  ⟨"PWR_COUNT", 0x20, 32, 7, 4, .mgmt, [⟨"COUNT", 31, 0, .roh, 0⟩]⟩,
  ⟨"PWR_DOM_R", 0x100, 32, 13, 16, .mgmt, [⟨"R_BASE", 31, 16, .rwp, 0⟩, ⟨"R_EST", 15, 0, .roh, 2500⟩]⟩,
  ⟨"PWR_DOM_P", 0x104, 32, 13, 16, .mgmt, [⟨"P_ALLOW", 31, 16, .roh, 0⟩, ⟨"P", 15, 0, .roh, 0⟩]⟩,
  ⟨"PWR_DOM_T", 0x108, 32, 13, 16, .mgmt, [⟨"T", 15, 0, .roh, 0⟩]⟩,
  ⟨"PWR_DOM_THROTTLE", 0x10c, 32, 13, 16, .mgmt, [⟨"THROTTLE", 3, 0, .roh, 0⟩]⟩]

/-- Hub and inlet sensors: R409-R411, R423. -/
def thmRegs : List RegSpec := [
  ⟨"THM_HUB", 0x0, 32, 16, 4, .mgmt, [⟨"T", 15, 0, .roh, 0⟩]⟩,
  ⟨"THM_INLET", 0x40, 32, 2, 4, .mgmt, [⟨"T", 15, 0, .roh, 0⟩]⟩,
  ⟨"THM_COOL", 0x48, 32, 1, 0, .mgmt, [⟨"COOL_OK", 31, 31, .roh, 0⟩, ⟨"STOP", 30, 30, .roh, 0⟩, ⟨"RISING", 8, 0, .roh, 0⟩]⟩,
  ⟨"THM_EXCLUDED", 0x50, 32, 1, 0, .mgmt, [⟨"COUNT", 31, 0, .roh, 0⟩]⟩]

/-- Persistent settings: R369-R371, R379. -/
def nvsRegs : List RegSpec := [
  ⟨"NVS_CTRL", 0x0, 32, 1, 0, .mgmt, [⟨"STORE", 31, 31, .wo, 0⟩, ⟨"DISCARD", 30, 30, .wo, 0⟩, ⟨"DEFAULTS", 29, 29, .wo, 0⟩]⟩,
  ⟨"NVS_STATUS", 0x4, 32, 1, 0, .mgmt, [⟨"BUSY", 31, 31, .roh, 0⟩, ⟨"REFUSED", 30, 30, .rw1c, 0⟩, ⟨"FAILED", 29, 29, .rw1c, 0⟩, ⟨"FROM_DEFAULTS", 28, 28, .roh, 0⟩, ⟨"DEFAULTS_PENDING", 27, 27, .roh, 0⟩, ⟨"COPY", 0, 0, .roh, 0⟩]⟩,
  ⟨"NVS_SEQ", 0x8, 32, 1, 0, .mgmt, [⟨"SEQ", 31, 0, .roh, 0⟩]⟩,
  ⟨"NVS_STORES", 0xc, 32, 1, 0, .mgmt, [⟨"COUNT", 31, 0, .roh, 0⟩]⟩,
  ⟨"NVS_START", 0x10, 32, 1, 0, .mgmt, [⟨"LOCK_WAIT_S", 31, 16, .rwp, 10⟩, ⟨"JOIN_WAIT_S", 15, 0, .rwp, 5⟩]⟩,
  ⟨"NVS_SNAP_PERIOD", 0x14, 32, 1, 0, .mgmt, [⟨"SNAP_PERIOD_S", 31, 0, .rwp, 3600⟩]⟩,
  ⟨"NVS_SNAP_COUNT", 0x18, 32, 1, 0, .mgmt, [⟨"COUNT", 31, 0, .roh, 0⟩]⟩]

/-- Firmware update: R372-R379. -/
def updRegs : List RegSpec := [
  ⟨"UPD_STATE", 0x0, 32, 1, 0, .mgmt, [⟨"STATE", 31, 28, .roh, 0⟩, ⟨"ERR", 27, 20, .roh, 0⟩, ⟨"STEP", 19, 16, .roh, 0⟩]⟩,
  ⟨"UPD_CTRL", 0x4, 32, 1, 0, .mgmt, [⟨"ABORT", 1, 1, .wo, 0⟩, ⟨"DISARM", 0, 0, .wo, 0⟩]⟩,
  ⟨"UPD_BANKS", 0x8, 32, 1, 0, .mgmt, [⟨"ACTIVE", 31, 31, .roh, 0⟩, ⟨"CFG_ACTIVE", 16, 16, .roh, 0⟩, ⟨"BANK1_STATE", 15, 8, .roh, 0⟩, ⟨"BANK0_STATE", 7, 0, .roh, 0⟩]⟩,
  ⟨"UPD_TICKET", 0xc, 32, 1, 0, .mgmt, [⟨"TICKET", 31, 0, .roh, 0⟩]⟩,
  ⟨"UPD_AT", 0x10, 64, 1, 0, .mgmt, [⟨"AT", 63, 0, .roh, 0⟩]⟩,
  ⟨"UPD_UNITS", 0x18, 32, 1, 0, .mgmt, [⟨"RECEIVED", 31, 16, .roh, 0⟩, ⟨"TOTAL", 15, 0, .roh, 0⟩]⟩,
  ⟨"UPD_PACKAGE_ID", 0x20, 32, 4, 4, .mgmt, [⟨"ID", 31, 0, .roh, 0⟩]⟩,
  ⟨"UPD_COUNT", 0x40, 32, 6, 4, .mgmt, [⟨"COUNT", 31, 0, .roh, 0⟩]⟩,
  ⟨"UPD_VERSION", 0x100, 32, 7, 4, .mgmt, [⟨"VERSION", 31, 0, .roh, 0⟩]⟩,
  ⟨"UPD_SVN_FLOOR", 0x120, 32, 7, 4, .mgmt, [⟨"FLOOR", 31, 0, .roh, 0⟩]⟩]

/-- Barow ring: R433-R446, R451. -/
def rngRegs : List RegSpec := [
  ⟨"RNG_CTRL", 0x0, 32, 1, 0, .mgmt, [⟨"EN", 31, 31, .rwp, 1⟩, ⟨"TIME_MASTER", 30, 30, .rwp, 0⟩, ⟨"TIME_FROM_RING", 29, 29, .rwp, 1⟩, ⟨"CONTROLLER_NODE", 19, 16, .rwp, 0⟩, ⟨"SEGMENTS", 12, 8, .rwp, 16⟩, ⟨"NODE", 3, 0, .rwp, 15⟩]⟩,
  ⟨"RNG_STATUS", 0x4, 32, 1, 0, .mgmt, [⟨"STATE", 31, 28, .roh, 0⟩, ⟨"RETIMER_LOCK", 27, 27, .roh, 0⟩, ⟨"TIME_LOCK", 26, 26, .roh, 0⟩, ⟨"TAI_VALID", 25, 25, .roh, 0⟩, ⟨"BYPASS_OPEN", 24, 24, .roh, 0⟩, ⟨"UP_NODE", 19, 16, .roh, 0⟩, ⟨"DOWN_NODE", 15, 12, .roh, 0⟩]⟩,
  ⟨"RNG_OFFSET", 0x8, 64, 1, 0, .mgmt, [⟨"NS", 63, 0, .roh, 0⟩]⟩,
  ⟨"RNG_LOOP", 0x10, 32, 1, 0, .mgmt, [⟨"LOOP", 31, 0, .roh, 0⟩]⟩,
  ⟨"RNG_COUNT", 0x20, 32, 9, 4, .mgmt, [⟨"COUNT", 31, 0, .roh, 0⟩]⟩,
  ⟨"RNG_PEER", 0x1000, 384, 16, 64, .mgmt, [⟨"DIGEST", 383, 0, .rwp, 0⟩]⟩]

/-- Codec global page: R259, R260, R279. -/
def vidRegs : List RegSpec := [
  ⟨"VID_CTRL", 0x0, 32, 1, 0, .mgmt, [⟨"EN", 0, 0, .rw, 0⟩]⟩,
  ⟨"VID_STATUS", 0x4, 32, 1, 0, .mgmt, [⟨"ENC_BUSY", 9, 8, .roh, 0⟩, ⟨"PRE_BUSY", 7, 4, .roh, 0⟩, ⟨"DEC_BUSY", 3, 0, .roh, 0⟩]⟩,
  ⟨"VID_LOAD_DEC", 0x10, 32, 1, 0, .mgmt, [⟨"LOAD", 31, 0, .roh, 0⟩]⟩,
  ⟨"VID_LOAD_PRE", 0x14, 32, 1, 0, .mgmt, [⟨"LOAD", 31, 0, .roh, 0⟩]⟩,
  ⟨"VID_LOAD_ENC", 0x18, 32, 1, 0, .mgmt, [⟨"LOAD", 31, 0, .roh, 0⟩]⟩,
  ⟨"VID_PRIO", 0x1c, 32, 1, 0, .mgmt, [⟨"COUNT", 3, 0, .roh, 0⟩]⟩]

/-- Decode context block: R256-R264, R279. -/
def vdecRegs : List RegSpec := [
  ⟨"VDEC_CTRL", 0x0, 32, 1, 0, .mgmt, [⟨"CLOSE", 1, 1, .wo, 0⟩, ⟨"OPEN", 0, 0, .wo, 0⟩]⟩,
  ⟨"VDEC_STATUS", 0x4, 32, 1, 0, .mgmt, [⟨"STATE", 31, 28, .roh, 0⟩, ⟨"ERR", 27, 20, .roh, 0⟩]⟩,
  ⟨"VDEC_OPEN_ERR", 0x8, 32, 1, 0, .mgmt, [⟨"CODE", 7, 0, .roh, 0⟩]⟩,
  ⟨"VDEC_COUNT", 0x10, 32, 15, 4, .mgmt, [⟨"COUNT", 31, 0, .roh, 0⟩]⟩,
  ⟨"VDEC_LAST_ARRIVAL", 0x50, 64, 1, 0, .mgmt, [⟨"TIME", 63, 0, .roh, 0⟩]⟩,
  ⟨"VDEC_CLOCK_OFFSET", 0x58, 64, 1, 0, .mgmt, [⟨"OFFSET", 63, 0, .roh, 0⟩]⟩,
  ⟨"VDEC_DESC", 0x100, 32, 32, 4, .mgmt, [⟨"DESC", 31, 0, .rw, 0⟩]⟩]

/-- Encode context block: R275-R278, R279. -/
def vencRegs : List RegSpec := [
  ⟨"VENC_CTRL", 0x0, 32, 1, 0, .mgmt, [⟨"CLOSE", 1, 1, .wo, 0⟩, ⟨"OPEN", 0, 0, .wo, 0⟩]⟩,
  ⟨"VENC_STATUS", 0x4, 32, 1, 0, .mgmt, [⟨"STATE", 31, 28, .roh, 0⟩, ⟨"ERR", 27, 20, .roh, 0⟩]⟩,
  ⟨"VENC_OPEN_ERR", 0x8, 32, 1, 0, .mgmt, [⟨"CODE", 7, 0, .roh, 0⟩]⟩,
  ⟨"VENC_COUNT", 0x10, 32, 5, 4, .mgmt, [⟨"COUNT", 31, 0, .roh, 0⟩]⟩,
  ⟨"VENC_CPB_FILL", 0x24, 32, 1, 0, .mgmt, [⟨"BITS", 31, 0, .roh, 0⟩]⟩,
  ⟨"VENC_BITS", 0x28, 64, 1, 0, .mgmt, [⟨"COUNT", 63, 0, .roh, 0⟩]⟩,
  ⟨"VENC_EXTENTS", 0x30, 32, 1, 0, .mgmt, [⟨"COUNT", 31, 0, .roh, 0⟩]⟩,
  ⟨"VENC_DESC", 0x100, 32, 32, 4, .mgmt, [⟨"DESC", 31, 0, .rw, 0⟩]⟩]

/-- Function registers of a tenant (BAR0): R316, R317, R321, R332. -/
def fnRegs0 : List RegSpec := [
  ⟨"FN_STATUS", 0x0, 32, 1, 0, .bar0, [⟨"STATE", 31, 28, .ro, 0⟩, ⟨"READY", 27, 27, .ro, 0⟩, ⟨"TENANT", 23, 20, .ro, 0⟩]⟩,
  ⟨"FN_DEV_BYTES", 0x8, 64, 1, 0, .bar0, [⟨"BYTES", 63, 0, .ro, 0⟩]⟩,
  ⟨"FN_INFLIGHT", 0x10, 32, 1, 0, .bar0, [⟨"COUNT", 8, 0, .roh, 0⟩]⟩,
  ⟨"FN_CQ_LOST", 0x14, 32, 1, 0, .bar0, [⟨"COUNT", 31, 0, .roh, 0⟩]⟩,
  ⟨"FN_ATTN", 0x20, 32, 1, 0, .bar0, [⟨"SCRUB_DONE", 4, 4, .rw1c, 0⟩, ⟨"QUEUE_ERR", 3, 3, .rw1c, 0⟩, ⟨"FAULT", 2, 2, .rw1c, 0⟩, ⟨"BARRIER", 1, 1, .rw1c, 0⟩, ⟨"AC_MSG", 0, 0, .rw1c, 0⟩]⟩,
  ⟨"FN_ATTN_VEC", 0x24, 32, 1, 0, .bar0, [⟨"VECTOR", 5, 0, .rw, 0⟩]⟩,
  ⟨"FN_SQ_BASE", 0x100, 64, 64, 32, .bar0, [⟨"ADDR", 63, 0, .rw, 0⟩]⟩,
  ⟨"FN_SQ_SIZE", 0x108, 32, 64, 32, .bar0, [⟨"ENTRIES", 12, 0, .rw, 0⟩]⟩,
  ⟨"FN_SQ_CTRL", 0x10c, 32, 64, 32, .bar0, [⟨"EN", 31, 31, .rw, 0⟩, ⟨"CQ", 21, 16, .rw, 0⟩]⟩,
  ⟨"FN_SQ_STATUS", 0x110, 32, 64, 32, .bar0, [⟨"STATE", 31, 28, .roh, 0⟩, ⟨"HEAD", 15, 0, .roh, 0⟩]⟩]

/-- Function registers of a tenant (BAR0): R316, R317, R321, R332. -/
def fnRegs1 : List RegSpec := [
  ⟨"FN_CQ_BASE", 0x900, 64, 64, 32, .bar0, [⟨"ADDR", 63, 0, .rw, 0⟩]⟩,
  ⟨"FN_CQ_SIZE", 0x908, 32, 64, 32, .bar0, [⟨"ENTRIES", 12, 0, .rw, 0⟩]⟩,
  ⟨"FN_CQ_CTRL", 0x90c, 32, 64, 32, .bar0, [⟨"EN", 31, 31, .rw, 0⟩, ⟨"IRQ_EN", 30, 30, .rw, 0⟩, ⟨"VECTOR", 5, 0, .rw, 0⟩]⟩,
  ⟨"FN_CQ_SHADOW", 0x910, 64, 64, 32, .bar0, [⟨"ADDR", 63, 0, .rw, 0⟩]⟩,
  ⟨"FN_CQ_STATUS", 0x918, 32, 64, 32, .bar0, [⟨"STATE", 31, 28, .roh, 0⟩]⟩,
  ⟨"FN_SQ_TAIL", 0x2000, 32, 64, 8, .bar0, [⟨"TAIL", 11, 0, .wo, 0⟩]⟩,
  ⟨"FN_CQ_HEAD", 0x2004, 32, 64, 8, .bar0, [⟨"HEAD", 11, 0, .wo, 0⟩]⟩,
  ⟨"FN_MSIX_TABLE", 0x4000, 32, 256, 4, .bar0, [⟨"ENTRY", 31, 0, .rw, 0⟩]⟩,
  ⟨"FN_MSIX_PBA", 0x5000, 64, 1, 0, .bar0, [⟨"PBA", 63, 0, .ro, 0⟩]⟩]

/-- Function registers of a tenant (BAR0): R316, R317, R321, R332. All of the page. -/
def fnRegs : List RegSpec := fnRegs0 ++ fnRegs1

/-- The registers of a block. -/
def blkRegs : Blk → List RegSpec
  | .tc => tcRegs
  | .ac => acRegs
  | .cl => clRegs
  | .sync => syncRegs
  | .dieBar => dieBarRegs
  | .dieThm => dieThmRegs
  | .dieHbm => dieHbmRegs
  | .dieLink => dieLinkRegs
  | .diePwr => diePwrRegs
  | .mod => modRegs
  | .hub => hubRegs
  | .pci => pciRegs
  | .fpt => fptRegs
  | .bar => barRegs
  | .thy => thyRegs
  | .sge => sgeRegs
  | .lov => lovRegs
  | .rqt => rqtRegs
  | .kvp => kvpRegs
  | .srlA => srlARegs
  | .srlB => srlBRegs
  | .dil => dilRegs
  | .pwr => pwrRegs
  | .thm => thmRegs
  | .nvs => nvsRegs
  | .upd => updRegs
  | .rng => rngRegs
  | .vid => vidRegs
  | .vdec => vdecRegs
  | .venc => vencRegs
  | .fn => fnRegs

end Sys2Proof.Machine
end

