-- ==== Sys2Proof/Machine/State.lean ====
section
/-!
DEFINITION. The state of the module as plain data: one structure per block, every field with its value after reset, the
queue of waiting commands, and the fault and refusal names. Registers that have no life of their own lie in `regs`, keyed
by module physical address (a tenant function's BAR0 at 2^48 + tenant × 2^16); an address with no entry holds the reset
value that `Machine/RegTable.lean` gives it.
-/
namespace Sys2Proof.Machine

/-- A sparse table: pairs of a key and a value with strictly rising keys and no entry equal to the table's default
(`tabGet` and `tabSet` of `Machine/Ops.lean` keep that form). -/
abbrev Tab (α : Type) := List (Nat × α)

/-- An error presented to Sorrel (R381–R384, R391): its source, access type, initiator ID, address space and address,
detail, and the UNIT code of the unit that detected it (0xFFFF where R391 fences none). -/
structure ErrEv where
  source : Nat
  access : Nat
  initiator : Nat
  space : Nat
  addr : Nat
  detail : Nat
  detUnit : Nat
  deriving DecidableEq, Repr

/-- The answer the last command gave its sender: nothing, a completion with data, an error status (R7, R10), an
Unsupported Request (R314), or a refusal with a code. -/
inductive Resp where
  | none
  | ok (value : Nat)
  | bytes (data : List Byte)
  | err
  | unsupported
  | refusedCode (code : Nat)
  deriving DecidableEq, Repr

/-- What the protection code knows of one 32-byte word (R33–R36): symbols in error, the poison mark, a scheduled
write-back of the corrected word, a pending targeted scrub. -/
structure WordStat where
  sym : Nat := 0
  poison : Bool := false
  writeback : Bool := false
  scrub : Bool := false
  deriving DecidableEq, Repr

/-- Patrol scrub of one tier (R34, R40): the module cycle of the next period's start, the next word of the pass, whether a
pass is running. -/
structure Patrol where
  nextStart : Nat := 0
  cursor : Nat := 0
  running : Bool := false
  deriving DecidableEq, Repr

/-- State of a 2 MiB region (R313). -/
inductive RegionState where
  | dirty | free | assigned | scrubbing
  deriving DecidableEq, Repr

/-- An entry of the region table (R313), with the sweep pointer of R344 (bytes of the region already re-encrypted) and the
weight-region mark, coded-slot mask, the slots whose coded block has failed its check (R71), and ELEM_BYTES of R356. -/
structure Region where
  state : RegionState := .dirty
  owner : Nat := 0x1F
  epoch : Nat := 0
  index : Nat := 0
  sweep : Nat := 0
  weight : Bool := false
  coded : Nat := 0
  failed : Nat := 0
  elem : Nat := 1
  deriving DecidableEq, Repr

/-- Memory (R9, R26, R29): mapped memory, protection-code status per 32-byte word (keyed by address div 32), the NAND
blocks (keyed by block × 4096 + byte), the list of poisoned NAND blocks (R26), host memory reached through the ports
(keyed by port × 2^64 + host address), stacks whose first access since their fence is recorded (R25), the patrol passes
of SRAM, HBM and LPDDR5X, and the region table (R313). -/
structure MemState where
  cells : List Host.Cell := []
  ecc : Tab WordStat := []
  nand : List Host.Cell := []
  nandBad : List Nat := []
  host : List Host.Cell := []
  fenceSeen : List Nat := []
  patrolSram : Patrol := {}
  patrolHbm : Patrol := {}
  patrolLp : Patrol := {}
  regions : Tab Region := []
  deriving DecidableEq, Repr

/-- A launch record in a slot's queue (R78): its 32 bytes, its source (0 management, 1 work distributor, 2 and 3 application
cores, R79), for the distributor's records the job and tile they belong to, and the cycle of its push. -/
structure LaunchRec where
  data : List Byte
  source : Nat
  job : Nat := 0
  tile : Nat := 0
  pushed : Nat := 0
  deriving DecidableEq, Repr

/-- The kernel that a slot runs (R80, R105): its launch record, the cycle it started, commands completed, the flag union,
the sticky chunks, the first error (code, tag, opcode), whether an abort is in progress, whether its code is being
fetched. -/
structure Kernel where
  launch : LaunchRec
  start : Nat := 0
  commands : Nat := 0
  flags : Nat := 0
  sticky : Nat := 0
  err : Option (Nat × Nat × Nat) := none
  aborting : Bool := false
  fetching : Bool := false
  deriving DecidableEq, Repr

/-- Progress of a command that has been issued (R75, R131): waiting in its queues, waiting for its header wait, waiting for
its halo's post, copying halo rows from the mailbox or from the source, stalling the sequencer on a SYNC wait, or executed and about to
complete. -/
inductive CmdStage where
  | queued
  | headerWait
  | haloWait
  | haloMail
  | haloAlt (late : Bool)
  | syncWait
  | executed
  deriving DecidableEq, Repr

/-- A command in the issue queues (R75–R77, R87): its number, its descriptor words, its copy of the walk descriptor (R111),
the queues it holds (bit 0 ME, 1 VE0, 2 VE1, 3 DMA), its stage, the cycle it started, and once executed the flags it
raised, its sticky chunks, its error code and the memory it wrote; NAND blocks whose decode fails for it (R26). -/
structure Cmd where
  num : Nat
  words : List Nat
  walk : List Byte := []
  queues : Nat
  stage : CmdStage := .queued
  since : Nat := 0
  flags : Nat := 0
  sticky : Nat := 0
  err : Nat := 0
  dst : List (Nat × Nat) := []
  bad : List Nat := []
  deriving DecidableEq, Repr

/-- A tile core: its launch queue, kernel, issued commands in order of issue, the header-only command the sequencer stalls
on, the number of the next command, the code store, the scalar data store and scalar registers, the cycle from which TC_CYCLES counts beyond the stored count, the
cycle of the last exception with the flags raised in it (R74). -/
structure TileState where
  queue : List LaunchRec := []
  kernel : Option Kernel := none
  cmds : List Cmd := []
  stall : Option Cmd := none
  nextNum : Nat := 0
  code : List Byte := []
  codeOf : List Byte := []
  data : List Byte := []
  sregs : List Nat := []
  awake : Nat := 0
  flagSet : Nat × Nat := (0, 0)
  deriving DecidableEq, Repr

/-- A section kept in an image's run (R82, R85): type, offset in the run, size. -/
structure Section where
  typ : Nat
  off : Nat
  size : Nat
  deriving DecidableEq, Repr

/-- The layout that the header of a type-9 section gives (R151): offsets from the section start, sizes, entries. -/
structure AcLayout where
  entries : Nat
  text : Nat
  textSize : Nat
  rodata : Nat
  rodataSize : Nat
  table : Nat
  deriving DecidableEq, Repr

/-- A loaded image (R81–R85): handle, tenant, the run it holds in the image area of each cluster of the partition, its
resident sections, the layout of its type-9 section, and the header fields the module uses after loading. -/
structure Image where
  handle : Nat
  tenant : Nat
  run : Nat
  runLen : Nat
  sections : List Section
  ac : Option AcLayout := none
  entryCount : Nat
  treeCount : Nat
  features : Nat
  clusterBytes : Nat
  shape : Nat
  slots : Nat
  digest : List Byte
  weightDigest : List Byte
  deriving DecidableEq, Repr

/-- A 64-byte line held by an application core's caches (R137, R141). -/
structure CacheLine where
  addr : Nat
  data : List Byte
  dirty : Bool
  deriving DecidableEq, Repr

/-- An application core (R137–R150): its cached lines, oldest first; the privilege mode, pc, x, f and v registers (512 bits
each) and CSRs of its hart, stimecmp; whether a RESET is in progress, whether the hart halted itself, the cycle in which the
core entered RUN, and its wait slots' last results: slot, cycle of the resolution, WAIT_DONE before it (R156). -/
structure AcState where
  lines : List CacheLine := []
  mode : Priv := .machine
  pc : Nat := 0
  x : Tab Nat := []
  f : Tab Nat := []
  v : Tab Nat := []
  csr : Tab Nat := []
  stimecmp : Nat := 0xFFFFFFFFFFFFFFFF
  resetting : Bool := false
  selfHalted : Bool := false
  runFrom : Nat := 0
  resolved : List (Nat × Nat × Bool) := []
  deriving DecidableEq, Repr

/-- Who waits on a sync object (R156): a command's header wait, the sequencer's NOP or SYNC wait, the halo step of a CONV,
a wait slot of an application core. -/
inductive WaitWho where
  | cmd (core num : Nat)
  | sq (core : Nat)
  | halo (core num : Nat)
  | ac (core slot : Nat)
  deriving DecidableEq, Repr

/-- A wait (R155, R156): its unit, object, threshold, and deadline cycle; before registration `timeout` counts from the
registration cycle. -/
structure Waiter where
  who : WaitWho
  obj : Nat
  thr : Nat
  deadline : Option Nat := none
  timeout : Option Nat := none
  deriving DecidableEq, Repr

/-- A signal or a set on its way to its object's sync block (R153, R154): object, increment or value, the initiator, whether it
is the set operation, and for a signal of Thyme the index of its entry (R292). -/
structure Signal where
  obj : Nat
  inc : Nat
  ini : Nat
  set : Bool := false
  idx : Nat := 0
  deriving DecidableEq, Repr

/-- Sync objects (keyed by their 18-bit index, R88), signals and waits on their way to a sync block, waiter tables
(R152–R158), the objects that have committed in cycle `commitCycle` with the port of each, and the operations that have reached
a block and wait for their turn, with the cycle in which they reached it (R154). -/
structure SyncState where
  vals : Tab Nat := []
  commitCycle : Nat := 0
  committed : List (Nat × Nat) := []
  reached : List (Nat × Signal) := []
  inflight : List Signal := []
  arriving : List Waiter := []
  waiters : List Waiter := []
  deriving DecidableEq, Repr

/-- A barrier context beside its registers (R160–R164). `done` lists (n, cycle): all clusters of the set had arrived for
generations up to n by that cycle; `first` lists the same for the first cluster to arrive. `reports` holds the (generation,
node) reports that the ring master has received, `reported` the last generation that this module reported, `ringAt` the
release time of the pending ring generation, `lastRelease` the cycle of the last release. -/
structure BarrierCtx where
  done : List (Nat × Nat) := []
  first : List (Nat × Nat) := []
  reports : List (Nat × Nat) := []
  reported : Nat := 0
  ringAt : Option Nat := none
  lastRelease : Option Nat := none
  deriving DecidableEq, Repr

/-- A job (R166–R171): its number, stamp, home cluster (8 × die + cluster), submitting window and tenant, the 64 bytes of its
record, tiles pushed by the static rule per cluster × 8 + slot, the next unclaimed tile under BAL_EN, claimed tiles not yet
pushed as (cluster, tile), tiles pushed, ended and ended with RESULT 0, whether a tile failed, the first failing tile with
its result word, the cycle of the submission, whether a wait of the job timed out, whether a class U or F error came from its
clusters (R181). -/
structure Job where
  num : Nat
  stamp : Nat
  home : Nat
  window : Nat
  tenant : Nat
  data : List Byte
  snext : Tab Nat := []
  next : Nat := 0
  claimed : List (Nat × Nat) := []
  pushed : Nat := 0
  ended : Nat := 0
  ok : Nat := 0
  failed : Bool := false
  firstErr : Option (Nat × Nat) := none
  submitted : Nat := 0
  timeout : Bool := false
  fault : Bool := false
  deriving DecidableEq, Repr

/-- Work distribution (R166–R171): accepted jobs in order of acceptance, the number of the next job, per cluster the claim on
CL_JOB_MGMT (claiming initiator, cycle of the claim), and the result records of ended jobs that came from the hub's
admission path, by job number. -/
structure JobState where
  jobs : List Job := []
  nextNum : Nat := 1
  claims : Tab (Option (Nat × Nat)) := []
  results : Tab (List Byte) := []
  deriving DecidableEq, Repr

/-- A replay (R184): the pipeline and the last step, the module addresses of the segments with the place of the next record and
the place behind the marker last compared, the MODULE_TIME of the record last taken, the phase last reported by
a record (cycle, count, FRAC), the first step that differed. -/
structure Replay where
  pipeline : Nat
  last : Nat
  segs : List Nat
  seg : Nat
  pos : Nat
  time : Nat := 0
  markSeg : Nat := 0
  markPos : Nat := 64
  phase : Nat × Nat × Nat := (0, 0, 0)
  differs : Option Nat := none
  deriving DecidableEq, Repr

/-- A log record that waits in the hub's staging buffers: kind, source, its bytes. -/
structure LogRec where
  kind : Nat
  source : Nat
  data : List Byte
  deriving DecidableEq, Repr

/-- The replay log (R179–R184): the segments' addresses as the standing configuration gives them, the NAND overflow area
(first block, extents of 512 blocks), the segment being written with its position (0: not begun), record count and first
and last module times, segments copied, the segment number that each NAND extent holds, the next SEQ per kind × 65536 +
source, records waiting in staging, whether records are being dropped with the counts since, per pipeline whether input was
dropped since its last marker, the time of the next phase sample, per pipeline the last markers' times and the last marker's
segment and SEQ, the decode contexts that have lost a picture since a pipeline's last marker, as (pipeline, context), and
a replay in progress. -/
structure LogState where
  regions : List Nat := []
  nandFirst : Nat := 0
  nandExtents : Nat := 0
  seg : Nat := 0
  pos : Nat := 0
  count : Nat := 0
  firstTime : Nat := 0
  lastTime : Nat := 0
  copied : Nat := 0
  extents : Tab Nat := []
  copies : Nat := 0
  seqs : Tab Nat := []
  staged : List LogRec := []
  dropping : Bool := false
  lostRecs : Nat := 0
  lostBytes : Nat := 0
  gapPipes : Nat := 0
  nextSample : Nat := 0
  marks : Tab (List Nat) := []
  lastMark : Tab (Nat × Nat) := []
  gapCtx : List (Nat × Nat) := []
  replay : Option Replay := none
  deriving DecidableEq, Repr

/-- A serving command in a tenant's inbox (R220): module time of arrival, which command (0 SUBMIT, 1 CANCEL, 2 PAUSE, 3
RESUME), payload, the completion queue of its submission queue. -/
structure InCmd where
  time : Nat
  op : Nat
  data : List Byte
  cq : Nat
  deriving DecidableEq, Repr

/-- What the scheduler keeps of a live request beside its table entry (R217): marks of its completions, positions taken from
Lovage, tokens committed at this boundary, whether ACCEPTED is posted, the DONE reason and error code once it ends, a PAUSE
that turned its completion into a pause (the TTL it gives), positions that the host supplied as (first, count), blocks of
its page lists, its lookup (0 none, 1 waiting, 2 running, 3 ended) with the nodes found. -/
structure ServeReq where
  late : Bool := false
  retried : Bool := false
  cancelLate : Bool := false
  prefixPos : Nat := 0
  new : Nat := 0
  accepted : Bool := false
  ended : Option (Nat × Nat) := none
  pauseTtl : Option Nat := none
  ranges : List (Nat × Nat) := []
  blocks : Nat := 0
  look : Nat := 0
  found : List Nat := []
  deriving DecidableEq, Repr

/-- A lane (R214, R216): its descriptor, the number of its last step, the number of the step's job (0: no step), the value
of DONE_OBJ at launch, the step list as (entry, POS0, NPOS, W), whether the step is a repeat (R230), pages to summarise in
this step, whether they are written, pages the walker has still to bring back, pages whose FETCHED it set, slots to free at
the next boundary as (LPDDR5X, slot), module time of the last boundary. -/
structure Lane where
  desc : List Byte
  step : Nat := 0
  job : Nat := 0
  doneAt : Nat := 0
  batch : List (Nat × Nat × Nat × Nat) := []
  repeats : Bool := false
  summ : List Nat := []
  summDone : Bool := true
  walk : List Nat := []
  fetched : List Nat := []
  freed : List (Bool × Nat) := []
  last : Nat := 0
  deriving DecidableEq, Repr

/-- A page move in progress (R212): tenant, lane, page, old and new slot, whether it goes to LPDDR5X. -/
structure PageMove where
  tenant : Nat
  lane : Nat
  page : Nat
  src : Nat
  dst : Nat
  toLp : Bool
  deriving DecidableEq, Repr

/-- The serving engine, the KVP block and Lovage (R206–R247): lanes by tenant × 16 + model, inboxes by tenant, live requests
by entry, HBM and LPDDR5X slots in use by tenant, the Lovage pool last formatted by tenant, moves in progress, mass records by job, entries whose lookup waits or runs
in order of acceptance, and tenant 0's completion ring (address, entries, records written). -/
structure ServeState where
  lanes : Tab (Option Lane) := []
  inbox : Tab (List InCmd) := []
  reqs : Tab (Option ServeReq) := []
  hbm : Tab (List Nat) := []
  lp : Tab (List Nat) := []
  pool : Tab (List Nat) := []
  moves : List PageMove := []
  mass : List (Nat × List Byte) := []
  looks : List Nat := []
  ring0 : Nat × Nat × Nat := (0, 0, 0)
  deriving DecidableEq, Repr

/-- An access unit being assembled (R252): RTP timestamp, arrival time and phase stamp of its first packet, packets held as
(extended sequence number, marker, payload), the numbers of its packets that R251 refused. -/
structure AuOpen where
  ts : Nat
  first : Nat
  cyc : Nat
  cnt : Nat
  pkts : List (Nat × Bool × List Byte) := []
  refused : List Nat := []
  deriving DecidableEq, Repr

/-- A closed access unit that awaits its headers (R252, R253): number, RTP timestamp, closure time, phase stamp, payloads in
order, damaged. -/
structure AuClosed where
  num : Nat
  ts : Nat
  closed : Nat
  cyc : Nat
  cnt : Nat
  data : List (List Byte)
  damaged : Bool
  deriving DecidableEq, Repr

/-- A picture (R262–R264, R274): access unit, its RTP timestamp, closure time and phase stamp, access units handed to the
codec up to it, width, height, bit depth, chroma location, full range, BT.2020 matrix, film grain, random-access point, RASL
picture, access units it references; module time of its
decode once decoded. -/
structure Picture where
  au : Nat
  ts : Nat
  closed : Nat
  cyc : Nat
  cnt : Nat
  hist : Nat
  w : Nat
  h : Nat
  depth : Nat
  loc : Nat
  full : Bool
  bt2020 : Bool
  grain : Bool
  rap : Bool
  rasl : Bool
  refs : List Nat
  decoded : Option Nat := none
  deriving DecidableEq, Repr

/-- A picture in output order (R273): access unit, availability time, whether it is the first output after a random-access
point that followed a drop. -/
structure OutPic where
  au : Nat
  avail : Nat
  resync : Bool
  deriving DecidableEq, Repr

/-- A record to be made (R272, R273): the firing time of its window, and its picture (none: NONE). -/
structure PicJob where
  fire : Nat
  pic : Option OutPic
  deriving DecidableEq, Repr

/-- The RTSP client's session of a context (R254, R255): step (0 none, 1 OPTIONS, 2 DESCRIBE, 3 SETUP, 4 PLAY sent, 5
playing), the authentication sent (0 none, 1 Digest with SHA-256, 2 Digest with MD5, 3 Basic), server lists GET_PARAMETER, session timeout in seconds, module time of the next
keep-alive, retry interval in seconds, module time of the next attempt, group and port of a multicast session, whether the
group is joined. -/
structure Rtsp where
  step : Nat := 0
  auth : Nat := 0
  getParam : Bool := false
  timeout : Nat := 60
  keepAt : Nat := 0
  backoff : Nat := 1
  retryAt : Nat := 0
  group : Option (List Byte × Nat) := none
  joined : Bool := false
  deriving DecidableEq, Repr

/-- A decode context beside its registers (R250–R274): closing, view descriptors taken at OPEN, packets of the sequence: the
highest extended number, the end and the timestamp of the last access unit; access units closed while one of lower numbers is
open (timestamp, end); access units being assembled; number of the next; closed ones;
access units handed to the codec; pictures waiting for a decoder in decode order; pictures known; access units dropped since
the last random-access point, and those of them whose drop goes back to an overflow of the queue; whether output waits for one; the random-access point after a drop whose first output is
marked; whether RASL pictures are dropped, and whether for an overflow; pictures in output order; firing times whose window is not yet chosen; records to
be made; pictures not yet passed to encoders; the last record's sequence number; module time of the last packet or start;
whether silence was reported; module time of the last RTCP report; RTSP. -/
structure DecCtx where
  closing : Bool := false
  views : List (List Byte) := []
  hi : Option Nat := none
  next : Option Nat := none
  lastTs : Option Nat := none
  ahead : List (Nat × Nat) := []
  assem : List AuOpen := []
  auNext : Nat := 0
  queue : List AuClosed := []
  hist : List (Nat × List Byte) := []
  wait : List Nat := []
  pics : List Picture := []
  dropped : List Nat := []
  overAus : List Nat := []
  waitRap : Bool := false
  markFrom : Option Nat := none
  rasl : Bool := false
  raslOver : Bool := false
  out : List OutPic := []
  windows : List Nat := []
  jobs : List PicJob := []
  feed : List Nat := []
  seq : Nat := 0
  heard : Nat := 0
  silent : Bool := false
  rtcpAt : Nat := 0
  rtsp : Rtsp := {}
  deriving DecidableEq, Repr

/-- A pre-processor at work (R272): context, record, sequence number, views written, whether a value saturated, module time of
the last view. -/
structure PreRun where
  ctx : Nat
  job : PicJob
  seq : Nat
  view : Nat := 0
  sat : Bool := false
  time : Nat := 0
  deriving DecidableEq, Repr

/-- An encode context beside its registers (R275–R278): closing, sources placed and not yet coded as (time, samples of a
decoded picture), sources of memory noted, memory slots read, sources coded, the picture in an encoder with its time, its
samples, pictures since the last intra picture, whether one is due, access units written, bytes written to the ring, the
recorder's extent (bytes, sequence number, access units, first and last module time), the codec firmware version in use; the RTP
sender's SSRC, timestamp offset and next sequence number. -/
structure EncCtx where
  closing : Bool := false
  placed : List (Nat × Option (List Nat)) := []
  noted : Nat := 0
  slot : Nat := 0
  hist : List (List Nat) := []
  coding : Option (Nat × List Nat) := none
  since : Nat := 0
  intraDue : Bool := true
  au : Nat := 0
  ringPos : Nat := 0
  extPos : Nat := 0
  extSeq : Nat := 0
  extAus : Nat := 0
  extFirst : Nat := 0
  extLast : Nat := 0
  fw : Nat := 0
  ssrc : Nat := 0
  rtpBase : Nat := 0
  rtpSeq : Nat := 0
  deriving DecidableEq, Repr

/-- Camera streams and video coding (R249–R279): contexts, what each decoder decodes as (context, access unit), the
pre-processors, the context of each encoder, the camera table of the standing configuration, FP0's IPv4 and IPv6 addresses. -/
structure VideoState where
  dec : Tab DecCtx := []
  enc : Tab EncCtx := []
  decoder : Tab (Option (Nat × Nat)) := []
  pre : Tab (Option PreRun) := []
  encoder : Tab (Option Nat) := []
  cams : List (List Byte) := []
  ip4 : Nat := 0
  ip6 : Nat := 0
  deriving DecidableEq, Repr

/-- An event entry of Thyme (R288), with the image that owns it (0: none; else tenant × 65536 + handle) and whether its match
point lay behind the phase when it was enabled (R290). -/
structure ThyEvent where
  ctrl : Nat := 0
  matchCount : Nat := 0
  matchCycle : Nat := 0
  step : Nat := 0
  obj : Nat := 0
  arg : Nat := 0
  fired : Nat := 0
  missed : Nat := 0
  owner : Nat := 0
  late : Bool := false
  deriving DecidableEq, Repr

/-- Thyme beside its registers (R280–R290): the input levels, the cycle of the last count, the last counts as (forward, time
stamp in cycles) with the oldest first, the time stamps of the last pulses, forward counts and the Z edge since acquisition began,
quadrature errors in the phase cycle `quadCycle`, the cycle of the last accepted input, the cycle at which a lost phase
stopped, Sync messages in a row below the lock limit, whether module time has been stepped, the ring's base phase (cycle,
count, FRAC, module time of its receipt) with frames received, the cycle of the last Sync message, and the event entries. -/
structure ThymeState where
  a : Bool := true
  b : Bool := true
  z : Bool := true
  lastCount : Nat := 0
  counts : List (Bool × Nat) := []
  pulses : List Nat := []
  run : Nat := 0
  zSeen : Bool := false
  quadErrs : Nat := 0
  quadCycle : Nat := 0
  lastInput : Nat := 0
  lostAt : Option Nat := none
  syncRun : Nat := 0
  stepped : Bool := false
  ringBase : Nat × Nat × Nat × Nat := (0, 0, 0, 0)
  ringFrames : Nat := 0
  lastSync : Option Nat := none
  events : Tab ThyEvent := []
  deriving DecidableEq, Repr

/-- A frame of an FP1 flow that has been decided (R297–R300): the flow, its number k (0: none), whether it is a result, the
REASON, the phase stamp, the module time of the decision, PHASE_LOCKED, payload and provenance record, traffic class, and
once queued the end of the gate window open at its release. -/
structure Fp1Frame where
  flow : Nat
  k : Nat
  result : Bool
  reason : Nat
  cyc : Nat
  cnt : Nat
  decided : Nat
  locked : Bool
  payload : List Byte
  prov : List Byte
  tc : Nat
  windowEnd : Option Nat := none
  deriving DecidableEq, Repr

/-- A flow beside its registers (R297, R300, R302): the number of the next frame to decide, the decision that awaits its
release, an accepted UNFORCE that awaits its DEADLINE, the module time of its last frame, whether a safe frame was decided
since the last step marker that names the flow (R302). -/
structure Flow where
  k : Nat := 1
  decided : Option Fp1Frame := none
  unforce : Bool := false
  lastFrame : Nat := 0
  safeSeen : Bool := false
  deriving DecidableEq, Repr

/-- FP1 (R296–R303): flows, frames queued in order, the frame in transmission with the module
time of its end, the running gate control list as (base,
cycle time, entries of (gates, interval)) and one that awaits its base time, records written by each receive filter. -/
structure Fp1State where
  flows : Tab Flow := []
  queue : List Fp1Frame := []
  sending : Option (Fp1Frame × Nat) := none
  gcl : Option (Nat × Nat × List (Nat × Nat)) := none
  newGcl : Option (Nat × Nat × List (Nat × Nat)) := none
  rings : Tab Nat := []
  deriving DecidableEq, Repr

/-- State of a tenant (MOD_TENANT STATUS, R312, R328). -/
inductive TenState where
  | closed | opening | isOpen | scrubbing | stuck
  deriving DecidableEq, Repr

/-- A tenant (R311–R315, R328): its state, the partition entry as taken at ACTIVATE, the next region to take while OPENING,
the module time of its activation or, once torn down, of the trigger. -/
structure Tenant where
  state : TenState := .closed
  clusters : Nat := 0
  port : Nat := 0xF
  kind : Nat := 0
  func : Nat := 0
  hbm : List Nat := []
  lp : Nat := 0
  nandFirst : Nat := 0
  nandBlocks : Nat := 0
  taken : Nat := 0
  trigger : Nat := 0
  deriving DecidableEq, Repr

/-- A host command in flight (R318–R321): its number, tenant, SQ, its 128 bytes, the SQ's head after its fetch, its result
(STATUS, CODE, VALUE) once known, and the number of the job it submitted. -/
structure HostCmd where
  num : Nat
  tenant : Nat
  sq : Nat
  data : List Byte
  head : Nat
  result : Option (Nat × Nat × Nat) := none
  job : Nat := 0
  deriving DecidableEq, Repr

/-- A host port beside its registers (R305–R308, R323, R327): PERST_N asserted, the module time since which the link is out of
L0. -/
structure PortState where
  perst : Bool := true
  downAt : Option Nat := none
  deriving DecidableEq, Repr

/-- Host interface (R305–R323): SQ tails, CQ tails and CQ heads by tenant × 64 + queue, held completions (tenant, CQ, record)
with the oldest first, commands in flight in order of fetch, the number of the next command, the last function served per
port and the last SQ served per function, ports, BIFURCATE in force per group, whether start-up has released RB_N, whether
the management endpoint is ready, whether a module reset is pending, configuration words that hosts have written by (port × 16 +
function's tenant) × 4096 + offset, the size of BAR2 where a host has resized it. -/
structure HostState where
  sqTail : Tab Nat := []
  cqTail : Tab Nat := []
  cqHead : Tab Nat := []
  held : List (Nat × Nat × List Byte) := []
  cmds : List HostCmd := []
  nextNum : Nat := 1
  rrFn : Tab Nat := []
  rrSq : Tab Nat := []
  ports : Tab PortState := []
  bifAB : Bool := false
  bifCD : Bool := false
  released : Bool := false
  mctp : Bool := false
  resetPending : Bool := false
  config : Tab Nat := []
  bar2 : Tab Nat := []
  deriving DecidableEq, Repr

/-- An SPDM session (R336): the port of its management function, its number, whether FINISH has completed its handshake, the
module time of its last message, the tenants whose TDI was locked in it, key updates made, its secret. -/
structure Session where
  port : Nat
  id : Nat
  open_ : Bool := false
  last : Nat := 0
  locked : List Nat := []
  updates : Nat := 0
  secret : Nat := 0
  deriving DecidableEq, Repr

/-- What a crate record leaves beside its registers (R348, R349): the crate key, the digest of the owner's key, whether it is
revoked. -/
structure Crate where
  key : List Byte
  owner : List Byte
  revoked : Bool := false
  deriving DecidableEq, Repr

/-- An active consent (R358–R360): tenant, SCOPE, CLUSTERS, NOT_AFTER, SHA3-256 of the token, the register addresses of the
HALT bits set through debug under it. -/
structure Consent where
  tenant : Nat
  scope : Nat
  clusters : Nat
  notAfter : Nat
  digest : List Byte
  halted : List Nat := []
  deriving DecidableEq, Repr

/-- State of a TDI (R339, R341). -/
inductive TdiState where
  | unlocked | locked | run | error
  deriving DecidableEq, Repr

/-- The TDI of a tenant function (R341): its state, the session of LOCK_INTERFACE as (port, session), and the interface nonce. -/
structure Tdi where
  state : TdiState := .unlocked
  session : Option (Nat × Nat) := none
  nonce : Nat := 0
  deriving DecidableEq, Repr

/-- A selective IDE stream (R341): port, stream ID, the tenant whose traffic it carries, the keys programmed as (key set ×
16 + direction × 8 + substream, key), the key set in use once enabled. -/
structure IdeStream where
  port : Nat
  id : Nat
  tenant : Nat := 0
  keys : List (Nat × List Byte) := []
  enabled : Option Nat := none
  deriving DecidableEq, Repr

/-- A loaded weight package (R351–R357). -/
structure Weights where
  handle : Nat
  tenant : Nat
  header : List Byte
  leaseEnd : Nat
  devOff : Nat
  deriving DecidableEq, Repr

/-- A load of a weight package that runs (R355): the host command (none: start-up's), tenant, header, the block index, where
the package lies (SRC_KIND, SRC, SIZE), DEV_OFF, the content key, the LEASE_END at its check, the next block, the raw bytes so far, the coded
blocks so far. -/
structure WLoad where
  cmd : Option Nat
  tenant : Nat
  header : List Byte
  index : List Byte
  kind : Nat
  src : Nat
  size : Nat
  devOff : Nat
  key : List Byte
  leaseEnd : Nat
  next : Nat := 0
  raw : List Byte := []
  coded : List Nat := []
  deriving DecidableEq, Repr

/-- Sage beside its registers (R333–R361): sessions with the number of the next, messages being assembled from chunks and
answers being read in chunks by port, crates by register index, consents by index, nonces issued with their module times,
TDIs by tenant, IDE streams, memory keys by tenant × 2 + slot and storage keys by tenant (0: none; else the number of the
draw), weight packages, loads in progress, POLICY of the standing configuration for tenant 0, the digest and the owner of
the standing configuration, cycles since LEASE_CLOCK's last second, the value and time of its last store in MRAM, whether
the entropy source has failed its test, whether the derived identity differs from the certificate. -/
structure SageState where
  sessions : List Session := []
  nextSession : Nat := 1
  chunksIn : Tab (List Byte) := []
  chunksOut : Tab (List Byte) := []
  crates : Tab (Option Crate) := []
  consents : Tab (Option Consent) := []
  nonces : List (List Byte × Nat) := []
  tdi : Tab Tdi := []
  ide : List IdeStream := []
  memKeys : Tab Nat := []
  storeKeys : Tab Nat := []
  weights : List Weights := []
  loads : List WLoad := []
  policy0 : Nat := 0
  standing : List Byte := []
  leaseCycles : Nat := 0
  leaseStored : Nat := 0
  leaseStoredAt : Nat := 0
  entropyBad : Bool := false
  identityBad : Bool := false
  deriving DecidableEq, Repr

/-- A firmware component of a bank (R373, R376): version, security version, measurement, image, and the lowest and highest
majors of the other components that it works with. -/
structure Comp where
  version : Nat := 0
  svn : Nat := 0
  digest : List Byte := []
  image : List Byte := []
  reqMin : List Nat := []
  reqMax : List Nat := []
  deriving DecidableEq, Repr

/-- An armed activation point (R378): KIND, TICKET, AT, for KIND 1 the index of its Thyme entry. -/
structure Arm where
  kind : Nat
  ticket : Nat
  point : Nat
  entry : Nat := 0
  deriving DecidableEq, Repr

/-- Firmware and configuration in NOR, and the update unit (R372–R378): the two banks, the components that run, the two
configuration copies with the measurements recorded when they were staged, the owner configuration key digest, the units of
the package accepted so far, its key, the bank or copy in the making, the arm, components still to switch and switched ones
with their old images, the cycle in which the current switch began, the cycle from which a TRIAL bank runs, PACKAGE_ID, KIND and component indices of
the staged package, while the microcode switches the number of the first job that is held. -/
structure UpdState where
  banks : Tab (List Comp) := []
  active : List Comp := []
  copies : Tab (List Byte) := []
  sums : Tab (List Byte) := []
  owner : List Byte := []
  units : Tab (List Byte) := []
  key : List Byte := []
  newBank : List Comp := []
  newCopy : List Byte := []
  arm : Option Arm := none
  todo : List Nat := []
  switched : List (Nat × Comp) := []
  since : Nat := 0
  trialFrom : Option Nat := none
  stagedId : Nat := 0
  stagedKind : Nat := 0
  stagedComps : List Nat := []
  bankId : Nat := 0
  bankComps : List Nat := []
  hold : Option Nat := none
  deriving DecidableEq, Repr

/-- A settings record (R370): register address, VALUE, MASK. -/
structure NvsRec where
  addr : Nat
  value : Nat
  mask : Nat
  deriving DecidableEq, Repr

/-- A settings copy (R370): SEQ and records. -/
structure NvsCopy where
  seq : Nat
  recs : List NvsRec
  deriving DecidableEq, Repr

/-- The MRAM (R369–R371): settings copies 0 and 1 where valid, the records of a store in progress, whether the next start-up
ignores both copies, the counter snapshots from the oldest, the cycle of the last periodic snapshot. -/
structure NvsState where
  copy0 : Option NvsCopy := none
  copy1 : Option NvsCopy := none
  storing : Option (List NvsRec) := none
  defaults : Bool := false
  snapshots : List (List Byte) := []
  lastSnap : Nat := 0
  deriving DecidableEq, Repr

/-- Start-up (R362–R365): whether the module is dark, whether internal reset is held, the steps that have ended, the
cycle of the end of step 3, how far step 4 is (0 not begun, 1 tenant 0 activated, 2 images loaded, 3 ended), the handles of the configuration's images by index (0: failed), its weight packages still to load as
(first block, size, DEV_OFF), whether one of them loads, whether the recovery responder runs. -/
structure StartState where
  dark : Bool := false
  held : Bool := false
  ended : List Nat := []
  step3At : Nat := 0
  stage : Nat := 0
  handles : List Nat := []
  packages : List (Nat × Nat × Nat) := []
  loading : Bool := false
  recovery : Bool := false
  deriving DecidableEq, Repr

/-- A management-core watchdog (R386): the cycle at which it expires, and whether it has expired. -/
structure Watchdog where
  deadline : Nat := 0
  expired : Bool := false
  deriving DecidableEq, Repr

/-- Sorrel (R382–R394): errors presented and not yet classified with the cycle in which they reach Sorrel, the cycle of the
last classification, the next classification number, slots acknowledged in this cycle (bit X), records in the store, per
class the quiet deadline while degraded, the storm count of the running window, whether the window's storm happened, the
second of module time of that window, the cycle in which the hardware FAULT_N pulse may end, the two watchdogs, and the
fenced units by their UNIT codes, those of them that have passed a test since their latest fence (R422). -/
structure SorrelState where
  presented : List (Nat × ErrEv) := []
  lastClass : Option Nat := none
  seq : Nat := 0
  acking : Nat := 0
  stored : Nat := 0
  quietC : Option Nat := none
  quietU : Option Nat := none
  quietF : Option Nat := none
  stormCount : Nat := 0
  stormDone : Bool := false
  window : Nat := 0
  pulseEnd : Option Nat := none
  wdog0 : Watchdog := {}
  wdog1 : Watchdog := {}
  fenced : List Nat := []
  passed : List Nat := []
  deriving DecidableEq, Repr

/-- A Dill trigger that awaits its latch (R399, R400): its code, ARG, FAULT_SEQ, whether it latches at a ring release time, and
the cycle, or for the ring the module time, of its latch. -/
structure Trigger where
  code : Nat
  arg : Nat
  faultSeq : Nat
  ring : Bool
  at_ : Nat
  deriving DecidableEq, Repr

/-- A checkpoint that the hub DMA makes (R405, R406): pipeline, STEP, segment and SEQ of that step's marker, module time and
phase stamp of the firing, SNAP_SEQ of its snapshot. -/
structure Checkpoint where
  pipe : Nat
  step : Nat
  segment : Nat
  logSeq : Nat
  time : Nat
  cyc : Nat
  cnt : Nat
  snap : Nat
  deriving DecidableEq, Repr

/-- Dill (R399–R406): triggers that await their latch, the latched snapshot that is being copied, the next SNAP_SEQ, the module
time from which the timer's period runs, checkpoints in progress. -/
structure DillState where
  trigs : List Trigger := []
  copying : Option (List Byte) := none
  nextSeq : Nat := 0
  timerFrom : Nat := 0
  ckpts : List Checkpoint := []
  deriving DecidableEq, Repr

/-- Power and thermal control beside its registers (R409–R422): the levels of COOL_OK and MOD_PWR_EN; index of the last sensor
sample (ms of module time), input sample (µs) and governor period (10 ms); the last samples of all 306 sensors, newest first
(at most 101); per sensor the sample index since which its reading is unchanged with the lowest and highest power of its domain
since, in mW; sensors excluded; R̂ of a domain in K/W once a period has ended; sums of a domain's power over the running period with the number of
samples; periods in a row above and below the trend value; periods and sum of R̂ for the baseline; input samples, newest first,
as (mW, how many in a row); samples in a row above CAP_W; module time since which the input lies outside 38–62 V; the module
time at which a limiter hold began; the start of the clamp, whether its 5 s have been classified, and since when its release
condition holds; dies held at level 15 until they cool; whether the hub holds all dies; the cycle of a shutdown; the unit under
test. -/
structure PowerState where
  coolPin : Bool := false
  pwrEn : Bool := true
  lastSensor : Nat := 0
  lastInput : Nat := 0
  lastPeriod : Nat := 0
  hist : List (List Int) := []
  same : List (Nat × Nat × Nat) := []
  excluded : List Nat := []
  rEst : Tab (Option Rat) := []
  pSum : List Nat := []
  pCount : Nat := 0
  above : Tab Nat := []
  below : Tab Nat := []
  basePeriods : Tab Nat := []
  baseSum : Tab (Option Rat) := []
  input : List (Nat × Nat) := []
  overCap : Nat := 0
  voltFrom : Option Nat := none
  hold : Option Nat := none
  clamp : Option Nat := none
  clampF : Bool := false
  quietFrom : Option Nat := none
  hotDies : List Nat := []
  hotHub : Bool := false
  shutdown : Option Nat := none
  testing : Option Nat := none
  deriving DecidableEq, Repr

/-- The hop key of a link (R440): the neighbour, the key, the module time from which it is used, frames under it. -/
structure HopKey where
  node : Nat
  key : List Byte
  since : Nat
  frames : Nat := 0
  deriving DecidableEq, Repr

/-- The ring node beside its registers (R433–R446): node number and segment count taken at the last join, the keys of the links
from the upstream and to the downstream neighbour, KEY_PHASE used downstream, the HOP_SEQ of the next frame sent, frames in a
row that failed from a new upstream node, HOP_FROM of the last frame heard, the HELLO that awaits its SHARE as (node, NONCE,
number of the drawn key), the cycle at which the bypass opened, the cycle before which no join begins, the cycle of the last
TIME frame, and the indices of the last periods in which TIME, PHASE, STATUS and CAL frames were sent. -/
structure RingState where
  node : Nat := 15
  segments : Nat := 16
  up : Option HopKey := none
  down : Option HopKey := none
  phase : Bool := false
  txSeq : Nat := 0
  fails : Nat := 0
  lastFrom : Option Nat := none
  hello : Option (Nat × List Byte × Nat) := none
  openedAt : Nat := 0
  waitUntil : Nat := 0
  lastTime : Nat := 0
  sentTime : Nat := 0
  sentPhase : Nat := 0
  sentStatus : Nat := 0
  sentCal : Nat := 0
  deriving DecidableEq, Repr

/-- The TAP (R448, R449): the instruction loaded, DAP_ADDR, whether the last access was refused, the acknowledgement and data of
the last debug access, the boundary-scan cells that EXTEST drives. -/
structure TapState where
  instr : Nat := 1
  addr : Nat := 0
  refused : Bool := false
  ack : Nat := 0
  data : Nat := 0
  cells : Nat := 0
  deriving DecidableEq, Repr

/-- What the module sends to the outside: an MSI-X message of a function, a frame on a field port, a frame on the ring (TYPE, DST, SRC, HOPS), a
message of the SPDM, TDISP or update protocols, a network frame of FP0. -/
inductive Msg where
  | msix (fn : Nat) (vector : Nat)
  | fp0 (kind : String) (data : List Byte)
  | fp1 (data : List Byte)
  | ring (typ dst src hops : Nat) (payload : List Byte)
  | reply (proto : String) (code : Nat) (data : List Byte)
  | notice (what : String) (value : Nat)
  deriving DecidableEq, Repr

/-- The whole machine. -/
structure State where
  /-- Commands waiting, first in first out. -/
  pending : List Instr := []
  /-- The module cycle count (R159), modulo 2^64. -/
  cycle : Nat := 0
  /-- Module time in ns (R6), modulo 2^64. -/
  timeNs : Nat := 0
  /-- Parts of 1/110000 ns above `timeNs` (a cycle of the 1.1 GHz arithmetic clock is 100000 of them). -/
  timeRem : Nat := 0
  /-- Correction of module time that slewing has still to make, in parts of 1/110000 ns (R6, R290). -/
  slew : Int := 0
  /-- The register file: values that differ from the register's reset value. -/
  regs : Tab Word := []
  /-- High words latched by a read of the low word (R7). -/
  latch : Tab (Option Word) := []
  /-- The answer of the last command. -/
  resp : Resp := .none
  /-- The model's own counter, which numbers the free values (not a state of the spec). -/
  freeCtr : Nat := 0
  /-- Memories. -/
  mem : MemState := {}
  /-- Application cores, by (die × 8 + cluster) × 2 + core. -/
  ac : Tab AcState := []
  /-- Sorrel. -/
  sorrel : SorrelState := {}
  /-- Dill. -/
  dill : DillState := {}
  /-- Tile cores, by die × 72 + cluster × 9 + slot. -/
  tile : Tab TileState := []
  /-- Loaded images. -/
  images : List Image := []
  /-- Sync objects. -/
  sync : SyncState := {}
  /-- Barrier contexts. -/
  barriers : Tab BarrierCtx := []
  /-- Jobs and work distributors. -/
  job : JobState := {}
  /-- Tenants. -/
  tenants : Tab Tenant := []
  /-- NAND areas that tenant 0 may use beside its scratch: first block and length (R26, R366). -/
  nandModel : List (Nat × Nat) := []
  /-- The tenant-scratch area of the NAND: first block and length (R366). -/
  nandScratch : Nat × Nat := (0, 0)
  /-- Thyme. -/
  thy : ThymeState := {}
  /-- FP1. -/
  fp1 : Fp1State := {}
  /-- Serving engine, KVP block, Lovage. -/
  serve : ServeState := {}
  /-- Camera streams and video coding. -/
  video : VideoState := {}
  /-- Host ports and queues. -/
  host : HostState := {}
  /-- Sage. -/
  sage : SageState := {}
  /-- Firmware banks, configuration copies, updates. -/
  upd : UpdState := {}
  /-- MRAM. -/
  nvs : NvsState := {}
  /-- Start-up. -/
  start : StartState := {}
  /-- The replay log. -/
  log : LogState := {}
  /-- Power and cooling. -/
  power : PowerState := {}
  /-- The ring node. -/
  ring : RingState := {}
  /-- The debug port. -/
  tap : TapState := {}
  /-- Messages sent, oldest first. -/
  sent : List Msg := []
  deriving DecidableEq, Repr

/-- Why a step stops with a fault. Nothing raises it: every command of the table has an effect. Safe. -/
inductive Fault where
  /-- Raised by no command. Safe. -/
  | none
  deriving DecidableEq, Repr

/-- Why a command is refused. -/
inductive Refusal where
  /-- The command has no meaning in this model yet; raised by `exec` alone. Safe. -/
  | notModelled (mnemonic : String)
  deriving DecidableEq, Repr

/-- The machine right after reset: registers at their reset values, memory with nothing listed, nothing waiting. -/
def State.reset : State := {}

end Sys2Proof.Machine
end

