-- ==== Sys2Proof/Machine/Ops.lean ====
section
/-!
DEFINITION. The named operations over registers, memory, errors and the address map that every meaning uses.
-/
namespace Sys2Proof.Machine

/-! ## Sparse tables -/

/-- The value a sparse table holds for a key; `d` where nothing is listed. -/
def tabGet {α : Type} (d : α) : Tab α → Nat → α
  | [], _ => d
  | (k, v) :: t, n => if n = k then v else tabGet d t n

/-- A sparse table without a key. -/
def tabDel {α : Type} (t : Tab α) (n : Nat) : Tab α := t.filter (fun e => e.1 != n)

/-- A sparse table with an entry put before the first larger key. -/
def tabIns {α : Type} : Tab α → Nat → α → Tab α
  | [], n, v => [(n, v)]
  | (k, w) :: t, n, v => if n < k then (n, v) :: (k, w) :: t else (k, w) :: tabIns t n v

/-- Set a key of a sparse table, keeping keys rising and listing no default. -/
def tabSet {α : Type} [DecidableEq α] (d : α) (t : Tab α) (n : Nat) (v : α) : Tab α :=
  if v = d then tabDel t n else tabIns (tabDel t n) n v

/-- Whether two byte ranges share a byte. -/
def spansMeet (a n b m : Nat) : Bool := decide (0 < n) && decide (0 < m) && decide (a < b + m) && decide (b < a + n)

/-- Apply a function to one entry. -/
def tabMod {α : Type} [DecidableEq α] (d : α) (t : Tab α) (n : Nat) (f : α → α) : Tab α :=
  tabSet d t n (f (tabGet d t n))

/-- The canonical form: keys strictly rising, no entry equal to the default. -/
def tabWf {α : Type} [DecidableEq α] (d : α) : Tab α → Bool
  | [] => true
  | [(_, v)] => !decide (v = d)
  | (k, v) :: (k', v') :: t => decide (k < k') && !decide (v = d) && tabWf d ((k', v') :: t)

/-! ## Numbers, bits and bytes -/

/-- Bits `hi`..`lo` of a number. -/
def bits (n hi lo : Nat) : Nat := n / 2 ^ lo % 2 ^ (hi + 1 - lo)

/-- Bit `i` of a number. -/
def bit (n i : Nat) : Bool := n / 2 ^ i % 2 == 1

/-- A number with bits `hi`..`lo` replaced by `v`. -/
def putBits (n hi lo v : Nat) : Nat :=
  n - bits n hi lo * 2 ^ lo + v % 2 ^ (hi + 1 - lo) * 2 ^ lo

/-- A number with bit `i` set to `b`. -/
def putBit (n i : Nat) (b : Bool) : Nat := putBits n i i (if b then 1 else 0)

/-- How many bits are set below bit `w`. -/
def popCount (n : Nat) : Nat → Nat
  | 0 => 0
  | w + 1 => n % 2 + popCount (n / 2) w

/-- Little-endian value of a list of bytes. -/
def leNat : List Byte → Nat
  | [] => 0
  | b :: t => b.toNat + 256 * leNat t

/-- `n` little-endian bytes of a number. -/
def natLe : Nat → Nat → List Byte
  | 0, _ => []
  | n + 1, v => BitVec.ofNat 8 v :: natLe n (v / 256)

/-- `n` zero bytes. -/
def zeros (n : Nat) : List Byte := List.replicate n 0

/-- A sum that saturates at `2^w - 1`. -/
def satAdd (w a b : Nat) : Nat := min (a + b) (2 ^ w - 1)

/-- Clamp to a range (the nearer limit). -/
def clampNat (lo hi v : Nat) : Nat := if v < lo then lo else if hi < v then hi else v

/-- Ceiling of a quotient. -/
def ceilDiv (a b : Nat) : Nat := (a + b - 1) / b

/-- A number read as `w`-bit two's complement. -/
def toInt (w n : Nat) : Int := if bit n (w - 1) then (n % 2 ^ w : Nat) - (2 ^ w : Nat) else (n % 2 ^ w : Nat)

/-- An integer as `w`-bit two's complement. -/
def ofInt (w : Nat) (i : Int) : Nat := (i % (2 ^ w : Nat)).toNat

/-- Bytes `[off, off + n)` of a list, zero beyond its end. -/
def slice (l : List Byte) (off n : Nat) : List Byte :=
  let t := (l.drop off).take n
  t ++ zeros (n - t.length)

/-- A little-endian field of a byte list. -/
def fieldLe (l : List Byte) (off n : Nat) : Nat := leNat (slice l off n)

/-! ## Initiator IDs (R11) -/

/-- Build an initiator ID.
Log entry 24 (DESIGN CHOICE). -/
def mkId (die clu unit eng : Nat) : Nat := die * 0x2000 + clu * 0x400 + unit * 0x40 + eng
/-- Bits [15:13]. -/
def idDie (i : Nat) : Nat := bits i 15 13
/-- Bits [12:10]. -/
def idClu (i : Nat) : Nat := bits i 12 10
/-- Bits [9:6]. -/
def idUnit (i : Nat) : Nat := bits i 9 6
/-- Bits [5:0]. -/
def idEng (i : Nat) : Nat := bits i 5 0

/-- An engine of the hub's management unit (R11).
Log entry 24 (DESIGN CHOICE). -/
def hubId (eng : Nat) : Nat := mkId 4 0 15 eng
/-- An application core (R11). -/
def acId (d c k : Nat) : Nat := mkId d c (9 + k) 0
/-- An engine of a tile-core slot (R11). -/
def slotId (d c sl eng : Nat) : Nat := mkId d c sl eng
/-- A management core. -/
def isMgmtCore (i : Nat) : Bool := idDie i == 4 && idUnit i == 15 && decide (idEng i < 2)
/-- A management function of a host port: initiator die 7, a port, tenant field 0 (R310). -/
def isMgmtFn (i : Nat) : Bool := idDie i == 7 && decide (idClu i < 4) && idUnit i == 0
/-- The writers that the register chapters admit: management cores and management functions. -/
def isMgmt (i : Nat) : Bool := isMgmtCore i || isMgmtFn i

/-! ## Addresses of register pages (R30) -/

/-- Page `n` of a cluster. -/
def cluPage (d c n : Nat) : Nat := 0x0C0000000000 + d * 0x1000000 + c * 0x100000 + n * 0x10000
/-- Page `n` of a die's own pages. -/
def diePage (d n : Nat) : Nat := 0x0C0000800000 + d * 0x1000000 + n * 0x10000
/-- Page `n` of the hub die. -/
def hubPage (n : Nat) : Nat := 0x0C0004000000 + n * 0x10000
/-- Key of a tenant function's BAR0 (not a module address). -/
def fnPage (t : Nat) : Nat := 0x1000000000000 + t * 0x10000

/-- A tile-core register. -/
def tcA (d c sl off : Nat) : Nat := cluPage d c sl + off
/-- An application-core register. -/
def acA (d c k off : Nat) : Nat := cluPage d c (9 + k) + off
/-- A cluster register. -/
def clA (d c off : Nat) : Nat := cluPage d c 11 + off
/-- A sync-block register. -/
def syncA (d c off : Nat) : Nat := cluPage d c 12 + off
/-- A module-wide register. -/
def modA (off : Nat) : Nat := hubPage 0 + off
/-- A HUB_ register. -/
def hubA (off : Nat) : Nat := hubPage 1 + off
/-- A PCI_ register of a port. -/
def pciA (p off : Nat) : Nat := hubPage (2 + p) + off
/-- An FPT_ register. -/
def fptA (off : Nat) : Nat := hubPage 6 + off
/-- A BAR_ register of the module barrier master. -/
def barA (off : Nat) : Nat := hubPage 7 + off
/-- A THY_ register. -/
def thyA (off : Nat) : Nat := hubPage 8 + off
/-- An SGE_ register. -/
def sgeA (off : Nat) : Nat := hubPage 9 + off
/-- A LOV_ register. -/
def lovA (off : Nat) : Nat := hubPage 0xA + off
/-- An RQT_ register. -/
def rqtA (off : Nat) : Nat := hubPage 0xB + off
/-- A KVP_ register. -/
def kvpA (off : Nat) : Nat := hubPage 0xC + off
/-- An SRL_ register of page 0x0D. -/
def srlA (off : Nat) : Nat := hubPage 0xD + off
/-- An SRL_ register of page 0x0E. -/
def srlB (off : Nat) : Nat := hubPage 0xE + off
/-- A DIL_ register. -/
def dilA (off : Nat) : Nat := hubPage 0xF + off
/-- A hub PWR_ register. -/
def pwrA (off : Nat) : Nat := hubPage 0x10 + off
/-- A hub THM_ register. -/
def thmA (off : Nat) : Nat := hubPage 0x11 + off
/-- An NVS_ register. -/
def nvsA (off : Nat) : Nat := hubPage 0x12 + off
/-- A UPD_ register. -/
def updA (off : Nat) : Nat := hubPage 0x13 + off
/-- An RNG_ register. -/
def rngA (off : Nat) : Nat := hubPage 0x14 + off
/-- A global VID_ register. -/
def vidA (off : Nat) : Nat := hubPage 0x20 + off
/-- A register of a decode context (R279). -/
def vdecA (x off : Nat) : Nat := hubPage (0x21 + x / 16) + 0x1000 * (x % 16) + off
/-- A register of an encode context (R279). -/
def vencA (x off : Nat) : Nat := hubPage (0x29 + x / 16) + 0x1000 * (x % 16) + off
/-- A function register of a tenant. -/
def fnA (t off : Nat) : Nat := fnPage t + off

/-- The block and the block's own offset of a register address; none where R30 assigns no page.
Log entry 14 (DEDUCED). -/
def regBlock (a : Nat) : Option (Blk × Nat) :=
  if 0x1000000000000 ≤ a then
    if a < 0x1000000100000 then some (.fn, a % 0x10000) else none
  else if a < 0x0C0000000000 then none
  else
    let r := a - 0x0C0000000000
    if r < 0x4000000 then
      let x := r % 0x1000000
      if x < 0x800000 then
        let p := x % 0x100000 / 0x10000
        let off := x % 0x10000
        if p < 9 then some (.tc, off)
        else if p < 11 then some (.ac, off)
        else if p = 11 then some (.cl, off)
        else if p = 12 then some (.sync, off)
        else none
      else
        let p := (x - 0x800000) / 0x10000
        let off := x % 0x10000
        if p = 0 then some (.dieBar, off)
        else if p = 1 then some (.dieThm, off)
        else if p < 4 then some (.dieHbm, off)
        else if p = 4 then some (.dieLink, off)
        else if p = 5 then some (.diePwr, off)
        else none
    else if r < 0x5000000 then
      let p := (r - 0x4000000) / 0x10000
      let off := r % 0x10000
      if p = 0 then some (.mod, off)
      else if p = 1 then some (.hub, off)
      else if p < 6 then some (.pci, off)
      else if p = 6 then some (.fpt, off)
      else if p = 7 then some (.bar, off)
      else if p = 8 then some (.thy, off)
      else if p = 9 then some (.sge, off)
      else if p = 0xA then some (.lov, off)
      else if p = 0xB then some (.rqt, off)
      else if p = 0xC then some (.kvp, off)
      else if p = 0xD then some (.srlA, off)
      else if p = 0xE then some (.srlB, off)
      else if p = 0xF then some (.dil, off)
      else if p = 0x10 then some (.pwr, off)
      else if p = 0x11 then some (.thm, off)
      else if p = 0x12 then some (.nvs, off)
      else if p = 0x13 then some (.upd, off)
      else if p = 0x14 then some (.rng, off)
      else if p = 0x20 then some (.vid, off)
      else if 0x21 ≤ p ∧ p < 0x29 then some (.vdec, off % 0x1000)
      else if 0x29 ≤ p ∧ p < 0x2D then some (.venc, off % 0x1000)
      else none
    else none

/-! ## The register tables -/

/-- The copy of a register and the word of that copy that an offset of its block names. -/
def RegSpec.place (r : RegSpec) (off : Nat) : Option (Nat × Nat) :=
  if off < r.off then none
  else
    let d := off - r.off
    let i := if r.stride = 0 then 0 else d / r.stride
    let w := (d - i * r.stride) / 4
    if i < r.count ∧ w * 32 < r.width ∧ d % 4 = 0 then some (i, w) else none

/-- The register that holds an offset, searched in a list. -/
def findReg : List RegSpec → Nat → Option (RegSpec × Nat × Nat)
  | [], _ => none
  | r :: t, off =>
    match r.place off with
    | some (i, w) => some (r, i, w)
    | none => findReg t off

/-- The register at an address.
Log entry 14 (DEDUCED). -/
def regAt (a : Nat) : Option (RegSpec × Nat × Nat) :=
  match regBlock a with
  | some (b, off) => findReg (blkRegs b) off
  | none => none

/-- Bits of word `w` of a register that lie in a field. -/
def FieldSpec.mask (f : FieldSpec) (w : Nat) : Nat :=
  let lo := max f.lo (32 * w)
  let hi := min f.hi (32 * w + 31)
  if hi < lo then 0 else (2 ^ (hi + 1 - lo) - 1) * 2 ^ (lo - 32 * w)

/-- Bits of word `w` whose access code passes a test. -/
def RegSpec.maskOf (r : RegSpec) (w : Nat) (p : Acc → Bool) : Nat :=
  r.fields.foldl (fun m f => if p f.acc then m + f.mask w else m) 0

/-- The reset value of word `w` of a register. -/
def RegSpec.resetWord (r : RegSpec) (w : Nat) : Nat :=
  r.fields.foldl (fun m f => m + (f.reset * 2 ^ f.lo / 2 ^ (32 * w)) % 2 ^ 32) 0 % 2 ^ 32

/-- The reset value of the register word at an address (0 where the tables hold none). -/
def regReset (a : Nat) : Word :=
  match regAt a with
  | some (r, _, w) => BitVec.ofNat 32 (r.resetWord w)
  | none => 0

/-! ## The register file -/

/-- The stored word of a register. -/
def State.reg (s : State) (a : Nat) : Nat := (tabGet (regReset a) s.regs a).toNat

/-- Set the stored word of a register. -/
def State.setReg (s : State) (a v : Nat) : State :=
  { s with regs := tabSet (regReset a) s.regs a (BitVec.ofNat 32 v) }

/-- A 64-bit register. -/
def State.reg64 (s : State) (a : Nat) : Nat := s.reg a + 2 ^ 32 * s.reg (a + 4)

/-- Set a 64-bit register. -/
def State.setReg64 (s : State) (a v : Nat) : State := (s.setReg a (v % 2 ^ 32)).setReg (a + 4) (v / 2 ^ 32)

/-- A field of a register word. -/
def State.fld (s : State) (a hi lo : Nat) : Nat := bits (s.reg a) hi lo

/-- Set a field of a register word. -/
def State.setFld (s : State) (a hi lo v : Nat) : State := s.setReg a (putBits (s.reg a) hi lo v)

/-- One bit of a register word. -/
def State.rbit (s : State) (a i : Nat) : Bool := bit (s.reg a) i

/-- Set one bit of a register word. -/
def State.setRbit (s : State) (a i : Nat) (b : Bool) : State := s.setFld a i i (if b then 1 else 0)

/-- Add to a 32-bit counter that saturates. -/
def State.bumpBy (s : State) (a n : Nat) : State := s.setReg a (satAdd 32 (s.reg a) n)

/-- Increment a 32-bit counter that saturates. -/
def State.bump (s : State) (a : Nat) : State := s.bumpBy a 1

/-- Add to a 64-bit counter that saturates. -/
def State.bump64By (s : State) (a n : Nat) : State := s.setReg64 a (satAdd 64 (s.reg64 a) n)

/-- Increment a counter field that saturates. -/
def State.bumpFld (s : State) (a hi lo : Nat) : State :=
  s.setFld a hi lo (satAdd (hi + 1 - lo) (s.fld a hi lo) 1)

/-- `n` consecutive register words as a little-endian number. -/
def State.regWords (s : State) (a : Nat) : Nat → Nat
  | 0 => 0
  | n + 1 => s.reg a + 2 ^ 32 * State.regWords s (a + 4) n

/-- Set `n` consecutive register words. -/
def State.setRegWords (s : State) (a : Nat) : Nat → Nat → State
  | 0, _ => s
  | n + 1, v => State.setRegWords (s.setReg a (v % 2 ^ 32)) (a + 4) n (v / 2 ^ 32)

/-- Every register word from `a` up to `b` at its reset value. -/
def State.resetRegs (s : State) (a b : Nat) : State :=
  { s with regs := s.regs.filter (fun p => decide (p.1 < a) || decide (b ≤ p.1)) }

/-- The canonical form of the register file: addresses strictly rising, no entry equal to its register's reset value. -/
def regsWf : Tab Word → Bool
  | [] => true
  | [p] => !decide (p.2 = regReset p.1)
  | p :: q :: t => decide (p.1 < q.1) && !decide (p.2 = regReset p.1) && regsWf (q :: t)

/-! ## Answers, errors, free values -/

/-- Answer the sender of the command.
Log entry 6 (DESIGN CHOICE). -/
def State.answer (s : State) (r : Resp) : State := { s with resp := r }

/-- Present an error to Sorrel; it reaches Sorrel in this cycle (R382).
Log entry 160 (DEDUCED). -/
def State.present (s : State) (e : ErrEv) : State := { s with sorrel := { s.sorrel with presented := s.sorrel.presented ++ [(s.cycle, e)] } }

/-- Present an error of a hub unit or other unit that R391 does not fence. -/
def State.presentHub (s : State) (source access initiator space addr detail : Nat) : State :=
  s.present ⟨source, access, initiator, space, addr, detail, 0xFFFF⟩

/-- Complete an access with an error status and record it as class U of a source. -/
def State.accessError (s : State) (source access ini addr : Nat) : State :=
  (s.presentHub source access ini 0 addr 0).answer .err

/-! ## Tenants' clusters, and the consents of R359 -/

/-- A tenant. -/
def State.tenant (s : State) (t : Nat) : Tenant := tabGet {} s.tenants t

/-- Set a tenant. -/
def State.setTenant (s : State) (t : Nat) (x : Tenant) : State := { s with tenants := tabSet {} s.tenants t x }

/-- Whether a tenant holds its partition (from OPENING until CLOSED). -/
def Tenant.holds (x : Tenant) : Bool := decide (x.state ≠ .closed)

/-- The tenant that owns a cluster. -/
def State.cluOwner (s : State) (d c : Nat) : Option Nat :=
  (List.range 16).find? (fun t => (s.tenant t).holds && bit (s.tenant t).clusters (8 * d + c))

/-- The active consents with their indices. -/
def State.consentList (s : State) : List (Nat × Consent) :=
  s.sage.consents.filterMap (fun p => p.2.map (fun c => (p.1, c)))

/-- Whether an active consent of tenant `t` has SCOPE bit `b`. -/
def State.consentScope (s : State) (t b : Nat) : Bool := s.consentList.any (fun c => c.2.tenant == t && bit c.2.scope b)

/-- The tenant whose partition holds the register page of an address: the owner of the page's cluster. -/
def State.pageTenant (s : State) (a : Nat) : Option Nat :=
  let r := a - 0x0C0000000000
  if 0x0C0000000000 ≤ a ∧ r < 0x4000000 ∧ r % 0x1000000 < 0x800000 then s.cluOwner (r / 0x1000000) (r % 0x1000000 / 0x100000)
  else none

/-- Whether a management function is kept from a register page of a tenant's partition: the tenant has not consented to
REG_ACCESS (R310, R359).
Log entry 21 (DEDUCED). -/
def State.consentBar (s : State) (ini a : Nat) : Bool :=
  isMgmtFn ini && (match s.pageTenant a with | some t => !s.consentScope t 3 | none => false)

/-- A word of a unit's occupancy or profiling counters (R110, R403): TC_BUSY_x and TC_CYCLES, AC_CYCLES and AC_INSTRET. -/
def profileReg (a : Nat) : Bool :=
  let u := (a - 0x0C0000000000) % 0x100000 / 0x10000
  let off := a % 0x10000
  (decide (u < 9) && decide (0x400 ≤ off) && decide (off < 0x428)) ||
  ((u == 9 || u == 10) && decide (0x400 ≤ off) && decide (off < 0x410))

/-- Whether a management function is kept from reading a word of a tenant's occupancy or profiling counters: the tenant has not
consented to PROFILE (R110, R359). -/
def State.profileBar (s : State) (ini a : Nat) : Bool :=
  isMgmtFn ini && (match s.pageTenant a with | some t => profileReg a && !s.consentScope t 2 | none => false)

/-- A write that needs a right: without it the write has no effect, completes with an error status and is recorded as
class U, SOURCE 0x08 (R109, R381). A management function without the consent of R359 gets an error response only.
Log entries 21 (DEDUCED), 22 (DEDUCED). -/
def State.guarded (s : State) (right : Bool) (ini addr : Nat) (f : State) : State :=
  if s.consentBar ini addr then s.answer .err
  else if right then f.answer (.ok 0) else s.accessError 0x08 6 ini addr

/-- Take a value that the spec leaves open, below `2^w`.
Log entry 5 (DESIGN CHOICE). -/
def State.free (s : State) (w : Nat) : State × Nat :=
  ({ s with freeCtr := s.freeCtr + 1 }, Config.freeValue s.freeCtr % 2 ^ w)

/-- A message that leaves the module.
Log entries 6 (DESIGN CHOICE), 120 (DESIGN CHOICE). -/
def State.send (s : State) (m : Msg) : State := { s with sent := s.sent ++ [m] }

/-- Whether the connector's links may come up: from the end of start-up step 1, or under the recovery responder (R376, R447).
Log entry 152 (DESIGN CHOICE). -/
def State.linksReady (s : State) : Bool := !s.start.held && !s.start.dark && (s.start.ended.contains 1 || s.start.recovery)

/-! ## Degraded states (R393) -/

/-- Quiet deadline of a class (R393). -/
def SorrelState.quiet (x : SorrelState) (cls : Nat) : Option Nat :=
  if cls = 0 then x.quietC else if cls = 1 then x.quietU else x.quietF

/-- Whether the degraded state of a class holds: to the end of its deadline's cycle (R393). -/
def State.degraded (s : State) (cls : Nat) : Bool :=
  match s.sorrel.quiet cls with
  | some c => decide (s.cycle ≤ c)
  | none => false

end Sys2Proof.Machine
end

