-- ==== Sys2Proof/Machine/Flags.lean ====
section
/-!
DEFINITION. Numbers: the formats of R41 and R42, exact values, rounding under the modes of R48 and R49, conversions (R46),
MX blocks (R45, R47), IEEE operations (R65), the matrix engine's accumulation window (R52–R60, R63) and the flags that
each operation raises, in the bit layout of TC_NUM_FLAGS (R74).
-/
namespace Sys2Proof.Machine

/-! ## Flags (TC_NUM_FLAGS [6:0]) -/

/-- A chunk drained with its sticky bit set (R58). -/
def fSticky : Nat := 1
/-- A nonzero result was inexact and tiny (R69). -/
def fUnderflow : Nat := 2
/-- A result overflowed (R46). -/
def fOverflow : Nat := 4
/-- A NaN was produced from non-NaN operands (R59, R46). -/
def fInvalid : Nat := 8
/-- A NaN operand was consumed. -/
def fNanIn : Nat := 16
/-- A conversion, MX block or integer operation saturated. -/
def fSat : Nat := 32
/-- A truncating spill completed (R73). -/
def fSpill : Nat := 64

/-! ## Formats (R41, R42) -/

/-- A storage format: its width, mantissa bits and bias; whether it is an integer, an MX format, has infinities, and
whether its all-ones pattern is NaN (E4M3). -/
structure Fmt where
  width : Nat
  m : Nat
  bias : Nat
  isInt : Bool
  isMx : Bool
  hasInf : Bool
  nanOnes : Bool
  deriving DecidableEq, Repr

/-- The format of a 4-bit code (R42); none for the reserved codes. An MX code gives its element format. -/
def fmtOf (code : Nat) : Option Fmt :=
  match code with
  | 0x0 => some ⟨64, 52, 1023, false, false, true, false⟩
  | 0x1 => some ⟨32, 23, 127, false, false, true, false⟩
  | 0x2 => some ⟨16, 7, 127, false, false, true, false⟩
  | 0x3 => some ⟨16, 10, 15, false, false, true, false⟩
  | 0x4 => some ⟨8, 3, 7, false, false, false, true⟩
  | 0x5 => some ⟨8, 2, 15, false, false, true, false⟩
  | 0x6 => some ⟨8, 3, 7, false, true, false, true⟩
  | 0x7 => some ⟨8, 2, 15, false, true, true, false⟩
  | 0x8 => some ⟨6, 2, 3, false, true, false, false⟩
  | 0x9 => some ⟨6, 3, 1, false, true, false, false⟩
  | 0xA => some ⟨4, 1, 1, false, true, false, false⟩
  | 0xB => some ⟨8, 0, 0, true, false, false, false⟩
  | 0xC => some ⟨4, 0, 0, true, false, false, false⟩
  | 0xD => some ⟨32, 0, 0, true, false, false, false⟩
  | _ => none

/-- The format of a code, FP32 where the code is reserved (a command with such a code is not issued, R90). -/
def fmtGet (code : Nat) : Fmt := (fmtOf code).getD ⟨32, 23, 127, false, false, true, false⟩

/-- FP32. -/
def fp32 : Fmt := ⟨32, 23, 127, false, false, true, false⟩
/-- FP64. -/
def fp64 : Fmt := ⟨64, 52, 1023, false, false, true, false⟩
/-- BF16. -/
def bf16 : Fmt := ⟨16, 7, 127, false, false, true, false⟩
/-- FP8 E4M3. -/
def e4m3 : Fmt := ⟨8, 3, 7, false, false, false, true⟩

/-- An exact value: NaN, an infinity, or sign × mant × 2^exp (a zero has mant 0 and keeps its sign). -/
inductive FV where
  | nan
  | inf (neg : Bool)
  | fin (neg : Bool) (mant : Nat) (exp : Int)
  deriving DecidableEq, Repr

/-- +0. -/
def FV.zero : FV := .fin false 0 0

/-- Exponent of the smallest normal value. -/
def Fmt.emin (f : Fmt) : Int := 1 - (f.bias : Int)
/-- Exponent field width. -/
def Fmt.ebits (f : Fmt) : Nat := f.width - 1 - f.m
/-- Largest finite mantissa, as an (m + 1)-bit integer. -/
def Fmt.maxMant (f : Fmt) : Nat := if f.nanOnes then 2 ^ (f.m + 1) - 2 else 2 ^ (f.m + 1) - 1
/-- Exponent of the largest finite value. -/
def Fmt.emax (f : Fmt) : Int := (2 ^ f.ebits - 1 : Nat) - (f.bias : Int) - (if f.hasInf then 1 else 0)
/-- The largest finite value. -/
def Fmt.maxFin (f : Fmt) (neg : Bool) : FV := .fin neg f.maxMant (f.emax - f.m)

/-- The value of an encoding. -/
def Fmt.decode (f : Fmt) (n : Nat) : FV :=
  if f.isInt then
    let i := toInt f.width n
    .fin (decide (i < 0)) i.natAbs 0
  else
    let neg := bit n (f.width - 1)
    let e := bits n (f.width - 2) f.m
    let q := n % 2 ^ f.m
    if e = 2 ^ f.ebits - 1 ∧ f.hasInf then (if q = 0 then .inf neg else .nan)
    else if e = 2 ^ f.ebits - 1 ∧ f.nanOnes ∧ q = 2 ^ f.m - 1 then .nan
    else if e = 0 then .fin neg q (f.emin - f.m)
    else .fin neg (2 ^ f.m + q) ((e : Int) - f.bias - f.m)

/-- The canonical NaN (R44); zero bits in formats without NaN. -/
def Fmt.nanBits (f : Fmt) : Nat :=
  if f.isInt then 0
  else if f.hasInf then (2 ^ f.ebits - 1) * 2 ^ f.m + 2 ^ (f.m - 1)
  else if f.nanOnes then (2 ^ (f.ebits + f.m)) - 1
  else 0

/-- floor(log2 |v|) of a nonzero finite value. -/
def FV.exponent : FV → Int
  | .fin _ q e => e + Nat.log2 q
  | _ => 0

/-- Whether a value is zero. -/
def FV.isZero : FV → Bool
  | .fin _ 0 _ => true
  | _ => false

/-- Whether a value is finite. -/
def FV.isFin : FV → Bool
  | .fin _ _ _ => true
  | _ => false

/-- Sign of a value. -/
def FV.neg? : FV → Bool
  | .nan => false
  | .inf n => n
  | .fin n _ _ => n

/-- The opposite value. -/
def FV.negate : FV → FV
  | .nan => .nan
  | .inf n => .inf (!n)
  | .fin n q e => .fin (!n) q e

/-- The magnitude. -/
def FV.abs : FV → FV
  | .nan => .nan
  | .inf _ => .inf false
  | .fin _ q e => .fin false q e

/-- Multiply or divide by a power of two. -/
def FV.scale (v : FV) (k : Int) : FV :=
  match v with
  | .fin n q e => .fin n q (e + k)
  | x => x

/-- q × 2^k as an integer quotient and whether a remainder is left. -/
def shiftQ (q : Nat) (k : Int) : Nat × Bool :=
  if 0 ≤ k then (q * 2 ^ k.toNat, false)
  else (q / 2 ^ (-k).toNat, decide (q % 2 ^ (-k).toNat ≠ 0))

/-! ## Rounding (R48, R49) -/

/-- sr_bits of R49. -/
def srBits (seed stream index : Nat) : Nat :=
  let w := 2 ^ 64
  let x := (seed % w) ^^^ (stream % 2 ^ 32 * 2 ^ 32) ^^^ (index * 0x9E3779B97F4A7C15 % w)
  let x := (x ^^^ (x / 2 ^ 30)) * 0xBF58476D1CE4E5B9 % w
  let x := (x ^^^ (x / 2 ^ 27)) * 0x94D049BB133111EB % w
  x ^^^ (x / 2 ^ 31)

/-- The rounding a descriptor asks for: mode (R48), SAT bit, and for mode 4 the 64 bits of sr_bits. -/
structure Rnd where
  mode : Nat
  sat : Bool
  sr : Nat
  deriving DecidableEq, Repr

/-- Round to nearest even, not saturating. -/
def rne : Rnd := ⟨0, false, 0⟩

/-- Round mant × 2^exp to an integer multiple of 2^ue: the integer and whether the result is inexact. -/
def roundInt (r : Rnd) (neg : Bool) (mant : Nat) (exp ue : Int) : Nat × Bool :=
  let k := exp - ue
  if 0 ≤ k then (mant * 2 ^ k.toNat, false)
  else
    let d := 2 ^ (-k).toNat
    let q := mant / d
    let rem := mant % d
    if rem = 0 then (q, false)
    else
      let up :=
        match r.mode with
        | 0 => if 2 * rem = d then q % 2 == 1 else decide (d < 2 * rem)
        | 1 => false
        | 2 => !neg
        | 3 => neg
        | _ => decide (r.sr / 2 ^ 40 % 2 ^ 24 < rem * 2 ^ 24 / d)
      (if up then q + 1 else q, true)

/-- The overflow result of a mode (R46): true for infinity, false for the largest finite value. -/
def overflowInf (mode : Nat) (neg : Bool) : Bool :=
  match mode with
  | 1 => false
  | 2 => !neg
  | 3 => neg
  | _ => true

/-- A rounded value with the flags raised. -/
structure Rounded where
  val : FV
  flags : Nat
  deriving DecidableEq, Repr

/-- Conversion to an integer format (R46). -/
def roundToInt (f : Fmt) (r : Rnd) (v : FV) : Rounded :=
  let top := 2 ^ (f.width - 1)
  match v with
  | .nan => ⟨.zero, fInvalid⟩
  | .inf neg => ⟨.fin neg (if neg then top else top - 1) 0, fSat⟩
  | .fin neg q e =>
    let (n, _) := roundInt r neg q e 0
    if (if neg then top else top - 1) < n then ⟨.fin neg (if neg then top else top - 1) 0, fSat⟩
    else ⟨.fin (neg && decide (n ≠ 0)) n 0, 0⟩

/-- Conversion to a floating-point format (R46, R49, R69). -/
def roundToFp (f : Fmt) (r : Rnd) (v : FV) : Rounded :=
  match v with
  | .nan => ⟨.nan, 0⟩
  | .inf neg =>
    if f.hasInf ∧ !r.sat then ⟨.inf neg, 0⟩ else ⟨f.maxFin neg, fSat⟩
  | .fin neg q e =>
    if q = 0 then ⟨.fin neg 0 0, 0⟩
    else
      let ex := e + Nat.log2 q
      let ue := max ex f.emin - f.m
      let (n, inexact) := roundInt r neg q e ue
      let past :=
        (let top := f.emax - f.m
         if top ≤ ue then decide (f.maxMant < n * 2 ^ (ue - top).toNat)
         else decide (f.maxMant * 2 ^ (top - ue).toNat < n))
      if past then
        if f.hasInf ∧ !r.sat then
          ⟨if overflowInf r.mode neg then .inf neg else f.maxFin neg, fOverflow⟩
        else ⟨f.maxFin neg, fSat⟩
      else
        let (un, _) := roundInt r neg q e (ex - f.m)
        let tiny := decide ((ex - f.m) + Nat.log2 (max un 1) < f.emin)
        ⟨.fin neg n ue, if inexact && tiny then fUnderflow else 0⟩

/-- Conversion to a format: rounding of the exact value (R46).
Log entry 39 (DEDUCED). -/
def Fmt.round (f : Fmt) (r : Rnd) (v : FV) : Rounded :=
  if f.isInt then roundToInt f r v else roundToFp f r v

/-- The encoding of a value that the format holds. -/
def Fmt.encode (f : Fmt) (v : FV) : Nat :=
  if f.isInt then
    match v with
    | .fin neg q e => ofInt f.width (if neg then -((shiftQ q e).1 : Int) else ((shiftQ q e).1 : Int))
    | _ => 0
  else
    let s := fun (neg : Bool) => if neg then 2 ^ (f.width - 1) else 0
    match v with
    | .nan => f.nanBits
    | .inf neg => s neg + (2 ^ f.ebits - 1) * 2 ^ f.m
    | .fin neg q e =>
      if q = 0 then s neg
      else
        let ex := e + Nat.log2 q
        if ex < f.emin then s neg + (shiftQ q (e - (f.emin - f.m))).1
        else s neg + (ex + f.bias).toNat * 2 ^ f.m + ((shiftQ q (e - (ex - f.m))).1 - 2 ^ f.m)

/-- Round and encode.
Log entry 39 (DEDUCED). -/
def Fmt.put (f : Fmt) (r : Rnd) (v : FV) : Nat × Nat :=
  let x := f.round r v
  (f.encode x.val, x.flags)

/-! ## Exact arithmetic -/

/-- The signed integer of a finite value over 2^ue, ue at or below its exponent. -/
def FV.over (v : FV) (ue : Int) : Int :=
  match v with
  | .fin neg q e => if neg then -((q * 2 ^ (e - ue).toNat : Nat) : Int) else ((q * 2 ^ (e - ue).toNat : Nat) : Int)
  | _ => 0

/-- An integer over 2^ue as a value; a zero takes the given sign. -/
def FV.ofInt (i : Int) (ue : Int) (zeroNeg : Bool) : FV :=
  if i = 0 then .fin zeroNeg 0 0 else .fin (decide (i < 0)) i.natAbs ue

/-- A value with flags from the operation itself (INVALID, NAN_IN). -/
abbrev Op := FV × Nat

/-- Exact sum; an exact zero sum of opposite signs is +0, or -0 under mode 3 (IEEE 754-2019). -/
def FV.add (mode : Nat) (a b : FV) : Op :=
  match a, b with
  | .nan, _ => (.nan, fNanIn)
  | _, .nan => (.nan, fNanIn)
  | .inf x, .inf y => if x = y then (.inf x, 0) else (.nan, fInvalid)
  | .inf x, _ => (.inf x, 0)
  | _, .inf y => (.inf y, 0)
  | .fin x p e, .fin y q g =>
    let ue := min e g
    let z := if p = 0 ∧ q = 0 ∧ x = y then x else mode == 3
    (FV.ofInt ((FV.fin x p e).over ue + (FV.fin y q g).over ue) ue z, 0)

/-- Exact product. -/
def FV.mul (a b : FV) : Op :=
  match a, b with
  | .nan, _ => (.nan, fNanIn)
  | _, .nan => (.nan, fNanIn)
  | .inf x, .inf y => (.inf (x != y), 0)
  | .inf x, .fin y q _ => if q = 0 then (.nan, fInvalid) else (.inf (x != y), 0)
  | .fin x p _, .inf y => if p = 0 then (.nan, fInvalid) else (.inf (x != y), 0)
  | .fin x p e, .fin y q g => (.fin (x != y) (p * q) (e + g), 0)

/-- Exact a × b + c. An infinity times 0 raises INVALID where the addend is no NaN: INVALID tells of a NaN from operands of
which none is one.
Log entry 194 (DEDUCED). -/
def FV.fma (mode : Nat) (a b c : FV) : Op :=
  let (p, f) := FV.mul a b
  if p = .nan then (.nan, if c = .nan then fNanIn else f)
  else
    let (r, g) := FV.add mode p c
    (r, f ||| g)

/-- Quotient to well beyond any target's precision, the remainder kept as a last sticky bit. -/
def FV.div (a b : FV) : Op :=
  match a, b with
  | .nan, _ => (.nan, fNanIn)
  | _, .nan => (.nan, fNanIn)
  | .inf _, .inf _ => (.nan, fInvalid)
  | .inf x, .fin y _ _ => (.inf (x != y), 0)
  | .fin x _ _, .inf y => (.fin (x != y) 0 0, 0)
  | .fin x p e, .fin y q g =>
    if q = 0 then (if p = 0 then (.nan, fInvalid) else (.inf (x != y), 0))
    else if p = 0 then (.fin (x != y) 0 0, 0)
    else
      let k := 128 + Nat.log2 q
      let n := p * 2 ^ k
      (.fin (x != y) (2 * (n / q) + (if n % q = 0 then 0 else 1)) (e - g - k - 1), 0)

/-- Square root to well beyond any target's precision, the remainder kept as a last sticky bit. -/
def FV.sqrt (a : FV) : Op :=
  match a with
  | .nan => (.nan, fNanIn)
  | .inf neg => if neg then (.nan, fInvalid) else (.inf false, 0)
  | .fin neg p e =>
    if p = 0 then (.fin neg 0 0, 0)
    else if neg then (.nan, fInvalid)
    else
      let odd : Nat := if e % 2 = 0 then 0 else 1
      let n : Nat := p * 2 ^ (odd + 256)
      let r := Nat.sqrt n
      (.fin false (2 * r + (if r * r = n then 0 else 1)) ((e - (odd : Int) - 256) / 2 - 1), 0)

/-- a < b for values other than NaN (−0 equals +0). -/
def FV.lt (a b : FV) : Bool :=
  match a, b with
  | .nan, _ => false
  | _, .nan => false
  | .inf x, .inf y => x && !y
  | .inf x, _ => x
  | _, .inf y => !y
  | .fin x p e, .fin y q g =>
    let ue := min e g
    decide ((FV.fin x p e).over ue < (FV.fin y q g).over ue)

/-- a = b as numbers. -/
def FV.eq (a b : FV) : Bool := a != .nan && b != .nan && !FV.lt a b && !FV.lt b a

/-- a below b in the order in which −0 lies below +0. -/
def FV.ltz (a b : FV) : Bool := FV.lt a b || (FV.eq a b && a.isZero && a.neg? && !b.neg?)

/-- IEEE 754-2019 minimumNumber. -/
def FV.minNum (a b : FV) : FV :=
  if a = .nan then b else if b = .nan then a else if FV.ltz b a then b else a

/-- IEEE 754-2019 maximumNumber. -/
def FV.maxNum (a b : FV) : FV :=
  if a = .nan then b else if b = .nan then a else if FV.ltz a b then b else a

/-! ## Elements in memory (R45) -/

/-- Element `i` of a packed run of `w`-bit elements. -/
def elemAt (data : List Byte) (w i : Nat) : Nat :=
  fieldLe data (w * i / 8) 9 / 2 ^ (w * i % 8) % 2 ^ w

/-- Bytes that `n` elements of `w` bits take. -/
def runBytes (w n : Nat) : Nat := (w * n + 7) / 8

/-- The packed value of a list of `w`-bit elements. -/
def packVal (w : Nat) : List Nat → Nat
  | [] => 0
  | v :: t => v % 2 ^ w + 2 ^ w * packVal w t

/-- Pack elements over old bytes, whose bits beyond the last element stay. -/
def packOver (w : Nat) (vs : List Nat) (old : List Byte) : List Byte :=
  let n := w * vs.length
  let b := runBytes w vs.length
  natLe b (leNat (slice old 0 b) / 2 ^ n * 2 ^ n + packVal w vs)

/-- The scale of an E8M0 byte: none for 0xFF (NaN), else the exponent. -/
def scaleOf (b : Nat) : Option Int := if b = 0xFF then none else some ((b : Int) - 127)

/-- An MX element under its block's scale byte (R45). -/
def mxValue (f : Fmt) (scale elem : Nat) : FV :=
  match scaleOf scale with
  | none => .nan
  | some x => (f.decode elem).scale x

/-- |v| ≤ maxnorm × 2^x. -/
def fitsScale (f : Fmt) (v : FV) (x : Int) : Bool := !FV.lt ((f.maxFin false).scale x) v.abs

/-- The smallest x at or above `x` (at most 127) with amax ≤ maxnorm × 2^x. -/
def searchScale (f : Fmt) (amax : FV) : Nat → Int → Int
  | 0, x => x
  | n + 1, x => if 127 ≤ x then 127 else if fitsScale f amax x then x else searchScale f amax n (x + 1)

/-- An MX block made from values (R47): scale byte, element encodings, flags. `rs` gives each element's rounding. -/
def mxBlock (f : Fmt) (vs : List FV) (rs : List Rnd) : Nat × List Nat × Nat :=
  let fins := vs.filter (fun v => v.isFin && !v.isZero)
  let amax := fins.foldl (fun m v => if FV.lt m v.abs then v.abs else m) FV.zero
  let hasNan := vs.any (fun v => v == .nan)
  let nanIn := if hasNan then fNanIn else 0
  if hasNan && !f.hasInf && !f.nanOnes then (0xFF, vs.map (fun _ => 0), nanIn)
  else
    let x := if fins.isEmpty then (-127) else searchScale f amax 256 (-127)
    let put := fun (p : FV × Rnd) =>
      match p.1 with
      | .nan => (f.nanBits, 0)
      | .inf neg => if f.hasInf ∧ !p.2.sat then (f.encode (.inf neg), 0) else (f.encode (f.maxFin neg), fSat)
      | v =>
        let r := f.round { p.2 with sat := true } (v.scale (-x))
        (f.encode r.val, r.flags)
    let es := (vs.zip rs).map put
    ((x + 127).toNat, es.map (·.1), es.foldl (fun a e => a ||| e.2) nanIn)

/-! ## The accumulation window (R52–R60) -/

/-- What a chunk's products come to: a special result, or the window value W over 2^F with its sticky bit; whether every
product is −0, or every product is +0; the flags NAN_IN and INVALID. -/
structure Chunk where
  special : Option FV
  w : Int
  f : Int
  sticky : Bool
  allNegZero : Bool
  allPosZero : Bool
  flags : Nat
  deriving DecidableEq, Repr

/-- E_max over the products whose factors are nonzero and finite (R54). -/
def eMax (ps : List (FV × FV)) : Option Int :=
  ps.foldl (fun m p =>
    if p.1.isFin && p.2.isFin && !p.1.isZero && !p.2.isZero then
      let e := p.1.exponent + p.2.exponent
      match m with | some x => some (max x e) | none => some e
    else m) none

/-- One product's contribution to the window (R55): the integer over 2^F and whether it was truncated. -/
def windowTerm (f : Int) (v : FV) : Int × Bool :=
  match v with
  | .fin neg q e =>
    let (n, lost) := shiftQ q (e - f)
    (if neg then -(n : Int) else n, lost)
  | _ => (0, false)

/-- The chunk of a list of products, with extra terms resolved singly (the special terms of R63). -/
def chunkOf (ps specials : List (FV × FV)) : Chunk :=
  let all := ps ++ specials
  let nanIn := all.any (fun p => p.1 == .nan || p.2 == .nan)
  let prods := all.map (fun p => (FV.mul p.1 p.2).1)
  let pos := prods.any (· == .inf false)
  let neg := prods.any (· == .inf true)
  let f := match eMax ps with | some e => e - 159 | none => 0
  let ts := ps.map (fun p => windowTerm f (FV.mul p.1 p.2).1)
  let fl := if nanIn then fNanIn else 0
  let isNan := prods.any (· == .nan) || (pos && neg)
  { special :=
      if isNan then some .nan
      else if pos then some (.inf false) else if neg then some (.inf true) else none
    w := ts.foldl (fun a t => a + t.1) 0
    f := f
    sticky := ts.any (·.2)
    allNegZero := prods.all (fun v => v.isZero && v.neg?)
    allPosZero := prods.all (fun v => v.isZero && !v.neg?)
    flags := if isNan && !nanIn then fl ||| fInvalid else fl }

/-- The value that a chunk drains under a mode, before rounding (R57–R59). -/
def Chunk.value (c : Chunk) (mode : Nat) : FV :=
  match c.special with
  | some v => v
  | none => FV.ofInt c.w c.f (c.allNegZero || (mode == 3 && !c.allPosZero))

/-- The drain of a chunk to a format: encoding and flags. -/
def Chunk.drain (c : Chunk) (f : Fmt) (r : Rnd) : Nat × Nat :=
  let (v, fl) := f.put r (c.value r.mode)
  (v, fl ||| c.flags ||| (if c.sticky then fSticky else 0))

/-- hi and lo of an FP32 operand (R63), whether it takes no part in the split, and the flags of the split: OVERFLOW alone, so
a tiny lo raises no UNDERFLOW.
Log entry 195 (DEDUCED). -/
def split32 (v : FV) : FV × FV × Bool × Nat :=
  match v with
  | .fin neg q e =>
    let hi := bf16.round rne (.fin neg q e)
    match hi.val with
    | .fin _ _ _ => (hi.val, (bf16.round rne (FV.add 0 v hi.val.negate).1).val, false, 0)
    | x => (x, .zero, true, fOverflow)
  | x => (x, .zero, true, 0)

/-- The chunk of FP32 operands: three BF16 passes into one window, special terms resolved singly (R63). -/
def chunk32 (ps : List (FV × FV)) : Chunk :=
  let sp := ps.map (fun p => (split32 p.1, split32 p.2, p))
  let normal := sp.filter (fun t => !t.1.2.2.1 && !t.2.1.2.2.1)
  let special := sp.filter (fun t => t.1.2.2.1 || t.2.1.2.2.1)
  let passes := normal.map (fun t => (t.1.1, t.2.1.1)) ++ normal.map (fun t => (t.1.1, t.2.1.2.1)) ++
    normal.map (fun t => (t.1.2.1, t.2.1.1))
  let singles := special.map (fun t =>
    (if t.1.2.2.1 then t.1.1 else t.2.2.1, if t.2.1.2.2.1 then t.2.1.1 else t.2.2.2))
  let c := chunkOf passes singles
  { c with flags := sp.foldl (fun a t => a ||| t.1.2.2.2 ||| t.2.1.2.2.2) c.flags }

end Sys2Proof.Machine
end

