-- ==== Sys2Proof/Machine/Special.lean ====
section
/-!
DEFINITION. The special functions (R67, R98): each one's value to far more precision than any format holds, in fixed point, and
the results that the table's bound leaves the hardware. Cosine and sine of a view's ANGLE (R267) are computed the same way.
-/
namespace Sys2Proof.Machine

/-! ## Constants in fixed point: value × 2^q -/

/-- arctan(1/n), or artanh(1/n), by its series; `terms` bounds it. -/
def fxArcInv (hyp : Bool) (q n terms : Nat) : Int :=
  ((List.range terms).foldl (fun (a : Int × Nat) (k : Nat) =>
    let t : Int := (a.2 / (2 * k + 1) : Nat)
    (if hyp ∨ k % 2 = 0 then a.1 + t else a.1 - t, a.2 / (n * n))) (0, 2 ^ q / n)).1

/-- π. -/
def fxPi (q : Nat) : Int := (16 * fxArcInv false (q + 32) 5 (q / 4 + 16) - 4 * fxArcInv false (q + 32) 239 (q / 15 + 8)) / 2 ^ 32

/-- ln 2. -/
def fxLn2 (q : Nat) : Int := 2 * fxArcInv true (q + 32) 3 (q / 3 + 20) / 2 ^ 32

/-! ## Series -/

/-- exp of `x` × 2^-q as `m` × 2^(k − q): (m, k). -/
def fxExp (q : Nat) (x : Int) : Int × Int :=
  let l := fxLn2 (q + 32)
  let k := (x + l / 2 ^ 33) / (l / 2 ^ 32)
  let r := (x * 2 ^ 32 - k * l) / 2 ^ 40
  let e := ((List.range (q / 9 + 6)).foldl (fun (a : Int × Int) (n : Nat) => (a.1 + a.2, a.2 * r / 2 ^ q / (n + 1))) (0, 2 ^ q)).1
  ((List.range 8).foldl (fun (e : Int) _ => e * e / 2 ^ q) e, k)

/-- ln of `m` × 2^-q, for m from 2^q to 2^(q+1). -/
def fxLog (q : Nat) (m : Int) : Int :=
  let z := (m - 2 ^ q) * 2 ^ q / (m + 2 ^ q)
  let z2 := z * z / 2 ^ q
  2 * ((List.range (q / 3 + 8)).foldl (fun (a : Int × Int) (k : Nat) => (a.1 + a.2 / (2 * k + 1), a.2 * z2 / 2 ^ q)) (0, z)).1

/-- ln of a positive value m × 2^e. -/
def fxLogOf (q m : Nat) (e : Int) : Int :=
  let b := Nat.log2 m
  fxLog q (m * 2 ^ q / 2 ^ b : Nat) + (e + b) * fxLn2 (q + 16) / 2 ^ 16

/-- Cosine and sine of `r` × 2^-q, |r| at most π/2. -/
def fxCosSin (q : Nat) (r : Int) : Int × Int :=
  let a := (List.range (q / 4 + 20)).foldl (fun (a : Int × Int × Int) (n : Nat) =>
    let c := if n % 4 = 0 then a.1 + a.2.2 else if n % 4 = 2 then a.1 - a.2.2 else a.1
    let s := if n % 4 = 1 then a.2.1 + a.2.2 else if n % 4 = 3 then a.2.1 - a.2.2 else a.2.1
    (c, s, a.2.2 * r / 2 ^ q / (n + 1))) (0, 0, 2 ^ q)
  (a.1, a.2.1)

/-- Cosine and sine of a nonnegative m × 2^e, with the argument reduced exactly. -/
def fxTrig (q m : Nat) (e : Int) : Int × Int :=
  let w := q + (e + Nat.log2 m).toNat + 16
  let half := fxPi w / 2
  let x : Int := (shiftQ m (e + w)).1
  let k := x / half
  let (c, s) := fxCosSin q ((x - k * half) / 2 ^ (w - q))
  if k % 4 = 0 then (c, s) else if k % 4 = 1 then (-s, c) else if k % 4 = 2 then (-c, -s) else (s, -c)

/-- erf of `z` × 2^-q, where z² × 2^-q is `z2` (from 0 to 2,000). -/
def fxErf (q : Nat) (z z2 : Int) : Int :=
  let n := (4 * z2 / 2 ^ q).toNat + 2 * q
  let sum := ((List.range n).foldl (fun (a : Int × Int) (i : Nat) => (a.1 + a.2, a.2 * 2 * z2 / 2 ^ q / (2 * i + 3))) (0, z)).1
  let (m, k) := fxExp q (-z2)
  let root : Int := Nat.sqrt (fxPi q * 2 ^ q).toNat
  let v := 2 * sum * m / root
  if 0 ≤ k then v * 2 ^ k.toNat else v / 2 ^ (-k).toNat

/-! ## The functions of R98 -/

/-- A value a × 2^b of a function, to the working precision. -/
abbrev Fx := Int × Int

/-- The working precision: beyond the format's smallest value and the input's. -/
def fxBits (f : Fmt) (ex : Int) : Nat := (if f.width = 64 then 1700 else 700) + (-ex).toNat

/-- |x| × 2^q, at most 2^12 × 2^q. -/
def fxArg (q m : Nat) (e : Int) : Int := if 12 ≤ e + Nat.log2 m then 2 ^ (q + 12) else (shiftQ m (e + q)).1

/-- exp of ± |x|, as m × 2^(k − q). -/
def fxExpOf (q : Nat) (neg : Bool) (a : Int) : Fx :=
  let (m, k) := fxExp q (if neg then -a else a)
  (m, k - q)

/-- The value of a special function at a nonzero finite input in its domain, ± m × 2^e. -/
def fxSpecial (f : Fmt) (op : Nat) (neg : Bool) (m : Nat) (e : Int) : Fx :=
  let q := fxBits f (e + Nat.log2 m)
  let a := fxArg q m e
  let sg := fun (v : Int) => if neg then -v else v
  let at_ := fun (v : Int) => ((v, -(q : Int)) : Fx)
  let one : Int := 2 ^ q
  match op with
  | 0x13 =>
    let odd : Nat := if e % 2 = 0 then 0 else 1
    (2 ^ (2 * q) / (Nat.sqrt (m * 2 ^ (odd + 2 * q)) : Nat), -(q : Int) - (e - odd) / 2)
  | 0x18 => fxExpOf q neg a
  | 0x19 =>
    let k := sg a / one
    let (v, j) := fxExp q ((sg a - k * one) * fxLn2 q / one)
    (v, j + k - q)
  | 0x1A => at_ (fxLogOf q m e)
  | 0x1B => at_ (fxLogOf q m e * one / fxLn2 q)
  | 0x1C =>
    let (v, j) := fxExpOf q neg a
    if 0 ≤ j then (v * 2 ^ j.toNat - 1, 0) else at_ ((shiftQ v.toNat (j + q)).1 - one)
  | 0x1D =>
    if 0 ≤ e then at_ (fxLogOf q (m * 2 ^ e.toNat + 1) 0)
    else at_ (fxLogOf q (2 ^ (-e).toNat + sg m).toNat e)
  | 0x1E => at_ (sg (fxTrig q m e).2)
  | 0x1F => at_ (fxTrig q m e).1
  | 0x20 =>
    let (v, j) := fxExpOf q true (2 * a)
    let t : Int := (shiftQ v.toNat (j + q)).1
    at_ (sg ((one - t) * one / (one + t)))
  | 0x21 =>
    let (v, j) := fxExpOf q true a
    let t : Int := (shiftQ v.toNat (j + q)).1
    if neg then (v * one / (one + t), j) else at_ (one * one / (one + t))
  | 0x22 => at_ (sg (if 32 * one < a then one else fxErf q a (a * a / one)))
  | _ =>
    let z2 := a * a / one / 2
    let er := if 2000 * one < z2 then one else fxErf q (Nat.sqrt (z2 * one).toNat) z2
    if neg then at_ (-(a * max 0 (one - er) / one / 2)) else ((m : Int) * (one + er), e - q - 1)

/-- Bound of R67 in ulp. -/
def specUlps (op : Nat) : Nat :=
  if op = 0x13 ∨ decide (0x18 ≤ op) && decide (op ≤ 0x1B) then 1 else if op = 0x23 then 3 else 2

/-- The range of a function (IEEE 754-2019), in units of 2^ulp: whether c × 2^ulp lies in it. -/
def specRange (op : Nat) (c ulp : Int) : Bool :=
  let unit : Nat := if 0 ≤ ulp then 1 else 2 ^ (-ulp).toNat
  let within1 := decide (c.natAbs ≤ unit)
  match op with
  | 0x13 => decide (0 ≤ c)
  | 0x18 => decide (0 ≤ c)
  | 0x19 => decide (0 ≤ c)
  | 0x1C => decide (-(unit : Int) ≤ c)
  | 0x1E => within1
  | 0x1F => within1
  | 0x20 => within1
  | 0x21 => decide (0 ≤ c) && within1
  | 0x22 => within1
  | _ => true

/-- The results, as multiples of ulp(y), that the bound and the range leave for the value y (R67); `ulp` is its exponent.
Log entry 43 (DEDUCED). -/
def specResults (f : Fmt) (op : Nat) (y : Fx) : Int × List Int :=
  let ex := y.2 + Nat.log2 y.1.natAbs
  let ulp := (if y.1 = 0 then f.emin else max ex f.emin) - f.m
  -- y in units of ulp/2^64
  let t : Int := (if 0 ≤ y.2 - ulp + 64 then y.1 * 2 ^ (y.2 - ulp + 64).toNat else y.1 / 2 ^ (-(y.2 - ulp + 64)).toNat)
  let b := specUlps op
  (ulp, ((List.range (2 * b + 2)).map (fun (i : Nat) => t / 2 ^ 64 + (i : Int) - b)).filter (fun c =>
    decide ((c * 2 ^ 64 - t).natAbs + 2 ≤ b * 2 ^ 64) && specRange op c ulp &&
    (decide (c.natAbs ≤ 2 ^ (f.m + 1)) || c % 2 == 0)))

/-- The result of a special function at a nonzero finite input in its domain: the one of those that R67 admits which the opaque
choice names, with OVERFLOW or UNDERFLOW (R69); a result past the format overflows under the mode (R46).
Log entry 43 (DEDUCED). -/
def specFin (f : Fmt) (op mode : Nat) (a : FV) : FV × Nat :=
  match a with
  | .fin neg m e =>
    let y := fxSpecial f op neg m e
    let (ulp, cs) := specResults f op y
    let c := cs.getD (Config.special op f.width (f.encode a) mode % max 1 cs.length) 0
    let sg := decide (y.1 < 0) || (decide (y.1 = 0) && neg)
    let v : FV := .fin sg c.natAbs ulp
    if FV.lt (f.maxFin false) v.abs then (if overflowInf mode sg then .inf sg else f.maxFin sg, fOverflow)
    else
      let exact := op == 0x19 && m % 2 ^ (-e).toNat == 0 && FV.eq v (.fin sg y.1.natAbs y.2)
      let un := roundInt rne sg y.1.natAbs y.2 (y.2 + Nat.log2 y.1.natAbs - f.m)
      let tiny := decide (y.1 = 0) || decide ((y.2 + Nat.log2 y.1.natAbs - f.m) + Nat.log2 (max un.1 1) < f.emin)
      (v, if tiny && !exact then fUnderflow else 0)
  | v => (v, 0)

/-! ## ANGLE (R267) -/

/-- Cosine and sine of an angle in units of 0.001 degrees: computed exactly, rounded to FP64, then to FP32.
Log entry 99 (DEDUCED). -/
def angleTrig (angle : Int) : FV × FV :=
  let q := 256
  let k := angle % 360000
  let quad := k / 90000
  let (c, s) := fxCosSin q (fxPi q * (k % 90000) / 180000)
  let (c, s) := if quad = 0 then (c, s) else if quad = 1 then (-s, c) else if quad = 2 then (-c, -s) else (s, -c)
  let put := fun (v : Int) => (fp32.round rne (fp64.round rne (FV.ofInt v (-256) false)).val).val
  (put c, put s)

end Sys2Proof.Machine
end

