-- ==== Sys2Proof/Machine/Digest.lean ====
section
/-!
DEFINITION. Digests and checks: SHA3-256 and SHA3-384 (FIPS 202), CRC-32C, the provenance digest (R174) and the
configuration record (R175).
-/
namespace Sys2Proof.Machine

/-! ## SHA3 (FIPS 202)

The sponge's state is one number of 1,600 bits: lane (x, y) stands at bit 64 × (x + 5 × y), and the 320 bits of one y are a
plane. Read as little-endian bytes it is FIPS 202's string of 200 bytes. -/

/-- Plane `y` of a state. -/
def spongePlane (a y : Nat) : Nat := a / 2 ^ (320 * y) % 2 ^ 320

/-- A state from its planes. -/
def spongeOf (p : Nat → Nat) : Nat := p 0 + p 1 * 2 ^ 320 + p 2 * 2 ^ 640 + p 3 * 2 ^ 960 + p 4 * 2 ^ 1280

/-- The plane whose lane x is lane x + `k` of a plane. -/
def planeTurn (p k : Nat) : Nat := (p / 2 ^ (64 * k) ||| p * 2 ^ (320 - 64 * k)) % 2 ^ 320

/-- The lowest bit of every lane of a plane. -/
def laneLow : Nat := 1 + 2 ^ 64 + 2 ^ 128 + 2 ^ 192 + 2 ^ 256

/-- Every lane of a plane rotated left by one. -/
def planeRotl (p : Nat) : Nat := (p * 2 &&& (2 ^ 320 - 1 - laneLow)) ||| (p / 2 ^ 63 &&& laneLow)

/-- θ: every plane takes the parities of the neighbouring columns. -/
def spongeTheta (a : Nat) : Nat :=
  let c := spongePlane a 0 ^^^ spongePlane a 1 ^^^ spongePlane a 2 ^^^ spongePlane a 3 ^^^ spongePlane a 4
  let d := planeTurn c 4 ^^^ planeRotl (planeTurn c 1)
  a ^^^ spongeOf (fun _ => d)

/-- ρ and π together, along the walk of FIPS 202 from lane (1, 0): step `t` turns the lane by (t + 1)(t + 2) / 2 and moves it to
(y, 2x + 3y), which is the next lane of the walk. -/
def spongeWalk (a : Nat) : Nat → Nat → Nat → Nat → Nat
  | 0, _, _, acc => acc
  | n + 1, x, y, acc =>
    let t := 23 - n
    let k := (t + 1) * (t + 2) / 2 % 64
    let v := a / 2 ^ (64 * (x + 5 * y)) % 2 ^ 64 * 2 ^ k
    let z := (2 * x + 3 * y) % 5
    spongeWalk a n y z (acc ||| (v % 2 ^ 64 ||| v / 2 ^ 64) * 2 ^ (64 * (y + 5 * z)))

/-- χ of a plane. -/
def planeChi (p : Nat) : Nat := p ^^^ ((2 ^ 320 - 1 - planeTurn p 1) &&& planeTurn p 2)

/-- One round but for its constant. -/
def spongeRound (a : Nat) : Nat :=
  let a := spongeTheta a
  let a := spongeWalk a 24 1 0 (a % 2 ^ 64)
  spongeOf (fun y => planeChi (spongePlane a y))

/-- ι's constant of the round that finds its shift register at `r`, and the register after it: output bit j of the seven stands at
bit 2^j − 1 of the lane, and the register's polynomial is x^8 + x^6 + x^5 + x^4 + 1. -/
def iotaNext : Nat → Nat → Nat → Nat × Nat
  | 0, r, rc => (rc, r)
  | n + 1, r, rc =>
    iotaNext n (if 128 ≤ r then 2 * r ^^^ 0x171 else 2 * r) (rc + r % 2 * 2 ^ (2 ^ (6 - n) - 1))

/-- Keccak-f[1600]: `n` rounds from the shift register `r` on. -/
def spongeRounds : Nat → Nat → Nat → Nat
  | 0, _, a => a
  | n + 1, r, a => let i := iotaNext 7 r 0; spongeRounds n i.2 (spongeRound a ^^^ i.1)

/-- Absorb `n` blocks of `rate` bytes. -/
def spongeAbsorb (rate : Nat) : Nat → Nat → List Byte → Nat
  | 0, a, _ => a
  | n + 1, a, data => spongeAbsorb rate n (spongeRounds 24 1 (a ^^^ fieldLe data 0 rate)) (data.drop rate)

/-- SHA3 with a rate and an output length in bytes: the suffix 01 and the padding 10*1 end the message. -/
def sha3 (rate out : Nat) (data : List Byte) : List Byte :=
  let q := rate - data.length % rate
  let pad : List Byte := natLe q (0x06 + 0x80 * 256 ^ (q - 1))
  natLe out (spongeAbsorb rate ((data.length + q) / rate) 0 (data ++ pad))

/-- SHA3-256.
Log entry 132 (DESIGN CHOICE). -/
def sha3_256 (data : List Byte) : List Byte := sha3 136 32 data
/-- SHA3-384. -/
def sha3_384 (data : List Byte) : List Byte := sha3 104 48 data

/-! ## CRC-32C -/

/-- One bit of the reflected CRC with polynomial 0x1EDC6F41. -/
def crcBit (c : Nat) : Nat := if c % 2 = 1 then c / 2 ^^^ 0x82F63B78 else c / 2

/-- CRC-32C of bytes. -/
def crc32c (data : List Byte) : Nat :=
  (data.foldl (fun c b => (List.range 8).foldl (fun c _ => crcBit c) (c ^^^ b.toNat)) 0xFFFFFFFF) ^^^ 0xFFFFFFFF

/-- One bit of the reflected CRC of IEEE 802.3. -/
def crcBitE (c : Nat) : Nat := if c % 2 = 1 then c / 2 ^^^ 0xEDB88320 else c / 2

/-- The frame check sequence of IEEE 802.3. -/
def crc32e (data : List Byte) : Nat :=
  (data.foldl (fun c b => (List.range 8).foldl (fun c _ => crcBitE c) (c ^^^ b.toNat)) 0xFFFFFFFF) ^^^ 0xFFFFFFFF

/-! ## Provenance (R174, R175) -/

/-- The configuration record (R175). -/
def configRecord (ucode acFw clusters slots entry tiles : Nat) : List Byte :=
  natLe 4 1 ++ natLe 4 ucode ++ natLe 4 acFw ++ natLe 2 clusters ++ natLe 2 slots ++ natLe 2 entry ++ natLe 2 0 ++ natLe 4 tiles ++
  zeros 40

/-- INPUT_DIGEST over declared inputs (R174). -/
def inputDigest (inputs : List (List Byte)) : List Byte := sha3_256 (inputs.flatMap (fun i => natLe 8 i.length ++ i))

/-- The provenance record: the four components and PROV (R174). -/
def provRecord (image weights input config : List Byte) : List Byte :=
  let c := slice image 0 32 ++ slice weights 0 32 ++ slice input 0 32 ++ slice config 0 32
  c ++ sha3_256 ([0x59, 0x50, 0x56, 0x31] ++ c)

end Sys2Proof.Machine
end

