-- ==== Sys2Proof/Machine/Rans.lean ====
section
/-!
DEFINITION. Coded weight blocks (R352, R353): the block header and the decoder of a coded payload.
-/
namespace Sys2Proof.Machine

/-- The symbol whose interval of cumulative frequencies holds `r`, with its frequency and the sum below it. -/
def ransFind (r : Nat) : List Nat → Nat → Nat → Option (Nat × Nat × Nat)
  | [], _, _ => none
  | f :: t, s, cum => if cum ≤ r ∧ r < cum + f then some (s, f, cum) else ransFind r t (s + 1) (cum + f)

/-- Take stream bytes into a state until it is at least 2^23: the state and the bytes left; none at the stream's end. -/
def ransFill : List Byte → Nat → Option (Nat × List Byte)
  | [], x => if x < 0x800000 then none else some (x, [])
  | b :: t, x => if x < 0x800000 then ransFill t (x * 256 + b.toNat) else some (x, b :: t)

/-- Decode `n` symbols from symbol number `j` on: the symbols, the states and the bytes left. -/
def ransGo (freqs : List Nat) : Nat → Nat → List Nat → List Byte → Option (List Nat × List Nat × List Byte)
  | 0, _, st, inp => some ([], st, inp)
  | n + 1, j, st, inp =>
    let x := st.getD (j % 32) 0
    match ransFind (x % 4096) freqs 0 0 with
    | none => none
    | some (sym, f, cum) =>
      match ransFill inp ((f * (x / 4096) + x % 4096 - cum) % 2 ^ 32) with
      | none => none
      | some (x, inp) =>
        match ransGo freqs n (j + 1) (st.set (j % 32) x) inp with
        | none => none
        | some (l, st, inp) => some (sym :: l, st, inp)

/-- Decode one plane of `n` symbols from the head of a payload: the symbols and the rest of the payload. -/
def ransPlane (b : List Byte) (n : Nat) : Option (List Nat × List Byte) :=
  let freqs := (List.range 256).map (fun i => fieldLe b (2 * i) 2)
  let len := fieldLe b 512 4
  if freqs.foldl (· + ·) 0 ≠ 4096 ∨ b.length < 644 + len then none
  else
    let st := (List.range 32).map (fun i => fieldLe b (516 + 4 * i) 4)
    match ransGo freqs n 0 st ((b.drop 644).take len) with
    | some (l, st, []) => if st.all (· == 0x800000) then some (l, b.drop (644 + len)) else none
    | _ => none

/-- Decode the planes of a payload. -/
def ransPlanes (n : Nat) : Nat → List Byte → Option (List (List Nat))
  | 0, b => if b.isEmpty then some [] else none
  | k + 1, b =>
    match ransPlane b n with
    | none => none
    | some (l, rest) => (ransPlanes n k rest).map (l :: ·)

/-- The raw bytes of a coded payload of `rawLen` bytes in planes of `elem`. -/
def codedRaw (elem rawLen : Nat) (payload : List Byte) : Option (List Byte) :=
  (ransPlanes (rawLen / max 1 elem) elem payload).map (fun ps =>
    (List.range rawLen).map (fun i => BitVec.ofNat 8 ((ps.getD (i % max 1 elem) []).getD (i / max 1 elem) 0)))

/-- The raw bytes of a slot that holds a coded block: header and payload; unreadable bytes count as 0. -/
def codedSlot (elem : Nat) (b : List Byte) : List Byte :=
  (codedRaw elem (fieldLe b 0 4) (slice b 16 (fieldLe b 8 4))).getD []

/-- Whether a slot's coded block fails to decode, or its raw bytes fail their CRC-32C (R71, R353). -/
def codedBad (elem : Nat) (b : List Byte) : Bool :=
  match codedRaw elem (fieldLe b 0 4) (slice b 16 (fieldLe b 8 4)) with
  | some raw => crc32c raw != fieldLe b 12 4
  | none => true

end Sys2Proof.Machine
end

