-- ==== Sys2Proof/Machine/MemOps.lean ====
section
/-!
DEFINITION. Memory accesses: the address map (R9, R29), slot aliases (R14), routes (R23), fenced stacks, clusters and links
(R25, R391), the protection code on the access path (R18, R33, R35, R36), write atomicity (R32), the snoop filter (R141),
hub memory (R20, R313), weight regions (R356) and NAND blocks (R26).
-/
namespace Sys2Proof.Machine

/-! ## Bytes -/

/-- Read `n` bytes of a cell list.
Log entry 11 (DESIGN CHOICE). -/
def cellsRead (m : List Host.Cell) (a : Nat) : Nat → List Byte
  | 0 => []
  | n + 1 => tabGet 0 m a :: cellsRead m (a + 1) n

/-- Write bytes into a cell list, keeping its canonical form (unlisted bytes read as 0). -/
def cellsWrite (m : List Host.Cell) (a : Nat) : List Byte → List Host.Cell
  | [] => m
  | b :: t => cellsWrite (tabSet 0 m a b) (a + 1) t

/-- Zero every byte of `[a, a + n)`. -/
def cellsZero (m : List Host.Cell) (a n : Nat) : List Host.Cell :=
  m.filter (fun c => decide (c.1 < a) || decide (a + n ≤ c.1))

/-- The canonical form of memory: in every table addresses rise strictly and no entry equals what an unlisted one reads as.
Log entry 11 (DESIGN CHOICE). -/
def Memory.wf (m : MemState) : Bool :=
  tabWf 0 m.cells && tabWf {} m.ecc && tabWf 0 m.nand && tabWf 0 m.host

/-! ## The address map -/

/-- Where an address lies (R9, R29). -/
inductive Place where
  | hbm (stack : Nat)
  | lp
  | cluMem (d c : Nat)
  | tile (d c s : Nat)
  | hubMem
  | regPage
  | unassigned
  deriving DecidableEq, Repr

/-- CL_SLOT_MAP's choice: the physical slot that serves logical slot `l` (R14). -/
def State.physSlot (s : State) (d c l : Nat) : Nat :=
  let m := s.reg (clA d c 0x40)
  if bit m 31 && bits m 26 24 == l then 8 else l

/-- The place of an address before a slot alias is resolved, with the alias's logical slot if it is one. -/
def placeOf (a : Nat) : Place × Option Nat :=
  if a < 0x6000000000 then (.hbm (a / 0xC00000000), none)
  else if 0x10000000000 ≤ a ∧ a < 0x18000000000 then (.lp, none)
  else if 0x80000000000 ≤ a ∧ a < 0x80200000000 then
    let r := a - 0x80000000000
    let d := r / 0x80000000
    let c := r % 0x80000000 / 0x10000000
    let o := r % 0x10000000
    if o < 0x3000000 then (.cluMem d c, none)
    else if 0x4000000 ≤ o ∧ o < 0x6400000 ∧ (o - 0x4000000) % 0x400000 < 0x200000 then
      (.tile d c ((o - 0x4000000) / 0x400000), none)
    else if 0x8000000 ≤ o ∧ o < 0xA000000 ∧ (o - 0x8000000) % 0x400000 < 0x200000 then
      (.tile d c ((o - 0x8000000) / 0x400000), some ((o - 0x8000000) / 0x400000))
    else (.unassigned, none)
  else if 0x80200000000 ≤ a ∧ a < 0x80204000000 then (.hubMem, none)
  else if (regBlock a).isSome ∧ a < 0x1000000000000 then (.regPage, none)
  else (.unassigned, none)

/-- Base address of a cluster window. -/
def cluBase (d c : Nat) : Nat := 0x80000000000 + d * 0x80000000 + c * 0x10000000
/-- Base address of the tile memory of a physical slot. -/
def tileBase (d c sl : Nat) : Nat := cluBase d c + 0x4000000 + sl * 0x400000
/-- Base address of hub memory. -/
def hubBase : Nat := 0x80200000000

/-- The physical address that an access reaches, with aliases resolved through the slot map as it stands (R14, R16). -/
def State.phys (s : State) (a : Nat) : Nat :=
  match placeOf a with
  | (.tile d c l, some _) => tileBase d c (s.physSlot d c l) + (a - cluBase d c - 0x8000000) % 0x400000
  | _ => a

/-- The place of an address with aliases resolved. -/
def State.place (s : State) (a : Nat) : Place := (placeOf (s.phys a)).1

/-- Whether `[a, a + n)` lies in one place. HBM stacks follow one another, so any HBM range counts as one. -/
def State.onePlace (s : State) (a n : Nat) : Bool :=
  n == 0 ||
  (match s.place a, s.place (a + n - 1) with
   | .hbm _, .hbm _ => true
   | .unassigned, _ => false
   | .regPage, _ => false
   | p, q => decide (p = q) && decide (s.phys (a + n - 1) = s.phys a + n - 1))

/-- The die of a place (4 for the hub). -/
def Place.die : Place → Nat
  | .hbm k => k / 2
  | .cluMem d _ => d
  | .tile d _ _ => d
  | _ => 4

/-- The UNIT codes of the links an access uses (R23, SPACE 4 numbering of R384): from die `d` (4: hub or external). -/
def routeLinks (d e a : Nat) : List Nat :=
  if d = e then []
  else if 4 ≤ d then (if 4 ≤ e then [] else [4 + e])
  else if 4 ≤ e then [4 + d]
  else if e = (d + 1) % 4 then [d]
  else if e = (d + 3) % 4 then [e]
  else if bit a 12 then [(d + 3) % 4, (d + 2) % 4] else [d, (d + 1) % 4]

/-- Addresses of `[a, a + n)` that between them take every route of the range: the ends, and one on the other side of the 4 KiB
boundary next to each end (R23: bit 12 alone chooses between the two routes to the opposite die). -/
def routePoints (a n : Nat) : List Nat := [a, min (a + 0x1000) (a + n - 1), max a (a + n - 1 - 0x1000), a + n - 1]

/-- Whether a link on a route of `[a, a + n)` is fenced so that the access errs (R23, R391). -/
def State.linkFenced (s : State) (ini a n : Nat) : Bool :=
  let d := if idDie ini < 4 then idDie ini else 4
  (routePoints a n).any (fun q => (routeLinks d (s.place q).die q).any (fun l => s.sorrel.fenced.contains (0x5000 + l)))

/-- Whether the cluster that owns the place is fenced (R391). -/
def State.clusterFenced (s : State) : Place → Bool
  | .cluMem d c => s.sorrel.fenced.contains (0x3000 + d * 0x100 + c * 0x10)
  | .tile d c _ => s.sorrel.fenced.contains (0x3000 + d * 0x100 + c * 0x10)
  | _ => false

/-- Bit `k` of MOD_MEM_STATUS.HBM_FENCED. -/
def State.stackFenced (s : State) (k : Nat) : Bool := s.rbit (modA 0x100) (8 + k)

/-- The fenced stacks that a range touches (at most two stacks lie under one access). -/
def State.fencedIn (s : State) (a n : Nat) : Option Nat :=
  match s.place a, s.place (a + n - 1) with
  | .hbm j, .hbm k => if s.stackFenced j then some j else if s.stackFenced k then some k else none
  | _, _ => none

/-- The UNIT code of the unit whose controller detects an error of a place (R391, R389). -/
def Place.detUnit : Place → Nat
  | .hbm k => 0x4000 + k
  | .cluMem d c => 0x3000 + d * 0x100 + c * 0x10
  | .tile d c s => 0x1000 + d * 0x100 + c * 0x10 + s
  | _ => 0xFFFF

/-- Size of the atomic unit of a place (R32). -/
def Place.unit : Place → Nat
  | .hbm _ => 64
  | .lp => 64
  | _ => 32

/-! ## Regions -/

/-- The region number of an HBM or LPDDR5X address (R22, R313): HBM region r, LPDDR5X region 196,608 + n. -/
def regionOf (a : Nat) : Nat := if a < 0x6000000000 then a / 0x200000 else 196608 + (a - 0x10000000000) / 0x200000

/-- First byte of a region. -/
def regionBase (r : Nat) : Nat := if r < 196608 then r * 0x200000 else 0x10000000000 + (r - 196608) * 0x200000

/-- An entry of the region table.
Log entry 31 (DESIGN CHOICE). -/
def State.region (s : State) (r : Nat) : Region := tabGet {} s.mem.regions r

/-- Set an entry of the region table. -/
def State.setRegion (s : State) (r : Nat) (e : Region) : State :=
  { s with mem := { s.mem with regions := tabSet {} s.mem.regions r e } }

/-- The 8 bytes of a region-table entry (R313). -/
def Region.bytes (e : Region) : List Byte :=
  let st := match e.state with | .dirty => 0 | .free => 1 | .assigned => 2 | .scrubbing => 3
  natLe 8 (st * 2 ^ 61 + e.owner * 2 ^ 56 + e.epoch * 2 ^ 55 + e.index * 2 ^ 36)

/-- Offset of an address in the region table, if it lies there (R313).
Log entry 31 (DESIGN CHOICE). -/
def regionTableOff (p : Nat) : Option Nat :=
  if hubBase + 0x100000 ≤ p ∧ p < hubBase + 0x100000 + 458752 * 8 then some (p - hubBase - 0x100000) else none

/-- The address of byte `off` of tenant `t`'s device-memory space (R314); none outside it. -/
def State.devAddr (s : State) (t off : Nat) : Option Nat :=
  match s.mem.regions.find? (fun p => decide (p.2.state = .assigned) && p.2.owner == t && p.2.index == off / 0x200000) with
  | some (r, _) => some (regionBase r + off % 0x200000)
  | none => none

/-! ## Application-core caches (R141) -/

/-- Index of an application core. -/
def acIx (d c k : Nat) : Nat := (d * 8 + c) * 2 + k

/-- The state of an application core. -/
def State.acGet (s : State) (i : Nat) : AcState := tabGet {} s.ac i

/-- Set the state of an application core. -/
def State.acSet (s : State) (i : Nat) (x : AcState) : State := { s with ac := tabSet {} s.ac i x }

/-- The dirty lines of the cores of a cluster that overlap a range of physical addresses. -/
def State.dirtyLines (s : State) (d c p n : Nat) : List CacheLine :=
  ((s.acGet (acIx d c 0)).lines ++ (s.acGet (acIx d c 1)).lines).filter
    (fun l => l.dirty && decide (l.addr < p + n) && decide (p < l.addr + 64))

/-- Bytes as memory holds them at a physical address: cells, with the region table shown in its range of hub memory.
Log entry 11 (DESIGN CHOICE). -/
def State.rawByte (s : State) (p : Nat) : Byte :=
  match regionTableOff p with
  | some o => (s.region (o / 8)).bytes.getD (o % 8) 0
  | none => tabGet 0 s.mem.cells p

/-- `n` bytes at a physical address as the tier holds them. -/
def State.rawRead (s : State) (p : Nat) : Nat → List Byte
  | 0 => []
  | n + 1 => s.rawByte p :: State.rawRead s (p + 1) n

/-- Overlay the bytes of cached lines on bytes read at `p`. -/
def overlay (lines : List CacheLine) (p : Nat) (data : List Byte) : List Byte :=
  data.mapIdx (fun i b =>
    match lines.find? (fun l => decide (l.addr ≤ p + i) && decide (p + i < l.addr + 64)) with
    | some l => l.data.getD (p + i - l.addr) b
    | none => b)

/-- The listed words with a protection-code status, in a range of word numbers (unlisted words are clean). -/
def State.badWords (s : State) (lo hi : Nat) : List Nat :=
  (s.mem.ecc.filter (fun e => decide (lo ≤ e.1) && decide (e.1 < hi))).map (·.1)

/-- The coded slot of a marked weight region that an HBM address lies in, with the package's ELEM_BYTES (R356). -/
def State.codedAt (s : State) (p : Nat) : Option (Nat × Nat) :=
  let e := s.region (regionOf p)
  if e.weight && bit e.coded (p % 0x200000 / 0x10000) then some (p / 0x10000 * 0x10000, e.elem) else none

/-- `n` bytes of HBM as a read delivers them: a coded slot is decompressed (R356). -/
def State.hbmRead (s : State) (p n : Nat) : List Byte :=
  if s.mem.regions.any (fun r => r.2.weight && r.2.coded != 0 && decide (regionBase r.1 < p + n) &&
      decide (p < regionBase r.1 + 0x200000)) then
    (List.range ((p + n - 1) / 0x10000 - p / 0x10000 + 1)).flatMap (fun i =>
      let a := (p / 0x10000 + i) * 0x10000
      let lo := max p a
      let hi := min (p + n) (a + 0x10000)
      match s.codedAt a with
      | some (b, elem) => slice (codedSlot elem (s.rawRead b 0x10000)) (lo - a) (hi - lo)
      | none => s.rawRead lo (hi - lo))
  else s.rawRead p n

/-- The slots of a range of HBM that hold a coded block which fails its check (R71).
Log entry 142 (DEDUCED). -/
def State.codedFail (s : State) (p n : Nat) : List Nat :=
  match (placeOf p).1 with
  | .hbm _ =>
    if s.mem.regions.any (fun r => r.2.weight && r.2.coded != 0 && decide (regionBase r.1 < p + n) &&
        decide (p < regionBase r.1 + 0x200000)) then
      ((List.range ((p + n - 1) / 0x10000 - p / 0x10000 + 1)).map (fun i => (p / 0x10000 + i) * 0x10000)).filter (fun a =>
        match s.codedAt a with
        | some (b, elem) => codedBad elem (s.rawRead b 0x10000)
        | none => false)
    else []
  | _ => []

/-- The words that a read of `[p, p + n)` fetches and that are not clean: of a coded slot the whole stored block (R356). -/
def State.readWords (s : State) (p n : Nat) : List Nat :=
  match (placeOf p).1 with
  | .hbm _ =>
    (s.badWords (p / 0x10000 * 2048) ((p + n + 0xFFFF) / 0x10000 * 2048)).filter (fun w =>
      match s.codedAt (w * 32) with
      | some (b, _) => decide (w * 32 < b + 16 + leNat (s.rawRead (b + 8) 4))
      | none => decide (p < w * 32 + 32) && decide (w * 32 < p + n))
  | _ => s.badWords (p / 32) ((p + n + 31) / 32)

/-- Bytes read at a physical address by an initiator other than a core's own caches: a line that a core of the cluster
holds dirty supplies its data (R141). -/
def State.visRead (s : State) (p n : Nat) : List Byte :=
  match (placeOf p).1 with
  | .cluMem d c =>
    let ls := s.dirtyLines d c p n
    if ls.isEmpty then s.rawRead p n else overlay ls p (s.rawRead p n)
  | .hbm _ => s.hbmRead p n
  | _ => s.rawRead p n

/-- Store bytes at a physical address with no check. -/
def State.rawWrite (s : State) (p : Nat) (data : List Byte) : State :=
  { s with mem := { s.mem with cells := cellsWrite s.mem.cells p data } }

/-! ## The protection code -/

/-- Protection-code status of a word. -/
def State.word (s : State) (w : Nat) : WordStat := tabGet {} s.mem.ecc w

/-- Set the protection-code status of a word. -/
def State.setWord (s : State) (w : Nat) (x : WordStat) : State :=
  { s with mem := { s.mem with ecc := tabSet {} s.mem.ecc w x } }

/-- The initiator ID of the controller or scrubber that owns a place (R11). -/
def Place.ctrlId : Place → Nat
  | .hbm k => mkId (k / 2) 0 14 (k % 2)
  | .lp => hubId 8
  | .cluMem d c => mkId d c 14 5
  | .tile d c _ => mkId d c 14 5
  | _ => hubId 15

/-- Take what a decoder finds on words: symbols in error, and miscorrected or unnoticed data (R33); a correction that a
stack's on-die ECC signals is counted and reported as class C, SOURCE 0x0B (R21).
Log entry 29 (DESIGN CHOICE). -/
def State.upset (s : State) (us : List Upset) : State :=
  us.foldl (fun s u =>
    let p := s.phys u.addr / 32 * 32
    let s := match u.data with | some d => s.rawWrite p (slice d 0 32) | none => s
    let s := s.setWord (p / 32) { s.word (p / 32) with sym := u.sym }
    match (placeOf p).1 with
    | .hbm k =>
      if u.onDie then (s.bump (srlA (0x80 + 4 * k))).presentHub 0x0B 10 ((Place.hbm k).ctrlId) 0 p 0 else s
    | _ => s) s

/-- Write a word as poisoned: zero data and the poison pattern (R36). -/
def State.poisonWord (s : State) (w : Nat) : State :=
  (s.rawWrite (w * 32) (zeros 32)).setWord w { poison := true }

/-- The targeted scrub of a word that is scheduled for one (R35): double correction corrects up to two symbols and the
correction is recorded as class C; a word it cannot correct is poisoned without a record; `mis` is the data of a word of
three symbols that double correction miscorrects without notice. -/
def State.targetedScrub (s : State) (w : Nat) (mis : Option (List Byte)) : State :=
  let x := s.word w
  if !x.scrub then s
  else if x.sym ≤ 2 then
    let s := s.setWord w {}
    s.presentHub (if x.sym = 2 then 0x02 else 0x01) 4 ((placeOf (w * 32)).1.ctrlId) 0 (w * 32) x.sym
  else
    match mis with
    | some d =>
      let s := (s.rawWrite (w * 32) (slice d 0 32)).setWord w {}
      s.presentHub 0x02 4 ((placeOf (w * 32)).1.ctrlId) 0 (w * 32) 2
    | none => s.poisonWord w

/-- A word found with two or three symbols in error: scheduled for targeted scrub, or poisoned at once while
MOD_SCRUB_CTRL.TARGETED_EN is 0 (R35). -/
def State.detectWord (s : State) (w : Nat) : State :=
  if s.rbit (modA 0x110) 3 then s.setWord w { s.word w with scrub := true } else s.poisonWord w

/-- The words of 32 bytes that a range touches, as word numbers. -/
def wordsOf (p n : Nat) : List Nat :=
  if n = 0 then [] else (List.range ((p + n - 1) / 32 - p / 32 + 1)).map (· + p / 32)

/-- A word wholly inside a written range.
Log entry 25 (DEDUCED). -/
def coveredWord (p n w : Nat) : Bool := decide (p ≤ w * 32) && decide (w * 32 + 32 ≤ p + n)

/-- Clear the protection-code status of the words wholly written (R33, R36). -/
def State.clearWords (s : State) (p n : Nat) : State :=
  { s with mem := { s.mem with ecc := s.mem.ecc.filter (fun e => !coveredWord p n e.1) } }

/-- Store bytes at a physical address: a word that is written whole waits for its targeted scrub (R35) and then takes a valid
code (R33, R36). -/
def State.cellWrite (s : State) (p : Nat) (data : List Byte) : State :=
  let n := data.length
  let s := ((s.badWords (p / 32) ((p + n + 31) / 32)).filter (coveredWord p n)).foldl (fun s w => s.targetedScrub w none) s
  (s.clearWords p n).rawWrite p data

/-- Write back and drop the lines of one core that overlap a range.
Log entry 59 (DEDUCED). -/
def State.dropLines (s : State) (i p n : Nat) : State :=
  let x := s.acGet i
  let hit := fun (l : CacheLine) => decide (l.addr < p + n) && decide (p < l.addr + 64)
  let dirty := x.lines.filter (fun l => hit l && l.dirty)
  let s := dirty.foldl (fun s l => s.cellWrite l.addr l.data) s
  if x.lines.any hit then s.acSet i { x with lines := x.lines.filter (fun l => !hit l) } else s

/-- The snoop of a write by initiator `ini` (R141): the cores of the cluster, other than the writer, lose the line.
Log entry 59 (DEDUCED). -/
def State.snoop (s : State) (ini p n : Nat) : State :=
  match (placeOf p).1 with
  | .cluMem d c =>
    let s := if ini = acId d c 0 then s else s.dropLines (acIx d c 0) p n
    if ini = acId d c 1 then s else s.dropLines (acIx d c 1) p n
  | _ => s

/-- Among words, the one with most symbols in error, and among those the lowest (R382).
Log entry 26 (DEDUCED). -/
def State.worstWord (s : State) (ws : List Nat) : Nat × Nat :=
  ws.foldl (fun b w => if b.2 < (s.word w).sym then (w, (s.word w).sym) else b) (0, 0)

/-- The decode of the words of one access (R33, R35, R36): waiting targeted scrubs end first; then one error at most is
presented; the flag says that the access may deliver data. An access that meets poisoned words counts one poison read.
Log entry 26 (DEDUCED). -/
def State.decodeWords (s : State) (ini access : Nat) (ws : List Nat) : State × Bool :=
  let s := ws.foldl (fun s w => s.targetedScrub w none) s
  let poisoned := ws.any (fun w => (s.word w).poison)
  let (w, n) := s.worstWord ws
  let s := if poisoned then s.bump (srlA 0x40) else s
  if n = 0 then (s, !poisoned)
  else
    let pl := (placeOf (w * 32)).1
    let s := s.present ⟨if n = 1 then 0x01 else 0x03, access, ini, 0, w * 32, n, pl.detUnit⟩
    let s := ws.foldl (fun s w =>
      let x := s.word w
      if x.sym = 0 then s
      else if x.sym = 1 then s.setWord w { x with writeback := true }
      else s.detectWord w) s
    (s, !poisoned && decide (n < 2))

/-! ## Accesses -/

/-- Checks common to reads and writes of memory: the map (R10), hub-memory rights (R20), fences (R25, R391). -/
def State.accessCheck (s : State) (ini access a n : Nat) : State × Bool :=
  if !s.onePlace a n then (s.accessError 0x07 access ini a, false)
  else if s.place a = .hubMem && !(idDie ini == 4 || isMgmtFn ini) then (s.accessError 0x07 access ini a, false)
  else if s.clusterFenced (s.place a) || s.linkFenced ini a n then (s.answer .err, false)
  else
    match s.fencedIn a n with
    | some k =>
      if s.mem.fenceSeen.contains k then ((s.bump (srlA 0x44)).answer .err, false)
      else
        let s := { s with mem := { s.mem with fenceSeen := k :: s.mem.fenceSeen } }
        ((s.present ⟨0x06, access, ini, 0, a, 0, 0x4000 + k⟩).answer .err, false)
    | none => (s, true)

/-- A read meets coded blocks that fail their check, which are delivered as poisoned words (R71): a block's first failure is
recorded (R36), a later read counts a poison read. -/
def State.codedError (s : State) (ini : Nat) (bs : List Nat) : State :=
  let known := fun (s : State) (b : Nat) => bit (s.region (regionOf b)).failed (b % 0x200000 / 0x10000)
  let s := if bs.any (known s) then s.bump (srlA 0x40) else s
  match bs.filter (fun b => !known s b) with
  | [] => s
  | b :: t =>
    let s := s.present ⟨0x05, 0, ini, 0, b, 0, (placeOf b).1.detUnit⟩
    (b :: t).foldl (fun s b =>
      let e := s.region (regionOf b)
      s.setRegion (regionOf b) { e with failed := putBit e.failed (b % 0x200000 / 0x10000) true }) s

/-- Read `n` bytes of memory. None: the access completed with an error status.
Log entry 12 (DESIGN CHOICE). -/
def State.memRead (s : State) (ini a n : Nat) : State × Option (List Byte) :=
  let (s, ok) := s.accessCheck ini 0 a n
  if !ok then (s, none)
  else
    let p := s.phys a
    let (s, ok) := s.decodeWords ini 0 (s.readWords p n)
    if !ok then (s.answer .err, none)
    else
      match s.codedFail p n with
      | [] => (s, some (s.visRead p n))
      | bs => ((s.codedError ini bs).answer .err, none)

/-- Whether a range touches a region marked as a weight region (R356). -/
def State.weightHit (s : State) (p n : Nat) : Bool :=
  match (placeOf p).1 with
  | .hbm _ => s.mem.regions.any (fun r => r.2.weight &&
      decide (regionBase r.1 < p + n) && decide (p < regionBase r.1 + 0x200000))
  | _ => false

/-- Write bytes to memory. The words of partially covered units are read and modified (R18, R32): a word found with two or
three symbols in error, or poisoned, takes none of the bytes, and the write completes with an error status.
Log entries 22 (DEDUCED), 25 (DEDUCED). -/
def State.memWrite (s : State) (ini a : Nat) (data : List Byte) : State × Bool :=
  let n := data.length
  let (s, ok) := s.accessCheck ini 1 a n
  if !ok then (s, false)
  else
    let p := s.phys a
    if (s.place a = .hubMem && ((regionTableOff p).isSome || (regionTableOff (p + n - 1)).isSome)) then
      (s.accessError 0x08 1 ini a, false)
    else if s.weightHit p n then (s.accessError 0x08 1 ini a, false)
    else
      let u := (s.place a).unit
      let s := s.snoop ini p n
      let rmw := (s.badWords (p / u * u / 32) ((p + n + u - 1) / u * u / 32)).filter (fun w => !coveredWord p n w)
      let (s, ok) := s.decodeWords ini 2 rmw
      let keep := rmw.filter (fun w => (s.word w).poison || decide (1 < (s.word w).sym))
      let s := rmw.foldl (fun s w => if (s.word w).sym = 1 then s.setWord w {} else s) s
      let old := keep.map (fun w => (w * 32, s.rawRead (w * 32) 32))
      let s := s.cellWrite p data
      let s := old.foldl (fun s e => s.rawWrite e.1 e.2) s
      if ok then (s, true) else (s.answer .err, false)

/-- Every word of a range takes a valid code, as at the end of training (R24): no word of it is in error or poisoned. -/
def State.validCode (s : State) (p n : Nat) : State :=
  { s with mem := { s.mem with ecc := s.mem.ecc.filter (fun e => !(decide (p ≤ e.1 * 32) && decide (e.1 * 32 < p + n))) } }

/-- Zero a range of memory with a valid code, as hardware does at reset, zeroing and scrub (R19, R315, R328). -/
def State.zeroRange (s : State) (p n : Nat) : State :=
  { s with mem := { s.mem with
      cells := cellsZero s.mem.cells p n
      ecc := s.mem.ecc.filter (fun e => !(decide (p ≤ e.1 * 32) && decide (e.1 * 32 < p + n))) } }

/-! ## NAND (R26) -/

/-- Read NAND blocks `[b, b + n)`: `bad` are the blocks whose LDPC decode fails after read-retry. None: a poisoned block.
Log entry 30 (DEDUCED). -/
def State.nandRead (s : State) (ini b n : Nat) (bad : List Nat) : State × Option (List Byte) :=
  let blocks := (List.range n).map (· + b)
  let listed := blocks.filter s.mem.nandBad.contains
  let fresh := (blocks.filter bad.contains).filter (fun x => !s.mem.nandBad.contains x)
  let s := if listed.isEmpty then s else s.bumpBy (srlA 0x40) listed.length
  let s := fresh.foldl (fun s x => s.presentHub 0x04 8 ini 1 x 0) s
  let s := { s with mem := { s.mem with
    nandBad := fresh.foldl (fun l y => if l.length < 4096 then l ++ [y] else l) s.mem.nandBad } }
  if listed.isEmpty && fresh.isEmpty then (s, some (cellsRead s.mem.nand (b * 4096) (n * 4096)))
  else (s.answer .err, none)

/-- Write bytes into NAND block space at byte position `pos`; whole blocks written leave the poisoned list (R26), and the
bytes written are counted (R27). -/
def State.nandWrite (s : State) (pos : Nat) (data : List Byte) : State :=
  let n := data.length
  let s := s.bump64By (srlA 0xA0) n
  { s with mem := { s.mem with
      nand := cellsWrite s.mem.nand pos data
      nandBad := s.mem.nandBad.filter (fun b => !(decide (pos ≤ b * 4096) && decide (b * 4096 + 4096 ≤ pos + n))) } }

/-! ## Host memory -/

/-- Read host memory behind a port. -/
def State.hostRead (s : State) (port a n : Nat) : List Byte := cellsRead s.mem.host (port * 2 ^ 64 + a) n

/-- Write host memory behind a port. -/
def State.hostWrite (s : State) (port a : Nat) (data : List Byte) : State :=
  { s with mem := { s.mem with host := cellsWrite s.mem.host (port * 2 ^ 64 + a) data } }

/-! ## Accesses of the module's own units to the structures they keep in memory -/

/-- `n` bytes as unit `ini` reads them; free values where the access errs and returns no data.
Log entry 201 (DESIGN CHOICE). -/
def State.unitBytes (s : State) (ini a n : Nat) : List Byte :=
  match (s.memRead ini a n).2 with
  | some b => b
  | none => (List.range n).map (fun i => BitVec.ofNat 8 (Config.freeValue (s.freeCtr + i)))

/-- A little-endian number as unit `ini` reads it. -/
def State.unitNat (s : State) (ini a n : Nat) : Nat := leNat (s.unitBytes ini a n)

/-- What a read by a unit leaves (R10, R25, R33, R35, R36): its errors recorded and counted; the sender of the command is not
the access's initiator, so its answer stays.
Log entry 201 (DESIGN CHOICE). -/
def State.unitRead (s : State) (ini a n : Nat) : State :=
  let r := s.memRead ini a n
  { r.1 with resp := s.resp, freeCtr := s.freeCtr + (if r.2.isSome then 0 else n) }

/-- What several reads by a unit leave. -/
def State.unitReads (s : State) (ini : Nat) (rs : List (Nat × Nat)) : State := rs.foldl (fun s r => s.unitRead ini r.1 r.2) s

/-- Write bytes as unit `ini`. -/
def State.unitWrite (s : State) (ini a : Nat) (data : List Byte) : State := { (s.memWrite ini a data).1 with resp := s.resp }

/-- Read hub memory as a hub unit. -/
def State.hubRead (s : State) (ini off n : Nat) : List Byte := s.unitBytes ini (hubBase + off) n

/-- Write hub memory as a hub unit. -/
def State.hubWrite (s : State) (ini off : Nat) (data : List Byte) : State := s.unitWrite ini (hubBase + off) data

/-- Write a little-endian number to memory as unit `ini`. -/
def State.memPut (s : State) (ini a n v : Nat) : State := s.unitWrite ini a (natLe n v)

end Sys2Proof.Machine
end

