-- ==== Sys2Proof/Machine/SyncOps.lean ====
section
/-!
DEFINITION. Partitions and sync objects: who owns a cluster, an address or an object (R88, R311–R314), signals and waits
(R152–R158), attention to tenants and management (R164, R392).
-/
namespace Sys2Proof.Machine

/-! ## Tenants and partitions -/

/-- Number of a cluster from a bit of CLUSTERS. -/
def cluList (mask : Nat) : List Nat := (List.range 32).filter (bit mask)

/-- The clusters of a tenant, as bit numbers. -/
def State.tenClusters (s : State) (t : Nat) : List Nat := cluList (s.tenant t).clusters

/-- The tenant whose partition holds an initiator, if any (R392, R383 TENANT). -/
def State.iniTenant (s : State) (ini : Nat) : Option Nat :=
  if idDie ini < 4 ∧ idUnit ini < 11 then s.cluOwner (idDie ini) (idClu ini)
  else if idDie ini = 7 ∧ idClu ini < 4 ∧ idUnit ini ≠ 0 then some (idUnit ini)
  else none

/-- Whether `[a, a + n)` lies in tenant `t`'s partition: SRAM of its clusters, or HBM and LPDDR5X regions assigned to it. -/
def State.inPartition (s : State) (t a n : Nat) : Bool :=
  n == 0 ||
  (s.onePlace a n &&
    (match s.place a with
     | .cluMem d c => bit (s.tenant t).clusters (8 * d + c)
     | .tile d c _ => bit (s.tenant t).clusters (8 * d + c)
     | .hbm _ | .lp =>
       (List.range (regionOf (a + n - 1) - regionOf a + 1)).all (fun i =>
         let e := s.region (regionOf a + i)
         decide (e.state = .assigned) && e.owner == t)
     | _ => false))

/-! ## Sync objects (R88) -/

/-- Die of an object index. -/
def objDie (o : Nat) : Nat := bits o 17 16
/-- Cluster of an object index. -/
def objClu (o : Nat) : Nat := bits o 15 13
/-- Build an object index. -/
def mkObj (d c n : Nat) : Nat := d * 0x10000 + c * 0x2000 + n

/-- Whether an object belongs to tenant `t`. -/
def State.objOwned (s : State) (t o : Nat) : Bool := decide (o < 0x40000) && bit (s.tenant t).clusters (8 * objDie o + objClu o)

/-- Value of a sync object. -/
def State.obj (s : State) (o : Nat) : Nat := tabGet 0 s.sync.vals o

/-- Set the value of a sync object. -/
def State.setObj (s : State) (o v : Nat) : State := { s with sync := { s.sync with vals := tabSet 0 s.sync.vals o v } }

/-- Initiator `ini` issues a signal; SIGNAL_COMMIT commits it (R153, R154). -/
def State.signal (s : State) (o inc ini : Nat) : State :=
  { s with sync := { s.sync with inflight := s.sync.inflight ++ [⟨o % 0x40000, inc, ini, false, 0⟩] } }

/-- Signal an object held in a descriptor word with an enable bit in bit 31. -/
def State.signalWord (s : State) (w ini : Nat) : State := if bit w 31 then s.signal (w % 0x40000) 1 ini else s

/-- Send a wait to its object's sync block; WAIT_REGISTER registers it (R155). -/
def State.sendWait (s : State) (w : Waiter) : State :=
  { s with sync := { s.sync with arriving := s.sync.arriving ++ [w] } }

/-- Remove the waits that a test selects, on their way or in a waiter table, without result (R156). -/
def State.cancelWaits (s : State) (p : Waiter → Bool) : State :=
  { s with sync := { s.sync with
      arriving := s.sync.arriving.filter (fun w => !p w)
      waiters := s.sync.waiters.filter (fun w => !p w) } }

/-! ## Attention -/

/-- Whether a port exists under the bifurcation in force (R305, R308); the recovery responder presents port A alone (R376). -/
def State.portActive (s : State) (p : Nat) : Bool :=
  if s.start.recovery then p == 0
  else match p with
  | 1 => s.host.bifAB
  | 3 => s.host.bifCD
  | _ => decide (p < 4)

/-- MSI-X vector 0 of every active port's management function (R392). -/
def State.mgmtAttention (s : State) : State :=
  (List.range 4).foldl (fun s p => if s.portActive p && s.rbit (pciA p 4) 30 then s.send (.msix (p * 16) 0) else s) s

/-- Set a bit of a tenant's FN_ATTN; the attention vector is sent when the bit sets (FN_ATTN_VEC). Tenant 0 has no
function. -/
def State.fnAttn (s : State) (t b : Nat) : State :=
  if t = 0 ∨ 16 ≤ t ∨ s.rbit (fnA t 0x20) b then s
  else (s.setRbit (fnA t 0x20) b true).send (.msix ((s.tenant t).port * 16 + t) (s.fld (fnA t 0x24) 5 0))

/-- Attention to the tenant that owns something; for tenant 0 the management functions take it.
Log entry 71 (DEDUCED). -/
def State.tenAttn (s : State) (t b : Nat) : State := if t = 0 then s.mgmtAttention else s.fnAttn t b

/-! ## The ring as other units use it -/

/-- Count a frame sent (R437): FRAMES_TX, HOP_SEQ, frames under the downstream key. -/
def State.ringCount (s : State) : State :=
  let r := { s.ring with txSeq := s.ring.txSeq + 1, down := s.ring.down.map (fun k => { k with frames := k.frames + 1 }) }
  { s with ring := r }.bump (rngA 0x24)

/-- A frame of this node to the ring, sent while the module is a member (R437, R438); node 0xFF is every node. -/
def State.ringSend (s : State) (typ dst : Nat) (payload : List Byte) : State :=
  if s.fld (rngA 4) 31 28 = 2 then s.ringCount.send (.ring typ dst s.ring.node 0 payload) else s

end Sys2Proof.Machine
end

