-- ==== Sys2Proof/Machine/Operands.lean ====
section
/-!
DEFINITION. Command descriptors of a tile core (R87–R103): their fields, the reads and writes of tile memory by the engines,
and the issue checks that every command shares (R90, R106).
-/
namespace Sys2Proof.Machine

/-- Word `i` of a descriptor; 0 beyond its end. -/
def dw (ws : List Nat) (i : Nat) : Nat := ws.getD i 0 % 2 ^ 32

/-- Bits of a descriptor word. -/
def db (ws : List Nat) (i hi lo : Nat) : Nat := bits (dw ws i) hi lo

/-- A 64-bit field in words `i` and `i + 1`. -/
def dw64 (ws : List Nat) (i : Nat) : Nat := dw ws i + 2 ^ 32 * dw ws (i + 1)

/-- Bytes of tile memory. -/
def tileBytes : Nat := 0x200000

/-- A tile core. -/
structure Core3 where
  d : Nat
  c : Nat
  sl : Nat
  deriving DecidableEq, Repr

/-- Key of a tile core in the state. -/
def Core3.ix (x : Core3) : Nat := x.d * 72 + x.c * 9 + x.sl
/-- The tile core of a key. -/
def coreOf (i : Nat) : Core3 := ⟨i / 72, i % 72 / 9, i % 9⟩
/-- A register of the core's page. -/
def Core3.reg (x : Core3) (off : Nat) : Nat := tcA x.d x.c x.sl off
/-- Base of the core's tile memory. -/
def Core3.base (x : Core3) : Nat := tileBase x.d x.c x.sl
/-- Initiator ID of one of the core's engines: 0 SQ, 1 ME, 2 VE0, 3 VE1, 4 AG, 5 DMA. -/
def Core3.id (x : Core3) (eng : Nat) : Nat := slotId x.d x.c x.sl eng

/-- The state of a tile core. -/
def State.tileGet (s : State) (x : Core3) : TileState := tabGet {} s.tile x.ix
/-- Set the state of a tile core. -/
def State.tileSet (s : State) (x : Core3) (t : TileState) : State := { s with tile := tabSet {} s.tile x.ix t }

/-- The tenant whose partition a core belongs to; 16 (no tenant) where none owns the cluster. -/
def State.coreTenant (s : State) (x : Core3) : Nat := (s.cluOwner x.d x.c).getD 16

/-- The logical slot that a physical slot serves, if it serves one (R14). -/
def State.logSlot (s : State) (x : Core3) : Option Nat := (List.range 8).find? (fun l => s.physSlot x.d x.c l == x.sl)

/-! ## Free values -/

/-- `n` bytes whose values the spec leaves undefined.
Log entry 5 (DESIGN CHOICE). -/
def State.freeBytes (s : State) (n : Nat) : State × List Byte :=
  ({ s with freeCtr := s.freeCtr + n }, (List.range n).map (fun i => BitVec.ofNat 8 (Config.freeValue (s.freeCtr + i))))

/-- Leave the bytes of ranges undefined.
Log entry 5 (DESIGN CHOICE). -/
def State.undefine (s : State) (rs : List (Nat × Nat)) : State :=
  rs.foldl (fun s r => let (s, b) := s.freeBytes r.2; s.rawWrite (s.phys r.1) b) s

/-! ## The result of running a command -/

/-- What running a command leaves: the state, the flags it raised, sticky chunks, its error code (0 none), the memory it
wrote. -/
structure Ran where
  s : State
  flags : Nat := 0
  sticky : Nat := 0
  err : Nat := 0
  dst : List (Nat × Nat) := []
  deriving DecidableEq, Repr

/-- Read `n` bytes of the core's tile memory as an engine. -/
def State.tRead (s : State) (x : Core3) (eng off n : Nat) : State × Option (List Byte) :=
  if n = 0 then (s, some []) else s.memRead (x.id eng) (x.base + off) n

/-- Write bytes to the core's tile memory as an engine; false when the write completes with an error status. -/
def State.tWrite (s : State) (x : Core3) (eng off : Nat) (data : List Byte) : State × Bool :=
  if data.isEmpty then (s, true) else s.memWrite (x.id eng) (x.base + off) data

/-- Write rows of packed elements: (offset, width, elements). MEM_ERROR (0x10) when a write errs.
Log entry 41 (DEDUCED). -/
def writeRows (s : State) (x : Core3) (eng : Nat) (w : Nat) (rows : List (Nat × List Nat)) : State × Nat :=
  rows.foldl (fun a r =>
    let old := a.1.visRead (a.1.phys (x.base + r.1)) (runBytes w r.2.length)
    let (s, ok) := a.1.tWrite x eng r.1 (packOver w r.2 old)
    (s, if ok then a.2 else 0x10)) (s, 0)

/-- Bytes from an offset that rows of a strided array cover. -/
def extent (rows strideB rowB : Nat) : Nat := if rows = 0 ∨ rowB = 0 then 0 else (rows - 1) * strideB + rowB

/-! ## Issue checks (R90, R106) -/

/-- A check that a descriptor breaks: its code and the descriptor words that it reads (`walkWord` stands for the walk of a
CONV). -/
abbrev Check := Nat × List Nat

/-- The number that stands for a CONV's walk among the words a check reads. -/
def walkWord : Nat := 100

/-- One check: broken when its condition fails. -/
def need (c : Bool) (code : Nat) (on : List Nat) : List Check := if c then [] else [(code, on)]

/-- The check of a range of tile memory: 0x09 beyond 2 MiB. -/
def rangeCheck (off n : Nat) (on : List Nat) : List Check := need (decide (off + n ≤ tileBytes)) 0x09 on

/-- The checks of reserved bits, given as (word, hi, lo), one per entry. -/
def rsvdChecks (ws : List Nat) (l : List (Nat × Nat × Nat)) (on : List Nat) : List Check :=
  l.flatMap (fun r => need (db ws r.1 r.2.1 r.2.2 == 0) 0x03 (r.1 :: on))

/-- Whole words that are reserved. -/
def rsvdWords (l : List Nat) : List (Nat × Nat × Nat) := l.map (fun i => (i, 31, 0))

/-- Checks of the common header (R87, R88): reserved bits, LEN, and the objects of enabled signals and waits. `on` are the
words that fix LEN beside word 0. -/
def headerChecks (s : State) (x : Core3) (ws : List Nat) (len : Nat) (on : List Nat) : List Check :=
  let t := s.coreTenant x
  need (db ws 0 23 22 == len) 0x02 (0 :: on) ++
  rsvdChecks ws [(0, 21, 20), (1, 30, 18), (2, 30, 18)] [] ++
  need (!bit (dw ws 1) 31 || s.objOwned t (db ws 1 17 0)) 0x0B [1] ++
  need (!bit (dw ws 2) 31 || s.objOwned t (db ws 2 17 0)) 0x0B [2]

/-- Whether `n` bytes from a signed address, which a negative stride may have left, lie in a partition: none below 0 or past
48 bits does. -/
def State.spanOwned (s : State) (t : Nat) (a : Int) (n : Nat) : Bool :=
  decide (0 ≤ a) && decide (a + n ≤ 2 ^ 48) && s.inPartition t a.toNat n

/-- The code reported for the checks a command breaks: the lowest (R90); none if it breaks none. -/
def lowestErr (es : List Nat) : Option Nat :=
  es.foldl (fun m e => match m with | some k => some (min k e) | none => some e) none

/-! ## Operands of a matrix product (R92, R51) -/

/-- Operand classes of R51. -/
inductive PairClass where
  | bf16 | fp16 | fp8 | mxfp8 | mxfp6 | mxfp4 | int | fp32
  deriving DecidableEq, Repr

/-- The class of a matrix operand format; none where the position does not accept it. -/
def pairClass (code : Nat) (isB : Bool) : Option PairClass :=
  match code with
  | 0x1 => some .fp32
  | 0x2 => some .bf16
  | 0x3 => some .fp16
  | 0x4 => some .fp8
  | 0x5 => some .fp8
  | 0x6 => some .mxfp8
  | 0x7 => some .mxfp8
  | 0x8 => some .mxfp6
  | 0x9 => some .mxfp6
  | 0xA => some .mxfp4
  | 0xB => some .int
  | 0xC => if isB then some .int else none
  | _ => none

/-- Whether a class holds MX blocks. -/
def PairClass.mx : PairClass → Bool
  | .mxfp8 | .mxfp6 | .mxfp4 => true
  | _ => false

/-- Element `e` of stored row `r` of an operand: its bytes from `base`, row stride in bytes, scales packed densely (R45). -/
def opElem (f : Fmt) (data scales : List Byte) (stride rowLen r e : Nat) : FV :=
  let v := elemAt (data.drop (r * stride)) f.width e
  if f.isMx then mxValue f (fieldLe scales (r * (rowLen / 32) + e / 32) 1) v else f.decode v

/-- The rounding of one output element from a descriptor with SEED in words 16–17, STREAM in word 18, INDEX_BASE in words
20–21 and INDEX_PITCH in words 22–23 (R49). -/
def descRnd (ws : List Nat) (mode : Nat) (sat : Bool) (i j : Nat) : Rnd :=
  ⟨mode, sat, if mode = 4 then srBits (dw64 ws 16) (dw ws 18) ((dw64 ws 20 + i * dw64 ws 22 + j) % 2 ^ 64) else 0⟩

end Sys2Proof.Machine
end

