-- ==== Sys2Proof/Machine/Matrix.lean ====
section
/-!
DEFINITION. The matrix engine: MMA (R92, R93), the walk descriptors of CONV (R111–R129, R134), CONV itself (R95, R119–R127),
and XRD (R83, R96).
-/
namespace Sys2Proof.Machine

/-! ## Shared by MMA and CONV -/

/-- Number of chunks of a reduction (R93). -/
def chunkCount (k kc : Nat) : Nat := if kc = 0 then 0 else ceilDiv k kc

/-- Checks of chunks, formats, mode and output that MMA and CONV share (R92, R93). `m`, `k` are the command's own or the
walk's, read from the words `on`; `ints`: integer operands; `mx`: MX operands; `int8`: an INT8 output is admitted (R127). With
no output row nothing is written, so no range is judged (R118). -/
def drainChecks (ws : List Nat) (m n k : Nat) (ints mx int8 : Bool) (on : List Nat) : List Check :=
  let kc := db ws 11 12 0
  let q := chunkCount k kc
  let fo := db ws 14 23 20
  let fp := db ws 14 19 16
  need (decide (1 ≤ kc) && decide (kc ≤ 4096)) 0x07 [11] ++
  need (!mx || kc % 32 == 0) 0x07 [11, 14] ++
  need (decide (q ≤ 4096)) 0x07 (11 :: on) ++
  need (decide (1 ≤ n) && decide (n ≤ 128)) 0x07 [9] ++
  (if q ≤ 1 then
    need (decide (fo ≤ 5) || fo == 0xD || (int8 && fo == 0xB)) 0x04 (11 :: 14 :: on) ++
    need (decide (db ws 14 15 13 ≤ 4)) 0x05 (11 :: 14 :: on) ++
    rangeCheck (db ws 6 20 0) (extent m (db ws 13 31 16 * 32) (runBytes (fmtGet fo).width n)) (6 :: 9 :: 11 :: 13 :: 14 :: on)
   else
    need (if ints then fp == 0xD else fp == 0 || fp == 1) 0x04 (11 :: 14 :: on) ++
    (if m = 0 then [] else
      rangeCheck (db ws 6 20 0)
        ((q - 1) * (db ws 13 15 0 * 32) + extent m (db ws 13 31 16 * 32) (runBytes (fmtGet fp).width n))
        (6 :: 9 :: 11 :: 13 :: 14 :: on)))

/-- The chunk of products of a class (R51, R60, R63). Integers have one zero, so no sum of them is −0. -/
def PairClass.chunk (c : PairClass) (ps : List (FV × FV)) : Chunk :=
  match c with
  | .fp32 => chunk32 ps
  | .int => { chunkOf ps [] with allNegZero := false, allPosZero := true }
  | _ => chunkOf ps []

/-- The class of the operands of a descriptor with FMT_A in word 14. -/
def opClass (ws : List Nat) : PairClass := (pairClass (db ws 14 31 28) false).getD .bf16

/-- One output element's chunks, drained: encodings in chunk order with their flags. `rnd` is the final rounding, used when
there is one chunk; partials round to nearest even (R93). -/
def drainElem (c : PairClass) (terms : List (FV × FV)) (kc q : Nat) (fOut fPart : Fmt) (rnd : Rnd) : List (Nat × Nat) :=
  (List.range q).map (fun j =>
    let ch := c.chunk ((terms.drop (j * kc)).take kc)
    if q = 1 then ch.drain fOut rnd else ch.drain fPart rne)

/-- The stored rows of B and their length (R92, R124): G rows of K weights in KIND 1 (`diag` groups), else as B_T says. -/
def bShape (ws : List Nat) (diag n k : Nat) : Nat × Nat :=
  if diag ≠ 0 then (diag, k) else if bit (dw ws 14) 11 then (n, k) else (k, n)

/-- The B operand as columns of `k` values (R92); in KIND 1 row `j` of B serves output column `j` (R124). -/
def bCols (ws : List Nat) (diag n k : Nat) (data scales : List Byte) : List (List FV) :=
  let f := fmtGet (db ws 14 27 24)
  let st := db ws 12 15 0 * 32
  let rowwise := diag ≠ 0 ∨ bit (dw ws 14) 11 = true
  (List.range n).map (fun j => (List.range k).map (fun t =>
    if rowwise then opElem f data scales st k j t else opElem f data scales st n t j))

/-- Where row `i` of chunk `q` of the output lies (R93). -/
def rowPlace (ws : List Nat) (q i : Nat) : Nat :=
  db ws 6 20 0 + q * (db ws 13 15 0 * 32) + i * (db ws 13 31 16 * 32)

/-- The format of what a drain of `q` chunks writes (R93). -/
def drainFmt (ws : List Nat) (q : Nat) : Fmt := fmtGet (if q ≤ 1 then db ws 14 23 20 else db ws 14 19 16)

/-- The destination of a drain in row form (R93): every row of every chunk. -/
def drainDst (x : Core3) (ws : List Nat) (m n k : Nat) : List (Nat × Nat) :=
  let q := chunkCount k (db ws 11 12 0)
  (List.range q).flatMap (fun j => (List.range m).map (fun i =>
    (x.base + rowPlace ws j i, runBytes (drainFmt ws q).width n)))

/-- Compute and write an output of `m` rows and `n` columns from the terms of each element. -/
def drainAll (s : State) (x : Core3) (ws : List Nat) (m n k : Nat) (terms : Nat → Nat → List (FV × FV)) : Ran :=
  let kc := db ws 11 12 0
  let q := chunkCount k kc
  let fOut := fmtGet (db ws 14 23 20)
  let fPart := fmtGet (db ws 14 19 16)
  let elems := (List.range m).map (fun i => (List.range n).map (fun j =>
    drainElem (opClass ws) (terms i j) kc q fOut fPart (descRnd ws (db ws 14 15 13) (bit (dw ws 14) 12) i j)))
  let flags := elems.foldl (fun a r => r.foldl (fun a e => e.foldl (fun a c => a ||| c.2) a) a) 0
  let sticky := ((List.range q).filter (fun j => elems.any (fun r => r.any (fun e => (e.getD j (0, 0)).2 % 2 == 1)))).length
  let rows := (List.range q).flatMap (fun j => elems.mapIdx (fun i r => (rowPlace ws j i, r.map (fun e => (e.getD j (0, 0)).1))))
  let (s, err) := writeRows s x 1 (drainFmt ws q).width rows
  { s := s, flags := flags, sticky := sticky, err := err, dst := drainDst x ws m n k }

/-! ## MMA -/

/-- Issue checks of MMA (R90, R92, R93). -/
def mmaChecks (s : State) (x : Core3) (ws : List Nat) : List Check :=
  let fa := db ws 14 31 28
  let fb := db ws 14 27 24
  let m := db ws 9 22 14
  let n := db ws 9 7 0
  let k := db ws 10 19 0
  let (ar, al) := if bit (dw ws 14) 10 then (k, m) else (m, k)
  let (br, bl) := bShape ws 0 n k
  let ca := pairClass fa false
  let cb := pairClass fb true
  let mx := (ca.map PairClass.mx).getD false
  headerChecks s x ws 2 [] ++
  rsvdChecks ws ([(4, 31, 21), (5, 31, 21), (6, 31, 21), (9, 31, 23), (9, 13, 8), (10, 31, 20), (11, 31, 13), (14, 9, 0)] ++
    rsvdWords [15, 19, 24, 25, 26, 27, 28, 29, 30, 31]) [] ++
  (if mx then rsvdChecks ws [(7, 31, 21), (8, 31, 21)] [14] else []) ++
  need (ca.isSome && cb.isSome) 0x04 [14] ++
  need (ca == cb || ca.isNone || cb.isNone) 0x06 [14] ++
  need (decide (1 ≤ m) && decide (m ≤ 256)) 0x07 [9] ++
  need (decide (1 ≤ k)) 0x07 [10] ++
  need (!mx || (al % 32 == 0 && bl % 32 == 0)) 0x07 [9, 10, 14] ++
  need (db ws 4 4 0 == 0) 0x08 [4] ++ need (db ws 5 4 0 == 0) 0x08 [5] ++ need (db ws 6 4 0 == 0) 0x08 [6] ++
  need (!mx || db ws 7 4 0 == 0) 0x08 [7, 14] ++ need (!mx || db ws 8 4 0 == 0) 0x08 [8, 14] ++
  rangeCheck (db ws 4 20 0) (extent ar (db ws 12 31 16 * 32) (runBytes (fmtGet fa).width al)) [4, 9, 10, 12, 14] ++
  rangeCheck (db ws 5 20 0) (extent br (db ws 12 15 0 * 32) (runBytes (fmtGet fb).width bl)) [5, 9, 10, 12, 14] ++
  (if mx then rangeCheck (db ws 7 20 0) (m * k / 32) [7, 9, 10, 14] ++ rangeCheck (db ws 8 20 0) (k * n / 32) [8, 9, 10, 14]
   else []) ++
  drainChecks ws m n k (fa == 0xB) mx false [10]

/-- MMA (R92, R93). -/
def runMma (s : State) (x : Core3) (ws : List Nat) : Ran :=
  let fa := fmtGet (db ws 14 31 28)
  let fb := fmtGet (db ws 14 27 24)
  let m := db ws 9 22 14
  let n := db ws 9 7 0
  let k := db ws 10 19 0
  let at_ := bit (dw ws 14) 10
  let (ar, al) := if at_ then (k, m) else (m, k)
  let (br, bl) := bShape ws 0 n k
  let sa := db ws 12 31 16 * 32
  let (s, a) := s.tRead x 1 (db ws 4 20 0) (extent ar sa (runBytes fa.width al))
  let (s, b) := s.tRead x 1 (db ws 5 20 0) (extent br (db ws 12 15 0 * 32) (runBytes fb.width bl))
  let (s, qa) := if fa.isMx then s.tRead x 1 (db ws 7 20 0) (m * k / 32) else (s, some [])
  let (s, qb) := if fb.isMx then s.tRead x 1 (db ws 8 20 0) (k * n / 32) else (s, some [])
  match a, b, qa, qb with
  | some a, some b, some qa, some qb =>
    let rows := (List.range m).map (fun i => (List.range k).map (fun t =>
      if at_ then opElem fa a qa sa al t i else opElem fa a qa sa al i t))
    let cols := bCols ws 0 n k b qb
    drainAll s x ws m n k (fun i j => (rows.getD i []).zip (cols.getD j []))
  | _, _, _, _ => { s := s, err := 0x10, dst := drainDst x ws m n k }

/-! ## Walks (R112–R123) -/

/-- Field of a walk descriptor. -/
def wf (w : List Byte) (off n : Nat) : Nat := fieldLe w off n

/-- A dimension record (R113). -/
structure Dim where
  ext : Nat
  win : Nat
  stride : Nat
  dil : Nat
  lo : Nat
  hi : Nat
  first : Nat
  count : Nat
  pitch : Nat
  role : Nat
  pad : Nat
  deriving DecidableEq, Repr

/-- Dimension record `i` of a walk. -/
def walkDim (w : List Byte) (i : Nat) : Dim :=
  let o := 0x40 + 0x20 * i
  ⟨wf w o 2, wf w (o + 2) 2, wf w (o + 4) 2, wf w (o + 6) 2, wf w (o + 8) 2, wf w (o + 10) 2, wf w (o + 12) 2,
   wf w (o + 14) 2, wf w (o + 16) 4, wf w (o + 20) 1, wf w (o + 21) 1⟩

/-- KIND of a walk. -/
def walkKind (w : List Byte) : Nat := wf w 0 1
/-- The dimensions in use. -/
def walkDims (w : List Byte) : List Dim := (List.range (min (wf w 1 1) 6)).map (walkDim w)
/-- Space-to-depth factor, 1 for none. -/
def walkS2d (w : List Byte) : Nat := max (wf w 2 1) 1
/-- Depth-to-space factor, 1 for none. -/
def walkD2s (w : List Byte) : Nat := max (wf w 3 1) 1
/-- Whether the walk carries a halo step (R131). -/
def walkHalo (w : List Byte) : Bool := bit (wf w 0x10 4) 31

/-- Extent of dimension `i` as the windows see it: dimensions 0 to 2 of a regrouped walk are those of X′ (R122). -/
def Dim.seen (p : Dim) (i f : Nat) : Nat :=
  if f ≤ 1 ∨ 2 < i then p.ext else if i = 0 then p.ext * f * f else p.ext / f

/-- Output positions of a window dimension (R116). -/
def outCount (i w s d lo hi : Nat) : Nat :=
  let e := (w - 1) * d + 1
  if lo + i + hi < e then 0 else (lo + i + hi - e) / s + 1

/-- M of a walk (R114). -/
def walkM (w : List Byte) : Nat := (walkDims w).foldl (fun m p => if p.role = 1 then m * p.count else m) 1

/-- K of a walk (R114). -/
def walkK (w : List Byte) : Nat :=
  if walkKind w = 0 then (walkDims w).foldl (fun k p => if p.role = 0 then k else k * p.win) 1
  else (walkDims w).foldl (fun k p => if p.role = 1 then k * p.win else k) (if walkKind w ≤ 1 then wf w 0xA 2 else 1)

/-- A coordinate under padding (R117): none in zero padding, else the coordinate read. -/
def padCoord (mode i : Nat) (x : Int) : Option Nat :=
  if 0 ≤ x ∧ x < i then some x.toNat
  else
    match mode with
    | 0 => none
    | 1 => some (if x < 0 then 0 else i - 1)
    | _ =>
      if i ≤ 1 then some 0
      else
        let q := 2 * (i - 1)
        let r := (x % q).toNat
        some (if r < i then r else q - r)

/-- The digits of a number in the mixed radix of sizes, lowest first. -/
def mixed : List Nat → Nat → List Nat
  | [], _ => []
  | b :: t, n => n % b :: mixed t (n / b)

/-- Relative output positions of position `m`, one per window dimension in index order (R115). -/
def posDigits (w : List Byte) (m : Nat) : List Nat :=
  mixed (((walkDims w).filter (·.role == 1)).map (·.count)) m

/-- The taps and element indices of term `k`, one per dimension in index order; in the diagonal kinds dimension 0 holds the
channel of group `g` (R114, R115).
Log entry 190 (DEDUCED). -/
def termDigits (w : List Byte) (g k : Nat) : List Nat :=
  if walkKind w = 0 then
    let ds := walkDims w
    mixed (ds.map (fun p => if p.role = 0 then 1 else p.win)) k
  else
    let ds := walkDims w
    let per := ds.foldl (fun a p => if p.role = 1 then a * p.win else a) 1
    let cg := if walkKind w = 1 then wf w 0xA 2 else 1
    match mixed (ds.map (fun p => if p.role = 1 then p.win else 1)) (k % per) with
    | [] => []
    | _ :: t => (g * cg + k / per) :: t

/-- The coordinates read, one per dimension, for the position's digits and the term's digits; none in zero padding. -/
def walkCoords (w : List Byte) (f : Nat) : List (Nat × Dim) → List Nat → List Nat → Option (List Nat)
  | [], _, _ => some []
  | (i, p) :: ps, pos, t :: ts =>
    if p.role = 1 then
      let x : Int := ((p.first + pos.headD 0) * p.stride + t * p.dil : Nat) - (p.lo : Int)
      match padCoord p.pad (p.seen i f) x, walkCoords w f ps pos.tail ts with
      | some c, some r => some (c :: r)
      | _, _ => none
    else
      match walkCoords w f ps pos ts with
      | some r => some (t :: r)
      | none => none
  | _, _, [] => some []

/-- The coordinates of X that coordinates of X′ name (R122). -/
def regroup (w : List Byte) (cs : List Nat) : List Nat :=
  let f := walkS2d w
  if f ≤ 1 then cs
  else
    let ch := (walkDim w 0).ext
    match cs with
    | c0 :: c1 :: c2 :: t =>
      let g := c0 / ch
      (c0 % ch) :: (c1 * f + g % f) :: (c2 * f + g / f) :: t
    | _ => cs

/-- The slot of a coordinate along dimension `i`: its residue in the ring dimension, itself elsewhere (R119, R128). -/
def ringSlot (w : List Byte) (i c : Nat) : Nat := if i = wf w 0xC 1 then c % max (wf w 0xE 2) 1 else c

/-- The byte offset from IN_OFF of coordinates of X (R119); that of the packed row for MXFP6 and MXFP4 (R120). -/
def walkOffset (w : List Byte) (cs : List Nat) : Nat :=
  (((walkDims w).zip cs).mapIdx (fun i (pc : Dim × Nat) => ringSlot w i pc.2 * pc.1.pitch)).foldl (· + ·) 0

/-- The coordinates of term `k` of group `g` at position `m`. -/
def walkAt (w : List Byte) (g m k : Nat) : Option (List Nat) :=
  (walkCoords w (walkS2d w) ((walkDims w).mapIdx (fun i p => (i, p))) (posDigits w m) (termDigits w g k)).map (regroup w)

/-! ### What a walk reads -/

/-- Coordinates of dimension 0 that a walk reads in X′: all of a reduce dimension, the channels of every group in KIND 1–4. -/
def walkChannels (w : List Byte) : Nat :=
  if walkKind w ≠ 0 then wf w 8 2 * wf w 0xA 2 else if (walkDim w 0).role = 0 then 1 else (walkDim w 0).win

/-- How many pixels of X along each of dimensions 1 and 2 a coordinate of X′ reads (R122): the factor, or 1 where the walk
reads no channel beyond those of the first pixel. -/
def walkSpread (w : List Byte) : Nat :=
  if walkS2d w ≤ 1 ∨ walkChannels w ≤ (walkDim w 0).ext then 1 else walkS2d w

/-- The coordinates of X that a walk reads along dimension `i` (R117, R119, R122): none where every tap of a window lies in
zero padding. A reduce dimension other than 0 has coordinate 0 in KIND 1–4.
Log entry 190 (DEDUCED). -/
def walkReads (w : List Byte) (i : Nat) : List Nat :=
  let p := walkDim w i
  let f := walkS2d w
  if p.role = 1 then
    let cs := ((List.range p.count).flatMap (fun o => (List.range p.win).filterMap (fun t =>
      padCoord p.pad (p.seen i f) (((p.first + o) * p.stride + t * p.dil : Nat) - (p.lo : Int))))).eraseDups
    if f ≤ 1 ∨ (i ≠ 1 ∧ i ≠ 2) then cs
    else cs.flatMap (fun c => (List.range (walkSpread w)).map (fun e => c * f + e))
  else if i = 0 then List.range (if f ≤ 1 then walkChannels w else min (walkChannels w) p.ext)
  else if p.role = 2 ∧ walkKind w = 0 then List.range p.win
  else [0]

/-- Whether a walk reads any element: it has a position, and every window dimension a real tap (R117, R118). -/
def walkLive (w : List Byte) : Bool :=
  decide (walkM w ≠ 0) && (List.range (walkDims w).length).all (fun i => !(walkReads w i).isEmpty)

/-- The bytes that one packed row or element of the input takes: for MXFP6 and MXFP4, whose dimension 0 has PITCH 0, the
packed elements up to the last one read (R120). -/
def walkUnit (w : List Byte) (f : Fmt) : Nat :=
  if f.isMx ∧ f.width ≠ 8 then runBytes f.width (walkChannels w) else max (f.width / 8) 1

/-- Bytes from IN_OFF to the end of the highest element that a walk reads; 0 where it reads none (R119, R134). -/
def walkReach (w : List Byte) (f : Fmt) : Nat :=
  if walkLive w then
    (List.range (walkDims w).length).foldl (fun a i =>
      a + ((walkReads w i).map (ringSlot w i)).foldl max 0 * (walkDim w i).pitch) (walkUnit w f)
  else 0

/-- Join each run of bytes (offset, length) to the one before it where they touch. -/
def joinRuns : List (Nat × Nat) → List (Nat × Nat)
  | [] => []
  | (a, n) :: t =>
    match joinRuns t with
    | (b, m) :: r => if b = a + n then (a, n + m) :: r else (a, n) :: (b, m) :: r
    | [] => [(a, n)]

/-- The runs of bytes from IN_OFF that a walk reads, each element once (R117: zero padding reads no memory). -/
def walkRuns (w : List Byte) (f : Fmt) : List (Nat × Nat) :=
  if walkLive w then
    (List.range (walkDims w).length).foldl (fun rs i =>
      let p := walkDim w i
      if p.pitch = 0 then rs
      else joinRuns ((((walkReads w i).map (ringSlot w i)).eraseDups).flatMap (fun c => rs.map (fun r => (c * p.pitch + r.1, r.2)))))
      [(0, walkUnit w f)]
  else []

/-- Bytes of an MX block (R120). -/
def mxBytes (f : Fmt) : Nat := 32 * f.width / 8

/-- The runs of scale bytes from A_SCALE_OFF that go with a walk's runs (R120). -/
def scaleRuns (w : List Byte) (f : Fmt) : List (Nat × Nat) :=
  if f.isMx then (walkRuns w f).map (fun r => (r.1 / mxBytes f, (r.1 + r.2 - 1) / mxBytes f - r.1 / mxBytes f + 1)) else []

/-- Read runs of the core's tile memory, each from an offset; none when a read errs. -/
def State.readRuns (s : State) (x : Core3) (eng base : Nat) (rs : List (Nat × Nat)) : State × Option (List (Nat × List Byte)) :=
  rs.foldl (fun a r =>
    let (s, b) := a.1.tRead x eng (base + r.1) r.2
    (s, match a.2, b with | some l, some b => some (l ++ [(r.1, b)]) | _, _ => none)) (s, some [])

/-- `n` bytes at an offset among the runs read. -/
def runAt (rs : List (Nat × List Byte)) (off n : Nat) : List Byte :=
  match rs.find? (fun r => decide (r.1 ≤ off) && decide (off + n ≤ r.1 + r.2.length)) with
  | some r => slice r.2 (off - r.1) n
  | none => []

/-- The element at coordinates, among the runs of input bytes and of scale bytes (R119, R120). -/
def walkElem (w : List Byte) (f : Fmt) (data scales : List (Nat × List Byte)) (cs : List Nat) : FV :=
  let off := walkOffset w cs
  if f.isMx then
    let e := cs.headD 0
    let packed := f.width ≠ 8
    let o := if packed then off + f.width * e / 8 else off
    mxValue f (leNat (runAt scales (o / mxBytes f) 1))
      (if packed then elemAt (runAt data off (runBytes f.width (e + 1))) f.width e else elemAt (runAt data off 1) 8 0)
  else f.decode (leNat (runAt data off (f.width / 8)))

/-- Span of a list of coordinates. -/
def spanOf (l : List Nat) : Nat :=
  match l with
  | [] => 0
  | a :: t => t.foldl max a - t.foldl min a + 1

/-- The widest span of a tap row along the lowest window dimension (R124). -/
def tapRow (w : List Byte) : Nat :=
  match (walkDims w).find? (·.role == 1) with
  | some p => (min p.count 128 - 1) * p.stride + (p.win - 1) * p.dil + 1
  | none => 1

/-- Checks of a walk that need no descriptor, address or object (R112–R124, R128, R134): used at issue and by load check 9
(R135). -/
def walkErrs (w : List Byte) : List Check :=
  let ds := walkDims w
  let kind := walkKind w
  let s2 := wf w 2 1
  let d2 := wf w 3 1
  let g := wf w 8 2
  let cg := wf w 0xA 2
  let ring := wf w 0xC 1
  let rrows := wf w 0xE 2
  let halo := walkHalo w
  let f := walkS2d w
  let on := [walkWord]
  need (decide (kind ≤ 4) && ds.all (fun p => decide (p.role ≤ 2) && decide (p.pad ≤ 2)) &&
    wf w 0xD 1 == 0 && wf w 0x38 8 == 0 && decide (wf w 4 4 < 2 ^ 21) && bits (wf w 0x10 4) 30 18 == 0 &&
    bits (wf w 0x14 4) 31 18 == 0 && decide (wf w 0x20 8 < 2 ^ 48) && decide (wf w 0x28 8 < 2 ^ 48) &&
    (halo || (slice w 0x14 0x24).all (· == 0)) &&
    (List.range 6).all (fun i => if i < wf w 1 1 then (slice w (0x56 + 0x20 * i) 10).all (· == 0) &&
        decide ((walkDim w i).pitch < 2 ^ 21)
      else (slice w (0x40 + 0x20 * i) 0x20).all (· == 0)) &&
    (kind != 0 || cg == 0) && (ring != 0xFF || rrows == 0) &&
    ds.all (fun p => p.role != 2 || (p.lo == 0 && p.hi == 0 && p.first == 0))) 0x03 on ++
  need (decide (1 ≤ wf w 1 1) && decide (wf w 1 1 ≤ 6) && (s2 == 0 || (decide (2 ≤ s2) && decide (s2 ≤ 8))) &&
    (d2 == 0 || (decide (2 ≤ d2) && decide (d2 ≤ 8))) &&
    (if kind = 0 then g == 1
     else decide (1 ≤ g) && decide (g ≤ 64) && (if kind = 1 then decide (1 ≤ cg) && decide (cg ≤ 64) else cg == 1)) &&
    (ring == 0xFF || (decide (ring < wf w 1 1) && decide (1 ≤ rrows))) &&
    (!halo || (ring != 0xFF && decide (1 ≤ wf w 0x34 2) && decide (1 ≤ wf w 0x1C 4)))) 0x07 on ++
  need (ds.all (fun p => p.role == 0 || (decide (1 ≤ p.ext) && decide (1 ≤ p.win) && decide (1 ≤ p.stride) && decide (1 ≤ p.dil)))) 0x07 on ++
  need (ds.all (fun p => p.role != 2 || (p.stride == 1 && p.dil == 1 && p.count == 1))) 0x07 on ++
  need (if kind = 0 then
      (ds.mapIdx (fun i p => p.role != 2 || p.win == (if i = 0 then p.ext * f * f else p.ext))).all id &&
      decide (walkK w ≤ 1048575) && decide (1 ≤ walkK w)
    else (walkDim w 0).role == 2 && (walkDim w 0).win == cg && decide (g * cg ≤ (walkDim w 0).ext) &&
      decide (1 ≤ walkK w) && decide (walkK w ≤ 4096)) 0x07 on ++
  need (decide (walkM w ≤ 256)) 0x07 on ++
  need ((ds.mapIdx (fun i p => p.role != 1 ||
    decide (p.first + p.count ≤ outCount (p.seen i f) p.win p.stride p.dil p.lo p.hi))).all id) 0x07 on ++
  need (s2 == 0 || ((walkDim w 0).role == 2 && (walkDim w 1).role == 1 && (walkDim w 2).role == 1 &&
    (walkDim w 1).ext % f == 0 && (walkDim w 2).ext % f == 0)) 0x07 on ++
  need (d2 == 0 || ((walkDim w 1).role == 1 && (walkDim w 2).role == 1 && (ds.filter (·.role == 1)).length == 2)) 0x07 on ++
  need (kind == 0 || walkM w == 0 || decide (tapRow w ≤ 1024)) 0x07 on ++
  need (ring == 0xFF || !walkLive w || decide (spanOf (walkReads w ring) ≤ rrows)) 0x07 on

/-! ## CONV -/

/-- Issue checks of CONV (R90, R95, R134) for descriptor `ws` and the walk it names. An INT8 output is admitted for pooling of
INT8 input (R127).
Log entry 190 (DEDUCED). -/
def convChecks (s : State) (x : Core3) (ws : List Nat) (w : List Byte) : List Check :=
  let fa := db ws 14 31 28
  let fb := db ws 14 27 24
  let f := fmtGet fa
  let kind := walkKind w
  let m := walkM w
  let k := walkK w
  let n := db ws 9 7 0
  let t := s.coreTenant x
  let ca := pairClass fa false
  let cb := pairClass fb true
  let mx := (ca.map PairClass.mx).getD false
  let el := max (f.width / 8) 1
  let (br, bl) := bShape ws (if kind = 1 then wf w 8 2 else 0) n k
  let diagFmt := [0x2, 0x3, 0x4, 0x5, 0xB].contains fa
  let d2 := walkD2s w
  let ints := fa == 0xB
  let q := chunkCount k (db ws 11 12 0)
  let fo := db ws 14 23 20
  let reach := walkReach w f
  let ring := wf w 0xC 1
  let pitch := (walkDim w ring).pitch
  let wk := [walkWord]
  headerChecks s x ws 2 [] ++
  rsvdChecks ws ([(4, 31, 21), (5, 31, 21), (6, 31, 21), (9, 31, 8), (10, 31, 0), (11, 31, 13), (12, 31, 16), (14, 10, 0)] ++
    rsvdWords [15, 19, 24, 25, 26, 27, 28, 29, 30, 31]) [] ++
  (if mx then rsvdChecks ws [(7, 31, 21), (8, 31, 21)] [14] else []) ++
  need (decide (kind < 2) || (dw ws 5 == 0 && dw ws 8 == 0 && db ws 12 15 0 == 0 && fb == 0)) 0x03 (5 :: 8 :: 12 :: 14 :: wk) ++
  walkErrs w ++
  need ca.isSome 0x04 [14] ++
  need (decide (2 ≤ kind) || cb.isSome) 0x04 (14 :: wk) ++
  need (!(mx && wf w 2 1 != 0)) 0x04 (14 :: wk) ++
  need (d2 == 1 || (!(decide (6 ≤ fo) && decide (fo ≤ 0xA)) && fo != 0xC)) 0x04 (14 :: wk) ++
  (if kind = 0 then need (ca == cb || ca.isNone || cb.isNone) 0x06 (14 :: wk)
   else need (diagFmt && (decide (2 ≤ kind) || fb == fa)) 0x06 (14 :: wk)) ++
  need (kind == 0 || n == wf w 8 2) 0x07 (9 :: wk) ++
  need (decide (kind < 2) || decide (k ≤ db ws 11 12 0)) 0x07 (11 :: wk) ++
  need (d2 == 1 || (n % (d2 * d2) == 0 && q == 1)) 0x07 (9 :: 11 :: wk) ++
  need (!mx || ((walkDim w 0).role == 2 && (walkDim w 0).ext % 32 == 0)) 0x07 (14 :: wk) ++
  need (!mx || bl % 32 == 0) 0x07 (9 :: 14 :: wk) ++
  need (db ws 4 4 0 == 0) 0x08 [4] ++ need (db ws 5 4 0 == 0) 0x08 [5] ++ need (db ws 6 4 0 == 0) 0x08 [6] ++
  need (!mx || db ws 7 4 0 == 0) 0x08 [7, 14] ++ need (!mx || db ws 8 4 0 == 0) 0x08 [8, 14] ++
  need (wf w 4 4 % (if mx then 32 else el) == 0 &&
    ((walkDims w).mapIdx (fun i p => if mx then
        (if i = 0 then p.pitch == (if f.width = 8 then 1 else 0) else p.pitch % mxBytes f == 0)
      else p.pitch % el == 0)).all id && (!walkHalo w || wf w 0x20 8 % 32 == 0)) 0x08 (14 :: wk) ++
  rangeCheck (db ws 4 20 0) 256 [4] ++
  (if reach = 0 then [] else rangeCheck (wf w 4 4 % 2 ^ 21) reach (14 :: wk)) ++
  (if mx ∧ reach ≠ 0 then rangeCheck (db ws 7 20 0) ((reach - 1) / mxBytes f + 1) (7 :: 14 :: wk) else []) ++
  (if 2 ≤ kind then [] else
    rangeCheck (db ws 5 20 0) (extent br (db ws 12 15 0 * 32) (runBytes (fmtGet fb).width bl)) (5 :: 9 :: 12 :: 14 :: wk)) ++
  (if mx then rangeCheck (db ws 8 20 0) (k * n / 32) (8 :: 9 :: 14 :: wk) else []) ++
  (if ring = 0xFF then [] else rangeCheck (wf w 4 4 % 2 ^ 21) (wf w 0xE 2 * pitch) wk) ++
  (if walkHalo w then
    need (decide (s.place (wf w 0x20 8) = .cluMem x.d x.c) && s.inPartition t (wf w 0x20 8) (wf w 0x34 2 * pitch)) 0x0A wk ++
    need ((List.range (wf w 0x34 2)).all (fun i =>
      s.spanOwned t ((wf w 0x28 8 : Int) + i * toInt 32 (wf w 0x30 4)) pitch)) 0x0A wk ++
    need (s.objOwned t (bits (wf w 0x10 4) 17 0) && s.objOwned t (bits (wf w 0x14 4) 17 0)) 0x0B wk
   else []) ++
  drainChecks ws (if d2 = 1 then m else 0) n k ints mx (ints && decide (2 ≤ kind)) wk ++
  (if d2 = 1 ∨ m = 0 then [] else
    rangeCheck (db ws 6 20 0) (((walkDim w 2).count * d2 - 1) * (db ws 13 31 16 * 32) +
      ((walkDim w 1).count * d2) * (n / (d2 * d2)) * ((fmtGet fo).width / 8)) (6 :: 9 :: 13 :: 14 :: wk))

/-- One pooled output: the taps (none: zero padding) of a window (R126, R127). -/
def poolElem (kind : Nat) (c : PairClass) (taps : List (Option FV)) (f : Fmt) (r : Rnd) : Nat × Nat :=
  let real := taps.filterMap id
  let nanIn := if real.any (· == .nan) then fNanIn else 0
  if kind = 2 then
    let v := if real.any (· == .nan) then FV.nan
      else match real with
        | [] => FV.zero
        | a :: t => t.foldl (fun m y => if FV.ltz m y then y else m) a
    let (n, fl) := f.put r v
    (n, fl ||| nanIn)
  else
    let terms := if kind = 3 then taps.map (fun o => o.getD .zero) else real
    if terms.isEmpty then (f.encode .zero, 0)
    else
      let ch := c.chunk (terms.map (fun v => (v, FV.fin false 1 0)))
      let v := (FV.div (ch.value r.mode) (.fin false terms.length 0)).1
      let (n, fl) := f.put r v
      (n, fl ||| ch.flags ||| (if ch.sticky then fSticky else 0))

/-- Where output (i, j) of a walk with D2S lies (R123). -/
def pixPlace (ws : List Nat) (w : List Byte) (n i j : Nat) : Nat :=
  let d2 := walkD2s w
  let co := n / (d2 * d2)
  let ow := (walkDim w 1).count
  let g := j / co
  db ws 6 20 0 + (i / ow * d2 + g / d2) * (db ws 13 31 16 * 32) +
    ((i % ow * d2 + g % d2) * co + j % co) * ((fmtGet (db ws 14 23 20)).width / 8)

/-- The destination of a CONV (R93, R123). -/
def convDst (x : Core3) (ws : List Nat) (w : List Byte) : List (Nat × Nat) :=
  let n := db ws 9 7 0
  let m := walkM w
  if walkD2s w = 1 then drainDst x ws m n (walkK w)
  else (List.range m).flatMap (fun i => (List.range n).map (fun j =>
    (x.base + pixPlace ws w n i j, (fmtGet (db ws 14 23 20)).width / 8)))

/-- Write the elements of a CONV of one chunk in the form its walk asks for (R93, R123). -/
def writeConv (s : State) (x : Core3) (ws : List Nat) (w : List Byte) (out : List (List (Nat × Nat))) : Ran :=
  let n := db ws 9 7 0
  let flags := out.foldl (fun a r => r.foldl (fun a e => a ||| e.2) a) 0
  let rows := if walkD2s w = 1 then out.mapIdx (fun i r => (rowPlace ws 0 i, r.map (·.1)))
    else (out.mapIdx (fun i r => r.mapIdx (fun j e => (pixPlace ws w n i j, [e.1])))).flatten
  let (s, err) := writeRows s x 1 (fmtGet (db ws 14 23 20)).width rows
  { s := s, flags := flags, sticky := if flags % 2 = 1 then 1 else 0, err := err, dst := convDst x ws w }

/-- CONV after its halo step, over the copied walk (R95, R118–R127). -/
def runConv (s : State) (x : Core3) (ws : List Nat) (w : List Byte) : Ran :=
  let fa := fmtGet (db ws 14 31 28)
  let fb := fmtGet (db ws 14 27 24)
  let kind := walkKind w
  let m := walkM w
  let k := walkK w
  let n := db ws 9 7 0
  let diag := if kind = 1 then wf w 8 2 else 0
  if m = 0 then { s := s }
  else
    let (s, a) := s.readRuns x 4 (wf w 4 4 % 2 ^ 21) (walkRuns w fa)
    let (s, qa) := s.readRuns x 4 (db ws 7 20 0) (scaleRuns w fa)
    let (br, bl) := bShape ws diag n k
    let (s, b) := if 2 ≤ kind then (s, some []) else
      s.tRead x 1 (db ws 5 20 0) (extent br (db ws 12 15 0 * 32) (runBytes fb.width bl))
    let (s, qb) := if fb.isMx ∧ kind < 2 then s.tRead x 1 (db ws 8 20 0) (k * n / 32) else (s, some [])
    match a, qa, b, qb with
    | some a, some qa, some b, some qb =>
      let elem := fun g i t => (walkAt w g i t).map (walkElem w fa a qa)
      let fo := fmtGet (db ws 14 23 20)
      let rnd := fun i j => descRnd ws (db ws 14 15 13) (bit (dw ws 14) 12) i j
      if 2 ≤ kind then
        writeConv s x ws w ((List.range m).map (fun i => (List.range n).map (fun j =>
          poolElem kind (opClass ws) ((List.range k).map (elem j i)) fo (rnd i j))))
      else
        let rows := (List.range (if kind = 1 then n else 1)).map (fun g => (List.range m).map (fun i =>
          (List.range k).map (fun t => (elem g i t).getD .zero)))
        let cols := bCols ws diag n k b qb
        let terms := fun i j => ((rows.getD (if kind = 1 then j else 0) []).getD i []).zip (cols.getD j [])
        if walkD2s w = 1 then drainAll s x ws m n k terms
        else
          writeConv s x ws w ((List.range m).map (fun i => (List.range n).map (fun j =>
            (drainElem (opClass ws) (terms i j) (db ws 11 12 0) 1 fo fo (rnd i j)).headD (0, 0))))
    | _, _, _, _ => { s := s, err := 0x10, dst := convDst x ws w }

/-- Copy of the halo rows into their ring slots from a source of row stride `stride` (R131): row `i` of the source goes to
the slot of coordinate HALO_FIRST + i. False when a read or write errs. -/
def haloCopy (s : State) (x : Core3) (w : List Byte) (src : Int) (stride : Int) : State × Bool :=
  let rd := wf w 0xC 1
  let pitch := (walkDim w rd).pitch
  (List.range (wf w 0x34 2)).foldl (fun (a : State × Bool) (i : Nat) =>
    let (s, b) := a.1.memRead (x.id 4) (src + (i : Int) * stride).toNat pitch
    match b with
    | some b =>
      let (s, ok) := s.tWrite x 4 (wf w 4 4 % 2 ^ 21 + (wf w 0x36 2 + i) % max (wf w 0xE 2) 1 * pitch) b
      (s, a.2 && ok)
    | none => (s, false)) (s, true)

/-- Ring slots that a halo copy writes. -/
def haloSlots (x : Core3) (w : List Byte) : List (Nat × Nat) :=
  let pitch := (walkDim w (wf w 0xC 1)).pitch
  (List.range (wf w 0x34 2)).map (fun i =>
    (x.base + wf w 4 4 % 2 ^ 21 + (wf w 0x36 2 + i) % max (wf w 0xE 2) 1 * pitch, pitch))

/-! ## XRD -/

/-- A node of a reduction tree (R83). -/
structure TreeNode where
  mode : Nat
  left : Nat
  right : Nat
  deriving DecidableEq, Repr

/-- Tree `id` of a reduction-tree section: its leaves and nodes. `fuel` bounds the trees passed over. -/
def treeAt (sec : List Byte) (id : Nat) : Option (Nat × List TreeNode) :=
  if sec.length < 4 then none
  else
    let leaves := fieldLe sec 0 2
    match id with
    | 0 => some (leaves, (List.range (leaves - 1)).map (fun i =>
        let w := fieldLe sec (4 + 4 * i) 4
        ⟨bits w 31 30, bits w 29 15, bits w 14 0⟩))
    | id' + 1 => treeAt (sec.drop (4 * max leaves 1)) id'

/-- Whether a tree meets R83. The reserved bytes of its header are not read.
Log entry 191 (DEDUCED). -/
def treeOk (leaves : Nat) (nodes : List TreeNode) : Bool :=
  decide (1 ≤ leaves) && decide (leaves ≤ 4096) &&
  (nodes.mapIdx (fun k n => decide (n.mode ≤ 3) && decide (n.left < leaves + k) && decide (n.right < leaves + k))).all id &&
  (List.range (leaves + nodes.length - 1)).all (fun i =>
    ((nodes.filter (·.left == i)).length + (nodes.filter (·.right == i)).length) == 1)

/-- The image whose code a core holds. -/
def State.coreImage (s : State) (x : Core3) : Option Image :=
  match (s.tileGet x).kernel with
  | some k => s.images.find? (fun i => i.handle == fieldLe k.launch.data 0 2 && i.tenant == s.coreTenant x)
  | none => none

/-- The bytes of a resident section of an image, from the copy in a cluster's memory. -/
def State.section (s : State) (x : Core3) (im : Image) (typ : Nat) : List Byte :=
  match im.sections.find? (·.typ == typ) with
  | some e => s.unitBytes (x.id 0) (cluBase x.d x.c + im.run + e.off) e.size
  | none => []

/-- The sequencer reads a resident section of an image; none: the access completed with an error status. -/
def State.sectionRead (s : State) (x : Core3) (im : Image) (typ : Nat) : State × Option (List Byte) :=
  match im.sections.find? (·.typ == typ) with
  | some e => if e.size = 0 then (s, some []) else s.memRead (x.id 0) (cluBase x.d x.c + im.run + e.off) e.size
  | none => (s, some [])

/-- Addition of a tree node in FP32, FP64 or INT32 (R62, R96). -/
def nodeAdd (f : Fmt) (mode : Nat) (a b : FV) : FV × Nat :=
  let (v, fl) := FV.add mode a b
  let r := f.round ⟨mode, false, 0⟩ v
  (r.val, fl ||| r.flags)

/-- Tree `id` of the image whose code a core holds. -/
def State.coreTree (s : State) (x : Core3) (id : Nat) : Option (Nat × List TreeNode) :=
  match s.coreImage x with
  | some im => if id < im.treeCount then treeAt (s.section x im 5) id else none
  | none => none

/-- Issue checks of XRD (R90, R96) for the tree that its TREE_ID names. -/
def xrdChecks (s : State) (x : Core3) (ws : List Nat) (tree : Option (Nat × List TreeNode)) : List Check :=
  let fp := db ws 9 31 28
  let fo := db ws 9 27 24
  let e := db ws 7 23 0
  headerChecks s x ws 2 [] ++
  rsvdChecks ws ([(4, 15, 0), (5, 31, 21), (7, 31, 24), (8, 31, 21), (9, 19, 0)] ++
    rsvdWords [10, 11, 12, 13, 14, 15, 19, 24, 25, 26, 27, 28, 29, 30, 31]) [] ++
  need ((fp == 0 || fp == 1 || fp == 0xD) && (decide (fo ≤ 5) || (decide (0xB ≤ fo) && decide (fo ≤ 0xD)))) 0x04 [9] ++
  need (decide (db ws 9 23 21 ≤ 4)) 0x05 [9] ++
  need (decide (1 ≤ e) && decide (e ≤ 524288)) 0x07 [7] ++ need (decide (1 ≤ db ws 6 15 0)) 0x07 [6] ++
  need (db ws 5 4 0 == 0) 0x08 [5] ++ need (db ws 8 4 0 == 0) 0x08 [8] ++
  (match tree with
   | some (leaves, _) =>
     rangeCheck (db ws 5 20 0) ((leaves - 1) * (db ws 6 31 16 * 32) + runBytes (fmtGet fp).width e) [4, 5, 6, 7, 9]
   | none => []) ++
  rangeCheck (db ws 8 20 0) (runBytes (fmtGet fo).width e) [7, 8, 9] ++
  need tree.isSome 0x0C [4]

/-- What an XRD writes (R96): the output, and the storage of the left operand of each intermediate node. -/
def xrdDst (x : Core3) (ws : List Nat) (leaves : Nat) (nodes : List TreeNode) : List (Nat × Nat) :=
  let homes := nodes.foldl (fun l n => l ++ [l.getD n.left 0]) (List.range leaves)
  ((x.base + db ws 8 20 0, runBytes (fmtGet (db ws 9 27 24)).width (db ws 7 23 0)) ::
    (homes.drop leaves).dropLast.map (fun h => (x.base + db ws 5 20 0 + h * (db ws 6 31 16 * 32),
      runBytes (fmtGet (db ws 9 31 28)).width (db ws 7 23 0))))

/-- XRD (R96): intermediate results go where their left operand lies; the root goes to the output alone. -/
def runXrd (s : State) (x : Core3) (ws : List Nat) : Ran :=
  let fp := fmtGet (db ws 9 31 28)
  let fo := fmtGet (db ws 9 27 24)
  let e := db ws 7 23 0
  let off := db ws 5 20 0
  let st := db ws 6 31 16 * 32
  let out := db ws 8 20 0
  match s.coreImage x, s.coreTree x (db ws 4 31 16) with
  | some im, some (leaves, nodes) =>
    let dst := xrdDst x ws leaves nodes
    let (s, sec) := s.sectionRead x im 5
    let (s, data) := s.tRead x 2 off ((leaves - 1) * st + runBytes fp.width e)
    match sec, data with
    | some _, some data =>
      let arrs : List (List FV × Nat) := (List.range leaves).map (fun i =>
        ((List.range e).map (fun j => fp.decode (elemAt (data.drop (i * st)) fp.width j)), i))
      let (arrs, flags, writes) := nodes.foldl (fun (a : List (List FV × Nat) × Nat × List (Nat × List Nat)) n =>
        let l := a.1.getD n.left ([], 0)
        let r := a.1.getD n.right ([], 0)
        let sums := (l.1.zip r.1).map (fun p => nodeAdd fp n.mode p.1 p.2)
        let vals := sums.map (·.1)
        (a.1 ++ [(vals, l.2)], sums.foldl (fun f q => f ||| q.2) a.2.1,
         a.2.2 ++ [(off + l.2 * st, vals.map fp.encode)])) (arrs, 0, [])
      let root := (arrs.getLast?.getD ([], 0)).1
      let rl := max (db ws 6 15 0) 1
      let fin := root.mapIdx (fun j v => fo.put (descRnd ws (db ws 9 23 21) (bit (dw ws 9) 20) (j / rl) (j % rl)) v)
      let nanIn := if root.any (· == .nan) then fNanIn else 0
      let flags := fin.foldl (fun f q => f ||| q.2) (flags ||| nanIn)
      let (s, e1) := writeRows s x 2 fp.width writes.dropLast
      let (s, e2) := writeRows s x 2 fo.width [(out, fin.map (·.1))]
      { s := s, flags := flags, err := max e1 e2, dst := dst }
    | _, _ => { s := s, err := 0x10, dst := dst }
  | _, _ => { s := s }

end Sys2Proof.Machine
end

