-- ==== Sys2Proof/Machine/Vector.lean ====
section
/-!
DEFINITION. The vector operations (R65–R69, R97–R101) over descriptors in tile memory.
-/
namespace Sys2Proof.Machine

/-! ## Descriptor fields of a VOP (R97) -/

/-- VOPC. -/
def vCode (ws : List Nat) : Nat := db ws 4 31 24
/-- MODE. -/
def vMode (ws : List Nat) : Nat := db ws 4 22 20
/-- SAT. -/
def vSat (ws : List Nat) : Bool := bit (dw ws 4) 19
/-- S1_IMM. -/
def vImm (ws : List Nat) : Bool := bit (dw ws 4) 18
/-- FMT_D. -/
def vFd (ws : List Nat) : Nat := db ws 4 15 12
/-- FMT_S2. -/
def vF2 (ws : List Nat) : Nat := db ws 4 11 8
/-- FMT_S1. -/
def vF1 (ws : List Nat) : Nat := db ws 4 7 4
/-- FMT_S0. -/
def vF0 (ws : List Nat) : Nat := db ws 4 3 0

/-- The operations of R98 with an encoding. -/
def vopKnown (v : Nat) : Bool :=
  [0x00, 0x01, 0x02, 0x03, 0x08, 0x09, 0x0A, 0x0B, 0x0C, 0x0D, 0x0E, 0x0F, 0x10, 0x11, 0x12, 0x13, 0x18, 0x19, 0x1A, 0x1B,
   0x1C, 0x1D, 0x1E, 0x1F, 0x20, 0x21, 0x22, 0x23, 0x28, 0x29, 0x30, 0x31, 0x32, 0x33, 0x38, 0x39, 0x3A, 0x40, 0x41, 0x42,
   0x43, 0x48, 0x49, 0x4A].contains v

/-- Row operations with one result per row: RSUM, RMAX, RMIN, RDOT. -/
def vopReduces (v : Nat) : Bool := decide (0x30 ≤ v) && decide (v ≤ 0x33)

/-- Whether an operation reads S1 as a data operand in FMT_S1 (not scales, g or indices). -/
def vopUsesS1 (v : Nat) : Bool := [0x08, 0x09, 0x0A, 0x0B, 0x0C, 0x0D, 0x0E, 0x28, 0x29, 0x33, 0x40, 0x41, 0x42].contains v

/-- Whether an operation reads S2 as a data operand. -/
def vopUsesS2 (v : Nat) : Bool := v == 0x0C || v == 0x29

/-- Whether an operation may take its S1 as an immediate (R97). -/
def vopImmOk (v : Nat) : Bool := [0x08, 0x09, 0x0A, 0x0B, 0x0C, 0x0D, 0x0E, 0x29, 0x33, 0x40, 0x41, 0x42].contains v

/-- Floating-point operations: no integer operand but indices (R97). -/
def vopFloatOnly (v : Nat) : Bool :=
  [0x08, 0x09, 0x0A, 0x0B, 0x0C, 0x11, 0x12, 0x13, 0x30, 0x33, 0x38, 0x39, 0x3A, 0x4A].contains v ||
  (decide (0x18 ≤ v) && decide (v ≤ 0x23))

/-- INT32 operations. -/
def vopInt (v : Nat) : Bool := decide (0x40 ≤ v) && decide (v ≤ 0x43)

/-- Gather and scatter operations. -/
def vopIndex (v : Nat) : Bool := decide (0x48 ≤ v) && decide (v ≤ 0x4A)

/-- A floating-point, non-MX code. -/
def isFloatCode (c : Nat) : Bool := decide (c ≤ 5)
/-- An integer code. -/
def isIntCode (c : Nat) : Bool := decide (0xB ≤ c) && decide (c ≤ 0xD)
/-- An MX code. -/
def isMxCode (c : Nat) : Bool := decide (6 ≤ c) && decide (c ≤ 0xA)

/-- The formats an operation's positions hold (R97): whether they are admitted. -/
def vopFormatsOk (v fd f2 f1 f0 : Nat) : Bool :=
  let plain := fun c => isFloatCode c || isIntCode c
  if v = 0x02 then plain f0 && isMxCode fd
  else if v = 0x03 then isMxCode f0 && plain fd
  else if v = 0x01 then plain f0 && plain fd
  else if vopInt v then f0 == 0xD && fd == 0xD && (v == 0x43 || f1 == 0xD)
  else if v = 0x28 then (isFloatCode f0 && isFloatCode f1 || isIntCode f0 && isIntCode f1) && plain fd
  else if v = 0x29 then plain f0 && (isFloatCode f1 && isFloatCode f2 && isFloatCode fd || isIntCode f1 && isIntCode f2 && isIntCode fd)
  else if vopIndex v then f1 == 0xD && (if v = 0x4A then isFloatCode f0 && isFloatCode fd
    else isFloatCode f0 && isFloatCode fd || isIntCode f0 && isIntCode fd)
  else if v = 0x39 ∨ v = 0x3A then isFloatCode f0 && isFloatCode f1 && isFloatCode f2 && isFloatCode fd
  else
    let codes := [f0, fd] ++ (if vopUsesS1 v then [f1] else []) ++ (if vopUsesS2 v then [f2] else [])
    codes.all isFloatCode || (!vopFloatOnly v && codes.all isIntCode)

/-- Element size in bytes for alignment (sub-byte formats: 1). -/
def elSize (c : Nat) : Nat := max ((fmtGet c).width / 8) 1

/-- Issue checks of a VOP (R90, R97). -/
def vopChecks (s : State) (x : Core3) (ws : List Nat) : List Check :=
  let v := vCode ws
  let mode := vMode ws
  let fd := vFd ws
  let f0 := vF0 ws
  let f1 := vF1 ws
  let f2 := vF2 ws
  let count := db ws 9 23 0
  let rows := db ws 10 15 0
  let ss := db ws 11 31 16 * 32
  let ds := db ws 11 15 0 * 32
  let mx := v == 0x02 || v == 0x03
  let idx := vopIndex v
  let norm := v == 0x39 || v == 0x3A
  let s1data := vopUsesS1 v && !vImm ws
  let s2used := vopUsesS2 v || v == 0x3A
  need (vopKnown v) 0x01 [4] ++
  headerChecks s x ws (if mode = 4 then 2 else 1) [4] ++
  rsvdChecks ws [(4, 17, 16), (5, 31, 21), (8, 31, 21), (9, 31, 24), (10, 31, 16), (14, 31, 0), (15, 31, 0)] [] ++
  (if s1data || mx || idx || norm then rsvdChecks ws [(6, 31, 21)] [4] else []) ++
  (if s2used then rsvdChecks ws [(7, 31, 21)] [4] else []) ++
  (if mode = 4 then rsvdChecks ws (rsvdWords [19, 24, 25, 26, 27, 28, 29, 30, 31]) [4] else []) ++
  need (!vImm ws || vopImmOk v) 0x03 [4] ++
  need (v != 0x28 || decide (db ws 12 2 0 ≤ 4)) 0x03 [4, 12] ++
  need (vopFormatsOk v fd f2 f1 f0) 0x04 [4] ++
  need (decide (mode ≤ 3) || (mode == 4 && (v == 0x01 || v == 0x02))) 0x05 [4] ++
  need (decide (1 ≤ count)) 0x07 [9] ++ need (!mx || count % 32 == 0) 0x07 [4, 9] ++ need (decide (1 ≤ rows)) 0x07 [10] ++
  need (db ws 5 20 0 % elSize f0 == 0) 0x08 [4, 5] ++ need (db ws 8 20 0 % elSize fd == 0) 0x08 [4, 8] ++
  need (!(s1data || idx) || db ws 6 20 0 % elSize f1 == 0) 0x08 [4, 6] ++
  need (!norm || db ws 6 20 0 % elSize f2 == 0) 0x08 [4, 6] ++
  need (!s2used || db ws 7 20 0 % elSize f2 == 0) 0x08 [4, 7] ++
  rangeCheck (db ws 5 20 0) (extent rows ss (runBytes (fmtGet f0).width (if v = 0x48 then 1 else count))) [4, 5, 9, 10, 11] ++
  (if s1data || idx then rangeCheck (db ws 6 20 0) (extent rows ss (runBytes (fmtGet f1).width count)) [4, 6, 9, 10, 11] else []) ++
  (if mx then rangeCheck (db ws 6 20 0) (rows * (count / 32)) [4, 6, 9, 10] else []) ++
  (if norm then rangeCheck (db ws 6 20 0) (runBytes (fmtGet f2).width count) [4, 6, 9] else []) ++
  (if v = 0x3A then rangeCheck (db ws 7 20 0) (runBytes (fmtGet f2).width count) [4, 7, 9] else []) ++
  (if vopUsesS2 v then rangeCheck (db ws 7 20 0) (extent rows ss (runBytes (fmtGet f2).width count)) [4, 7, 9, 10, 11] else []) ++
  rangeCheck (db ws 8 20 0) (extent rows ds (runBytes (fmtGet fd).width
    (if vopReduces v then 1 else if v = 0x49 ∨ v = 0x4A then 1 else count))) [4, 8, 9, 10, 11]

/-! ## Arithmetic in the computation format (R66, R97) -/

/-- The widest floating-point format among codes, at least FP32. -/
def compFmt (codes : List Nat) : Fmt := if codes.contains 0 then fp64 else fp32

/-- A value with the flags so far. -/
abbrev VF := FV × Nat

/-- Round an exact result in the computation format.
Log entry 192 (DEDUCED). -/
def inComp (cf : Fmt) (mode : Nat) (v : Op) : VF :=
  let r := cf.round ⟨mode, false, 0⟩ v.1
  (r.val, v.2 ||| r.flags)

/-- a + b. -/
def cAdd (cf : Fmt) (mode : Nat) (a b : FV) : VF := inComp cf mode (FV.add mode a b)
/-- a − b. -/
def cSub (cf : Fmt) (mode : Nat) (a b : FV) : VF := inComp cf mode (FV.add mode a b.negate)
/-- a × b. -/
def cMul (cf : Fmt) (mode : Nat) (a b : FV) : VF := inComp cf mode (FV.mul a b)
/-- a ÷ b. -/
def cDiv (cf : Fmt) (mode : Nat) (a b : FV) : VF := inComp cf mode (FV.div a b)
/-- √a. -/
def cSqrt (cf : Fmt) (mode : Nat) (a : FV) : VF := inComp cf mode (FV.sqrt a)
/-- a × b + c.
Log entry 38 (DEDUCED). -/
def cFma (cf : Fmt) (mode : Nat) (a b c : FV) : VF := inComp cf mode (FV.fma mode a b c)

/-- +1. -/
def FV.one : FV := .fin false 1 0

/-- Special functions (R67): the results for special inputs follow the recommended operations of IEEE 754-2019; every other
input takes a result that the bound admits. GELU of −∞ takes the result for the largest negative finite value.
Log entry 43 (DEDUCED). -/
def cSpecial (cf : Fmt) (op mode : Nat) (a : FV) : VF :=
  let inv : VF := (.nan, fInvalid)
  match a with
  | .nan => (.nan, fNanIn)
  | .inf neg =>
    match op with
    | 0x13 => if neg then inv else (.zero, 0)
    | 0x18 => if neg then (.zero, 0) else (.inf false, 0)
    | 0x19 => if neg then (.zero, 0) else (.inf false, 0)
    | 0x1A => if neg then inv else (.inf false, 0)
    | 0x1B => if neg then inv else (.inf false, 0)
    | 0x1C => if neg then (.fin true 1 0, 0) else (.inf false, 0)
    | 0x1D => if neg then inv else (.inf false, 0)
    | 0x1E => inv
    | 0x1F => inv
    | 0x20 => (.fin neg 1 0, 0)
    | 0x21 => if neg then (.zero, 0) else (.one, 0)
    | 0x22 => (.fin neg 1 0, 0)
    | _ => if neg then specFin cf op mode (cf.maxFin true) else (.inf false, 0)
  | .fin neg q _ =>
    if q = 0 then
      match op with
      | 0x13 => (.inf neg, 0)
      | 0x18 => (.one, 0)
      | 0x19 => (.one, 0)
      | 0x1A => (.inf true, 0)
      | 0x1B => (.inf true, 0)
      | 0x1F => (.one, 0)
      | 0x21 => (.fin false 1 (-1), 0)
      | _ => (a, 0)
    else
      match op with
      | 0x13 => if neg then inv else specFin cf op mode a
      | 0x1A => if neg then inv else if FV.eq a .one then (.zero, 0) else specFin cf op mode a
      | 0x1B => if neg then inv else if FV.eq a .one then (.zero, 0) else specFin cf op mode a
      | 0x1D => if FV.lt a (.fin true 1 0) then inv else if FV.eq a (.fin true 1 0) then (.inf true, 0) else specFin cf op mode a
      | _ => specFin cf op mode a

/-- Fixed binary tree over a row (R99): one level. -/
def treeLevel (f : FV → FV → VF) : List FV → List FV × Nat
  | a :: b :: t =>
    let (v, fl) := f a b
    let (r, g) := treeLevel f t
    (v :: r, fl ||| g)
  | l => (l, 0)

/-- Fixed binary tree over a row (R99): levels until one value remains. -/
def treeReduce (f : FV → FV → VF) : Nat → List FV → VF
  | _, [] => (.zero, 0)
  | _, [a] => (a, 0)
  | 0, a :: _ => (a, 0)
  | n + 1, l =>
    let (r, fl) := treeLevel f l
    let (v, g) := treeReduce f n r
    (v, fl ||| g)

/-- Row sum (R99). -/
def rowSum (cf : Fmt) (mode : Nat) (l : List FV) : VF := treeReduce (cAdd cf mode) l.length l

/-- Row maximum or minimum in the order of POOL_MAX; a NaN makes the result NaN (R98). -/
def rowExt (isMax : Bool) (l : List FV) : VF :=
  if l.any (· == .nan) then (.nan, fNanIn)
  else
    match l with
    | [] => (.zero, 0)
    | a :: t => (t.foldl (fun m y => if isMax then (if FV.ltz m y then y else m) else (if FV.ltz y m then y else m)) a, 0)

/-- Apply a step to each element of a row, collecting flags. -/
def mapVF (f : FV → VF) (l : List FV) : List FV × Nat :=
  let r := l.map f
  (r.map (·.1), r.foldl (fun a e => a ||| e.2) 0)

/-- SMAX (R100). -/
def rowSoftmax (cf : Fmt) (mode : Nat) (l : List FV) : List FV × Nat :=
  if l.any (· == .nan) then (l.map (fun _ => .nan), fNanIn)
  else if l.all (· == .inf true) then (l.map (fun _ => .zero), 0)
  else
    let m := (rowExt true l).1
    let (ds, f1) := mapVF (fun a => cSub cf mode a m) l
    let (es, f2) := mapVF (cSpecial cf 0x18 mode) ds
    let (sm, f3) := rowSum cf mode es
    let (ys, f4) := mapVF (fun e => cDiv cf mode e sm) es
    (ys, f1 ||| f2 ||| f3 ||| f4)

/-- RMSN and LNRM (R100): `b` empty for RMSN. -/
def rowNorm (cf : Fmt) (mode : Nat) (ln : Bool) (eps : FV) (l g b : List FV) : List FV × Nat :=
  let n := FV.fin false l.length 0
  let (v, f0) :=
    if ln then
      let (sm, fa) := rowSum cf mode l
      let (mu, fb) := cDiv cf mode sm n
      let (v, fc) := mapVF (fun a => cSub cf mode a mu) l
      (v, fa ||| fb ||| fc)
    else (l, 0)
  let (sq, f1) := mapVF (fun a => cMul cf mode a a) v
  let (sm, f2) := rowSum cf mode sq
  let (q, f3) := cDiv cf mode sm n
  let (qe, f4) := cAdd cf mode q eps
  let (r, f5) := cSpecial cf 0x13 mode qe
  let (rr, f5') := inComp cf mode (r, f5)
  let (y, f6) := mapVF (fun a => cMul cf mode a rr) v
  let yg := (y.zip g).map (fun p => cMul cf mode p.1 p.2)
  let f7 := yg.foldl (fun a e => a ||| e.2) 0
  let base := f0 ||| f1 ||| f2 ||| f3 ||| f4 ||| f5' ||| f6 ||| f7
  if ln then
    let yb := ((yg.map (·.1)).zip b).map (fun p => cAdd cf mode p.1 p.2)
    (yb.map (·.1), yb.foldl (fun a e => a ||| e.2) base)
  else (yg.map (·.1), base)

/-- NAN_IN for values read. -/
def nanFlag (l : List FV) : Nat := if l.any (· == .nan) then fNanIn else 0

/-- An elementwise operation on exact operands (R97, R98): the exact or computed result and the flags of its computation;
NAN_IN for a NaN source is `sourceFlags`' part. -/
def vopElem (v : Nat) (cf : Fmt) (mode : Nat) (imm : Nat) (a b c : FV) : VF :=
  match v with
  | 0x08 => cAdd cf mode a b
  | 0x09 => cSub cf mode a b
  | 0x0A => cMul cf mode a b
  | 0x0B => cDiv cf mode a b
  | 0x0C => cFma cf mode a b c
  | 0x0D => (FV.minNum a b, 0)
  | 0x0E => (FV.maxNum a b, 0)
  | 0x0F => (a.abs, 0)
  | 0x10 => (a.negate, 0)
  | 0x11 => cSqrt cf mode a
  | 0x12 => cDiv cf mode .one a
  | 0x28 =>
    let r : Bool := match imm with
      | 0 => FV.lt a b
      | 1 => FV.lt a b || FV.eq a b
      | 2 => FV.eq a b
      | 3 => !FV.eq a b
      | _ => a == .nan || b == .nan
    (if r then .one else .zero, 0)
  | 0x29 => (if a.isZero then c else b, 0)
  | 0x13 => inComp cf mode (cSpecial cf v mode a)
  | _ => if decide (0x18 ≤ v) && decide (v ≤ 0x23) then inComp cf mode (cSpecial cf v mode a) else (a, 0)

/-- INT32 arithmetic (R98): saturating with SAT, else wrapping. -/
def vopIntElem (v : Nat) (mode : Nat) (sat : Bool) (imm : Nat) (a b : Int) : Nat × Nat :=
  let fit := fun (i : Int) =>
    if -(2 ^ 31 : Int) ≤ i ∧ i < 2 ^ 31 then (ofInt 32 i, 0)
    else if sat then (ofInt 32 (if i < 0 then -(2 ^ 31) else 2 ^ 31 - 1), fSat) else (ofInt 32 i, 0)
  match v with
  | 0x40 => fit (a + b)
  | 0x41 => fit (a - b)
  | 0x42 => fit (a * b)
  | _ =>
    let (n, _) := roundInt ⟨mode, false, 0⟩ (decide (a < 0)) a.natAbs (-(imm : Int)) 0
    fit (if a < 0 then -(n : Int) else n)

/-- ABS and NEG in an integer source format: its minimum gives its maximum and SAT when SAT is set, else itself (R97). -/
def vopIntSign (f : Fmt) (v : Nat) (sat : Bool) (a : Int) : VF :=
  let lo := -(2 ^ (f.width - 1) : Int)
  let r := if v = 0x0F ∧ 0 ≤ a then a else -a
  if a = lo then (if sat then (FV.ofInt (-lo - 1) 0 false, fSat) else (FV.ofInt lo 0 false, 0)) else (FV.ofInt r 0 false, 0)

/-! ## Running a VOP -/

/-- One row of packed elements as values. -/
def rowVals (f : Fmt) (data : List Byte) (n : Nat) : List FV := (List.range n).map (fun i => f.decode (elemAt data f.width i))

/-- A destination row whose results are rounded to FMT_D (R97), with flags.
Log entry 41 (DEDUCED). -/
def putRow (fd : Fmt) (rnd : Nat → Rnd) (l : List FV) : List Nat × Nat :=
  let r := l.mapIdx (fun i v => fd.put (rnd i) v)
  (r.map (·.1), r.foldl (fun a e => a ||| e.2) 0)

/-- The rounding of element (r, c) of a VOP. -/
def vopRnd (ws : List Nat) (r c : Nat) : Rnd := descRnd ws (vMode ws) (vSat ws) r c

/-- The flags of an elementwise operation under SAT: the result that overflows saturates, so it raises SAT in place of OVERFLOW
(R46).
Log entry 192 (DEDUCED). -/
def satFlags (sat : Bool) (fl : Nat) : Nat := if sat && bit fl 2 then (fl - fOverflow) ||| fSat else fl

/-- The flags of operations over source operands: NAN_IN tells of a NaN among the sources alone.
Log entry 192 (DEDUCED). -/
def sourceFlags (srcs : List FV) (fl : Nat) : Nat := (if bit fl 4 then fl - fNanIn else fl) ||| nanFlag srcs

/-- The results of one row of an operation that is not a gather, scatter or MX operation.
Log entry 38 (DEDUCED). -/
def vopRow (ws : List Nat) (r : Nat) (d0 d1 d2 : List Byte) : List Nat × Nat :=
  let v := vCode ws
  let mode := vMode ws
  let fd := fmtGet (vFd ws)
  let f0 := fmtGet (vF0 ws)
  let f1 := fmtGet (vF1 ws)
  let f2 := fmtGet (vF2 ws)
  let n := db ws 9 23 0
  let rnd := vopRnd ws r
  let a := rowVals f0 d0 n
  let imm := f1.decode (dw64 ws 12 % 2 ^ f1.width)
  let b := if vImm ws then List.replicate n imm else if vopUsesS1 v then rowVals f1 d1 n else List.replicate n .zero
  if vopInt v then
    let z := a.zip (if v = 0x43 then a else b)
    let rs := z.map (fun p => vopIntElem v mode (vSat ws) (db ws 12 4 0) (p.1.over 0) (p.2.over 0))
    (rs.map (·.1), rs.foldl (fun x e => x ||| e.2) 0)
  else
    let codes := [vF0 ws, vFd ws] ++ (if vopUsesS1 v then [vF1 ws] else []) ++
      (if vopUsesS2 v ∨ v = 0x39 ∨ v = 0x3A then [vF2 ws] else []) ++ (if v = 0x39 ∨ v = 0x3A then [vF1 ws] else [])
    let cf := compFmt codes
    let c := if vopUsesS2 v then rowVals f2 d2 n else List.replicate n .zero
    let g := if v = 0x39 ∨ v = 0x3A then rowVals f2 d1 n else []
    let h := if v = 0x3A then rowVals f2 d2 n else []
    let srcs := a ++ (if vopUsesS1 v then b else []) ++ (if vopUsesS2 v then c else []) ++ g ++ h ++
      (if v = 0x39 ∨ v = 0x3A then [imm] else [])
    let out : List FV × Nat :=
      match v with
      | 0x30 => let (y, f) := rowSum cf mode a; ([y], f)
      | 0x31 => let (y, f) := rowExt true a; ([y], f)
      | 0x32 => let (y, f) := rowExt false a; ([y], f)
      | 0x33 =>
        let ps := (a.zip b).map (fun p => cMul cf mode p.1 p.2)
        let (y, f) := rowSum cf mode (ps.map (·.1))
        ([y], ps.foldl (fun x e => x ||| e.2) f)
      | 0x38 => rowSoftmax cf mode a
      | 0x39 => rowNorm cf mode false imm a g []
      | 0x3A => rowNorm cf mode true imm a g h
      | _ =>
        let rs := if (v = 0x0F ∨ v = 0x10) ∧ f0.isInt then a.map (fun p => vopIntSign f0 v (vSat ws) (p.over 0))
          else (a.zip (b.zip c)).map (fun p => vopElem v cf mode (db ws 12 2 0) p.1 p.2.1 p.2.2)
        (rs.map (·.1), satFlags (vSat ws) (rs.foldl (fun x e => x ||| e.2) 0))
    let (es, fl) := putRow fd rnd out.1
    (es, sourceFlags srcs out.2 ||| fl)

/-- Split a list into groups of 32. -/
def groups32 {α : Type} (l : List α) : List (List α) := (List.range (l.length / 32)).map (fun i => (l.drop (32 * i)).take 32)

/-- One row of MXQ (R47): scale bytes, element encodings, flags. -/
def mxqRow (ws : List Nat) (r : Nat) (d0 : List Byte) : List Nat × List Nat × Nat :=
  let fd := fmtGet (vFd ws)
  let vals := rowVals (fmtGet (vF0 ws)) d0 (db ws 9 23 0)
  let rs := (List.range vals.length).map (vopRnd ws r)
  let bs := ((groups32 vals).zip (groups32 rs)).map (fun p => mxBlock fd p.1 p.2)
  (bs.map (·.1), bs.flatMap (·.2.1), bs.foldl (fun a b => a ||| b.2.2) 0)

/-- Signed index of an INT32 element. -/
def idxAt (d : List Byte) (e : Nat) : Int := toInt 32 (elemAt d 32 e)

/-- Offset of element `i` (possibly negative) of a row at `base`; none past tile memory.
Log entry 193 (DEDUCED). -/
def idxOff (base : Nat) (w : Nat) (i : Int) : Option Nat :=
  let o : Int := (base : Int) + i * (w : Int) / 8
  if 0 ≤ o ∧ o + (runBytes w 1 : Int) ≤ (tileBytes : Int) then some o.toNat else none

/-- Run a VOP (R97–R101). A gather or scatter steps its indexed array from row to row as any other.
Log entries 40 (DEDUCED), 193 (DEDUCED). -/
def runVop (s : State) (x : Core3) (ws : List Nat) : Ran :=
  let v := vCode ws
  let eng := if bit (dw ws 4) 23 then 3 else 2
  let rows := db ws 10 15 0
  let n := db ws 9 23 0
  let ss := db ws 11 31 16 * 32
  let ds := db ws 11 15 0 * 32
  let f0 := fmtGet (vF0 ws)
  let f1 := fmtGet (vF1 ws)
  let f2 := fmtGet (vF2 ws)
  let fd := fmtGet (vFd ws)
  let o0 := db ws 5 20 0
  let o1 := db ws 6 20 0
  let o2 := db ws 7 20 0
  let od := db ws 8 20 0
  let outN := if vopReduces v then 1 else n
  let norm := v == 0x39 || v == 0x3A
  let dstR := (List.range rows).map (fun r => (x.base + od + r * ds, runBytes fd.width outN)) ++
    (if v = 0x02 then [(x.base + o1, rows * (n / 32))] else [])
  let (s, m0) := s.tRead x eng o0 (if v = 0x48 then 0 else extent rows ss (runBytes f0.width n))
  let (s, m1) :=
    if vopUsesS1 v && !vImm ws || vopIndex v then s.tRead x eng o1 (extent rows ss (runBytes f1.width n))
    else if norm then s.tRead x eng o1 (runBytes f2.width n)
    else if v = 0x03 then s.tRead x eng o1 (rows * (n / 32))
    else (s, some [])
  let (s, m2) :=
    if vopUsesS2 v then s.tRead x eng o2 (extent rows ss (runBytes f2.width n))
    else if v = 0x3A then s.tRead x eng o2 (runBytes f2.width n)
    else (s, some [])
  -- the elements that a gather or scatter names, and what it writes; none where the indices cannot be read
  let es := if vopIndex v then (m1.map (fun m1 => (List.range rows).flatMap (fun r => (List.range n).map (fun e =>
      (r, e, idxOff ((if v = 0x48 then o0 else od) + r * (if v = 0x48 then ss else ds)) (if v = 0x48 then f0.width else fd.width)
        (idxAt (m1.drop (r * ss)) e)))))).getD [] else []
  let dst := if v = 0x49 ∨ v = 0x4A then es.filterMap (fun t => t.2.2.map (fun o => (x.base + o, runBytes fd.width 1))) else dstR
  match m0, m1, m2 with
  | some m0, some m1, some m2 =>
    if vopIndex v then
      -- R101: every index is checked before any element is written
      if es.any (fun t => t.2.2.isNone) then { s := s, err := 0x09 }
      else
        let cf := compFmt [vF0 ws, vFd ws]
        let step := fun (a : State × Nat × Nat) (t : Nat × Nat × Option Nat) =>
          let (r, e, o) := t
          let off := o.getD 0
          let st := a.1
          if v = 0x48 then
            let i := idxAt (m1.drop (r * ss)) e
            let (st, b) := st.tRead x eng off (runBytes f0.width 1)
            match b with
            | none => (st, a.2.1, 0x10)
            | some b =>
              let sh := (((i * (f0.width : Int)) % 8).toNat)
              let val := f0.decode (leNat b / 2 ^ sh % 2 ^ f0.width)
              let (en, fl) := fd.put (vopRnd ws r e) val
              let pos := od + r * ds + fd.width * e / 8
              let old := leNat (st.visRead (st.phys (x.base + pos)) (runBytes fd.width 1))
              let sb := fd.width * e % 8
              let (st, ok) := st.tWrite x eng pos (natLe (runBytes fd.width 1)
                (putBits old (sb + fd.width - 1) sb en))
              (st, a.2.1 ||| fl ||| nanFlag [val], if ok then a.2.2 else 0x10)
          else
            let val := f0.decode (elemAt (m0.drop (r * ss)) f0.width e)
            let sh := (((idxAt (m1.drop (r * ss)) e * (fd.width : Int)) % 8).toNat)
            let (st, rd) := if v = 0x4A then st.tRead x eng off (runBytes fd.width 1)
              else (st, some (st.visRead (st.phys (x.base + off)) (runBytes fd.width 1)))
            match rd with
            | none => (st, a.2.1, 0x10)
            | some old =>
              let old := leNat old
              let (res, f3) : VF := if v = 0x4A then
                  cAdd cf (vMode ws) (fd.decode (old / 2 ^ sh % 2 ^ fd.width)) val
                else (val, nanFlag [val])
              let (en, fl) := fd.put (vopRnd ws r e) res
              let (st, ok) := st.tWrite x eng off (natLe (runBytes fd.width 1) (putBits old (sh + fd.width - 1) sh en))
              (st, a.2.1 ||| fl ||| satFlags (vSat ws) f3, if ok then a.2.2 else 0x10)
        let (s, fl, err) := es.foldl step (s, 0, 0)
        { s := s, flags := fl, err := err, dst := dst }
    else if v = 0x02 then
      let out := (List.range rows).map (fun r => mxqRow ws r (m0.drop (r * ss)))
      let (s, e1) := writeRows s x eng fd.width (out.mapIdx (fun r q => (od + r * ds, q.2.1)))
      let (s, e2) := writeRows s x eng 8 (out.mapIdx (fun r q => (o1 + r * (n / 32), q.1)))
      { s := s, flags := out.foldl (fun a q => a ||| q.2.2) 0, err := max e1 e2, dst := dst }
    else if v = 0x03 then
      let out := (List.range rows).map (fun r =>
        let vals := (List.range n).map (fun e => mxValue f0 (fieldLe m1 (r * (n / 32) + e / 32) 1) (elemAt (m0.drop (r * ss)) f0.width e))
        let (es, fl) := putRow fd (vopRnd ws r) vals
        (es, fl ||| nanFlag vals))
      let (s, err) := writeRows s x eng fd.width (out.mapIdx (fun r q => (od + r * ds, q.1)))
      { s := s, flags := out.foldl (fun a q => a ||| q.2) 0, err := err, dst := dst }
    else
      let out := (List.range rows).map (fun r =>
        vopRow ws r (m0.drop (r * ss)) (if norm then m1 else m1.drop (r * ss)) (if norm then m2 else m2.drop (r * ss)))
      let (s, err) := writeRows s x eng fd.width (out.mapIdx (fun r q => (od + r * ds, q.1)))
      { s := s, flags := out.foldl (fun a q => a ||| q.2) 0, err := err, dst := dst }
  | _, _, _ => { s := s, err := 0x10, dst := dst }

end Sys2Proof.Machine
end

