-- ==== Sys2Proof/Machine/Dma.lean ====
section
/-!
DEFINITION. The DMA engine (R102, R103), truncation (R73) and the fold accumulators (R176, R177).
-/
namespace Sys2Proof.Machine

/-! ## Fold digests (R176, R177) -/

/-- fold_mix. -/
def foldMix (x : Nat) : Nat :=
  let w := 2 ^ 64
  let x := (x ^^^ (x / 2 ^ 30)) * 0xBF58476D1CE4E5B9 % w
  let x := (x ^^^ (x / 2 ^ 27)) * 0x94D049BB133111EB % w
  x ^^^ (x / 2 ^ 31)

/-- fold_byte. -/
def foldByte (f q v : Nat) : Nat :=
  foldMix (((f * 2 ^ 59 % 2 ^ 64 ^^^ q * 2 ^ 8 % 2 ^ 64 ^^^ v) + 0x9E3779B97F4A7C15) % 2 ^ 64)

/-- Sum of fold_byte over bytes at rising logical positions. -/
def foldBytes (f q : Nat) : List Byte → Nat
  | [] => 0
  | b :: t => (foldByte f q b.toNat + foldBytes f (q + 1) t) % 2 ^ 64

/-- CLUSTERS of the job that pushed a core's kernel; the clusters of the partition where no job did. -/
def State.foldClusters (s : State) (x : Core3) : Nat :=
  let own := (s.tenant (s.coreTenant x)).clusters
  match (s.tileGet x).kernel with
  | some k =>
    match s.job.jobs.find? (·.num == k.launch.job) with
    | some j => if k.launch.source = 1 then fieldLe j.data 0x1C 4 else own
    | none => own
  | none => own

/-- The logical position of a byte of memory (R177).
Log entry 42 (DEDUCED). -/
def State.foldPos (s : State) (x : Core3) (p : Nat) : Nat :=
  match (placeOf p).1 with
  | .hbm _ | .lp => (s.region (regionOf p)).index * 0x200000 + p % 0x200000
  | .cluMem d c | .tile d c _ =>
    let i := ((cluList (s.foldClusters x)).filter (· < 8 * d + c)).length
    let o := p - cluBase d c
    let o := match (placeOf p).1 with
      | .tile _ _ sl =>
        match s.logSlot ⟨d, c, sl⟩ with
        | some l => 0x8000000 + l * 0x400000 + (o - 0x4000000) % 0x400000
        | none => o
      | _ => o
    0x800000000000 + i * 0x10000000 + o
  | _ => p

/-- Add written bytes into fold accumulator `f` of a core.
Log entry 42 (DEDUCED). -/
def State.foldInto (s : State) (x : Core3) (f p : Nat) (data : List Byte) : State :=
  let a := x.reg (0x600 + 8 * f)
  let sum := (data.mapIdx (fun i b => foldByte f (s.foldPos x (p + i)) b.toNat)).foldl (· + ·) 0
  s.setReg64 a ((s.reg64 a + sum) % 2 ^ 64)

/-! ## Descriptor -/

/-- A row's address from a base and the two signed strides; below 0 where a stride has left the address space. -/
def rowAddr (base row plane : Nat) (rs ps : Nat) : Int := (base : Int) + row * toInt 32 rs + plane * toInt 32 ps

/-- Rows in plane-major, row-major order (R103). -/
def dmaRows (ws : List Nat) : List (Nat × Nat) :=
  (List.range (db ws 9 31 16)).flatMap (fun p => (List.range (db ws 9 15 0)).map (fun r => (p, r)))

/-- Source address of a row. -/
def dmaSrc (ws : List Nat) (pr : Nat × Nat) : Int := rowAddr (dw64 ws 4) pr.2 pr.1 (dw ws 10) (dw ws 12)
/-- Destination address of a row. -/
def dmaDst (ws : List Nat) (pr : Nat × Nat) : Int := rowAddr (dw64 ws 6) pr.2 pr.1 (dw ws 11) (dw ws 13)

/-- Bytes of a destination row (R103). -/
def dmaDstBytes (ws : List Nat) : Nat :=
  let n := db ws 8 24 0
  match db ws 14 27 26 with
  | 1 => n / 2
  | 2 => let e := n / (runBytes (fmtGet (db ws 14 25 22)).width 1); e + e / 32
  | _ => n

/-- Whether a NAND block range lies in an area that a tenant may use (R103): its scratch blocks; for tenant 0 the model store
and overflow areas too, which the standing configuration gives. -/
def State.nandOk (s : State) (t first n : Nat) : Bool :=
  let x := s.tenant t
  (decide (x.nandFirst ≤ first) && decide (first + n ≤ x.nandFirst + x.nandBlocks)) ||
  (t == 0 && s.nandModel.any (fun r => decide (r.1 ≤ first) && decide (first + n ≤ r.1 + r.2)))

/-- Issue checks of DMA (R90, R102, R103). -/
def dmaChecks (s : State) (x : Core3) (ws : List Nat) : List Check :=
  let t := s.coreTenant x
  let n := db ws 8 24 0
  let sk := db ws 14 31 30
  let dk := db ws 14 29 28
  let tr := db ws 14 27 26
  let tf := db ws 14 25 22
  let rows := dmaRows ws
  let dn := dmaDstBytes ws
  headerChecks s x ws 1 [] ++
  rsvdChecks ws [(5, 31, 16), (7, 31, 16), (8, 31, 25), (14, 15, 0)] [] ++
  need (sk != 3 && decide (dk < 2)) 0x03 [14] ++
  need (decide (1 ≤ n) && decide (n ≤ 16777216)) 0x07 [8] ++ need (decide (1 ≤ db ws 9 31 16) && decide (1 ≤ db ws 9 15 0)) 0x07 [9] ++
  need ((sk != 1 && dk != 1) || n % 4096 == 0) 0x08 [8, 14] ++
  need (sk != 0 || rows.all (fun r => s.spanOwned t (dmaSrc ws r) n)) 0x0A [4, 5, 8, 9, 10, 12, 14] ++
  need (dk != 0 || rows.all (fun r => s.spanOwned t (dmaDst ws r) dn)) 0x0A [6, 7, 8, 9, 11, 13, 14] ++
  need (match tr with
    | 0 => true
    | 1 => tf == 1 && n % 4 == 0
    | 2 => (tf == 1 && n % 128 == 0) || (tf == 2 && n % 64 == 0)
    | _ => false) 0x0D [8, 14] ++
  need (sk != 1 || s.nandOk t (dw64 ws 4) (rows.length * n / 4096)) 0x0E [4, 5, 8, 9, 14] ++
  need (dk != 1 || s.nandOk t (dw64 ws 6) (rows.length * dn / 4096)) 0x0E [6, 7, 8, 9, 14]

/-- One row after truncation (R73, R103), with the flags its conversions raise. -/
def truncRow (mode fmt : Nat) (b : List Byte) : List Byte × Nat :=
  let f := fmtGet fmt
  let n := b.length / (f.width / 8)
  let vals := rowVals f b n
  match mode with
  | 1 =>
    let (es, fl) := putRow bf16 (fun _ => rne) vals
    (natLe (2 * n) (packVal 16 es), fl ||| nanFlag vals)
  | 2 =>
    let bs := (groups32 vals).map (fun g => mxBlock e4m3 g (g.map (fun _ => rne)))
    (natLe n (packVal 8 (bs.flatMap (·.2.1))) ++ natLe (n / 32) (packVal 8 (bs.map (·.1))),
     bs.foldl (fun a q => a ||| q.2.2) 0)
  | _ => (b, 0)

/-- The FILL pattern repeated (R102). -/
def fillRow (pat n : Nat) : List Byte := (List.range n).map (fun i => BitVec.ofNat 8 (pat / 2 ^ (8 * (i % 4))))

/-- The intersection of two ranges. -/
def rangeMeet (a n b m : Nat) : Option (Nat × Nat) :=
  if max a b < min (a + n) (b + m) then some (max a b, min (a + n) (b + m) - max a b) else none

/-- The bytes of row `r`, the `i`-th of a DMA, from its source (R102, R103). -/
def dmaRead (s : State) (x : Core3) (ws : List Nat) (bad : List Nat) (r : Nat × Nat) (i : Nat) : State × Option (List Byte) :=
  let n := db ws 8 24 0
  if db ws 14 31 30 = 2 then (s, some (fillRow (dw ws 15) n))
  else if db ws 14 31 30 = 1 then s.nandRead (x.id 5) (dw64 ws 4 + i * (n / 4096)) (n / 4096) bad
  else s.memRead (x.id 5) (dmaSrc ws r).toNat n

/-- Write row `r`, the `i`-th of a DMA, and fold it in (R102, R103, R177); false when the write errs. -/
def dmaWrite (s : State) (x : Core3) (ws : List Nat) (b : List Byte) (r : Nat × Nat) (i : Nat) : State × Bool :=
  if db ws 14 29 28 = 1 then (s.nandWrite (dw64 ws 6 * 4096 + i * dmaDstBytes ws) b, true)
  else
    let a := (dmaDst ws r).toNat
    let (s, ok) := s.memWrite (x.id 5) a b
    (if bit (dw ws 14) 21 then s.foldInto x (db ws 14 20 16) (s.phys a) b else s, ok)

/-- Run a DMA command (R103). `badBlocks` are NAND blocks whose LDPC decode fails now (R26). Every row is read before any is
written, so bytes outside the overlap of source and destination are those of the source. -/
def runDma (s : State) (x : Core3) (ws : List Nat) (badBlocks : List Nat) : Ran :=
  let n := db ws 8 24 0
  let mem := db ws 14 29 28 = 0
  let tr := db ws 14 27 26
  let dn := dmaDstBytes ws
  let rows := dmaRows ws
  let dst := if mem then rows.map (fun r => ((dmaDst ws r).toNat, dn)) else []
  let (s, got) := rows.zipIdx.foldl (fun (a : State × Option (List (List Byte))) ri =>
    match a.2 with
    | none => a
    | some l =>
      let (s, b) := dmaRead a.1 x ws badBlocks ri.1 ri.2
      (s, b.map (l ++ [·]))) (s, some [])
  match got with
  | none => { s := s, err := 0x10, dst := dst }
  | some l =>
    let out := l.map (fun b => if tr = 0 then (b, 0) else truncRow tr (db ws 14 25 22) b)
    let fl := out.foldl (fun a e => a ||| e.2) 0
    let (s, err) := (rows.zipIdx.zip out).foldl (fun (a : State × Nat) e =>
      if a.2 ≠ 0 then a
      else
        let (s, ok) := dmaWrite a.1 x ws e.2.1 e.1.1 e.1.2
        (s, if ok then 0 else 0x10)) (s, 0)
    let past := if mem ∧ db ws 14 31 30 = 0 then
        rows.flatMap (fun r => rows.filterMap (fun q =>
          rangeMeet (s.phys (dmaDst ws r).toNat) dn (s.phys (dmaSrc ws q).toNat) n))
      else []
    { s := s.undefine past, flags := if err = 0 ∧ tr ≠ 0 then fl ||| fSpill else fl, err := err, dst := dst }

end Sys2Proof.Machine
end

