-- ==== Sys2Proof/Machine/Attn.lean ====
section
/-!
DEFINITION. KV pages and their metadata (R187–R190), and the ATTN command (R191–R207).
-/
namespace Sys2Proof.Machine

/-! ## KV pages (R187, R188, R190) -/

/-- Whether a format code may hold K or V (R190). -/
def kvFmtOk (f : Nat) : Bool := [0x2, 0x4, 0x5, 0x6, 0x7, 0x8, 0x9, 0xA].contains f

/-- Round up to a multiple. -/
def upTo (m n : Nat) : Nat := ceilDiv n m * m

/-- Offsets in a page of its K elements, K scales, V elements and V scales, and PAGE_BYTES (R187). -/
structure PageMap where
  kElem : Nat
  kScale : Nat
  vElem : Nat
  vScale : Nat
  bytes : Nat
  deriving DecidableEq, Repr

/-- The sections of a page: each starts on a 256-byte boundary; PAGE_BYTES is the end of the last. -/
def pageMap (fk fv hkv d : Nat) : PageMap :=
  let el := fun f => runBytes (fmtGet f).width (hkv * 64 * d)
  let sc := fun f => if (fmtGet f).isMx then hkv * 64 * d / 32 else 0
  let kEnd := el fk
  let ks := upTo 256 kEnd
  let ksEnd := if sc fk = 0 then kEnd else ks + sc fk
  let v := upTo 256 ksEnd
  let vEnd := v + el fv
  let vs := upTo 256 vEnd
  ⟨0, ks, v, vs, if sc fv = 0 then vEnd else vs + sc fv⟩

/-- A page-metadata entry (R188). -/
structure PageMeta where
  addr : Nat
  state : Nat
  fmtV : Nat
  fmtK : Nat
  fill : Nat
  flags : Nat
  layer : Nat
  refs : Nat
  first : Nat
  score : Nat
  lastUse : Nat
  tenant : Nat
  hkv : Nat
  d : Nat
  deriving DecidableEq, Repr

/-- The entry that 32 bytes hold. -/
def PageMeta.ofBytes (b : List Byte) : PageMeta :=
  ⟨fieldLe b 0 6, fieldLe b 8 1, fieldLe b 9 1 / 16, fieldLe b 9 1 % 16, fieldLe b 0xA 1, fieldLe b 0xB 1, fieldLe b 0xC 2,
   fieldLe b 0xE 2, fieldLe b 0x10 3, fieldLe b 0x14 4, fieldLe b 0x18 4, fieldLe b 0x1C 1 % 16, fieldLe b 0x1D 1,
   fieldLe b 0x1E 2⟩

/-- The 32 bytes of an entry, reserved bits 0. -/
def PageMeta.toBytes (m : PageMeta) : List Byte :=
  natLe 8 m.addr ++ natLe 1 m.state ++ natLe 1 (m.fmtV * 16 + m.fmtK) ++ natLe 1 m.fill ++ natLe 1 m.flags ++
  natLe 2 m.layer ++ natLe 2 m.refs ++ natLe 4 m.first ++ natLe 4 m.score ++ natLe 4 m.lastUse ++ natLe 1 m.tenant ++
  natLe 1 m.hkv ++ natLe 2 m.d

/-- SUMMARY_VALID. -/
def PageMeta.summarised (m : PageMeta) : Bool := bit m.flags 0

/-- The sections of the page that an entry describes. -/
def PageMeta.map (m : PageMeta) : PageMap := pageMap m.fmtK m.fmtV m.hkv m.d

/-- Bytes of one summary entry (R205). -/
def summBytes (hkv d : Nat) : Nat := upTo 32 (hkv * (d + d / 32))

/-! ## ATTN descriptor (R191) -/

/-- NQ. -/
def aNq (ws : List Nat) : Nat := db ws 11 31 24
/-- GROUP. -/
def aGroup (ws : List Nat) : Nat := db ws 11 23 16
/-- KVH_FIRST. -/
def aFirst (ws : List Nat) : Nat := db ws 11 15 8
/-- KVH_COUNT. -/
def aCount (ws : List Nat) : Nat := db ws 11 7 0
/-- HKV. -/
def aHkv (ws : List Nat) : Nat := db ws 12 31 24
/-- D. -/
def aD (ws : List Nat) : Nat := db ws 12 8 0
/-- M. -/
def aM (ws : List Nat) : Nat := aNq ws * aGroup ws * aCount ws
/-- KV_LEN. -/
def aLen (ws : List Nat) : Nat := db ws 18 24 0
/-- nb. -/
def aNb (ws : List Nat) : Nat := ceilDiv (aLen ws) 64
/-- MASK_KIND. -/
def aMask (ws : List Nat) : Nat := db ws 13 15 13
/-- RETRIEVE_EN. -/
def aRetr (ws : List Nat) : Bool := bit (dw ws 13) 11
/-- MASS_EN. -/
def aMass (ws : List Nat) : Bool := bit (dw ws 8) 31
/-- BIAS_EN. -/
def aBias (ws : List Nat) : Bool := bit (dw ws 9) 31
/-- A 48-bit address in two words. -/
def a48 (ws : List Nat) (i : Nat) : Nat := dw64 ws i % 2 ^ 48

/-- Size of the work area (R203), before the part that MASS_EN adds. -/
def aWork (ws : List Nat) : Nat :=
  upTo 32 (512 * aD ws + 264 * aM ws + 4 * aM ws * aD ws + (if aRetr ws then 2048 else 0))

/-- Bytes of a bitmap (MASK_KIND 4) up to the last one that the command may read. -/
def aBitmapBytes (ws : List Nat) : Nat :=
  ((db ws 19 23 0 + aNq ws - 1) / 64) * dw ws 30 + ceilDiv (aNb ws) 8

/-- Rows of the bitmap that the command's queries name (R193). -/
def aBitmapRows (ws : List Nat) : List Nat :=
  let first := db ws 19 23 0 / 64
  (List.range ((db ws 19 23 0 + aNq ws - 1) / 64 + 1 - first)).map (· + first)

/-- Issue checks of ATTN (R90, R191, R203). A word that only an option uses is checked with the option alone.
Log entry 46 (DEDUCED). -/
def attnChecks (s : State) (x : Core3) (ws : List Nat) : List Check :=
  let t := s.coreTenant x
  let nb := aNb ws
  let d := aD ws
  let m := aM ws
  let fq := db ws 13 31 28
  let fp := db ws 13 27 24
  let fo := db ws 13 23 20
  let retr := aRetr ws
  let mask := aMask ws
  headerChecks s x ws 3 [] ++
  rsvdChecks ws ([(4, 31, 21), (5, 31, 21), (6, 31, 21), (7, 31, 21), (8, 30, 21), (9, 30, 21), (10, 31, 21), (12, 23, 9),
    (13, 10, 0), (15, 31, 16), (17, 31, 16), (18, 31, 25), (19, 31, 24), (21, 31, 16), (22, 31, 24), (23, 31, 16)] ++
    rsvdWords [31, 33, 34, 35, 36, 37, 38, 39, 40, 41, 42, 43, 44, 45, 46, 47]) [] ++
  (if retr then rsvdChecks ws [(25, 31, 16), (32, 15, 9)] [13] else []) ++
  (if mask = 2 then rsvdChecks ws [(26, 31, 25)] [13] else []) ++
  (if mask = 3 then rsvdChecks ws [(27, 31, 25)] [13] else []) ++
  (if mask = 4 then rsvdChecks ws [(29, 31, 16)] [13] else []) ++
  need ((fq == 2 || fq == 4) && (fp == 2 || fp == 4) && (decide (1 ≤ fo) && decide (fo ≤ 5))) 0x04 [13] ++
  need (decide (db ws 13 19 17 ≤ 3)) 0x05 [13] ++
  need (decide (1 ≤ aNq ws) && decide (1 ≤ aGroup ws) && decide (aGroup ws ≤ 64) && decide (aFirst ws ≤ 63) &&
    decide (1 ≤ aCount ws) && decide (aCount ws ≤ 64) && decide (m ≤ 256)) 0x07 [11] ++
  need (decide (aFirst ws + aCount ws ≤ aHkv ws)) 0x07 [11, 12] ++
  need (decide (1 ≤ aHkv ws) && decide (aHkv ws ≤ 64) && decide (32 ≤ d) && decide (d ≤ 256) && d % 32 == 0) 0x07 [12] ++
  need (decide (mask ≤ 4)) 0x07 [13] ++
  need (decide (1 ≤ aLen ws) && decide (aLen ws ≤ 16777216)) 0x07 [18] ++
  need (decide (1 ≤ db ws 22 23 0)) 0x07 [22] ++
  need (decide (db ws 19 23 0 + aNq ws ≤ 16777216)) 0x07 [11, 19] ++
  need (mask != 2 || (decide (1 ≤ db ws 26 24 0) && decide (db ws 26 24 0 ≤ 16777216))) 0x07 [13, 26] ++
  need (mask != 3 || decide (db ws 27 24 0 ≤ 16777216)) 0x07 [13, 27] ++
  need (mask != 4 || decide (ceilDiv nb 8 ≤ dw ws 30)) 0x07 [13, 18, 30] ++
  need (!retr || (decide (db ws 32 31 24 ≤ 64) && decide (1 ≤ db ws 32 23 16) && decide (db ws 32 23 16 ≤ 64) &&
    decide (1 ≤ db ws 32 8 0) && decide (db ws 32 8 0 ≤ 256))) 0x07 [13, 32] ++
  [4, 5, 6, 7, 10].flatMap (fun i => need (db ws i 4 0 == 0) 0x08 [i]) ++
  need (!aMass ws || db ws 8 4 0 == 0) 0x08 [8] ++ need (!aBias ws || db ws 9 4 0 == 0) 0x08 [9] ++
  need (a48 ws 16 % 4 == 0) 0x08 [16] ++ need (a48 ws 20 % 32 == 0) 0x08 [20] ++
  need (!retr || a48 ws 24 % 32 == 0) 0x08 [13, 24] ++
  rangeCheck (db ws 4 20 0) (m * upTo 32 (runBytes (fmtGet fq).width d)) [4, 11, 12, 13] ++
  rangeCheck (db ws 5 20 0) (m * upTo 32 (runBytes (fmtGet fo).width d)) [5, 11, 12, 13] ++
  rangeCheck (db ws 6 20 0) (4 * m) [6, 11] ++ rangeCheck (db ws 7 20 0) m [7, 11] ++
  rangeCheck (db ws 10 20 0) (aWork ws) [10, 11, 12, 13] ++
  (if aBias ws then rangeCheck (db ws 9 20 0) 16 [9] else []) ++
  need (s.inPartition t (a48 ws 16) (4 * nb)) 0x0A [16, 17, 18] ++
  need (s.inPartition t (a48 ws 20) (32 * db ws 22 23 0)) 0x0A [20, 21, 22] ++
  need (!retr || s.inPartition t (a48 ws 24) (db ws 22 23 0 * summBytes (aHkv ws) d)) 0x0A [12, 13, 22, 24, 25] ++
  need (mask != 4 || s.inPartition t (a48 ws 28) (aBitmapBytes ws)) 0x0A [11, 13, 18, 19, 28, 29, 30]

/-! ## Visibility (R193) -/

/-- Whether the mask admits the pair (q, k); `bm` holds the bitmap's rows by number (MASK_KIND 4). -/
def maskAdmits (ws : List Nat) (bm : List (Nat × List Byte)) (q k : Nat) : Bool :=
  match aMask ws with
  | 0 => true
  | 1 => decide (k ≤ q)
  | 2 => decide (q < k + db ws 26 24 0) && decide (k ≤ q)
  | 3 => decide (k < db ws 27 24 0) || decide (k ≤ q)
  | _ => bit (fieldLe (((bm.find? (·.1 == q / 64)).map (·.2)).getD []) (k / 64 / 8) 1) (k / 64 % 8) && (!bit (dw ws 13) 12 || decide (k ≤ q))

/-- Query positions of the command. -/
def aQs (ws : List Nat) : List Nat := (List.range (aNq ws)).map (· + db ws 19 23 0)

/-- Whether a block holds a key below KV_LEN that the mask admits for some head row. -/
def blockAdmitted (ws : List Nat) (bm : List (Nat × List Byte)) (b : Nat) : Bool :=
  (aQs ws).any (fun q => (List.range (min 64 (aLen ws - 64 * b))).any (fun j => maskAdmits ws bm q (64 * b + j)))

/-! ## Distance bias (R194, R195) -/

/-- bucket(a, half). -/
def biasBucket (lin subl a half : Nat) : Nat :=
  if a < lin then min a (half - 1)
  else
    let l := Nat.log2 lin
    let e := Nat.log2 a
    let f := a / 2 ^ (e - subl) - 2 ^ subl
    min (lin + (e - l) * 2 ^ subl + f) (half - 1)

/-- β(δ) of a table. -/
def biasBeta (tab : List Byte) (delta : Int) : Nat :=
  let nb := fieldLe tab 0 2
  let lin := fieldLe tab 4 4
  let subl := fieldLe tab 8 1
  if !bit (fieldLe tab 9 1) 0 then biasBucket lin subl delta.toNat nb
  else if 0 ≤ delta then biasBucket lin subl delta.toNat (nb / 2)
  else nb / 2 + biasBucket lin subl (-delta).toNat (nb / 2)

/-- Format of the entries of a bias table. -/
def biasFmt (tab : List Byte) : Fmt := if bit (fieldLe tab 9 1) 1 then bf16 else fp32

/-- Bytes of a bias table from its header. -/
def biasBytes (hdr : List Byte) : Nat := 16 + fieldLe hdr 0 2 * fieldLe hdr 2 2 * ((biasFmt hdr).width / 8)

/-- Whether a header meets R195. -/
def biasHeaderOk (h : List Byte) : Bool :=
  let nb := fieldLe h 0 2
  let heads := fieldLe h 2 2
  let lin := fieldLe h 4 4
  let subl := fieldLe h 8 1
  decide (1 ≤ nb) && decide (nb ≤ 4096) && (!bit (fieldLe h 9 1) 0 || nb % 2 == 0) && decide (1 ≤ heads) && decide (heads ≤ 4096) &&
  decide (subl ≤ 6) && decide (2 ^ subl ≤ lin) && decide (lin ≤ 2 ^ 23) && lin == 2 ^ Nat.log2 lin &&
  decide (fieldLe h 9 1 < 4) && fieldLe h 10 6 == 0

/-- Whether every entry of a table is finite or −∞. -/
def biasEntriesOk (tab : List Byte) : Bool :=
  let f := biasFmt tab
  (List.range (fieldLe tab 0 2 * fieldLe tab 2 2)).all (fun i =>
    match f.decode (elemAt (tab.drop 16) f.width i) with
    | .nan => false
    | .inf neg => neg
    | _ => true)

/-- Entry β(δ) of a head. -/
def biasValue (tab : List Byte) (head : Nat) (delta : Int) : FV :=
  let f := biasFmt tab
  f.decode (elemAt (tab.drop 16) f.width (head * fieldLe tab 0 2 + biasBeta tab delta))

/-! ## Numerics (R196) -/

/-- A drain of one chunk to FP32 under RNE, as a value with its flags. -/
def dot32 (ps : List (FV × FV)) : VF :=
  let (n, fl) := (chunkOf ps []).drain fp32 rne
  (fp32.decode n, fl)

/-- fma32. -/
def fma32 (a b c : FV) : VF := cFma fp32 0 a b c
/-- exp32.
Log entry 43 (DEDUCED). -/
def exp32 (a : FV) : VF := let (v, f) := cSpecial fp32 0x18 0 a; inComp fp32 0 (v, f)
/-- log32.
Log entry 43 (DEDUCED). -/
def log32 (a : FV) : VF := let (v, f) := cSpecial fp32 0x1A 0 a; inComp fp32 0 (v, f)

/-- The running state of a head row: m, l, o, bad, the scores of every block visited (kept for the mass), the flags, and for
each block whether a score and whether a product with V drained sticky. -/
structure HeadRow where
  m : FV
  l : FV
  o : List FV
  bad : Bool
  ts : List (List FV)
  flags : Nat
  stick : List (Bool × Bool)
  deriving DecidableEq, Repr

/-- A head row before its first block. -/
def HeadRow.init (d : Nat) : HeadRow := ⟨.inf true, .zero, List.replicate d .zero, false, [], 0, []⟩

/-- A row is EMPTY: no visible key has a score above −∞ (R198). -/
def HeadRow.empty (r : HeadRow) : Bool := !r.bad && r.m == .inf true

/-- The flags of a step on intermediate values: a NaN that the command itself made is no NaN operand.
Log entry 192 (DEDUCED). -/
def innerFlags (fl : Nat) : Nat := if bit fl 4 then fl - fNanIn else fl

/-- A score (R196) with its flags and those of its exact dot: NAN_IN for a NaN among Q, K and SCALE; +∞, which makes the NaN
row, counts as INVALID (R198).
Log entry 51 (DEDUCED). -/
def score (scale : FV) (q k : List FV) (b : FV) : FV × Nat × Nat :=
  let (sc, f1) := dot32 (q.zip k)
  let (t, f2) := fma32 sc scale b
  (t, f1 ||| innerFlags f2 ||| nanFlag [scale] ||| (if t = .inf false then fInvalid else 0), f1)

/-- One block's update of a row. `q` is the row of Q, `ks` and `vs` the keys and values of the visible slots (none: hidden),
each with its bias.
Log entry 51 (DEDUCED). -/
def HeadRow.block (r : HeadRow) (fmtP : Fmt) (scale : FV) (d : Nat) (q : List FV)
    (slots : List (Option (List FV × List FV × FV))) : HeadRow :=
  let ts : List (FV × Nat × Nat) := slots.map (fun o => match o with
    | some (k, _, b) => score scale q k b
    | none => (FV.inf true, 0, 0))
  let t : List FV := ts.map (·.1)
  let qk := ts.any (fun e => e.2.2 % 2 == 1)
  let r : HeadRow := { r with
    ts := r.ts ++ [t]
    flags := ts.foldl (fun a e => a ||| e.2.1) r.flags
    stick := r.stick ++ [(qk, false)]
    bad := r.bad || t.any (fun v => v == .nan || v == .inf false) }
  if r.bad then r
  else
    let mn : FV := t.foldl (fun m y => if FV.ltz m y then y else m) r.m
    if mn = .inf true then r
    else
      let (da, f0) := cSub fp32 0 r.m mn
      let (a, f1) := exp32 da
      let es := t.map (fun y => let (dy, g0) := cSub fp32 0 y mn; let (e, g1) := exp32 dy; (e, g0 ||| g1))
      let (sm, f2) := rowSum fp32 0 (es.map (·.1))
      let (l, f3) := fma32 r.l a sm
      let ps := es.map (fun e => let x := fmtP.round rne e.1; (x.val, x.flags))
      let terms := (ps.zip slots).zip t
      let os := (List.range d).map (fun c =>
        let (pv, g0) := dot32 (terms.map (fun z => match z.1.2 with
          | some (_, v, _) => if z.2 = .inf true then (FV.zero, FV.one) else (z.1.1.1, v.getD c .zero)
          | none => (FV.zero, FV.one)))
        let (o, g1) := fma32 (r.o.getD c .zero) a pv
        (o, g0 ||| innerFlags g1, g0))
      { r with
        m := mn
        l := l
        o := os.map (·.1)
        flags := os.foldl (fun x e => x ||| e.2.1) (es.foldl (fun x e => x ||| e.2)
          (ps.foldl (fun x e => x ||| e.2) (r.flags ||| f0 ||| f1 ||| f2 ||| f3)))
        stick := r.stick.dropLast ++ [(qk, os.any (fun e => e.2.2 % 2 == 1))] }

/-- What a head row returns: the encodings of O, the LSE as a value, STAT bits [1:0], flags.
Log entry 51 (DEDUCED). -/
def HeadRow.finish (r : HeadRow) (fo : Fmt) (rnd : Rnd) : List Nat × FV × Nat × Nat :=
  if r.bad then (r.o.map (fun _ => fo.nanBits), .nan, 2, r.flags)
  else if r.m = .inf true then (r.o.map (fun _ => fo.encode .zero), .inf true, 1, 0)
  else
    let os := r.o.map (fun v => let (q, f0) := FV.div v r.l; let (e, f1) := fo.put rnd q; (e, innerFlags f0 ||| f1))
    let (lg, f2) := log32 r.l
    let (lse, f3) := cAdd fp32 0 r.m lg
    (os.map (·.1), lse, 0, os.foldl (fun a e => a ||| e.2) (r.flags ||| f2 ||| f3))

/-- The exact_dot groups of one KV head that count as sticky (R74): one for each page and each of the two products in which a
row that is not EMPTY drained sticky.
Log entry 51 (DEDUCED). -/
def headSticky (rows : List HeadRow) : Nat :=
  let live := rows.filter (fun r => !r.empty)
  let n := ((live.map (·.stick.length)).foldl max 0)
  ((List.range n).map (fun i =>
    (if live.any (fun r => (r.stick.getD i (false, false)).1) then 1 else 0) +
    (if live.any (fun r => (r.stick.getD i (false, false)).2) then 1 else 0))).sum

/-- Mass of one page for one row: min(1, rsum64 exp32(t − λ)) (R207), with the flags of its steps. -/
def rowMass (t : List FV) (lse : FV) : VF :=
  let es := t.map (fun y => let (d, f0) := cSub fp32 0 y lse; let (e, f1) := exp32 d; (e, f0 ||| f1))
  let (sm, f) := rowSum fp32 0 (es.map (·.1))
  (FV.minNum .one sm, innerFlags (es.foldl (fun a e => a ||| e.2) f))

/-! ## Execution -/

/-- The visit set of a head (R204): blocks in ascending order and whether retrieval applied. `sigma` gives σ of a block;
`holes` and `summ` say what the page list and metadata hold. -/
def visitSet (ws : List Nat) (bm : List (Nat × List Byte)) (live : Nat → Bool) (summ : Nat → Bool) (sigma : Nat → FV) : List Nat × Bool :=
  let nb := aNb ws
  let all := (List.range nb).filter live
  if !aRetr ws then (all, false)
  else
    let isSink := fun b => decide (b < db ws 32 31 24)
    let isWin := fun b => decide (nb ≤ b + db ws 32 23 16)
    let cand := all.filter (fun b => !isSink b && !isWin b && blockAdmitted ws bm b)
    let sc := cand.filter summ
    if sc.length ≤ db ws 32 8 0 then (all, false)
    else
      let sg := sc.map (fun b => (b, sigma b))
      let above := fun (p q : Nat × FV) =>
        if p.2 = .nan then q.2 == .nan && decide (p.1 < q.1)
        else if q.2 = .nan then true
        else FV.lt q.2 p.2 || (!FV.lt p.2 q.2 && decide (p.1 < q.1))
      let top := (sg.filter (fun p => decide ((sg.filter (fun q => above q p)).length < db ws 32 8 0))).map (·.1)
      (all.filter (fun b => isSink b || isWin b || top.contains b || (cand.contains b && !summ b)), true)

/-- Whether the metadata of the page that a block names is valid for the command (R202). -/
def pageValid (s : State) (t : Nat) (ws : List Nat) (b n : Nat) (e : PageMeta) : Bool :=
  decide (n < db ws 22 23 0) && (e.state == 1 || e.state == 2) && e.layer == db ws 23 15 0 && e.hkv == aHkv ws && e.d == aD ws &&
  e.first == 64 * b && e.tenant == t && kvFmtOk e.fmtK && kvFmtOk e.fmtV &&
  (match s.place e.addr, s.place (e.addr + e.map.bytes - 1) with
   | .hbm _, .hbm _ => e.state == 1
   | .lp, .lp => e.state == 2
   | _, _ => false) && s.inPartition t e.addr e.map.bytes

/-- Rows of a section of a page for one head: the first `n` of its 64, as values. -/
def pageRows (f : Fmt) (d n : Nat) (elems scales : List Byte) : List (List FV) :=
  (List.range n).map (fun j => (List.range d).map (fun c =>
    let v := elemAt elems f.width (j * d + c)
    if f.isMx then mxValue f (fieldLe scales ((j * d + c) / 32) 1) v else f.decode v))

/-- Read the first `n` rows of head `h` in a section pair of a page. None: an access erred.
Log entry 52 (DEDUCED). -/
def readHead (s : State) (x : Core3) (f : Fmt) (addr eOff sOff d h n : Nat) : State × Option (List (List FV)) :=
  if n = 0 then (s, some [])
  else
    let rb := f.width * d / 8
    let (s, es) := s.memRead (x.id 4) (addr + eOff + h * 64 * rb) (n * rb)
    let (s, ss) := if f.isMx then s.memRead (x.id 4) (addr + sOff + h * 64 * (d / 32)) (n * (d / 32)) else (s, some [])
    match es, ss with
    | some es, some ss => (s, some (pageRows f d n es ss))
    | _, _ => (s, none)

/-- What the command has done so far: its state and error, the metadata entries read, the pages of LPDDR5X counted, flags,
sticky groups, mass records and output rows. -/
structure AttnAcc where
  s : State
  err : Nat := 0
  metas : List (Nat × PageMeta) := []
  late : List Nat := []
  flags : Nat := 0
  sticky : Nat := 0
  mass : List (List Byte) := []
  outs : List (Nat × List Nat × FV × Nat) := []
  deriving DecidableEq, Repr

/-- The rows of one KV head being processed. -/
structure HeadRun where
  acc : AttnAcc
  rows : List HeadRow
  deriving DecidableEq, Repr

/-- The inputs of a command as read at its start: bitmap rows, bias table, page list, rows of Q. -/
structure AttnIn where
  bm : List (Nat × List Byte)
  bias : List Byte
  pl : List Byte
  q : List (List FV)
  deriving DecidableEq, Repr

/-- The page number that the list holds for a block. -/
def AttnIn.page (i : AttnIn) (b : Nat) : Nat := fieldLe i.pl (4 * b) 4
/-- Whether a block is no hole. -/
def AttnIn.live (i : AttnIn) (b : Nat) : Bool := i.page b != 0xFFFFFFFF

/-- The metadata entry of page `n`, read once for the whole command (R202): the entry that stands in the command's record. A
read that errs ends the command with MEM_ERROR.
Log entry 52 (DEDUCED). -/
def AttnAcc.readMeta (a : AttnAcc) (x : Core3) (ws : List Nat) (n : Nat) : AttnAcc :=
  if a.err ≠ 0 ∨ (a.metas.any (·.1 == n)) ∨ db ws 22 23 0 ≤ n then a
  else
    let (s, b) := a.s.memRead (x.id 4) (a48 ws 20 + 32 * n) 32
    match b with
    | some b => { a with s := s, metas := a.metas ++ [(n, PageMeta.ofBytes b)] }
    | none => { a with s := s, err := 0x10 }

/-- The entry of page `n` as the command has read it. -/
def AttnAcc.entry (a : AttnAcc) (n : Nat) : Option PageMeta := (a.metas.find? (·.1 == n)).map (·.2)

/-- Count a page that lies in LPDDR5X, once for the command (R212).
Log entry 52 (DEDUCED). -/
def AttnAcc.countLate (a : AttnAcc) (x : Core3) (n : Nat) (e : PageMeta) : AttnAcc :=
  if e.state = 2 ∧ !a.late.contains n then
    { a with s := a.s.bump (kvpA (0x124 + 64 * a.s.coreTenant x)), late := n :: a.late }
  else a

/-- Visit one block for the head rows of KV head `h`. -/
def visitBlock (x : Core3) (ws : List Nat) (i : AttnIn) (qs : List (List FV)) (h : Nat) (r : HeadRun) (b : Nat) : HeadRun :=
  let n := i.page b
  let a := r.acc.readMeta x ws n
  if a.err ≠ 0 then { r with acc := a }
  else
    match a.entry n with
    | none => { r with acc := { a with err := 0x15 } }
    | some e =>
      if !pageValid a.s (a.s.coreTenant x) ws b n e then { r with acc := { a with err := 0x15 } }
      else
        let d := aD ws
        let cnt := min 64 (aLen ws - 64 * b)
        let a := a.countLate x n e
        let (s, ks) := readHead a.s x (fmtGet e.fmtK) e.addr e.map.kElem e.map.kScale d h cnt
        let (s, vs) := readHead s x (fmtGet e.fmtV) e.addr e.map.vElem e.map.vScale d h cnt
        match ks, vs with
        | some ks, some vs =>
          let g := aGroup ws
          let rows := (r.rows.zip qs).mapIdx (fun j rq =>
            let q := db ws 19 23 0 + j / g
            let head := h * g + j % g
            let slots := (List.range 64).map (fun j =>
              let k := 64 * b + j
              if j < cnt ∧ maskAdmits ws i.bm q k then
                some (ks.getD j [], vs.getD j [],
                  if aBias ws then biasValue i.bias head ((q : Int) - k) else FV.zero)
              else none)
            rq.1.block (fmtGet (db ws 13 27 24)) (fp32.decode (dw ws 14)) d rq.2 slots)
          { acc := { a with s := s }, rows := rows }
        | _, _ => { r with acc := { a with s := s, err := 0x10 } }

/-- The summary of a block's page for head `h` as values (R205), none where the read errs. -/
def readSummary (s : State) (x : Core3) (ws : List Nat) (n h : Nat) : State × Option (List FV) :=
  let d := aD ws
  let f := fmtGet 6
  let (s, b) := s.memRead (x.id 4) (a48 ws 24 + n * summBytes (aHkv ws) d + h * (d + d / 32)) (d + d / 32)
  match b with
  | some b => (s, some ((List.range d).map (fun c => mxValue f (fieldLe b (d + c / 32) 1) (elemAt b 8 c))))
  | none => (s, none)

/-- σ of a page over the head rows: the largest, NaN only when every row's is NaN (R205). Its exact dots raise their flags but
are none of the two products whose sticky groups R74 counts.
Log entry 196 (DEDUCED). -/
def sigmaOf (qs : List (List FV)) (sm : List FV) : VF :=
  let v := qs.map (fun q => dot32 (q.zip sm))
  let fl := v.foldl (fun a e => a ||| e.2) 0
  let fl := if fl % 2 = 1 then fl - fSticky else fl
  match (v.map (·.1)).filter (· != .nan) with
  | [] => (.nan, fl)
  | a :: t => (t.foldl (fun m y => if FV.lt m y then y else m) a, fl)

/-- The blocks that retrieval may choose among (R204): no hole, sink or window block, with a key that the mask admits. -/
def candidates (ws : List Nat) (i : AttnIn) : List Nat :=
  (List.range (aNb ws)).filter (fun b => i.live b && decide (db ws 32 31 24 ≤ b) && decide (b + db ws 32 23 16 < aNb ws) &&
    blockAdmitted ws i.bm b)

/-- Score the summarised candidates of a head (R204, R205): σ of each block, where they number more than TOP_P. -/
def scoreBlocks (x : Core3) (ws : List Nat) (i : AttnIn) (qs : List (List FV)) (h : Nat) (a : AttnAcc) :
    AttnAcc × List (Nat × FV) :=
  let cand := candidates ws i
  let a := cand.foldl (fun a b => a.readMeta x ws (i.page b)) a
  let sc := cand.filter (fun b => match a.entry (i.page b) with | some e => e.summarised | none => false)
  if sc.length ≤ db ws 32 8 0 then (a, [])
  else sc.foldl (fun (p : AttnAcc × List (Nat × FV)) b =>
    if p.1.err ≠ 0 then p
    else
      let (s, sm) := readSummary p.1.s x ws (i.page b) h
      match sm with
      | some sm =>
        let (v, fl) := sigmaOf qs sm
        ({ p.1 with s := s, flags := p.1.flags ||| fl }, p.2 ++ [(b, v)])
      | none => ({ p.1 with s := s, err := 0x10 }, p.2)) (a, [])

/-- Bytes of a mass record of `n` pages (R207). -/
def massBytes (n : Nat) : Nat := upTo 32 (16 + 8 * n)

/-- The mass record of a KV head (R207), with the flags of its sums. -/
def massRecord (ws : List Nat) (i : AttnIn) (h : Nat) (vs : List Nat) (rows : List (HeadRow × List Nat × FV × Nat × Nat)) :
    List Byte × Nat :=
  let ms := vs.mapIdx (fun j b => (b, rows.foldl (fun (m : VF) p =>
    if p.2.2.2.1 = 0 then
      let (v, f) := rowMass (p.1.ts.getD j []) p.2.2.1
      let (t, g) := cAdd fp32 0 m.1 v
      (t, m.2 ||| f ||| innerFlags g)
    else m) (FV.zero, 0)))
  let rec_ : List Byte :=
    natLe 2 (db ws 23 15 0) ++ natLe 1 h ++ natLe 1 0 ++ natLe 2 (db ws 15 15 0) ++ natLe 2 0 ++ natLe 4 vs.length ++
    natLe 4 0 ++ (ms.map (fun e => natLe 4 (i.page e.1) ++ natLe 4 (fp32.encode e.2.1))).flatten
  (rec_ ++ zeros (massBytes vs.length - rec_.length), ms.foldl (fun a e => a ||| e.2.2) 0)

/-- One KV head (R196, R204–R207).
Log entry 52 (DEDUCED). -/
def attnHead (x : Core3) (ws : List Nat) (i : AttnIn) (a : AttnAcc) (hi : Nat) : AttnAcc :=
  if a.err ≠ 0 then a
  else
    let g := aGroup ws
    let h := aFirst ws + hi
    let rowIx := (List.range (aNq ws * g)).map (fun j => j / g * (g * aCount ws) + hi * g + j % g)
    let qs := rowIx.map (fun r => i.q.getD r [])
    let (a, sig) := if aRetr ws then scoreBlocks x ws i qs h a else (a, [])
    if a.err ≠ 0 then a
    else
      let summ := fun b => match a.entry (i.page b) with | some e => e.summarised | none => false
      let (vs, retr) := visitSet ws i.bm i.live summ (fun b => ((sig.find? (·.1 == b)).map (·.2)).getD .nan)
      if aMass ws && decide (tileBytes < db ws 10 20 0 + aWork ws + 256 * vs.length * (aNq ws * g)) then { a with err := 0x09 }
      else
        let run := vs.foldl (visitBlock x ws i qs h) ⟨a, qs.map (fun _ => HeadRow.init (aD ws))⟩
        let a := run.acc
        if a.err ≠ 0 then a
        else
          let fins := run.rows.map (fun r => r.finish (fmtGet (db ws 13 23 20)) ⟨db ws 13 19 17, bit (dw ws 13) 16, 0⟩)
          let (rec_, fm) := if aMass ws then massRecord ws i h vs (run.rows.zip fins) else ([], 0)
          { a with
            flags := fins.foldl (fun f e => f ||| e.2.2.2) (a.flags ||| fm)
            sticky := a.sticky + headSticky run.rows
            mass := a.mass ++ [rec_]
            outs := a.outs ++ (rowIx.zip fins).map (fun p => (p.1, p.2.1, p.2.2.1, p.2.2.2.1 ||| (if retr then 4 else 0))) }

/-- The serving engine gathers the mass records of an ATTN that a step's job runs (R207). -/
def State.gatherMass (s : State) (x : Core3) (recs : List Byte) : State :=
  match (s.tileGet x).kernel with
  | some k =>
    if k.launch.source = 1 ∧ s.serve.lanes.any (fun l => match l.2 with | some l => l.job == k.launch.job | none => false) then
      { s with serve := { s.serve with mass := s.serve.mass ++ [(k.launch.job, recs)] } }
    else s
  | none => s

/-- The rows of the bitmap that the command reads (MASK_KIND 4), none where a read errs. -/
def readBitmap (s : State) (x : Core3) (ws : List Nat) : State × Option (List (Nat × List Byte)) :=
  if aMask ws ≠ 4 then (s, some [])
  else (aBitmapRows ws).foldl (fun (a : State × Option (List (Nat × List Byte))) r =>
    let (s, b) := a.1.memRead (x.id 4) (a48 ws 28 + r * dw ws 30) (ceilDiv (aNb ws) 8)
    (s, match a.2, b with | some l, some b => some (l ++ [(r, b)]) | _, _ => none)) (s, some [])

/-- The pages of each head's visit set, whose number no σ changes (R204), for what the page list and metadata hold. -/
def visitCount (s : State) (ws : List Nat) (i : AttnIn) : Nat :=
  let summ := fun b =>
    decide (i.page b < db ws 22 23 0) && (PageMeta.ofBytes (s.visRead (s.phys (a48 ws 20 + 32 * i.page b)) 32)).summarised
  (visitSet ws i.bm i.live summ (fun _ => .nan)).1.length

/-- The bytes of an area of the core's tile memory that lie within it. -/
def tileArea (x : Core3) (off n : Nat) : Nat × Nat := (x.base + off, min n (tileBytes - off))

/-- The areas that an ATTN which errs leaves undefined (R202): output, LSE, STAT and mass. Where the page list or the bitmap
cannot be read, the mass area is the largest that the command can write.
Log entry 197 (DESIGN CHOICE). -/
def attnDst (s : State) (x : Core3) (ws : List Nat) (i : Option AttnIn) : List (Nat × Nat) :=
  let m := aM ws
  let n := match i with | some i => visitCount s ws i | none => aNb ws
  [tileArea x (db ws 5 20 0) (m * upTo 32 (runBytes (fmtGet (db ws 13 23 20)).width (aD ws))),
   tileArea x (db ws 6 20 0) (4 * m), tileArea x (db ws 7 20 0) m] ++
  (if aMass ws then [tileArea x (db ws 8 20 0) (aCount ws * massBytes n)] else [])

/-- The error of the bias table's check at start (R195), for its header and, where that passes, the table; 0 for none. -/
def biasErr (ws : List Nat) (hdr : List Byte) : Nat :=
  if aBias ws && (!biasHeaderOk hdr || decide (tileBytes < db ws 9 20 0 + biasBytes hdr) ||
      decide (fieldLe hdr 2 2 < (aFirst ws + aCount ws) * aGroup ws)) then 0x16 else 0

/-- Write what a completed ATTN returns (R192, R203, R207): its work area is undefined, its rows and mass records stand. -/
def attnWrite (x : Core3) (ws : List Nat) (i : AttnIn) (a : AttnAcc) (dst : List (Nat × Nat)) : Ran :=
  let fo := fmtGet (db ws 13 23 20)
  let oRow := upTo 32 (runBytes fo.width (aD ws))
  let more := if aMass ws then 256 * visitCount a.s ws i * (aNq ws * aGroup ws) else 0
  let mass := a.mass.flatten
  let s := a.s.undefine [tileArea x (db ws 10 20 0) (aWork ws + more)]
  let (s, e1) := writeRows s x 1 fo.width (a.outs.map (fun o => (db ws 5 20 0 + o.1 * oRow, o.2.1)))
  let (s, e2) := writeRows s x 1 32 (a.outs.map (fun o => (db ws 6 20 0 + 4 * o.1, [fp32.encode o.2.2.1])))
  let (s, e3) := writeRows s x 1 8 (a.outs.map (fun o => (db ws 7 20 0 + o.1, [o.2.2.2])))
  let (s, ok) := if aMass ws then (s.gatherMass x mass).tWrite x 1 (db ws 8 20 0) mass else (s, true)
  { s := s, flags := a.flags, sticky := a.sticky, err := max (max e1 e2) (max e3 (if ok then 0 else 0x10)), dst := dst }

/-- Run ATTN (R196, R199). -/
def runAttn (s : State) (x : Core3) (ws : List Nat) : Ran :=
  let fq := fmtGet (db ws 13 31 28)
  let qRow := upTo 32 (runBytes fq.width (aD ws))
  let (s, hdr) := if aBias ws then s.tRead x 4 (db ws 9 20 0) 16 else (s, some [])
  if biasErr ws (hdr.getD []) ≠ 0 ∧ hdr.isSome then { s := s, err := 0x16, dst := attnDst s x ws none }
  else
    let (s, bias) := if aBias ws then s.tRead x 4 (db ws 9 20 0) (biasBytes (hdr.getD [])) else (s, some [])
    let (s, q) := s.tRead x 4 (db ws 4 20 0) (aM ws * qRow)
    let (s, pl) := s.memRead (x.id 4) (a48 ws 16) (4 * aNb ws)
    let (s, bm) := readBitmap s x ws
    match hdr, bias, q, pl, bm with
    | some _, some bias, some q, some pl, some bm =>
      let i : AttnIn := { bm := bm, bias := bias, pl := pl, q := (List.range (aM ws)).map (fun r => rowVals fq (q.drop (r * qRow)) (aD ws)) }
      let dst := attnDst s x ws (some i)
      if aBias ws && !biasEntriesOk bias then { s := s, err := 0x16, dst := dst }
      else if aMass ws && decide (tileBytes < db ws 8 20 0 + aCount ws * massBytes (visitCount s ws i)) then
        { s := s, err := 0x09, dst := dst }
      else
        let a := (List.range (aCount ws)).foldl (attnHead x ws i) { s := s }
        if a.err ≠ 0 then { s := a.s, flags := a.flags, err := a.err, dst := dst }
        else attnWrite x ws i a dst
    | _, _, _, _, _ => { s := s, err := 0x10, dst := attnDst s x ws none }

end Sys2Proof.Machine
end

