-- ==== Sys2Proof/Machine/TileOps.lean ====
section
/-!
DEFINITION. The sequencer of a tile core (R75–R80, R89, R90, R104–R110) and the halo step of CONV (R131, R133): launch,
issue, start, completion, failure, end and abort.
-/
namespace Sys2Proof.Machine

/-! ## Small operations -/

/-- Set the running kernel of a slot. -/
def State.setKernel (s : State) (x : Core3) (k : Option Kernel) : State := s.tileSet x { s.tileGet x with kernel := k }

/-- Apply a function to the running kernel. -/
def State.modKernel (s : State) (x : Core3) (f : Kernel → Kernel) : State :=
  s.tileSet x { s.tileGet x with kernel := (s.tileGet x).kernel.map f }

/-- Replace one issued command. -/
def State.setCmd (s : State) (x : Core3) (c : Cmd) : State :=
  s.tileSet x { s.tileGet x with cmds := (s.tileGet x).cmds.map (fun e => if e.num = c.num then c else e) }

/-- An issued command by its number. -/
def State.cmd? (s : State) (x : Core3) (n : Nat) : Option Cmd := (s.tileGet x).cmds.find? (·.num == n)

/-- OPCODE of a descriptor. -/
def opcode (ws : List Nat) : Nat := db ws 0 31 24

/-- The queues a command enters (R89): bit 0 ME, 1 VE0, 2 VE1, 3 DMA. -/
def queuesOf (ws : List Nat) : Nat :=
  match opcode ws with
  | 0x10 => 1
  | 0x11 => 1
  | 0x12 => 7
  | 0x18 => 6
  | 0x20 => if bit (dw ws 4) 23 then 4 else 2
  | 0x30 => 8
  | _ => 0

/-- Depth of a queue. -/
def queueDepth (q : Nat) : Nat := if q = 0 then 8 else 16

/-- Whether every queue of a mask has room.
Log entry 45 (DEDUCED). -/
def roomIn (cmds : List Cmd) (mask : Nat) : Bool :=
  (List.range 4).all (fun q => !bit mask q || decide ((cmds.filter (fun c => bit c.queues q)).length < queueDepth q))

/-- Whether two queue masks share a queue. -/
def meets (a b : Nat) : Bool := (List.range 4).any (fun q => bit a q && bit b q)

/-- A slot that serves a logical slot and is not fenced (R14, R391). -/
def State.serving (s : State) (x : Core3) : Bool :=
  (s.logSlot x).isSome && !s.sorrel.fenced.contains (0x1000 + x.d * 0x100 + x.c * 0x10 + x.sl) &&
  !s.sorrel.fenced.contains (0x3000 + x.d * 0x100 + x.c * 0x10)

/-- A slot is busy in the sense of R15: a record queued, a kernel running, or a command issued. -/
def State.slotBusy (s : State) (x : Core3) : Bool :=
  let t := s.tileGet x
  !t.queue.isEmpty || t.kernel.isSome || !t.cmds.isEmpty

/-! ## Status words, flags, errors (R74, R104, R106) -/

/-- Write a command's status word to the register of each queue it ran on. -/
def State.putStatus (s : State) (x : Core3) (queues result code tag : Nat) : State :=
  (List.range 4).foldl (fun s q =>
    if bit queues q then s.setReg (x.reg (0x210 + 4 * q)) (result * 2 ^ 28 + code * 2 ^ 20 + tag) else s) s

/-- The flags that exceptions of the present cycle have raised (R74). -/
def State.flagsNow (s : State) (x : Core3) : Nat :=
  let f := (s.tileGet x).flagSet
  if f.1 = s.cycle then f.2 else 0

/-- Flags and sticky chunks of a command, added to TC_NUM_FLAGS, TC_STICKY_COUNT and the kernel's union.
Log entry 53 (DEDUCED). -/
def State.addFlags (s : State) (x : Core3) (flags sticky : Nat) : State :=
  let s := s.setReg (x.reg 0x300) (s.reg (x.reg 0x300) ||| flags)
  let s := if flags = 0 then s else s.tileSet x { s.tileGet x with flagSet := (s.cycle, flags ||| s.flagsNow x) }
  let s := s.bumpBy (x.reg 0x304) sticky
  s.modKernel x (fun k => { k with flags := k.flags ||| flags, sticky := satAdd 32 k.sticky sticky })

/-- A command error (R106, R107): TC_ERR_INFO keeps the first since clear, the kernel keeps its first.
Log entry 47 (DEDUCED). -/
def State.cmdError (s : State) (x : Core3) (ws : List Nat) (code : Nat) : State :=
  let tag := db ws 0 15 0
  let s := if s.rbit (x.reg 0x30) 31 then s
    else s.setReg (x.reg 0x30) (2 ^ 31 + code * 2 ^ 16 + opcode ws * 2 ^ 8 + tag % 256)
  s.modKernel x (fun k => { k with err := k.err.or (some (code, tag, opcode ws)) })

/-! ## Jobs: the end of a tile (R171) -/

/-- A tile of a job has ended with a result word. -/
def State.tileEnded (s : State) (job tile result : Nat) : State :=
  { s with job := { s.job with jobs := s.job.jobs.map (fun j =>
      if j.num = job then
        let bad := decide (2 ≤ result / 2 ^ 28)
        { j with ended := j.ended + 1, failed := j.failed || bad, timeout := j.timeout || result / 2 ^ 20 % 256 == 0x11, ok := if result / 2 ^ 28 = 0 then j.ok + 1 else j.ok
                 claimed := if bad then [] else j.claimed
                 firstErr := if bad then j.firstErr.or (some (tile, result)) else j.firstErr }
      else j) } }

/-! ## Launch (R78–R80) -/

/-- A push is dropped: its source's DROP bit (R79); a drop of an application core's push raises its LQ_DROP (R148). -/
def State.dropPush (s : State) (x : Core3) (source : Nat) : State :=
  let s := s.setRbit (x.reg 0x20) (28 + source) true
  if 2 ≤ source then s.setRbit (acA x.d x.c (source - 2) 0x200) 6 true else s

/-- A launch record among those queued: behind all but the records that a later source has pushed in the same cycle (R79). -/
def queueRec (q : List LaunchRec) (r : LaunchRec) : List LaunchRec :=
  let later := fun (e : LaunchRec) => e.pushed == r.pushed && decide (r.source < e.source)
  q.filter (fun e => !later e) ++ [r] ++ q.filter later

/-- Push a launch record in its source's order: what does not fit is dropped (R79), but no record of the work distributor, whose
credit has held its place. A push into a slot that serves no logical slot is dropped as well, whatever its source.
Log entry 198 (DEDUCED). -/
def State.launchPush (s : State) (x : Core3) (r : LaunchRec) : State :=
  if (s.logSlot x).isNone then s.dropPush x r.source
  else
    let t := s.tileGet x
    let q := queueRec t.queue { r with pushed := s.cycle }
    match q[16]? with
    | none => s.tileSet x { t with queue := q }
    | some e => if e.source = 1 then s.dropPush x r.source else (s.tileSet x { t with queue := q.take 16 }).dropPush x e.source

/-- The completion record of a kernel (R105). -/
def Kernel.record (k : Kernel) (result now : Nat) : List Byte :=
  let (code, tag, op) := k.err.getD (if result = 3 then 0x12 else 0, 0, 0)
  natLe 4 (result * 2 ^ 28 + code * 2 ^ 20) ++ natLe 2 tag ++ natLe 1 op ++ natLe 1 0 ++ natLe 4 k.flags ++ natLe 4 k.commands ++
  natLe 8 (now - k.start) ++ natLe 4 k.sticky ++ natLe 4 0

/-- End the kernel of a slot (R80 step 5, R105, R107): the completion record if STATUS_EN, then DONE_OBJ, then the job.
Log entry 50 (DEDUCED). -/
def State.endKernel (s : State) (x : Core3) (result : Nat) : State :=
  match (s.tileGet x).kernel with
  | none => s
  | some k =>
    let rec_ := k.record result s.cycle
    let d := k.launch.data
    let s := if bit (fieldLe d 4 4) 0 then (s.memWrite (x.id 0) (fieldLe d 0x18 6) rec_).1 else s
    let w := fieldLe d 0x14 4
    let s := if s.objOwned (s.coreTenant x) (w % 0x40000) then s.signalWord w (x.id 0) else s
    let s := s.tileSet x { s.tileGet x with kernel := none, stall := none }
    if k.launch.source = 1 then s.tileEnded k.launch.job k.launch.tile (fieldLe rec_ 0 4) else s

/-- The image a launch record names for the partition that owns the slot. -/
def State.launchImage (s : State) (x : Core3) (r : LaunchRec) : Option Image :=
  s.images.find? (fun i => i.handle == fieldLe r.data 0 2 && i.tenant == s.coreTenant x)

/-- Steps 3 and 4 of R80: the argument block into the top of the scalar data store, TILE_INDEX into scalar register 1, the
program counter to the entry's code offset. A read of the argument block that errs fails the kernel with MEM_ERROR.
Log entry 55 (DEDUCED). -/
def State.kernelBegin (s : State) (x : Core3) (im : Image) (r : LaunchRec) : State :=
  let (s, b) := s.memRead (x.id 0) (fieldLe r.data 8 6) 256
  let t := s.tileGet x
  match b with
  | none => (s.modKernel x (fun k => { k with fetching := false })).cmdError x [] 0x10
  | some b =>
    let s := s.tileSet x { t with
      data := slice t.data 0 (32768 - 256) ++ b
      sregs := (if t.sregs.length = 32 then t.sregs else List.replicate 32 0).set 1 (fieldLe r.data 0x10 4)
      kernel := t.kernel.map (fun k => { k with fetching := false }) }
    let (s, e) := s.sectionRead x im 4
    match e with
    | none => s.cmdError x [] 0x10
    | some e => s.setReg (x.reg 0x200) (fieldLe e (16 * fieldLe r.data 2 2) 4 % 0x20000)

/-- Start the kernel of the record at the head of the queue (R80 steps 1–4). -/
def State.kernelStart (s : State) (x : Core3) : State :=
  let t := s.tileGet x
  match t.kernel, t.queue with
  | none, r :: rest =>
    if s.rbit (x.reg 0x4) 0 || !s.serving x then s
    else
      let k : Kernel := { launch := r, start := s.cycle }
      let s := s.tileSet x { t with queue := rest, kernel := some k, cmds := [], stall := none }
      match s.launchImage x r with
      | none => (s.cmdError x [] 0x13).endKernel x 2
      | some im =>
        if im.entryCount ≤ fieldLe r.data 2 2 then (s.cmdError x [] 0x14).endKernel x 2
        else if s.fld (x.reg 0x8) 15 0 = im.handle ∧ t.codeOf = im.digest then s.kernelBegin x im r
        else s.modKernel x (fun k => { k with fetching := true })
  | _, _ => s

/-- The code fetch ends (R80 step 2): code store, constants, CODE_HANDLE; then steps 3 and 4. A fetch that errs fails the kernel
with MEM_ERROR and leaves the stores as they were (log entry 55).
Log entries 55 (DEDUCED), 56 (DESIGN CHOICE). -/
def State.codeFetched (s : State) (x : Core3) : State :=
  let t := s.tileGet x
  match t.kernel with
  | some k =>
    if !k.fetching || k.aborting then s
    else
      match s.launchImage x k.launch with
      | none => (s.cmdError x [] 0x13).endKernel x 2
      | some im =>
        let (s, code) := s.sectionRead x im 1
        let (s, con) := s.sectionRead x im 2
        match code, con with
        | some code, some con =>
          let s := s.tileSet x { t with
            code := code, codeOf := im.digest, data := con ++ (slice t.data con.length (32768 - con.length)) }
          (s.setFld (x.reg 0x8) 15 0 im.handle).kernelBegin x im k.launch
        | _, _ => (s.modKernel x (fun k => { k with fetching := false })).cmdError x [] 0x10
  | none => s

/-! ## Running commands -/

/-- Run a command whose conditions hold: its reads and writes happen now, its completion makes them final. -/
def State.runCmd (s : State) (x : Core3) (c : Cmd) : State :=
  let r : Ran := match opcode c.words with
    | 0x10 => runMma s x c.words
    | 0x11 => runConv s x c.words c.walk
    | 0x12 => runAttn s x c.words
    | 0x18 => runXrd s x c.words
    | 0x20 => runVop s x c.words
    | _ => runDma s x c.words c.bad
  r.s.setCmd x { c with stage := .executed, flags := r.flags, sticky := r.sticky, err := r.err, dst := r.dst }

/-- HALO bits of AG_STATUS. -/
def State.haloBits (s : State) (x : Core3) (copy wait : Bool) : State :=
  (s.setRbit (x.reg 0x500) 1 copy).setRbit (x.reg 0x500) 0 wait

/-- A command whose queue, WAIT_MASK and header-wait conditions hold starts: the halo step of a CONV with HALO_EN (R131), or
its run.
Log entry 44 (DEDUCED). -/
def State.cmdGo (s : State) (x : Core3) (n : Nat) : State :=
  match s.cmd? x n with
  | none => s
  | some c =>
    let c := { c with since := s.cycle }
    if opcode c.words = 0x11 ∧ walkHalo c.walk then
      let s := (s.setCmd x { c with stage := .haloWait }).haloBits x false true
      s.sendWait { who := .halo x.ix n, obj := bits (wf c.walk 0x10 4) 17 0, thr := wf c.walk 0x18 4
                   deadline := some (s.cycle + wf c.walk 0x1C 4) }
    else s.runCmd x c

/-- Whether a command may start as far as the queues go (R75). -/
def startable (cmds : List Cmd) (c : Cmd) : Bool :=
  c.stage == .queued &&
  (cmds.takeWhile (fun e => e.num != c.num)).all (fun e => !meets e.queues c.queues && !meets e.queues (db c.words 0 19 16))

/-- Start every command that may start; a header wait goes to its object's sync block (R75, R88). -/
def State.tcAdvance (s : State) (x : Core3) : State :=
  (s.tileGet x).cmds.foldl (fun s c0 =>
    match s.cmd? x c0.num with
    | none => s
    | some c =>
      if !startable (s.tileGet x).cmds c then s
      else if bit (dw c.words 2) 31 then
        (s.setCmd x { c with stage := .headerWait }).sendWait { who := .cmd x.ix c.num, obj := db c.words 2 17 0, thr := dw c.words 3 }
      else s.cmdGo x c.num) s

/-! ## Header-only commands (NOP, SYNC) -/

/-- A header-only command completes without error.
Log entry 54 (DEDUCED). -/
def State.sqFinish (s : State) (x : Core3) (c : Cmd) : State :=
  let s := s.tileSet x { s.tileGet x with stall := none }
  let s := s.modKernel x (fun k => { k with commands := satAdd 32 k.commands 1 })
  s.signalWord (dw c.words 1) (x.id 0)

/-- The effect of a header-only command whose waits are met: NOP ends; SYNC signals, or waits on its object.
Log entry 54 (DEDUCED). -/
def State.sqBody (s : State) (x : Core3) (c : Cmd) : State :=
  if opcode c.words = 0x02 then
    if bit (dw c.words 4) 31 then
      (s.signal (db c.words 4 17 0) (dw c.words 5) (x.id 0)).sqFinish x c
    else
      let s := s.tileSet x { s.tileGet x with stall := some { c with stage := .syncWait } }
      s.sendWait { who := .sq x.ix, obj := db c.words 4 17 0, thr := dw c.words 5
                   timeout := if dw c.words 6 = 0 then none else some (dw c.words 6) }
  else s.sqFinish x c

/-- Progress of the header-only command that the sequencer stalls on. -/
def State.sqAdvance (s : State) (x : Core3) : State :=
  let t := s.tileGet x
  match t.stall with
  | none => s
  | some c =>
    if c.stage != .queued || t.cmds.any (fun e => meets e.queues (db c.words 0 19 16)) then s
    else if bit (dw c.words 2) 31 then
      (s.tileSet x { t with stall := some { c with stage := .headerWait } }).sendWait
        { who := .sq x.ix, obj := db c.words 2 17 0, thr := dw c.words 3 }
    else s.sqBody x c

/-! ## Issue (R90) -/

/-- The checks that a descriptor breaks. `w` is the walk of a CONV, `tree` the tree that an XRD names. -/
def cmdChecks (s : State) (x : Core3) (ws : List Nat) (w : List Byte) (tree : Option (Nat × List TreeNode)) : List Check :=
  match opcode ws with
  | 0x01 => headerChecks s x ws 1 []
  | 0x02 => headerChecks s x ws 1 [] ++ rsvdChecks ws [(4, 30, 18)] [] ++
      need (s.objOwned (s.coreTenant x) (db ws 4 17 0)) 0x0B [4]
  | 0x10 => mmaChecks s x ws
  | 0x11 => convChecks s x ws w
  | 0x12 => attnChecks s x ws
  | 0x18 => xrdChecks s x ws tree
  | 0x20 => vopChecks s x ws
  | 0x30 => dmaChecks s x ws
  | _ => [(0x01, [0])]

/-- The codes of the checks that a descriptor breaks at issue.
Log entry 48 (DEDUCED). -/
def cmdErrs (s : State) (x : Core3) (ws : List Nat) (w : List Byte) : List Nat :=
  (cmdChecks s x ws w (s.coreTree x (db ws 4 31 16))).map (·.1)

/-- The sequencer issues a descriptor: no effect while the slot runs no kernel that issues or a queue it needs is full;
a descriptor that breaks a check is not issued and fails the kernel.
Log entry 45 (DEDUCED). -/
def State.issue (s : State) (x : Core3) (ws : List Nat) (bad : List Nat) : State :=
  let t := s.tileGet x
  match t.kernel with
  | none => s
  | some k =>
    if k.fetching || k.aborting || k.err.isSome || t.stall.isSome then s
    else
      let (s, wb) := if opcode ws = 0x11 then s.tRead x 0 (db ws 4 20 0) (min 256 (tileBytes - db ws 4 20 0)) else (s, some [])
      match lowestErr (cmdErrs s x ws (wb.getD []) ++ (if wb.isNone then [0x10] else [])) with
      | some code => s.cmdError x ws code
      | none =>
        let q := queuesOf ws
        let t := s.tileGet x
        let c : Cmd := { num := t.nextNum, words := ws, walk := wb.getD [], queues := q, bad := bad }
        if q = 0 then (s.tileSet x { t with stall := some c, nextNum := t.nextNum + 1 }).sqAdvance x
        else if !roomIn t.cmds q then s
        else (s.tileSet x { t with cmds := t.cmds ++ [c], nextNum := t.nextNum + 1 }).tcAdvance x

/-! ## Completion (R77, R104, R107) -/

/-- The bytes a failed or stopped command was to write become undefined (R107, R108): in memory, and in NAND for a DMA whose
destination lies there.
Log entry 49 (DEDUCED). -/
def State.undefineDst (s : State) (c : Cmd) : State :=
  let s := s.undefine c.dst
  if opcode c.words = 0x30 ∧ db c.words 14 29 28 = 1 then
    let n := (dmaRows c.words).length * dmaDstBytes c.words
    let (s, b) := s.freeBytes n
    { s with mem := { s.mem with nand := cellsWrite s.mem.nand (dw64 c.words 6 * 4096) b } }
  else s

/-- Count the cycles that the engines of a command were busy. -/
def State.busyCount (s : State) (x : Core3) (c : Cmd) : State :=
  (List.range 4).foldl (fun s q => if bit c.queues q then s.bump64By (x.reg (0x400 + 8 * q)) (s.cycle - c.since) else s) s

/-- The executed command at the head of a queue completes.
Log entries 44 (DEDUCED), 47 (DEDUCED). -/
def State.cmdComplete (s : State) (x : Core3) (q : Nat) : State :=
  let t := s.tileGet x
  match t.cmds.find? (fun c => bit c.queues q) with
  | none => s
  | some c =>
    if c.stage != .executed then s
    else
      let s := s.busyCount x c
      let s := s.tileSet x { s.tileGet x with cmds := t.cmds.filter (fun e => e.num != c.num) }
      let s := if c.err = 0 then s else s.undefineDst c
      let s := s.putStatus x c.queues (if c.err ≠ 0 then 2 else if c.flags ≠ 0 then 1 else 0) c.err (db c.words 0 15 0)
      let s := s.addFlags x c.flags c.sticky
      let s := if c.err ≠ 0 then s.cmdError x c.words c.err
        else (s.modKernel x (fun k => { k with commands := satAdd 32 k.commands 1 })).signalWord (dw c.words 1) (x.id 0)
      match (s.tileGet x).kernel with
      | some k => if k.aborting then s else (s.tcAdvance x).sqAdvance x
      | none => s

/-! ## Waits resolved (R155, R131) -/

/-- The met wait of a command's header. -/
def State.headerMet (s : State) (x : Core3) (n : Nat) : State :=
  match s.cmd? x n with
  | some c => if c.stage = .headerWait then s.cmdGo x n else s
  | none => s

/-- The met wait of the header-only command the sequencer stalls on. -/
def State.sqMet (s : State) (x : Core3) : State :=
  match (s.tileGet x).stall with
  | some c => if c.stage = .headerWait then s.sqBody x c else if c.stage = .syncWait then s.sqFinish x c else s
  | none => s

/-- A SYNC wait timed out: error 0x11 (R89, R155). COMMANDS counts the commands that end without an error.
Log entry 47 (DEDUCED). -/
def State.sqTimeout (s : State) (x : Core3) : State :=
  match (s.tileGet x).stall with
  | some c => (s.tileSet x { s.tileGet x with stall := none }).cmdError x c.words 0x11
  | none => s

/-- The halo post arrived in time: the copy from the mailbox begins (R131 step 2).
Log entry 57 (DEDUCED). -/
def State.haloMet (s : State) (x : Core3) (n : Nat) : State :=
  match s.cmd? x n with
  | some c => if c.stage = .haloWait then (s.setCmd x { c with stage := .haloMail }).haloBits x true false else s
  | none => s

/-- The halo deadline passed: the copy from ALT_ADDR begins (R131 step 4).
Log entry 57 (DEDUCED). -/
def State.haloLate (s : State) (x : Core3) (n : Nat) : State :=
  match s.cmd? x n with
  | some c => if c.stage = .haloWait then (s.setCmd x { c with stage := .haloAlt true }).haloBits x true false else s
  | none => s

/-- Whether the kernel of a slot is being aborted: a halo copy that ends now has no effect (R133). -/
def State.aborting (s : State) (x : Core3) : Bool :=
  match (s.tileGet x).kernel with
  | some k => k.aborting
  | none => false

/-- The command in its halo step in a given stage. -/
def State.haloCmd (s : State) (x : Core3) (p : CmdStage → Bool) : Option Cmd := (s.tileGet x).cmds.find? (fun c => p c.stage)

/-- A halo copy ended in an access error: the command ends with MEM_ERROR, its ring slots and output undefined. -/
def State.haloFail (s : State) (x : Core3) (c : Cmd) : State :=
  (s.haloBits x false false).setCmd x
    { c with stage := .executed, err := 0x10, dst := haloSlots x c.walk ++ convDst x c.words c.walk }

/-- The mailbox copy ends (R131 steps 2 and 3, R136). -/
def State.haloMailDone (s : State) (x : Core3) : State :=
  match s.haloCmd x (· == .haloMail) with
  | none => s
  | some c =>
    let w := c.walk
    if s.aborting x then s
    else if wf w 0x18 4 + 2 ≤ s.obj (bits (wf w 0x14 4) 17 0) then
      -- HALO_TORN: the copy is discarded and the copy from the source starts
      let s := s.bump (x.reg 0x50C)
      s.setCmd x { c with stage := .haloAlt false }
    else
      let (s, ok) := haloCopy s x w (wf w 0x20 8 : Nat) ((walkDim w (wf w 0xC 1)).pitch : Nat)
      if !ok then s.haloFail x c
      else ((s.bump (x.reg 0x504)).haloBits x false false).runCmd x c

/-- The copy from ALT_ADDR ends, and the CONV reads A (R131 steps 4 and 5, R136). -/
def State.haloAltDone (s : State) (x : Core3) : State :=
  match s.haloCmd x (fun g => match g with | .haloAlt _ => true | _ => false) with
  | none => s
  | some c =>
    if s.aborting x then s
    else
      let (s, ok) := haloCopy s x c.walk (wf c.walk 0x28 8 : Nat) (toInt 32 (wf c.walk 0x30 4))
      if !ok then s.haloFail x c
      else
        let s := if c.stage = .haloAlt true then s.bump (x.reg 0x508) else s
        (s.haloBits x false false).runCmd x c

/-! ## Abort (R108, R133) -/

/-- Whether a wait belongs to a slot's sequencer, commands or halo step. -/
def waitOfCore (ix : Nat) (w : Waiter) : Bool :=
  match w.who with
  | .cmd k _ => k == ix
  | .sq k => k == ix
  | .halo k _ => k == ix
  | .ac _ _ => false

/-- ABORT of the running kernel: issue stops and its waits are cancelled (R108, R156). -/
def State.abortSlot (s : State) (x : Core3) : State :=
  match (s.tileGet x).kernel with
  | none => s
  | some _ =>
    let s := s.cancelWaits (waitOfCore x.ix)
    (s.tileSet x { s.tileGet x with stall := none }).modKernel x (fun k => { k with aborting := true })

/-- FLUSH: every queued launch record is discarded and counted; a distributor's record counts as a tile that ended with
RESULT 3.
Log entry 37 (DEDUCED). -/
def State.flushQueue (s : State) (x : Core3) : State :=
  let q := (s.tileGet x).queue
  let s := s.tileSet x { s.tileGet x with queue := [] }
  let s := s.setFld (x.reg 0x20) 27 20 q.length
  q.foldl (fun s r => if r.source = 1 then s.tileEnded r.job r.tile (3 * 2 ^ 28 + 0x12 * 2 ^ 20) else s) s

/-- The aborted kernel ends (R108): stopped commands leave their destinations undefined, commands that never started end with
ABORTED, and the kernel ends with RESULT 3. Flags and sticky chunks of a stopped command are dropped with its result.
Log entry 49 (DEDUCED). -/
def State.abortDone (s : State) (x : Core3) : State :=
  match (s.tileGet x).kernel with
  | none => s
  | some k =>
    if !k.aborting then s
    else
      let s := (s.tileGet x).cmds.foldl (fun s c =>
        let s := s.putStatus x c.queues 3 0x12 (db c.words 0 15 0)
        match c.stage with
        | .executed => (s.undefineDst c).busyCount x c
        | .haloMail => (s.undefine (haloSlots x c.walk)).busyCount x c
        | .haloAlt _ => (s.undefine (haloSlots x c.walk)).busyCount x c
        | .haloWait => s.busyCount x c
        | _ => s) s
      let s := s.haloBits x false false
      (s.tileSet x { s.tileGet x with cmds := [] }).endKernel x 3

/-- Everything of a slot that a scrub of its partition clears (R110, R136, R328): launch queue, kernel, commands, stores,
tile memory and counters. -/
def State.scrubSlot (s : State) (x : Core3) : State :=
  let s := s.cancelWaits (waitOfCore x.ix)
  let s := s.tileSet x { awake := s.cycle }
  let s := s.zeroRange x.base tileBytes
  s.resetRegs (x.reg 0) (x.reg 0x10000)

/-! ## The registers' derived views (R109) -/

/-- TC_STATUS as it reads. -/
def State.tcStatus (s : State) (x : Core3) : Nat :=
  let t := s.tileGet x
  let st :=
    if s.sorrel.fenced.contains (0x1000 + x.d * 0x100 + x.c * 0x10 + x.sl) then 5
    else match t.kernel with
      | some k => if k.aborting then 4 else if k.fetching then 1 else 2
      | none => if s.rbit (x.reg 0x4) 0 then 3 else 0
  let busy := (List.range 4).foldl (fun m q =>
    match t.cmds.find? (fun c => bit c.queues q) with
    | some c => if c.stage = .queued ∨ c.stage = .headerWait then m else m + 2 ^ q
    | none => m) 0
  putBits (putBits (s.reg (x.reg 0x8)) 31 28 st) 19 16 busy

/-- TC_LQ_STATUS as it reads. -/
def State.tcLqStatus (s : State) (x : Core3) : Nat :=
  let n := (s.tileGet x).queue.length
  putBits (putBits (s.reg (x.reg 0x20)) 9 5 n) 4 0 (16 - n)

/-- TC_ID as it reads. -/
def State.tcId (s : State) (x : Core3) : Nat :=
  let l := s.logSlot x
  x.d * 2 ^ 11 + x.c * 2 ^ 8 + x.sl * 2 ^ 4 + (if l.isSome then 8 else 0) + l.getD 0

/-- AG_STATUS as it reads: WALKS counts the CONV commands held. -/
def State.agStatus (s : State) (x : Core3) : Nat :=
  putBits (s.reg (x.reg 0x500)) 19 16 ((s.tileGet x).cmds.filter (fun c => opcode c.words == 0x11)).length

/-- TC_CYCLES as it reads: cycles in which the slot's clock is not gated; the spare's runs while it is substituted.
Log entry 63 (DEDUCED). -/
def State.tcCycles (s : State) (x : Core3) : Nat :=
  let run := if x.sl < 8 ∨ s.rbit (clA x.d x.c 0x40) 31 then s.cycle - (s.tileGet x).awake else 0
  satAdd 64 (s.reg64 (x.reg 0x420)) run

/-- TC_BUSY_x as it reads: completed commands and the one that executes. -/
def State.tcBusy (s : State) (x : Core3) (q : Nat) : Nat :=
  let run := match (s.tileGet x).cmds.find? (fun c => bit c.queues q) with
    | some c => if c.stage = .queued ∨ c.stage = .headerWait then 0 else s.cycle - c.since
    | none => 0
  satAdd 64 (s.reg64 (x.reg (0x400 + 8 * q))) run

end Sys2Proof.Machine
end

