-- ==== Sys2Proof/Machine/AcOps.lean ====
section
/-!
DEFINITION. Application cores (R137–R151): start, halt and reset, wait slots, signals, caches and their memory accesses.
-/
namespace Sys2Proof.Machine

/-- An application core. -/
structure AcCore where
  d : Nat
  c : Nat
  k : Nat
  deriving DecidableEq, Repr

/-- Key of a core in the state. -/
def AcCore.ix (x : AcCore) : Nat := acIx x.d x.c x.k
/-- The core of a key. -/
def acOf (i : Nat) : AcCore := ⟨i / 16, i % 16 / 2, i % 2⟩
/-- A register of the core's page. -/
def AcCore.reg (x : AcCore) (off : Nat) : Nat := acA x.d x.c x.k off
/-- The core's initiator ID. -/
def AcCore.id (x : AcCore) : Nat := acId x.d x.c x.k
/-- The core's tenant; 16 where none owns the cluster. -/
def State.acTenant (s : State) (x : AcCore) : Nat := (s.cluOwner x.d x.c).getD 16

/-- A hart's CSR; 0 until written. -/
def AcState.csrGet (a : AcState) (n : Nat) : Nat := tabGet 0 a.csr n
/-- An x register; x0 reads 0. -/
def AcState.xGet (a : AcState) (n : Nat) : Nat := if n = 0 then 0 else tabGet 0 a.x n
/-- Set a CSR. -/
def AcState.csrSet (a : AcState) (n v : Nat) : AcState := { a with csr := tabSet 0 a.csr n v }
/-- Write an x register; x0 discards the write. -/
def AcState.xSet (a : AcState) (n v : Nat) : AcState := if n = 0 then a else { a with x := tabSet 0 a.x n (v % 2 ^ 64) }

/-- AC_STATUS.STATE: 0 RESET, 1 BOOT, 2 RUN, 3 HALTED. -/
def State.acState (s : State) (x : AcCore) : Nat := s.fld (x.reg 0x8) 31 28
/-- Core cycles since the core entered RUN (2.6 GHz against the arithmetic clock's 1.1 GHz, R137).
Log entry 62 (DESIGN CHOICE). -/
def State.acRan (s : State) (x : AcCore) : Nat := (s.cycle - (s.acGet x.ix).runFrom) * 26 / 11
/-- Whether a core is fenced, which holds it in reset (R391). -/
def State.acFenced (s : State) (x : AcCore) : Bool := s.sorrel.fenced.contains (0x2000 + x.d * 0x100 + x.c * 0x10 + x.k)
/-- Set AC_STATUS.STATE; AC_CYCLES takes the cycles of a RUN that ends (R150). -/
def State.setAcState (s : State) (x : AcCore) (v : Nat) : State :=
  let s := if s.acState x = 2 ∧ v ≠ 2 then s.bump64By (x.reg 0x400) (s.acRan x) else s
  let s := if s.acState x ≠ 2 ∧ v = 2 then s.acSet x.ix { s.acGet x.ix with runFrom := s.cycle } else s
  s.setFld (x.reg 0x8) 31 28 v

/-- AC_CYCLES as it reads.
Log entries 62 (DESIGN CHOICE), 63 (DEDUCED). -/
def State.acCycles (s : State) (x : AcCore) : Nat :=
  satAdd 64 (s.reg64 (x.reg 0x400)) (if s.acState x = 2 then s.acRan x else 0)

/-- Whether the hart executes: in RUN, no RESET in progress, not in WFI. -/
def State.acRuns (s : State) (x : AcCore) : Bool :=
  s.acState x == 2 && !(s.acGet x.ix).resetting && !s.rbit (x.reg 0x8) 0

/-- AC_ID as it reads. -/
def State.acIdReg (s : State) (x : AcCore) : Nat :=
  let own := match s.cluOwner x.d x.c with | some t => 16 + t | none => 0
  x.d * 2 ^ 11 + x.c * 2 ^ 8 + x.k * 2 ^ 7 + own

/-- Raise a bit of AC_IRQ_STATUS.
Log entry 61 (DESIGN CHOICE). -/
def State.acIrq (s : State) (x : AcCore) (b : Nat) : State := s.setRbit (x.reg 0x200) b true

/-! ## The type-9 section (R139, R151) -/

/-- The address of an image's type-9 section copy in the core's cluster, with its layout. -/
def AcCore.section (x : AcCore) (im : Image) : Option (Nat × AcLayout) :=
  match im.sections.find? (·.typ == 9), im.ac with
  | some e, some l => some (cluBase x.d x.c + im.run + e.off, l)
  | _, _ => none

/-- Whether a range meets the text, or the text or rodata, of a type-9 section placed in the core's own cluster: the text is
execute-only, the rodata read-only (R151). -/
def State.acProtected (s : State) (x : AcCore) (store : Bool) (a n : Nat) : Bool :=
  s.images.any (fun im => im.tenant == s.acTenant x &&
    match x.section im with
    | some (base, l) => spansMeet a n (base + l.text) l.textSize || (store && spansMeet a n (base + l.rodata) l.rodataSize)
    | none => false)

/-- Whether a fetch lies in the text of a type-9 section of an image loaded for the core's tenant, in its own cluster (R139). -/
def State.acTextOk (s : State) (x : AcCore) (a n : Nat) : Bool :=
  s.images.any (fun im => im.tenant == s.acTenant x &&
    match x.section im with
    | some (base, l) => decide (base + l.text ≤ a) && decide (a + n ≤ base + l.text + l.textSize)
    | none => false)

/-! ## Traps and interrupts (R138, R139, R143, R148) -/

/-- The core enters HALTED by itself: the halt-self service, or an exception that S-mode cannot take (R150). -/
def State.acStop (s : State) (x : AcCore) : State :=
  (s.acSet x.ix { s.acGet x.ix with selfHalted := true }).setAcState x 3

/-- Enter the S-mode trap handler: sepc, scause, stval and sstatus (SPP, SPIE, SIE) as RISC-V has them, an interrupt at its own
vector where stvec asks for that.
Log entry 203 (PRESUMED). -/
def AcState.enter (a : AcState) (irq : Bool) (cause tval : Nat) : AcState :=
  let st := a.csrGet 0x100
  let tv := a.csrGet 0x105
  let a := a.csrSet 0x100 (putBits (putBits (putBits st 8 8 (if a.mode = .user then 0 else 1)) 5 5 (bits st 1 1)) 1 1 0)
  let a := ((a.csrSet 0x141 a.pc).csrSet 0x142 (cause + (if irq then 2 ^ 63 else 0))).csrSet 0x143 tval
  { a with mode := .supervisor, pc := tv / 4 * 4 + (if irq ∧ tv % 4 = 1 then 4 * cause else 0) }

/-- A synchronous exception of a running hart: the firmware delegates it to S-mode (R138), which cannot take it where its
handler lies outside the text (R139, R150).
Log entry 203 (PRESUMED). -/
def State.acTrap (s : State) (x : AcCore) (cause tval : Nat) : State :=
  if !s.acRuns x then s
  else if s.acTextOk x ((s.acGet x.ix).csrGet 0x105 / 4 * 4) 2 then s.acSet x.ix ((s.acGet x.ix).enter false cause tval)
  else s.acStop x

/-- The supervisor external interrupt: asserted while (AC_IRQ_STATUS AND AC_IRQ_EN) is nonzero (R148). -/
def State.acExtIrq (s : State) (x : AcCore) : Bool := decide (s.reg (x.reg 0x200) &&& s.reg (x.reg 0x204) ≠ 0)

/-- sip as it reads: the external interrupt, the timer interrupt of stimecmp against module time, the stored software
interrupt (R148). -/
def State.acSip (s : State) (x : AcCore) : Nat :=
  let a := s.acGet x.ix
  (if s.acExtIrq x then 2 ^ 9 else 0) + (if a.stimecmp ≤ s.timeNs then 2 ^ 5 else 0) + (a.csrGet 0x144 &&& 2)

/-- The interrupt that the hart takes now: pending and enabled in sie, with the mode and sstatus.SIE allowing it.
Log entry 203 (PRESUMED). -/
def State.acIrqDue (s : State) (x : AcCore) : Option Nat :=
  let a := s.acGet x.ix
  let on := a.mode == .user || (a.mode == .supervisor && bit (a.csrGet 0x100) 1)
  if on then [9, 1, 5].find? (fun i => bit (s.acSip x &&& a.csrGet 0x104) i) else none

/-- A pending interrupt ends a WFI (R148), and a hart that allows it takes it. -/
def State.acTakeIrq (s : State) (x : AcCore) (pending : Bool) : State :=
  let s := if pending then s.setRbit (x.reg 0x8) 0 false else s
  match s.acIrqDue x with
  | some i => if s.acRuns x then s.acSet x.ix ((s.acGet x.ix).enter true i 0) else s
  | none => s

/-! ## Start, halt, reset (R150) -/

/-- START (R150 steps 2 and 3): ignored unless STATE is RESET; a core whose image or entry fails the check stays in RESET with
ERR set. -/
def State.acStart (s : State) (x : AcCore) : State :=
  if s.acState x ≠ 0 ∨ (s.acGet x.ix).resetting ∨ s.acFenced x then s
  else
    let h := s.fld (x.reg 0x10) 31 16
    let en := s.fld (x.reg 0x10) 15 0
    let ok := match s.images.find? (fun i => i.handle == h && i.tenant == s.acTenant x) with
      | some im => match x.section im with
        | some (_, l) => decide (en < l.entries)
        | none => false
      | none => false
    if ok then s.setAcState x 1 else s.setRbit (x.reg 0x8) 27 true

/-- The core enters S-mode at its entry (R150 step 4). -/
def State.acBoot (s : State) (x : AcCore) : State :=
  if s.acState x ≠ 1 then s
  else
    let h := s.fld (x.reg 0x10) 31 16
    let en := s.fld (x.reg 0x10) 15 0
    match s.images.find? (fun i => i.handle == h && i.tenant == s.acTenant x) with
    | some im =>
      match x.section im with
      | some (a, l) =>
        let pc := a + l.text + leNat (s.unitBytes x.id (a + l.table + 8 * en) 4)
        let h := (((s.acGet x.ix).xSet 10 (s.reg64 (x.reg 0x18))).xSet 11 en).xSet 12 x.k
        let s := s.acSet x.ix { h with mode := .supervisor, pc := pc }
        s.setAcState x (if s.rbit (x.reg 0x4) 1 then 3 else 2)
      | none => (s.setAcState x 0).setRbit (x.reg 0x8) 27 true
    | none => (s.setAcState x 0).setRbit (x.reg 0x8) 27 true

/-- A write of HALT: it stops the hart, and clearing it resumes the hart unless the hart halted itself. -/
def State.acHalt (s : State) (x : AcCore) (on : Bool) : State :=
  let was := s.rbit (x.reg 0x4) 1
  let s := s.setRbit (x.reg 0x4) 1 on
  if on then (if s.acState x = 2 then s.setAcState x 3 else s)
  else if was && s.acState x == 3 && !(s.acGet x.ix).selfHalted then s.setAcState x 2 else s

/-- Whether a wait belongs to a core. -/
def waitOfAc (ix : Nat) (w : Waiter) : Bool := match w.who with | .ac k _ => k == ix | _ => false

/-- Cancel a slot's wait: a pending one yields no result, and one resolved in this cycle is discarded, WAIT_DONE as it was
before (R156). -/
def State.acCancelWait (s : State) (x : AcCore) (n : Nat) : State :=
  let s := s.cancelWaits (fun w => decide (w.who = .ac x.ix n))
  let a := x.reg (0x11C + 16 * n)
  match (s.acGet x.ix).resolved.find? (fun e => e.1 == n && e.2.1 == s.cycle) with
  | some e => (s.setFld a 31 30 0).setRbit (x.reg 0x200) n e.2.2
  | none => if s.fld a 31 30 = 1 then s.setFld a 31 30 0 else s

/-- Cancel the four wait slots without results. -/
def State.acCancelWaits (s : State) (x : AcCore) : State := (List.range 4).foldl (fun s n => s.acCancelWait x n) s

/-- Write back one line. -/
def State.acWriteBack (s : State) (x : AcCore) (l : CacheLine) : State :=
  if l.dirty then (s.memWrite x.id l.addr l.data).1 else s

/-- Remove a line from a core's caches. -/
def State.acForget (s : State) (x : AcCore) (addr : Nat) : State :=
  s.acSet x.ix { s.acGet x.ix with lines := (s.acGet x.ix).lines.filter (fun l => l.addr != addr) }

/-- RESET (R150): the wait slots are cancelled, dirty lines written back, both caches invalidated; the hart executes nothing
from here on. -/
def State.acReset (s : State) (x : AcCore) : State :=
  let s := s.acCancelWaits x
  let ls := (s.acGet x.ix).lines
  let s := s.acSet x.ix { s.acGet x.ix with lines := [], resetting := true }
  ls.foldl (fun s l => s.acWriteBack x l) s

/-- STATE returns to RESET, the hart with it. -/
def State.acResetDone (s : State) (x : AcCore) : State :=
  if !(s.acGet x.ix).resetting then s
  else ((s.setAcState x 0).setRbit (x.reg 0x8) 0 false).acSet x.ix {}

/-- What the scrub of the partition does to a core (R150, R328): both caches zeroed without write-back, everything at reset. -/
def State.scrubAc (s : State) (x : AcCore) : State :=
  let s := s.cancelWaits (waitOfAc x.ix)
  (s.acSet x.ix {}).resetRegs (x.reg 0) (x.reg 0x10000)

/-! ## Signals and waits (R146, R147) -/

/-- A store that fails under R143: an error status, a class U record, and ACC_ERR. -/
def State.acFail (s : State) (x : AcCore) (source addr : Nat) : State :=
  (s.accessError source 6 x.id addr).acIrq x 5

/-- A store to a register page that ended with an error status raises a store access fault (R143). -/
def State.acStored (s : State) (x : AcCore) (addr : Nat) : State := if s.resp = .err then s.acTrap x 7 addr else s

/-- A store to AC_SIG_OBJ by a running hart. -/
def State.acSignal (s : State) (x : AcCore) (v : Nat) : State :=
  let o := v % 0x40000
  if !s.acRuns x then s
  else if s.objOwned (s.acTenant x) o then (s.signal o (s.reg (x.reg 0x100)) x.id).answer (.ok 0)
  else s.acFail x 0x08 (x.reg 0x104)

/-- A running hart's store to AC_WAITn_OBJ with ARM set: it cancels the earlier wait of the slot and sends the new one. -/
def State.acArm (s : State) (x : AcCore) (n v : Nat) : State :=
  let o := v % 0x40000
  let a := x.reg (0x110 + 16 * n)
  if !s.acRuns x then s
  else if !s.objOwned (s.acTenant x) o then s.acFail x 0x08 a
  else
    let s := s.acCancelWait x n
    let s := s.setFld a 17 0 o
    let tmo := s.reg (a + 8)
    let s := s.setFld (a + 0xC) 31 30 1
    (s.sendWait { who := .ac x.ix n, obj := o, thr := s.reg (a + 4), timeout := if tmo = 0 then none else some tmo }).answer (.ok 0)

/-- Jobs whose set names a cluster.
Log entry 205 (DEDUCED). -/
def State.modJobsOn (s : State) (k : Nat) (f : Job → Job) : State :=
  { s with job := { s.job with jobs := s.job.jobs.map (fun j => if bit (fieldLe j.data 0x1C 4) k then f j else j) } }

/-- A wait slot leaves PENDING (R147): STATE 2 MET or 3 TIMEOUT, and WAIT_DONE bit n; a TIMEOUT result marks the jobs of the
core's cluster (R181). -/
def State.acWaitDone (s : State) (x : AcCore) (n : Nat) (met : Bool) : State :=
  let h := s.acGet x.ix
  let s := s.acSet x.ix { h with
    resolved := h.resolved.filter (fun e => e.1 != n && e.2.1 == s.cycle) ++ [(n, s.cycle, s.rbit (x.reg 0x200) n)] }
  let s := if met then s else s.modJobsOn (8 * x.d + x.c) (fun j => { j with timeout := true })
  (s.setFld (x.reg (0x11C + 16 * n)) 31 30 (if met then 2 else 3)).acIrq x n

/-! ## Memory accesses (R139–R142) -/

/-- What a core may do with an address (R140). -/
inductive AcRange where
  | cached
  | plain
  | page
  | outside
  | unmapped
  deriving DecidableEq, Repr

/-- The range that a load, or a store, of `[a, a + n)` finds for a core: an unassigned address or hub memory is answered by R10 and R20.
Log entry 60 (DEDUCED). -/
def State.acRange (s : State) (x : AcCore) (store : Bool) (a n : Nat) : AcRange :=
  let t := s.acTenant x
  match s.place a with
  | .cluMem d c =>
    if d = x.d ∧ c = x.c then (if s.acProtected x store a n then .outside else .cached)
    else if s.inPartition t a n then .plain else .outside
  | .tile d c _ => if d = x.d ∧ c = x.c then .plain else if s.inPartition t a n then .plain else .outside
  | .hbm _ => if s.inPartition t a n then .cached else .outside
  | .lp => if s.inPartition t a n then .cached else .outside
  | .hubMem => .unmapped
  | .unassigned => .unmapped
  | .regPage =>
    let base := cluPage x.d x.c 0
    if (base ≤ a ∧ a < base + 0x90000) ∨ (clA x.d x.c 0 ≤ a ∧ a < clA x.d x.c 0x10000) ∨
      (x.reg 0 ≤ a ∧ a < x.reg 0x10000) then .page else .outside

/-- Lines that a core's caches hold: 64 KiB of L1I, 64 KiB of L1D, 1 MiB of L2 (R137). -/
def acLineCap : Nat := 18432

/-- A line of a core's caches written back when dirty and dropped. -/
def State.acDrop (s : State) (x : AcCore) (l : CacheLine) : State := (s.acForget x l.addr).acWriteBack x l

/-- Room for one more line: full caches displace their oldest line.
Log entry 58 (DESIGN CHOICE). -/
def State.acRoom (s : State) (x : AcCore) : State :=
  match (s.acGet x.ix).lines with
  | l :: t => if acLineCap ≤ t.length + 1 then s.acDrop x l else s
  | [] => s

/-- The line of an address in a core's caches, filled from its tier on a miss. None: the fill erred. -/
def State.acLine (s : State) (x : AcCore) (la : Nat) : State × Option CacheLine :=
  match (s.acGet x.ix).lines.find? (·.addr == la) with
  | some l => (s, some l)
  | none =>
    let (s, b) := s.memRead x.id la 64
    match b with
    | some b =>
      let s := s.acRoom x
      let l : CacheLine := ⟨la, b, false⟩
      (s.acSet x.ix { s.acGet x.ix with lines := (s.acGet x.ix).lines ++ [l] }, some l)
    | none => (s, none)

/-- Lines that a range touches. -/
def linesOf (a n : Nat) : List Nat := if n = 0 then [] else (List.range ((a + n - 1) / 64 - a / 64 + 1)).map (fun i => (a / 64 + i) * 64)

/-- Lines that an access displaces: written back when dirty, then dropped.
Log entry 58 (DESIGN CHOICE). -/
def State.acEvict (s : State) (x : AcCore) (ev : List Nat) : State :=
  ev.foldl (fun s la =>
    match (s.acGet x.ix).lines.find? (·.addr == la) with
    | some l => s.acDrop x l
    | none => s) s

/-- A load of cacheable memory. -/
def State.acLoadCached (s : State) (x : AcCore) (a n : Nat) : State × Option (List Byte) :=
  let (s, ls) := (linesOf a n).foldl (fun (p : State × Option (List CacheLine)) la =>
    match p.2 with
    | none => p
    | some ls =>
      let (s, l) := p.1.acLine x la
      (s, l.map (fun l => ls ++ [l]))) (s, some [])
  (s, ls.map (fun ls => overlay ls a (zeros n)))

/-- A store to cacheable memory: the other core loses the lines, the lines are filled and become dirty (R141). -/
def State.acStoreCached (s : State) (x : AcCore) (a : Nat) (data : List Byte) : State × Bool :=
  let n := data.length
  (linesOf a n).foldl (fun (p : State × Bool) la =>
    let s := match (placeOf la).1 with
      | .cluMem d c => p.1.dropLines (acIx d c (1 - x.k)) la 64
      | _ => p.1
    let (s, l) := s.acLine x la
    match l with
    | none => (s, false)
    | some l =>
      let d := l.data.mapIdx (fun i b => if a ≤ la + i ∧ la + i < a + n then data.getD (la + i - a) b else b)
      (s.acSet x.ix { s.acGet x.ix with
        lines := (s.acGet x.ix).lines.map (fun e => if e.addr = la then ⟨la, d, true⟩ else e) }, p.2)) (s, true)

/-! ## Cache-block operations (R142) -/

/-- cbo.clean: write a dirty line back and keep it clean. -/
def State.cboClean (s : State) (x : AcCore) (addr : Nat) : State :=
  let la := addr / 64 * 64
  match (s.acGet x.ix).lines.find? (·.addr == la) with
  | some l =>
    let s := s.acSet x.ix { s.acGet x.ix with
      lines := (s.acGet x.ix).lines.map (fun e => if e.addr = la then { e with dirty := false } else e) }
    s.acWriteBack x l
  | none => s

/-- cbo.flush: write a dirty line back and drop it. -/
def State.cboFlush (s : State) (x : AcCore) (addr : Nat) : State := s.acEvict x [addr / 64 * 64]

/-- cbo.inval: drop a line. -/
def State.cboInval (s : State) (x : AcCore) (addr : Nat) : State := s.acForget x (addr / 64 * 64)

end Sys2Proof.Machine
end

