-- ==== Sys2Proof/Machine/AppCore.lean ====
section
/-!
DEFINITION. The commands of the application cores (R138, R142, R146–R148, R150).
-/
namespace Sys2Proof.Machine

/-- AC_START (R150). -/
def execAcStart (ini : Nat) (d : Fin 4) (c : Fin 8) (k : Fin 2) (s : State) : Host.Outcome State Fault Refusal :=
  .next (s.guarded (isMgmt ini) ini (acA d c k 0x4) (s.acStart ⟨d, c, k⟩))

/-- AC_BOOT_DONE (R150). -/
def execAcBootDone (d : Fin 4) (c : Fin 8) (k : Fin 2) (s : State) : Host.Outcome State Fault Refusal :=
  .next (s.acBoot ⟨d, c, k⟩)

/-- AC_HALT (R150). -/
def execAcHalt (ini : Nat) (d : Fin 4) (c : Fin 8) (k : Fin 2) (halt : Bool) (s : State) : Host.Outcome State Fault Refusal :=
  .next (s.guarded (isMgmt ini) ini (acA d c k 0x4) (s.acHalt ⟨d, c, k⟩ halt))

/-- AC_RESET (R150). -/
def execAcReset (ini : Nat) (d : Fin 4) (c : Fin 8) (k : Fin 2) (s : State) : Host.Outcome State Fault Refusal :=
  .next (s.guarded (isMgmt ini) ini (acA d c k 0x4) (s.acReset ⟨d, c, k⟩))

/-- AC_RESET_DONE (R150). -/
def execAcResetDone (d : Fin 4) (c : Fin 8) (k : Fin 2) (s : State) : Host.Outcome State Fault Refusal :=
  .next (s.acResetDone ⟨d, c, k⟩)

/-- AC_SIG_OBJ_WRITE (R146). -/
def execAcSigObjWrite (d : Fin 4) (c : Fin 8) (k : Fin 2) (value : Word) (s : State) : Host.Outcome State Fault Refusal :=
  .next ((s.acSignal ⟨d, c, k⟩ value.toNat).acStored ⟨d, c, k⟩ (acA d c k 0x104))

/-- AC_WAIT_ARM (R147). -/
def execAcWaitArm (d : Fin 4) (c : Fin 8) (k : Fin 2) (slot : Fin 4) (value : Word) (s : State) :
    Host.Outcome State Fault Refusal :=
  .next ((s.acArm ⟨d, c, k⟩ slot value.toNat).acStored ⟨d, c, k⟩ (acA d c k (0x110 + 16 * slot)))

/-- The write of AC_MSG_IN's high word (R148). -/
def State.acMsgIn (s : State) (x : AcCore) (v : Nat) : State := (s.setReg (x.reg 0x214) v).acIrq x 4

/-- AC_MSG_IN_WRITE (R148). -/
def execAcMsgInWrite (ini : Nat) (d : Fin 4) (c : Fin 8) (k : Fin 2) (value : Word) (s : State) :
    Host.Outcome State Fault Refusal :=
  .next (s.guarded (isMgmt ini) ini (acA d c k 0x214) (s.acMsgIn ⟨d, c, k⟩ value.toNat))

/-- The write of AC_MSG_OUT's high word: management attention, which firmware forwards to the tenant as FN_ATTN.AC_MSG
(R148).
Log entry 64 (DEDUCED). -/
def State.acMsgOut (s : State) (x : AcCore) (v : Nat) : State :=
  ((s.setReg (x.reg 0x21C) v).mgmtAttention).fnAttn (s.acTenant x) 0

/-- AC_MSG_OUT_WRITE (R148). -/
def execAcMsgOutWrite (d : Fin 4) (c : Fin 8) (k : Fin 2) (value : Word) (s : State) : Host.Outcome State Fault Refusal :=
  .next (if s.acRuns ⟨d, c, k⟩ then (s.acMsgOut ⟨d, c, k⟩ value.toNat).answer (.ok 0) else s)

/-- AC_INTERRUPT (R148): the external interrupt, while asserted, ends a WFI and is taken where the hart allows it. -/
def execAcInterrupt (d : Fin 4) (c : Fin 8) (k : Fin 2) (s : State) : Host.Outcome State Fault Refusal :=
  .next (s.acTakeIrq ⟨d, c, k⟩ (s.acExtIrq ⟨d, c, k⟩))

/-- STIMECMP_EXPIRY (R148): module time has reached stimecmp. -/
def execStimecmpExpiry (d : Fin 4) (c : Fin 8) (k : Fin 2) (s : State) : Host.Outcome State Fault Refusal :=
  .next (s.acTakeIrq ⟨d, c, k⟩ (decide ((s.acGet (acIx d c k)).stimecmp ≤ s.timeNs)))

/-- A service call (R138): answered in S-mode; from U-mode it is the environment call that S-mode takes.
Log entry 61 (DESIGN CHOICE). -/
def State.acService (s : State) (x : AcCore) (f : State) : State :=
  if !s.acRuns x then s else if (s.acGet x.ix).mode = .user then s.acTrap x 8 0 else f

/-- HALT_SELF (R138, R150). -/
def execHaltSelf (d : Fin 4) (c : Fin 8) (k : Fin 2) (s : State) : Host.Outcome State Fault Refusal :=
  .next (s.acService ⟨d, c, k⟩ (s.acStop ⟨d, c, k⟩))

/-- READ_OWN_IDENTITY (R138). -/
def execReadOwnIdentity (d : Fin 4) (c : Fin 8) (k : Fin 2) (s : State) : Host.Outcome State Fault Refusal :=
  .next (s.acService ⟨d, c, k⟩ (s.answer (.ok (s.acIdReg ⟨d, c, k⟩))))

/-- REPORT_FATAL (R138): the report goes to the management firmware.
Log entry 61 (DESIGN CHOICE). -/
def execReportFatal (d : Fin 4) (c : Fin 8) (k : Fin 2) (code : Nat) (s : State) : Host.Outcome State Fault Refusal :=
  .next (s.acService ⟨d, c, k⟩
    ((s.send (.notice "application core fatal" ((AcCore.mk d c k).id * 2 ^ 32 + code % 2 ^ 32))).answer (.ok 0)))

/-- CBO_CLEAN (R142). -/
def execCboClean (d : Fin 4) (c : Fin 8) (k : Fin 2) (addr : Nat) (s : State) : Host.Outcome State Fault Refusal :=
  .next (if s.acRuns ⟨d, c, k⟩ then s.cboClean ⟨d, c, k⟩ addr else s)

/-- CBO_FLUSH (R142). -/
def execCboFlush (d : Fin 4) (c : Fin 8) (k : Fin 2) (addr : Nat) (s : State) : Host.Outcome State Fault Refusal :=
  .next (if s.acRuns ⟨d, c, k⟩ then s.cboFlush ⟨d, c, k⟩ addr else s)

/-- CBO_INVAL (R142). -/
def execCboInval (d : Fin 4) (c : Fin 8) (k : Fin 2) (addr : Nat) (s : State) : Host.Outcome State Fault Refusal :=
  .next (if s.acRuns ⟨d, c, k⟩ then s.cboInval ⟨d, c, k⟩ addr else s)

end Sys2Proof.Machine
end

