-- ==== Sys2Proof/Machine/Sync.lean ====
section
/-!
DEFINITION. Sync blocks and barriers (R152–R164): commits, waits and their resolution, barrier contexts, releases.
-/
namespace Sys2Proof.Machine

/-! ## Barrier contexts (R160–R164) -/

/-- A register of barrier context `b`. -/
def ctxA (b off : Nat) : Nat := barA (0x1000 + 0x20 * b + off)

/-- The state of a barrier context beside its registers. -/
def State.bar (s : State) (b : Nat) : BarrierCtx := tabGet {} s.barriers b

/-- Set the state of a barrier context. -/
def State.setBar (s : State) (b : Nat) (x : BarrierCtx) : State := { s with barriers := tabSet {} s.barriers b x }

/-- STATE of a context: 0 idle, 1 armed, 2 broken. -/
def State.barState (s : State) (b : Nat) : Nat := s.fld (ctxA b 0x18) 31 30

/-- The generation a context works towards. -/
def State.barGen (s : State) (b : Nat) : Nat := s.reg (ctxA b 0x1C) + 1

/-- ARRIVE_OBJ of each cluster of the set. -/
def State.arriveObjs (s : State) (b : Nat) : List Nat :=
  (cluList (s.reg (ctxA b 4))).map (fun k => mkObj (k / 8) (k % 8) (s.fld (ctxA b 8) 28 16))

/-- RELEASE_OBJ of each cluster of the set. -/
def State.releaseObjs (s : State) (b : Nat) : List Nat :=
  (cluList (s.reg (ctxA b 4))).map (fun k => mkObj (k / 8) (k % 8) (s.fld (ctxA b 8) 12 0))

/-- Generations that a cluster's arrivals suffice for. -/
def State.arrivedGen (s : State) (b o : Nat) : Nat := s.obj o / max 1 (s.reg (ctxA b 0xC))

/-- Append (n, cycle) to a list of rising n, if n is higher than the last. -/
def markGen (l : List (Nat × Nat)) (n cyc : Nat) : List (Nat × Nat) :=
  if (l.getLast?.map (·.1)).getD 0 < n then l ++ [(n, cyc)] else l

/-- The cycle at which generation `g` is marked. -/
def genCycle (l : List (Nat × Nat)) (g : Nat) : Option Nat := (l.find? (fun e => decide (g ≤ e.1))).map (·.2)

/-- The watch of a context after a commit, or as it is armed (R156, R160).
Log entry 68 (DEDUCED). -/
def State.barWatch (s : State) (b : Nat) : State :=
  if s.barState b ≠ 1 then s
  else
    match s.arriveObjs b with
    | [] => s
    | o :: os =>
      let lo := os.foldl (fun m p => min m (s.arrivedGen b p)) (s.arrivedGen b o)
      let hi := os.foldl (fun m p => max m (s.arrivedGen b p)) (s.arrivedGen b o)
      let x := s.bar b
      s.setBar b { x with done := markGen x.done lo s.cycle, first := markGen x.first hi s.cycle }

/-- Break a context: it releases nothing, and its tenant gets attention (R164, R443). -/
def State.barBreak (s : State) (b : Nat) : State :=
  ((s.setFld (ctxA b 0x18) 31 30 2).setBar b {}).tenAttn (s.fld (ctxA b 0) 23 20) 1

/-- Whether the pending generation is complete: all arrivals in, and for a ring context its release time known.
Log entry 70 (DEDUCED). -/
def State.barComplete (s : State) (b g : Nat) : Bool :=
  (genCycle (s.bar b).done g).isSome && (!s.rbit (ctxA b 0) 30 || ((s.bar b).ringAt.isSome && g == s.barGen b))

/-- The lowest generation at or above the pending one that is not complete. -/
def State.barIncomplete (s : State) (b : Nat) : Nat :=
  let g := s.barGen b
  if s.rbit (ctxA b 0) 30 then (if s.barComplete b g then g + 1 else g)
  else max g ((((s.bar b).done.getLast?).map (·.1)).getD 0 + 1)

/-- Whether a context's generation is past its deadline c₁ + TIMEOUT (R164). -/
def State.barLate (s : State) (b : Nat) : Bool :=
  let tmo := s.reg (ctxA b 0x10)
  match genCycle (s.bar b).first (s.barIncomplete b) with
  | none => false
  | some c => s.barState b == 1 && tmo != 0 && decide (c + tmo < s.cycle)

/-- The ring master of a context: the lowest-numbered node in NODES (R162). -/
def State.ringMaster (s : State) (b : Nat) : Option Nat :=
  (List.range 16).find? (bit (s.fld (ctxA b 0x14) 15 0))

/-- The ring master holds the reports of all nodes for the pending generation: it broadcasts the release time (R162 steps 2
and 3). -/
def State.ringDecide (s : State) (b : Nat) : State :=
  let x := s.bar b
  let g := s.barGen b
  if s.barState b = 1 ∧ s.rbit (ctxA b 0) 30 ∧ s.ringMaster b = some s.ring.node ∧ x.ringAt = none ∧
      (cluList (s.fld (ctxA b 0x14) 15 0)).all (fun n => x.reports.contains (g, n)) then
    let t := s.timeNs + s.reg (barA 0x10)
    (s.setBar b { x with ringAt := some t }).ringSend 4 0xFF (natLe 4 b ++ natLe 4 g ++ natLe 8 t)
  else s

/-- Report the local completion of the pending generation of a ring context (R162 step 1). -/
def State.ringReport (s : State) (b : Nat) : State :=
  let x := s.bar b
  let g := s.barGen b
  if s.barState b = 1 ∧ s.rbit (ctxA b 0) 30 ∧ x.reported < g ∧ (genCycle x.done g).isSome then
    match s.ringMaster b with
    | none => s
    | some m =>
      let s := s.setBar b { x with reported := g }
      if m = s.ring.node then
        (s.setBar b { s.bar b with reports := (s.bar b).reports ++ [(g, m)] }).ringDecide b
      else s.ringSend 3 m (natLe 4 b ++ natLe 4 g)
  else s

/-- The contexts that watch an object. -/
def State.watchers (s : State) (o : Nat) : List Nat :=
  (List.range 32).filter (fun b => s.barState b == 1 && (s.arriveObjs b).contains o)

/-! ## Commits (R153–R155, R158) -/

/-- Initiator ID of Thyme (R11). -/
def thyId : Nat := hubId 3

/-- The port by which an operation reaches an object's block, in the order of R154: management, barrier unit, Thyme, work
distributor, application cores 0 and 1, slots 0–8 of the object's own cluster, then the fabric port. -/
def portRank (o ini : Nat) : Nat :=
  if isMgmt ini then 0
  else if idDie ini < 4 ∧ idUnit ini = 13 then 1
  else if ini = thyId then 2
  else if idDie ini = objDie o ∧ idClu ini = objClu o then
    (if idUnit ini = 12 then 3 else if idUnit ini = 9 then 4 else if idUnit ini = 10 then 5
     else if idUnit ini < 9 then 6 + idUnit ini else 15)
  else 15

/-- The place of an operation in the order of R154: its port, and among Thyme's signals the index of the entry (R292). -/
def Signal.rank (g : Signal) : Nat := portRank g.obj g.ini * 4096 + g.idx % 4096

/-- The objects that have committed an operation in this cycle, each with the place of its operation. -/
def State.committedNow (s : State) : List (Nat × Nat) := if s.sync.commitCycle = s.cycle then s.sync.committed else []

/-- Whether an object may commit an operation in this cycle: one per object, sixteen per block (R154).
Log entry 65 (DESIGN CHOICE). -/
def State.canCommit (s : State) (o : Nat) : Bool :=
  !s.committedNow.any (·.1 == o) && decide ((s.committedNow.filter (fun p => p.1 / 0x2000 == o / 0x2000)).length < 16)

/-- Take the object's commit of this cycle. -/
def State.noteCommit (s : State) (g : Signal) : State :=
  { s with sync := { s.sync with commitCycle := s.cycle, committed := (g.obj, g.rank) :: s.committedNow } }

/-- A met wait reaches its waiter. -/
def State.waitMet (s : State) (w : Waiter) : State :=
  match w.who with
  | .cmd k n => s.headerMet (coreOf k) n
  | .sq k => s.sqMet (coreOf k)
  | .halo k n => s.haloMet (coreOf k) n
  | .ac k n => s.acWaitDone (acOf k) n true

/-- A wait resolved as timed out reaches its waiter; a header wait has no timeout. -/
def State.waitLate (s : State) (w : Waiter) : State :=
  match w.who with
  | .cmd _ _ => s
  | .sq k => s.sqTimeout (coreOf k)
  | .halo k n => s.haloLate (coreOf k) n
  | .ac k n => s.acWaitDone (acOf k) n false

/-- The deadline admits a commit in this cycle. -/
def Waiter.open (w : Waiter) (cyc : Nat) : Bool := match w.deadline with | none => true | some d => decide (cyc ≤ d)

/-- Waits on an object that a value meets leave the waiter table and reach their waiters (R154, R155). -/
def State.testWaits (s : State) (o : Nat) : State :=
  let hit := fun (w : Waiter) => w.obj == o && decide (w.thr ≤ s.obj o) && w.open s.cycle
  let met := s.sync.waiters.filter hit
  let s := { s with sync := { s.sync with waiters := s.sync.waiters.filter (fun w => !hit w) } }
  met.foldl (fun s w => s.waitMet w) s

/-- A saturating signal (R158).
Log entry 72 (DEDUCED). -/
def State.saturated (s : State) (o ini : Nat) : State :=
  let d := objDie o
  let c := objClu o
  let s := s.bump (syncA d c 0x8004)
  if s.rbit (syncA d c 0x8000) 0 then s
  else (s.setRbit (syncA d c 0x8000) 0 true).present ⟨0x09, 7, ini, 0, syncA d c (4 * (o % 0x2000)), 0, 0xFFFF⟩

/-- Sources that an encode context's IN_OBJ announces are placed now (R259, R275). -/
def State.notePlaced (s : State) (e : Nat) : State :=
  let x := tabGet {} s.video.enc e
  let v := s.obj (s.reg (vencA e 0x12C) % 2 ^ 18)
  if s.fld (vencA e 4) 31 28 = 0 ∨ x.closing ∨ s.rbit (vencA e 0x100) 17 ∨ v ≤ x.noted then s
  else
    let x := { x with placed := x.placed ++ List.replicate (v - x.noted) (s.timeNs, none), noted := v }
    { s with video := { s.video with enc := tabSet {} s.video.enc e x } }

/-- Encode contexts that an object feeds. -/
def State.notePlacedOn (s : State) (o : Nat) : State :=
  (List.range 64).foldl (fun s e =>
    if s.fld (vencA e 4) 31 28 ≠ 0 ∧ s.reg (vencA e 0x12C) % 2 ^ 18 = o then s.notePlaced e else s) s

/-- Commit one operation: the new value, saturation, waits, watches. A context whose deadline lies behind breaks instead of
counting the arrival (R164). -/
def State.commitOp (s : State) (g : Signal) : State :=
  let v := if g.set then g.inc % 2 ^ 32 else s.obj g.obj + g.inc
  let s := (s.noteCommit g).setObj g.obj (min v 0xFFFFFFFF)
  let s := if v ≤ 0xFFFFFFFF then s else s.saturated g.obj g.ini
  let s := (s.testWaits g.obj).notePlacedOn g.obj
  (s.watchers g.obj).foldl (fun s b => if s.barLate b then s.barBreak b else (s.barWatch b).ringReport b) s

/-- The cycle in which an operation counts as reaching its block: this one, or the next where an operation of a later port has
committed on the object, since operations of one cycle commit in port order (R154).
Log entry 65 (DESIGN CHOICE). -/
def State.reachCycle (s : State) (g : Signal) : Nat :=
  if s.committedNow.any (fun p => p.1 == g.obj && decide (g.rank < p.2)) then s.cycle + 1 else s.cycle

/-- Whether operations that have reached an object's block wait for their turn. -/
def State.queuedOn (s : State) (o : Nat) : Bool := s.sync.reached.any (·.2.obj == o)

/-- The order in which operations that have reached an object commit: the earlier cycle, then the port (R154). -/
def turnBefore (a b : Nat × Signal) : Bool :=
  decide (a.1 < b.1) || (a.1 == b.1 && decide (a.2.rank < b.2.rank))

/-- The operation whose turn it is on an object: its place among those that wait. -/
def State.turnOf (s : State) (o : Nat) : Option (Nat × Nat × Signal) :=
  (s.sync.reached.zipIdx.map (fun e => (e.2, e.1))).foldl (fun b e =>
    if e.2.2.obj ≠ o ∨ s.cycle < e.2.1 then b
    else match b with
      | none => some e
      | some m => if turnBefore e.2 m.2 then some e else some m) none

/-- Commit the operation whose turn it is on an object, if the object may commit in this cycle. -/
def State.commitTurn (s : State) (o : Nat) : State :=
  if s.canCommit o then
    match s.turnOf o with
    | some (i, _, g) => { s with sync := { s.sync with reached := s.sync.reached.eraseIdx i } }.commitOp g
    | none => s
  else s

/-- An operation at its sync block: it commits in this cycle if the object may commit and none waits before it, else it waits
for its turn (R154). -/
def State.arriveOp (s : State) (g : Signal) : State :=
  if s.canCommit g.obj && !s.queuedOn g.obj then s.commitOp g
  else { s with sync := { s.sync with reached := s.sync.reached ++ [(s.reachCycle g, g)] } }.commitTurn g.obj

/-- SIGNAL_COMMIT (R154): operation `i` of those on their way reaches its block; past their number, the turn comes of an
object that waiting operations name.
Log entry 65 (DESIGN CHOICE). -/
def execSignalCommit (i : Nat) (s : State) : Host.Outcome State Fault Refusal :=
  match s.sync.inflight[i]? with
  | some g => .next ({ s with sync := { s.sync with inflight := s.sync.inflight.eraseIdx i } }.arriveOp g)
  | none =>
    match s.sync.reached[i - s.sync.inflight.length]? with
    | some (_, g) => .next (s.commitTurn g.obj)
    | none => .next s

/-- The registration of a wait (R155): its deadline counts from this cycle; a threshold already met is met now, whatever the
deadline. -/
def State.registerWait (s : State) (w : Waiter) : State :=
  let w := { w with deadline := w.deadline.or (w.timeout.map (· + s.cycle)) }
  if w.thr ≤ s.obj w.obj then s.waitMet w
  else { s with sync := { s.sync with waiters := s.sync.waiters ++ [w] } }

/-- WAIT_REGISTER (R155).
Log entry 65 (DESIGN CHOICE). -/
def execWaitRegister (i : Nat) (s : State) : Host.Outcome State Fault Refusal :=
  match s.sync.arriving[i]? with
  | none => .next s
  | some w => .next ({ s with sync := { s.sync with arriving := s.sync.arriving.eraseIdx i } }.registerWait w)

/-- WAIT_TIMEOUT (R155): from the deadline cycle + 1 on. -/
def execWaitTimeout (i : Nat) (s : State) : Host.Outcome State Fault Refusal :=
  match s.sync.waiters[i]? with
  | none => .next s
  | some w =>
    if w.open s.cycle then .next s
    else .next ({ s with sync := { s.sync with waiters := s.sync.waiters.eraseIdx i } }.waitLate w)

/-- SYNC_VALUE_WRITE (R153, R186): the set operation. -/
def execSyncValueWrite (ini : Nat) (d : Fin 4) (c : Fin 8) (n : Fin 8192) (value : Word) (s : State) :
    Host.Outcome State Fault Refusal :=
  .next (s.guarded (isMgmt ini) ini (syncA d c (4 * n)) (s.arriveOp ⟨mkObj d c n, value.toNat, ini, true, 0⟩))

/-! ## Contexts and releases -/

/-- A write of a context's CTRL: setting EN arms the context, clearing it frees its watches (R156, R160, R164).
Log entry 68 (DEDUCED). -/
def State.barCtrlWrite (s : State) (b v : Nat) : State :=
  let a := ctxA b 0
  let was := s.rbit a 31
  let s := s.setReg a (putBits (putBits 0 31 30 (bits v 31 30)) 23 20 (bits v 23 20))
  if bit v 31 && !was then
    let s := ((s.setReg (ctxA b 0x1C) 0).setFld (ctxA b 0x18) 31 30 1).setBar b {}
    (s.barWatch b).ringReport b
  else if was && !bit v 31 then (s.setFld (ctxA b 0x18) 31 30 0).setBar b {}
  else s

/-- BARRIER_CONTEXT_ENABLE (R160). -/
def execBarrierContextEnable (ini : Nat) (b : Fin 32) (value : Word) (s : State) : Host.Outcome State Fault Refusal :=
  .next (s.guarded (isMgmt ini) ini (ctxA b 0) (s.barCtrlWrite b value.toNat))

/-- Commit the release of the pending generation: GEN, and a signal of 1 to RELEASE_OBJ of every cluster of the set.
Log entries 67 (DESIGN CHOICE), 72 (DEDUCED). -/
def State.barRelease (s : State) (b : Nat) : State :=
  let g := s.barGen b
  let x := s.bar b
  let s := s.setReg (ctxA b 0x1C) g
  let s := s.setBar b { x with ringAt := none, lastRelease := some s.cycle
                               reports := x.reports.filter (fun e => decide (g < e.1)) }
  let s := (s.releaseObjs b).foldl (fun s o => s.arriveOp ⟨o, 1, mkId (objDie o) (objClu o) 13 0, false, 0⟩) s
  (s.ringReport b).ringDecide b

/-- Generations release at least 8 cycles apart. -/
def State.barSpaced (s : State) (b : Nat) : Bool :=
  match (s.bar b).lastRelease with | none => true | some c => decide (c + 8 ≤ s.cycle)

/-- BARRIER_RELEASE_COMMIT (R161): 64 cycles after the last arrival.
Log entry 67 (DESIGN CHOICE). -/
def execBarrierReleaseCommit (b : Fin 32) (s : State) : Host.Outcome State Fault Refusal :=
  match genCycle (s.bar b).done (s.barGen b) with
  | none => .next s
  | some a =>
    if s.barState b = 1 ∧ !s.rbit (ctxA b 0) 30 ∧ a + 64 ≤ s.cycle ∧ s.barSpaced b then .next (s.barRelease b) else .next s

/-- RING_BARRIER_RELEASE_COMMIT (R162): from T_rel on. -/
def execRingBarrierReleaseCommit (b : Fin 32) (s : State) : Host.Outcome State Fault Refusal :=
  match (s.bar b).ringAt with
  | none => .next s
  | some t => if s.barState b = 1 ∧ t ≤ s.timeNs ∧ s.barSpaced b then .next (s.barRelease b) else .next s

/-- BARRIER_CONTEXT_TIMEOUT (R164). -/
def execBarrierContextTimeout (b : Fin 32) (s : State) : Host.Outcome State Fault Refusal :=
  .next (if s.barLate b then s.barBreak b else s)

/-- BAR_DIE_ARRIVED of a die as it reads: bit b says that every cluster of the die in armed context b has arrived for the
pending generation.
Log entry 69 (DEDUCED). -/
def State.dieArrived (s : State) (d : Nat) : Nat :=
  (List.range 32).foldl (fun m b =>
    let os := (s.arriveObjs b).filter (fun o => objDie o == d)
    if s.barState b = 1 ∧ !os.isEmpty ∧ os.all (fun o => decide (s.barGen b ≤ s.arrivedGen b o)) then m + 2 ^ b else m) 0

/-- SYNC_WAITERS as it reads. -/
def State.syncWaiters (s : State) (d c : Nat) : Nat :=
  (s.sync.waiters.filter (fun w => w.obj / 0x2000 == d * 8 + c)).length

end Sys2Proof.Machine
end

