-- ==== Sys2Proof/Machine/Phase.lean ====
section
/-!
DEFINITION. The phase of Thyme (R280–R287) and module time's steering (R6, R290): counts, index edges, velocity, fraction, lock, loss.
-/
namespace Sys2Proof.Machine

/-- THY_SRC.SEL. -/
def State.thySel (s : State) : Nat := s.fld (thyA 0) 2 0
/-- Counts per cycle. -/
def State.thyCpc (s : State) : Nat := max 1 (s.reg (thyA 4))
/-- 2^VEL_SHIFT. -/
def State.velCount (s : State) : Nat := 2 ^ s.fld (thyA 0) 10 8
/-- Whether Thyme keeps phase and fires events (THY_CTRL.EN). -/
def State.thyOn (s : State) : Bool := s.rbit (thyA 0x14) 0
/-- THY_STATE.LOCK: a locked SEL 4 or 5 whose source is silent is in HOLDOVER (R286).
Log entry 208 (DESIGN CHOICE). -/
def State.thyLock (s : State) : Nat :=
  let l := s.fld (thyA 0x18) 31 28
  if l = 2 ∧ (s.thySel = 4 ∨ s.thySel = 5) ∧ s.thy.lastInput + max 1 (Config.silence s.thySel) ≤ s.cycle then 3 else l
/-- The end of a start-up step, with its time (R362). -/
def State.stepEnd (s : State) (k : Nat) : State :=
  if s.start.ended.contains k then s
  else
    let s := (s.setReg64 (modA (0x210 + 8 * k)) s.timeNs).setFld (modA 0x200) 31 28 k
    { s with start := { s.start with ended := s.start.ended ++ [k] } }
/-- Start-up step 6 ends once the phase is locked, or free-running, after step 3 (R362).
Log entry 145 (DEDUCED). -/
def State.phaseStep (s : State) : State :=
  if s.start.ended.contains 3 && (s.thyLock == 0 || s.thyLock == 2) then s.stepEnd 6 else s
/-- Set THY_STATE.LOCK. -/
def State.setLock (s : State) (v : Nat) : State := (s.setFld (thyA 0x18) 31 28 v).phaseStep

/-! ## Velocity and fraction (R284) -/

/-- A ratio as an FP64 encoding, rounded to nearest even. -/
def fp64Ratio (n : Int) (d : Nat) : Nat := (fp64.put rne (FV.div (FV.ofInt n 0 false) (FV.ofInt d 0 false)).1).1

/-- floor(v × 2^32 ÷ 1.1 × 10^9) of an FP64 velocity, negative in reverse motion. -/
def velInc (v : Nat) : Int :=
  match fp64.decode v with
  | .fin neg q e =>
    let n : Nat := if 0 ≤ e then q * 2 ^ e.toNat * 2 ^ 32 / 1100000000 else q * 2 ^ 32 / (1100000000 * 2 ^ (-e).toNat)
    let exact := if 0 ≤ e then q * 2 ^ e.toNat * 2 ^ 32 % 1100000000 = 0 else q * 2 ^ 32 % (1100000000 * 2 ^ (-e).toNat) = 0
    if neg then -((n + if exact then 0 else 1 : Nat) : Int) else (n : Int)
  | _ => 0

/-- floor(v × 2^32 × t) for an FP64 velocity and a time of picoseconds. -/
def velAdvance (v ps : Nat) : Int :=
  match fp64.decode v with
  | .fin neg q e =>
    let n : Int := q * 2 ^ e.toNat * 2 ^ 32 * ps
    let d : Int := 1000000000000 * 2 ^ (-e).toNat
    if neg then -n / d else n / d
  | _ => 0

/-- THY_VELOCITY. -/
def State.thyVel (s : State) : Nat := s.reg64 (thyA 0x30)

/-- The velocity that a phase has: with SEL 0 and 4, whose counts are nanoseconds, 10^9 counts per second (R281, R284). -/
def State.phaseVel (s : State) : Nat := if s.thySel = 0 ∨ s.thySel = 4 then fp64Ratio 1000000000 1 else s.thyVel

/-- The unsaturated advance of FRAC since the last count: none in reverse motion and before the first estimate.
Log entry 108 (DEDUCED). -/
def State.fracRaw (s : State) : Nat :=
  if s.rbit (thyA 0x18) 26 then 0
  else (velInc s.thyVel).toNat * ((s.thy.lostAt.getD s.cycle) - s.thy.lastCount)

/-! ## The phase (R280, R281, R285) -/

/-- A position in units of 2^-32 count as a phase. -/
def phaseOf (cpc : Nat) (p : Int) : Nat × Nat × Nat :=
  let c : Int := p / 4294967296
  let cpc : Int := cpc
  ((c / cpc % 4294967296).toNat, (c % cpc).toNat, (p % 4294967296).toNat)

/-- The phase as it stands: CYCLE, COUNT, FRAC. A follower's runs on module time and v from the last frame on (R285–R287). A
replay reports the recorded phase (R184).
Log entry 109 (DESIGN CHOICE). -/
def State.thyPhase (s : State) : Nat × Nat × Nat :=
  match s.log.replay with
  | some r => r.phase
  | none =>
    let sel := s.thySel
    let cpc := s.thyCpc
    if !s.thyOn then (s.reg (thyA 0x24), s.reg (thyA 0x20), s.reg (thyA 0x28))
    else if sel = 0 ∨ sel = 4 then
      let t : Int := (s.timeNs : Int) - s.reg64 (thyA 8)
      ((t / cpc % 2 ^ 32).toNat, (t % cpc).toNat, 0)
    else if sel = 5 then
      let (c, n, f, at_) := s.thy.ringBase
      phaseOf cpc (((c * cpc + n) * 2 ^ 32 + f : Nat) + velAdvance s.thyVel ((s.timeNs - at_) * 1000))
    else (s.reg (thyA 0x24), s.reg (thyA 0x20), min s.fracRaw 0xFFFFFFFF)

/-- Set the stored phase. -/
def State.setPhase (s : State) (cyc cnt : Nat) : State := (s.setReg (thyA 0x20) cnt).setReg (thyA 0x24) (cyc % 2 ^ 32)

/-- One count forward or backward (R280). -/
def State.stepPhase (s : State) (fwd : Bool) : State :=
  let cyc := s.reg (thyA 0x24)
  let cnt := s.reg (thyA 0x20)
  let cpc := s.thyCpc
  if fwd then (if cpc ≤ cnt + 1 then s.setPhase (cyc + 1) 0 else s.setPhase cyc (cnt + 1))
  else (if cnt = 0 then s.setPhase (cyc + 2 ^ 32 - 1) (cpc - 1) else s.setPhase cyc (cnt - 1))

/-! ## Lock and loss (R286, R287) -/

/-- Acquisition begins anew: at start-up, on a change of source, and when counts resume (R286).
Log entry 109 (DESIGN CHOICE). -/
def State.thyRestart (s : State) : State :=
  let s := { s with thy := { s.thy with counts := [], pulses := [], run := 0, zSeen := false, quadErrs := 0, lostAt := none,
                                        lastInput := s.cycle, lastCount := s.cycle, syncRun := 0, ringFrames := 0 } }
  ((s.setReg64 (thyA 0x30) 0).setRbit (thyA 0x18) 26 false).setLock (if s.thySel = 0 then 0 else 1)

/-- Counts resume after LOST: acquisition begins anew (R286). -/
def State.thyResume (s : State) : State :=
  if s.thyLock = 4 then s.thyRestart else s

/-- Whether the lock condition of SEL 1–3 holds. -/
def State.lockMet (s : State) : Bool :=
  if s.thySel = 3 then decide (s.velCount + 1 ≤ s.thy.pulses.length)
  else decide (s.velCount ≤ s.thy.run) && (s.fld (thyA 0) 5 4 != 1 || s.thy.zSeen)

/-- ACQUIRING becomes LOCKED when its condition holds. -/
def State.checkLock (s : State) : State := if s.thyLock = 1 ∧ s.lockMet then s.setLock 2 else s

/-- Declare the phase lost (R287). -/
def State.declareLost (s : State) : State :=
  if s.thyLock = 4 then s
  else
    let s := { s with thy := { s.thy with lostAt := some s.cycle } }
    ((s.setLock 4).bump (thyA 0x48)).presentHub 0x11 10 thyId 5 0 0

/-! ## Counts (R281, R282, R284) -/

/-- Velocity over the last 2^VEL_SHIFT counts: their signed number by the time between the first and the last of them.
Log entry 81 (DEDUCED). -/
def State.estimate (s : State) : State :=
  let n := s.velCount
  let h := s.thy.counts
  if h.length < n then s
  else
    let w := h.drop (h.length - n)
    let t0 := (w.head?.map (·.2)).getD 0
    let t1 := (w.getLast?.map (·.2)).getD 0
    let net := w.foldl (fun (m : Int) e => if e.1 then m + 1 else m - 1) 0
    if t1 ≤ t0 then s else s.setReg64 (thyA 0x30) (fp64Ratio (net * 1100000000) (t1 - t0))

/-- Take an accepted count of SEL 1 or 2, whose edge has its time stamp.
Log entry 108 (DEDUCED). -/
def State.takeCount (s : State) (fwd : Bool) (stamp : Nat) : State :=
  let s := s.thyResume
  let t := s.thy
  let s := if t.counts.getLast?.any (fun e => decide ((stamp - e.2) * 10 < 550)) then s.setRbit (thyA 0x18) 27 true else s
  let s := s.stepPhase fwd
  let counts := t.counts ++ [(fwd, stamp)]
  let s := { s with thy := { t with lastCount := s.cycle, lastInput := stamp
                                    counts := counts.drop (counts.length - 129)
                                    run := if fwd then t.run + 1 else t.run } }
  ((s.setRbit (thyA 0x18) 26 (!fwd)).estimate).checkLock

/-- A quadrature error: both inputs changed (R282). The sixteenth within one cycle of the phase declares it lost. -/
def State.quadError (s : State) : State :=
  let s := (s.bump (thyA 0x40)).presentHub 0x10 10 thyId 5 0 0
  let cyc := s.reg (thyA 0x24)
  let n := if s.thy.quadCycle = cyc then s.thy.quadErrs + 1 else 1
  let s := { s with thy := { s.thy with quadErrs := n, quadCycle := cyc, run := 0 } }
  if 16 ≤ n ∧ s.reg (thyA 0x10) ≠ 0 then s.declareLost else s

/-- A pulse of SEL 3 (R281, R284), whose edge has its time stamp.
Log entry 81 (DEDUCED). -/
def State.takePulse (s : State) (stamp : Nat) : State :=
  let s := s.thyResume
  let t := s.thy
  let pulses := t.pulses ++ [stamp]
  let pulses := pulses.drop (pulses.length - 129)
  let s := { s with thy := { t with lastCount := s.cycle, lastInput := stamp, pulses := pulses } }
  let s := s.setRbit (thyA 0x18) 26 false
  let s := s.setPhase (s.reg (thyA 0x24) + 1) 0
  let n := s.velCount
  let s :=
    if pulses.length < n + 1 then s
    else
      let w := pulses.drop (pulses.length - (n + 1))
      let dt := stamp - w.headD 0
      if dt = 0 then s else s.setReg64 (thyA 0x30) (fp64Ratio (s.thyCpc * n * 1100000000 : Nat) dt)
  s.checkLock

/-- Whether a transition of (A, B) is a forward count of SEL 1: A leads B.
Log entry 107 (PRESUMED). -/
def quadForward (a b a2 : Bool) : Bool := if a != a2 then a == b else a != b

/-- Whether a level that has held for a number of cycles is accepted: for FILTER_NS (R282). -/
def State.filtered (s : State) (held : Nat) : Bool := decide (s.fld (thyA 0) 23 16 * 11 ≤ held * 10)

/-- New levels of the three inputs that have held for a number of cycles: an edge is accepted, stamped at its first sample
(R281, R282).
Log entry 108 (DEDUCED). -/
def State.phaseEdge (s : State) (a b z : Bool) (held : Nat) : State :=
  let t := s.thy
  let inv := s.rbit (thyA 0) 6
  let stamp := s.cycle - held
  if !s.filtered held then s
  else
    let s := { s with thy := { t with a := a, b := b, z := z } }
    if !s.thyOn then s
    else
      match s.thySel with
      | 1 =>
        if t.a != a && t.b != b then s.quadError
        else if t.a != a || t.b != b then s.takeCount (quadForward t.a t.b a != inv) stamp
        else s
      | 2 => if !t.a && a then s.takeCount (b != inv) stamp else s
      | 3 => if !t.z && z then s.takePulse stamp else s
      | _ => s

/-- A forward rising edge of PHASE_Z, accepted (R283); a lost phase stands still (R287). -/
def State.zEdge (s : State) : State :=
  let sel := s.thySel
  if !s.thyOn ∨ s.thyLock = 4 ∨ (sel ≠ 1 ∧ sel ≠ 2) ∨ s.fld (thyA 0) 5 4 ≠ 1 ∨ s.rbit (thyA 0x18) 26 then s
  else
    let cnt := s.reg (thyA 0x20)
    let cyc := s.reg (thyA 0x24)
    let cpc := s.thyCpc
    let up := decide (cpc ≤ 2 * cnt)
    let corr : Int := if up then (cpc : Int) - cnt else -(cnt : Int)
    let s := s.setPhase (if up then cyc + 1 else cyc) 0
    let s := s.setReg (thyA 0x38) (ofInt 32 corr)
    let s := if corr = 0 then s else s.bump (thyA 0x44)
    ({ s with thy := { s.thy with zSeen := true } }).checkLock

/-- A synthesised count of SEL 3: FRAC has passed 0xFFFF_FFFF and COUNT stands below CPC − 1 (R284). -/
def State.synthCount (s : State) : State :=
  if s.thyOn ∧ s.thySel = 3 ∧ s.thyLock ≠ 4 ∧ 2 ^ 32 ≤ s.fracRaw ∧ s.reg (thyA 0x20) + 1 < s.thyCpc then
    { s.stepPhase true with thy := { s.thy with lastCount := s.cycle } }
  else s

/-- Whether the watchdog of the selected source has expired (R287). -/
def State.wdogDue (s : State) : Bool :=
  let w := s.reg (thyA 0x10)
  w != 0 && s.thySel != 0 && s.thyOn && s.thyLock != 4 && decide (s.thy.lastInput + w * 1100 ≤ s.cycle)

/-! ## Module time (R6, R290, R444) -/

/-- One message of the time source: its offset in picoseconds, the source's time in ns, the lock limit in picoseconds, and
the number of messages in a row below it. The first lock steps module time; later messages set the slew.
Log entry 111 (DEDUCED). -/
def State.timeMessage (s : State) (run : Nat) (offset : Int) (tai limit : Nat) : State × Nat :=
  let run := if offset.natAbs < limit then run + 1 else 0
  if s.thy.stepped then ({ s with slew := -(offset * 110) }, run)
  else if 16 ≤ run then ({ s with timeNs := tai % 2 ^ 64, timeRem := 0, thy := { s.thy with stepped := true } }, run)
  else (s, run)

/-- One cycle of the arithmetic clock: module time advances by 10/11 ns, changed by at most 100 ppm while it is slewed.
Log entry 1 (DESIGN CHOICE). -/
def State.tickTime (s : State) : State :=
  let adj : Int := if s.slew < -10 then -10 else if 10 < s.slew then 10 else s.slew
  let t := s.timeRem + (100000 + adj).toNat
  { s with timeRem := t % 110000, timeNs := (s.timeNs + t / 110000) % 2 ^ 64, slew := s.slew - adj }

end Sys2Proof.Machine
end

