-- ==== Sys2Proof/Machine/Log.lean ====
section
/-!
DEFINITION. The replay log (R179–R185): records, segments, the NAND overflow area, step markers and pace (R404), replay.
-/
namespace Sys2Proof.Machine

/-- Initiator ID of the hub's DMA (R11).
Log entry 24 (DESIGN CHOICE). -/
def hubDmaId : Nat := mkId 4 0 11 0

/-- Bytes of a log segment. -/
def segBytes : Nat := 0x200000

/-- Whether records are written (R179): EN, log regions, and no replay in progress. -/
def State.logOn (s : State) : Bool := s.rbit (hubA 0x400) 0 && !s.log.regions.isEmpty && s.log.replay.isNone

/-- HUB_LOG_STATUS.STATE as it reads: 0 off, 1 recording, 2 no log regions, 3 replaying. -/
def State.logState (s : State) : Nat :=
  if s.log.replay.isSome then 3
  else if !s.rbit (hubA 0x400) 0 then 0
  else if s.log.regions.isEmpty then 2
  else 1

/-- A record with its header and padding (R180). -/
def logRecordBytes (kind src time cyc cnt seq : Nat) (payload : List Byte) : List Byte :=
  let h := natLe 2 kind ++ natLe 2 src ++ natLe 4 payload.length ++ natLe 8 time ++ natLe 4 cyc ++ natLe 4 cnt ++ natLe 4 seq
  let pad := (32 - payload.length % 32) % 32
  h ++ natLe 4 (crc32c (h ++ payload)) ++ payload ++ zeros pad

/-- Whether the NAND overflow area takes copies. -/
def State.logNand (s : State) : Bool := s.rbit (hubA 0x400) 1 && decide (0 < s.log.nandExtents)

/-- HUB_LOG_NEWEST and HUB_LOG_OLDEST. -/
def State.logBounds (s : State) : State :=
  let g := s.log
  let lp := g.seg + 1 - g.regions.length
  let old := g.extents.foldl (fun m e => min m (e.2 - 1)) lp
  (s.setReg64 (hubA 0x410) g.seg).setReg64 (hubA 0x418) old

/-- Write a record at the current position of the segment, and the segment's header (R182). -/
def State.logPut (s : State) (r : LogRec) : State :=
  let g := s.log
  let base := g.regions.getD (g.seg % g.regions.length) 0
  let time := fieldLe r.data 8 8
  let first := if g.count = 0 then time else g.firstTime
  let s := (s.memWrite hubDmaId (base + g.pos) r.data).1
  let s := (s.memWrite hubDmaId base
    (natLe 4 0x314C5259 ++ natLe 8 g.seg ++ natLe 8 first ++ natLe 8 time ++ natLe 4 (g.count + 1) ++ zeros 32)).1
  let marks := if r.kind = 5 then tabSet (0, 0) g.lastMark r.source (g.seg, fieldLe r.data 0x18 4) else g.lastMark
  ({ s with log := { s.log with pos := g.pos + r.data.length, count := g.count + 1, firstTime := first, lastTime := time
                                lastMark := marks } }).logBounds

/-- Place a record in the log: into the current segment, or into the next one, which must have been copied to NAND first
where that area takes copies (R182). No record spans two segments.
Log entry 77 (DEDUCED). -/
def State.logPlace (s : State) (r : LogRec) : State × Bool :=
  let s := if s.log.pos = 0 then { s with log := { s.log with pos := 64 } } else s
  let g := s.log
  if g.pos + r.data.length ≤ segBytes then (s.logPut r, true)
  else
    let free := g.seg + 2 - g.regions.length
    if s.logNand ∧ g.copied < free then (s, false)
    else
      ({ s with log := { g with seg := g.seg + 1, pos := 64, count := 0, copied := max g.copied free } }.logPut r, true)

/-- Write the records that wait in staging, in order, as far as the log takes them; `n` bounds them.
Log entry 77 (DEDUCED). -/
def State.logFlush (s : State) : Nat → State
  | 0 => s
  | n + 1 =>
    match s.log.staged with
    | [] => s
    | r :: rest =>
      let (s', ok) := s.logPlace r
      if ok then State.logFlush { s' with log := { s'.log with staged := rest } } n else s

/-- Append a record behind those that wait.
Log entry 78 (DEDUCED). -/
def State.logAppend (s : State) (r : LogRec) : State :=
  let s := { s with log := { s.log with staged := s.log.staged ++ [r] } }
  s.logFlush s.log.staged.length

/-- The next SEQ of a kind and source. -/
def State.logSeq (s : State) (kind src : Nat) : State × Nat :=
  let k := kind * 65536 + src
  let n := tabGet 0 s.log.seqs k
  ({ s with log := { s.log with seqs := tabSet 0 s.log.seqs k ((n + 1) % 2 ^ 32) } }, n)

/-- Write a record, or drop it while the staging buffers are full (R183). -/
def State.logData (s : State) (kind src : Nat) (data : List Byte) (full : Bool) : State :=
  if !s.logOn then s
  else if s.log.dropping || full then
    ({ s with log := { s.log with dropping := true, lostRecs := s.log.lostRecs + 1
                                  lostBytes := s.log.lostBytes + data.length, gapPipes := 0xFF } }).bump (hubA 0x408)
  else s.logAppend ⟨kind, src, data⟩

/-- Make and write a record with the phase stamp of this instant. -/
def State.logRecord (s : State) (kind src time : Nat) (payload : List Byte) (full : Bool) : State :=
  if !s.logOn then s
  else
    let (s, seq) := s.logSeq kind src
    let (cyc, cnt, _) := s.thyPhase
    s.logData kind src (logRecordBytes kind src time cyc cnt seq payload) full

/-- The configuration marker (R179, R181): standing configuration digest and firmware versions. -/
def State.logConfig (s : State) (digest versions : List Byte) : State :=
  s.logRecord 7 0 s.timeNs (slice digest 0 32 ++ slice versions 0 32) false

/-! ## Step markers (R181, R404) -/

/-- A register of pipeline `p` in the DIL_ page. -/
def paceA (p off : Nat) : Nat := dilA (0x200 + 0x20 * p + off)

/-- Update LAST_STEP, LAST_TIME and PERIOD_NS of a pipeline at a marker (R404).
Log entry 80 (DEDUCED). -/
def State.pace (s : State) (p step time : Nat) : State :=
  let l := (tabGet [] s.log.marks p ++ [time])
  let l := l.drop (l.length - 16)
  let s := { s with log := { s.log with marks := tabSet [] s.log.marks p l } }
  let s := (s.setReg64 (paceA p 0) step).setReg64 (paceA p 8) time
  if l.length < 2 then s else s.setReg (paceA p 0x10) ((time - l.headD 0) / (l.length - 1))

/-- The payload of a step marker. -/
def markerBytes (step flags mask : Nat) (prov out : List Byte) (folds : List Nat) : List Byte :=
  natLe 8 step ++ natLe 4 flags ++ natLe 4 mask ++ slice prov 0 32 ++ slice out 0 32 ++ folds.flatMap (natLe 8)

/-! ## Replay (R184, R185) -/

/-- The header of the record at the replay's place, with its address; the next segment begins where a segment's records end. -/
def State.replayAt (s : State) (r : Replay) : Option (Nat × List Byte) :=
  match r.segs[r.seg]? with
  | none => none
  | some base =>
    if segBytes < r.pos + 32 then none
    else
      let h := s.unitBytes hubDmaId (base + r.pos) 32
      if fieldLe h 0 2 = 0 ∨ 7 < fieldLe h 0 2 then none else some (base + r.pos, h)

/-- Bytes that a record takes in the log. -/
def recordSize (h : List Byte) : Nat := 32 + (fieldLe h 4 4 + 31) / 32 * 32

/-- Move a replay past the records that a test refuses; `n` bounds the records and segments passed. -/
def State.replaySeek (s : State) (want : List Byte → Bool) : Nat → Replay → Option (Replay × Nat × List Byte)
  | 0, _ => none
  | n + 1, r =>
    if r.segs.length ≤ r.seg then none
    else
      match s.replayAt r with
      | none => State.replaySeek s want n { r with seg := r.seg + 1, pos := 64 }
      | some (a, h) =>
        if want h then some ({ r with pos := r.pos + recordSize h }, a, h)
        else State.replaySeek s want n { r with pos := r.pos + recordSize h }

/-- Most records that a replay passes in one search. -/
def replayFuel (r : Replay) : Nat := r.segs.length * 65536 + 1

/-- The next record of the log, in log order, among kinds 1–4; it is taken when its kind is
`kind` and its SOURCE passes the test. The answer is its header and payload; the phase follows records of kinds 3 and 4.
Log entry 79 (DEDUCED). -/
def State.replayTake (s : State) (kind : Nat) (src : Nat → Bool) : State × Option (List Byte × List Byte) :=
  match s.log.replay with
  | none => (s, none)
  | some r =>
    match s.replaySeek (fun h => decide (fieldLe h 0 2 < 5)) (replayFuel r) r with
    | none => (s, none)
    | some (r', a, h) =>
      if fieldLe h 0 2 = kind && src (fieldLe h 2 2) then
        let p := s.unitBytes hubDmaId (a + 32) (fieldLe h 4 4)
        let frac := if kind = 3 then fieldLe p 0 4 else 0
        let r' := { r' with time := fieldLe h 8 8 }
        let r' := if kind = 3 ∨ kind = 4 then { r' with phase := (fieldLe h 0x10 4, fieldLe h 0x14 4, frac) } else r'
        let s := s.unitReads hubDmaId [(a, 32), (a + 32, p.length)]
        ({ s with log := { s.log with replay := some r' } }, some (h, p))
      else (s, none)

/-- The marker of a step of the replayed pipeline, from the place behind the marker last compared on: the replay with its mark
behind it, and the marker's payload. `n` bounds the markers passed.
Log entry 79 (DEDUCED). -/
def State.replayMark (s : State) (step : Nat) : Nat → Replay → Option (Replay × List Byte)
  | 0, _ => none
  | n + 1, r =>
    match s.replaySeek (fun h => fieldLe h 0 2 == 5 && fieldLe h 2 2 == r.pipeline) (replayFuel r) { r with seg := r.markSeg, pos := r.markPos } with
    | none => none
    | some (q, a, h) =>
      let r := { r with markSeg := q.seg, markPos := q.pos }
      let p := s.unitBytes hubDmaId (a + 32) (fieldLe h 4 4)
      if fieldLe p 0 8 = step then some (r, p) else State.replayMark s step n r

/-- Start a replay of steps `first` to `last` of a pipeline from copies of log segments (R184, R407): the records of step
`first` follow the marker of the step before it.
Log entry 79 (DEDUCED). -/
def State.replayStart (s : State) (p first last : Nat) (segs : List Nat) : State :=
  let r : Replay := { pipeline := p, last := last, segs := segs, seg := 0, pos := 64 }
  let r := match s.replayMark (first - 1) (replayFuel r) r with
    | some (q, _) => { q with seg := q.markSeg, pos := q.markPos }
    | none => r
  let resume := s.reg64 (paceA p 0x18)
  let s := { s with log := { s.log with replay := some r } }
  s.setReg64 (paceA p 0) (if resume = 0 then first - 1 else resume)

/-- Compare a replayed step with the marker of its number (R184): the first step that differs, or has no marker, is reported;
the replay ends after its last step.
Log entry 79 (DEDUCED). -/
def State.replayCompare (s : State) (r : Replay) (step : Nat) (prov out : List Byte) (folds : List Nat) : State :=
  let (r, same) := match s.replayMark step (replayFuel r) r with
    | some (q, p) => (q, slice p 16 32 == slice prov 0 32 && slice p 48 32 == slice out 0 32 && p.drop 80 == folds.flatMap (natLe 8))
    | none => (r, false)
  let s := if same || r.differs.isSome then s else s.send (.notice "replayed step differs" step)
  let r := if same || r.differs.isSome then r else { r with differs := some step }
  { s with log := { s.log with replay := if r.last ≤ step then none else some r } }

/-- A step of a pipeline has ended: its marker is written, or compared during a replay (R181, R185, R404). -/
def State.stepDone (s : State) (p flags mask : Nat) (prov out : List Byte) (folds : List Nat) : State :=
  let step := s.reg64 (paceA p 0) + 1
  match s.log.replay with
  | some r =>
    if r.pipeline = p then (s.replayCompare r step (prov.drop 128) out folds).setReg64 (paceA p 0) step else s
  | none =>
    let fl := if bit s.log.gapPipes p then putBit flags 0 true else flags
    let s := s.logRecord 5 p s.timeNs (markerBytes step fl mask (prov.drop 128) out folds) false
    let s := { s with log := { s.log with gapPipes := putBit s.log.gapPipes p false } }
    s.pace p step s.timeNs

/-- The bytes of a record at a place of the log, header and payload: in the segments held, or during a replay in the copies.
Log entry 205 (DEDUCED). -/
def State.recordAt (s : State) (seg off : Nat) : List Byte :=
  let g := s.log
  let base := match g.replay with
    | some r => r.segs[seg]?
    | none => if seg ≤ g.seg ∧ g.seg < seg + g.regions.length then g.regions[seg % g.regions.length]? else none
  match base with
  | some b => let n := fieldLe (s.unitBytes hubDmaId (b + off) 32) 4 4; s.unitBytes hubDmaId (b + off) (32 + n)
  | none => []

/-- Places of the log in log order. -/
def logOrder : List (Nat × Nat) → List (Nat × Nat)
  | [] => []
  | p :: t =>
    let before := fun (q : Nat × Nat) => decide (q.1 < p.1) || (q.1 == p.1 && decide (q.2 < p.2))
    let r := logOrder t
    r.filter before ++ p :: r.filter (fun q => !before q)

/-- The replay-log records that a step consumed, headers and payloads, in log order (R174).
Log entry 205 (DEDUCED). -/
def State.stepInputs (s : State) (places : List (Nat × Nat)) : List Byte := (logOrder places).flatMap (fun p => s.recordAt p.1 p.2)

/-! ## Commands -/

/-- PHASE_SAMPLE (R179, R295): every 1 ms; during a replay the phase of the next kind-4 record is reported. -/
def execPhaseSample (logFull : Bool) (s : State) : Host.Outcome State Fault Refusal :=
  if s.log.replay.isSome then .next (s.replayTake 4 (fun _ => true)).1
  else if s.timeNs < s.log.nextSample then .next s
  else
    let s := { s with log := { s.log with nextSample := s.timeNs / 1000000 * 1000000 + 1000000 } }
    .next (s.logRecord 4 0 s.timeNs (natLe 8 s.thyVel ++ natLe 4 s.thySel ++ natLe 4 s.thyLock) logFull)

/-- LOG_SEGMENT_COPY (R182): the segment that the log reuses next is copied to the next extent of the NAND area; records
that waited for its place are then written. -/
def execLogSegmentCopy (s : State) : Host.Outcome State Fault Refusal :=
  let g := s.log
  if g.regions.length ≤ g.seg + 1 ∧ s.logNand ∧ g.copied < g.seg + 2 - g.regions.length then
    let v := g.seg + 1 - g.regions.length
    let (s, b) := s.memRead hubDmaId (g.regions.getD (v % g.regions.length) 0) segBytes
    let e := g.copies % g.nandExtents
    let s := match b with
      | some b => s.nandWrite ((g.nandFirst + e * 512) * 4096) b
      | none => s
    let s := { s with log := { s.log with copied := v + 1, copies := g.copies + 1, extents := tabSet 0 g.extents e (v + 1) } }
    .next ((s.logFlush s.log.staged.length).logBounds)
  else .next s

/-- LOG_GAP_RECORD (R183): the staging buffers have drained.
Log entry 78 (DEDUCED). -/
def execLogGapRecord (s : State) : Host.Outcome State Fault Refusal :=
  if !s.log.dropping then .next s
  else
    let p := natLe 8 s.log.lostRecs ++ natLe 8 s.log.lostBytes
    let s := { s with log := { s.log with dropping := false, lostRecs := 0, lostBytes := 0 } }
    .next (s.logRecord 6 0 s.timeNs p false)

/-- REPLAY_START (R184). -/
def execReplayStart (ini : Nat) (pipeline : Fin 8) (first last : Nat) (segs : List Nat) (s : State) :
    Host.Outcome State Fault Refusal :=
  .next (s.guarded (isMgmt ini) ini (hubA 0x404) (s.replayStart pipeline first last segs))

end Sys2Proof.Machine
end

