-- ==== Sys2Proof/Machine/Jobs.lean ====
section
/-!
DEFINITION. Work distribution (R166–R178): job windows, checks, tiles, claims, the end of a job.
-/
namespace Sys2Proof.Machine

/-! ## The job record (R166) -/

/-- A field of a job's record. -/
def Job.f (j : Job) (off n : Nat) : Nat := fieldLe j.data off n
/-- BAL_EN. -/
def Job.bal (j : Job) : Bool := bit (j.f 4 4) 0
/-- TILE_COUNT. -/
def Job.tiles (j : Job) : Nat := j.f 8 3
/-- Clusters of the set, as bit numbers. -/
def Job.clus (j : Job) : List Nat := cluList (j.f 0x1C 4)
/-- Logical slots of SLOT_MASK. -/
def Job.slots (j : Job) : List Nat := (List.range 8).filter (bit (j.f 0xD 1))
/-- Fold slots of FOLD_MASK. -/
def foldSlots (mask : Nat) : List Nat := (List.range 32).filter (bit mask)

/-- Jobs that hold a context at a cluster's distributor. -/
def State.jobsAt (s : State) (k : Nat) : List Job := s.job.jobs.filter (fun j => j.clus.contains k)

/-- CL_WD_STATUS.FREE as it reads. -/
def State.jobFree (s : State) (k : Nat) : Nat := 16 - (s.jobsAt k).length

/-- Set a job. -/
def State.setJob (s : State) (j : Job) : State :=
  { s with job := { s.job with jobs := s.job.jobs.map (fun e => if e.num = j.num then j else e) } }

/-! ## Submission (R167) -/

/-- CL_WD_REJECT: CODE holds the first since clear. -/
def State.jobReject (s : State) (k code : Nat) : State :=
  let a := clA (k / 8) (k % 8) 0x304
  if s.rbit a 31 then s else s.setReg a (2 ^ 31 + code)

/-- The codes of the checks that a record breaks at home cluster `k`, in the order of R167; the writer's right comes first.
Log entry 74 (DEDUCED). -/
def State.jobErrs (s : State) (k win : Nat) (r : List Byte) : List Nat :=
  let t := (s.cluOwner (k / 8) (k % 8)).getD 16
  let f := fun off n => fieldLe r off n
  let cl := f 0x1C 4
  let n := f 8 3
  let bal := bit (f 4 4) 0
  let im := s.images.find? (fun i => i.handle == f 0 2 && i.tenant == t)
  let ins := fun a b => s.inPartition t a b
  (if win < 2 ∨ cl = 2 ^ k then [] else [8]) ++
  (match im with | some i => if f 2 2 < i.entryCount then [] else [2] | none => [2]) ++
  (if cl = 0 ∨ !(cluList cl).all (bit (s.tenant t).clusters) then [3] else []) ++
  (if (cluList cl).head? = some k then [] else [4]) ++
  (if (List.range n).all (fun i => ins (f 0x10 6 + i * f 0x18 4) 256) &&
      (!bit (f 4 4) 1 || (List.range n).all (fun i => ins (f 0x28 6 + 32 * i) 32)) &&
      ins (f 0x30 6) (16 + 8 * popCount (f 0x38 4) 32) then [] else [6]) ++
  (if bit (f 0x20 4) 31 && !s.objOwned t (f 0x20 4 % 0x40000) then [7] else []) ++
  (if f 4 4 / 4 ≠ 0 ∨ f 0xB 1 ≠ 0 ∨ n = 0 ∨ f 0xD 1 = 0 ∨ (bal ∧ (f 0xC 1 = 0 ∨ 64 < f 0xC 1)) ∨ (!bal ∧ f 0xC 1 ≠ 0) ∨
      f 0xE 2 ≠ 0 ∨ f 0x16 2 ≠ 0 ∨ f 0x18 4 % 32 ≠ 0 ∨ bits (f 0x20 4) 30 18 ≠ 0 ∨ f 0x2E 2 ≠ 0 ∨ f 0x36 2 ≠ 0 ∨
      f 0x30 6 % 32 ≠ 0 ∨ f 0x3C 4 ≠ 0 then [5] else []) ++
  (if (cluList cl).any (fun q => s.jobFree q == 0) then [1] else [])

/-- Acceptance (R168, R178): the job takes a context at every distributor of its set, and the accumulators of FOLD_MASK are
cleared on every physical slot of its clusters. Windows of one distributor whose last words are written in one cycle submit in
successive cycles, in the order of the windows (R167).
Log entry 206 (DEDUCED). -/
def State.jobAccept (s : State) (k win : Nat) (r : List Byte) : State :=
  let same := fun (e : Job) => e.home == k && e.submitted == s.cycle
  let j : Job := { num := s.job.nextNum, stamp := s.cycle + (s.job.jobs.filter (fun e => same e && decide (e.window ≤ win))).length
                   home := k, window := win, tenant := (s.cluOwner (k / 8) (k % 8)).getD 16, data := r, submitted := s.cycle }
  let jobs := s.job.jobs.map (fun e => if same e && decide (win < e.window) then { e with stamp := e.stamp + 1 } else e)
  let s := { s with job := { s.job with jobs := jobs ++ [j], nextNum := s.job.nextNum + 1 } }
  j.clus.foldl (fun s q => (List.range 9).foldl (fun s sl =>
    (foldSlots (j.f 0x38 4)).foldl (fun s f => s.setReg64 (tcA (q / 8) (q % 8) sl (0x600 + 8 * f)) 0) s) s) s

/-- Submit a record at its home distributor: accepted, or rejected with the first code.
Log entry 75 (DEDUCED). -/
def State.jobSubmit (s : State) (k win : Nat) (r : List Byte) : State :=
  match s.jobErrs k win r with
  | [] => s.jobAccept k win r
  | code :: _ => s.jobReject k code

/-! ## The job windows -/

/-- Offset of a window in the CL_ page. -/
def winOff (win : Nat) : Nat := 0x200 + 0x40 * win

/-- The bytes a window holds. -/
def State.winBytes (s : State) (k win : Nat) : List Byte := natLe 64 (s.regWords (clA (k / 8) (k % 8) (winOff win)) 16)

/-- Whether an initiator may write a window. -/
def winWriter (k win ini : Nat) : Bool :=
  match win with
  | 0 => isMgmt ini
  | 1 => ini == hubId 7 || ini == hubId 11
  | _ => ini == acId (k / 8) (k % 8) (win - 2)

/-- The claim on CL_JOB_MGMT of a cluster. -/
def State.claim (s : State) (k : Nat) : Option (Nat × Nat) := tabGet none s.job.claims k

/-- Set a claim. -/
def State.setClaim (s : State) (k : Nat) (x : Option (Nat × Nat)) : State :=
  { s with job := { s.job with claims := tabSet none s.job.claims k x } }

/-- Cycles of 100 µs.
Log entry 73 (DEDUCED). -/
def claimCycles : Nat := 110000

/-- A claim that has stood for 100 µs lapses: its partial record is discarded, code 10.
Log entry 73 (DEDUCED). -/
def State.claimLapse (s : State) (k : Nat) : State :=
  match s.claim k with
  | some (_, c) =>
    if c + claimCycles ≤ s.cycle then
      (((s.setClaim k none).setRegWords (clA (k / 8) (k % 8) (winOff 0)) 16 0).jobReject k 10)
    else s
  | none => s

/-- A write of word `w` of a job window of cluster `k`: claim, right, and submission at the last word. -/
def State.jobWindowWrite (s : State) (ini k win w v : Nat) : State :=
  let a := clA (k / 8) (k % 8) (winOff win + 4 * w)
  let s := s.claimLapse k
  let other := match s.claim k with | some (i, _) => win == 0 && i != ini | none => false
  if s.consentBar ini a then s.answer .err
  else if other then (s.jobReject k 9).answer .err
  else if !winWriter k win ini then s.accessError 0x08 6 ini a
  else
    let s := if win = 0 ∧ s.claim k = none then s.setClaim k (some (ini, s.cycle)) else s
    let s := s.setReg a v
    let s := s.answer (.ok 0)
    if w ≠ 15 then s
    else
      let s := if win = 0 then s.setClaim k none else s
      s.jobSubmit k win (s.winBytes k win)

/-- JOB_SUBMIT (R167). -/
def execJobSubmit (ini : Nat) (d : Fin 4) (c : Fin 8) (win : Fin 4) (value : Word) (s : State) :
    Host.Outcome State Fault Refusal :=
  .next (s.jobWindowWrite ini (8 * d + c) win 15 value.toNat)

/-- JOB_WINDOW_CLAIM_LAPSE (R167). -/
def execJobWindowClaimLapse (d : Fin 4) (c : Fin 8) (s : State) : Host.Outcome State Fault Refusal :=
  .next (s.claimLapse (8 * d + c))

/-! ## Tiles (R168–R170) -/

/-- Position of an element in a list. -/
def posIn (l : List Nat) (x : Nat) : Nat := (l.takeWhile (· != x)).length

/-- The next tile of the static rule for a cluster and logical slot (R169). -/
def Job.staticTile (j : Job) (k l : Nat) : Option Nat :=
  let cn := j.clus.length
  let t := posIn j.clus k + cn * (posIn j.slots l + j.slots.length * tabGet 0 j.snext (8 * k + l))
  if t < j.tiles then some t else none

/-- Whether a job still has tiles for a slot of a cluster. -/
def Job.hasTiles (j : Job) (k l : Nat) : Bool :=
  !j.failed && j.clus.contains k && j.slots.contains l &&
  (if j.bal then decide (j.next < j.tiles) || j.claimed.any (·.1 == k) else (j.staticTile k l).isSome)

/-- The oldest of jobs: the lower stamp, then the lower home cluster (R168).
Log entry 74 (DEDUCED). -/
def oldestJob : List Job → Option Job
  | [] => none
  | j :: t =>
    match oldestJob t with
    | none => some j
    | some m => if m.stamp < j.stamp ∨ (m.stamp = j.stamp ∧ m.home < j.home) then some m else some j

/-- Records queued on the slot that serves a logical slot; none where it is not in service. -/
def State.queued (s : State) (k l : Nat) : Option Nat :=
  let x : Core3 := ⟨k / 8, k % 8, s.physSlot (k / 8) (k % 8) l⟩
  if s.serving x then some (s.tileGet x).queue.length else none

/-- The slot of SLOT_MASK with the fewest records queued, the lowest first, if it has fewer than 2 (R170). -/
def State.balSlot (s : State) (j : Job) (k : Nat) : Option Nat :=
  (j.slots.foldl (fun (b : Option (Nat × Nat)) l =>
    match s.queued k l with
    | none => b
    | some q =>
      match b with
      | none => if q < 2 then some (l, q) else none
      | some (_, m) => if q < m then some (l, q) else b) none).map (·.1)

/-- The launch record of tile `t` (R166). -/
def Job.launch (j : Job) (t : Nat) : LaunchRec :=
  let st := if bit (j.f 4 4) 1 then 1 else 0
  { data := natLe 2 (j.f 0 2) ++ natLe 2 (j.f 2 2) ++ natLe 4 st ++ natLe 8 ((j.f 0x10 6 + t * j.f 0x18 4) % 2 ^ 48) ++ natLe 4 t ++
      natLe 4 0 ++ natLe 8 ((j.f 0x28 6 + 32 * t) % 2 ^ 48)
    source := 1, job := j.num, tile := t }

/-- Push a tile of a job to a logical slot. -/
def State.pushTile (s : State) (j : Job) (k l t : Nat) : State :=
  (s.setJob { j with pushed := j.pushed + 1 }).launchPush ⟨k / 8, k % 8, s.physSlot (k / 8) (k % 8) l⟩ (j.launch t)

/-- Whether a job may take tiles: while the microcode switches, jobs accepted since are held (R377). -/
def State.jobRuns (s : State) (j : Job) : Bool := match s.upd.hold with | some n => decide (j.num < n) | none => true

/-- The distributor of a cluster offers a slot with room a tile of the oldest job that still has tiles for it. -/
def State.tilePush (s : State) (k l : Nat) : State :=
  match oldestJob (s.job.jobs.filter (fun j => s.jobRuns j && j.hasTiles k l)) with
  | none => s
  | some j =>
    if j.bal then
      match j.claimed.find? (·.1 == k) with
      | none => s
      | some e =>
        if s.balSlot j k = some l then s.pushTile { j with claimed := j.claimed.erase e } k l e.2 else s
    else
      match j.staticTile k l, s.queued k l with
      | some t, some q =>
        if q < 16 then s.pushTile { j with snext := tabMod 0 j.snext (8 * k + l) (· + 1) } k l t else s
      | _, _ => s

/-- TILE_PUSH (R168–R170).
Log entry 76 (DESIGN CHOICE). -/
def execTilePush (d : Fin 4) (c : Fin 8) (l : Fin 8) (s : State) : Host.Outcome State Fault Refusal :=
  .next (s.tilePush (8 * d + c) l)

/-- TILE_CLAIM (R170): the oldest balanced job with unclaimed tiles for which this distributor has room and holds no claimed
tile.
Log entry 76 (DESIGN CHOICE). -/
def execTileClaim (d : Fin 4) (c : Fin 8) (s : State) : Host.Outcome State Fault Refusal :=
  let k := 8 * d.val + c.val
  match oldestJob (s.job.jobs.filter (fun j =>
      s.jobRuns j && j.bal && !j.failed && j.clus.contains k && decide (j.next < j.tiles) && !j.claimed.any (·.1 == k) && (s.balSlot j k).isSome)) with
  | none => .next s
  | some j =>
    let hi := min j.tiles (j.next + j.f 0xC 1)
    .next (s.setJob { j with next := hi, claimed := j.claimed ++ (List.range (hi - j.next)).map (fun i => (k, j.next + i)) })

/-! ## The end of a job (R171, R176, R178) -/

/-- Whether every pushed tile of a job has ended and none is left to push. -/
def Job.over (j : Job) : Bool := j.pushed == j.ended && (j.failed || j.pushed == j.tiles)

/-- The fold digest of slot `f`: the sum over all physical slots of the job's clusters. -/
def State.foldDigest (s : State) (j : Job) (f : Nat) : Nat :=
  j.clus.foldl (fun m q => (List.range 9).foldl (fun m sl => (m + s.reg64 (tcA (q / 8) (q % 8) sl (0x600 + 8 * f))) % 2 ^ 64) m) 0

/-- The fold digests of FOLD_MASK. -/
def State.foldDigests (s : State) (j : Job) : List Nat := (foldSlots (j.f 0x38 4)).map (s.foldDigest j)

/-- The job result record (R171).
Log entry 75 (DEDUCED). -/
def State.jobResult (s : State) (j : Job) : List Byte :=
  let (tile, word) := j.firstErr.getD (0xFFFFFFFF, 0)
  natLe 4 word ++ natLe 4 j.ok ++ natLe 4 tile ++ natLe 4 (j.f 0x24 4) ++ (s.foldDigests j).flatMap (natLe 8)

/-- The configuration record of a job (R175): the versions of the installed microcode and boot firmware. -/
def State.jobConfig (s : State) (im : Image) (entry tiles : Nat) : List Byte :=
  let ac := if im.sections.any (·.typ == 9) then s.reg (updA 0x114) else 0
  configRecord (s.reg (updA 0x110)) ac (im.shape % 2 ^ 16) im.slots entry tiles

/-- The provenance record of work that ran an image (R174). -/
def State.provenance (s : State) (im : Image) (inputs : List Byte) (entry tiles : Nat) : List Byte :=
  provRecord im.digest im.weightDigest inputs (sha3_256 (s.jobConfig im entry tiles))

end Sys2Proof.Machine
end

