-- ==== Sys2Proof/Machine/Fp1.lean ====
section
/-!
DEFINITION. The process port FP1 (R296–R303, R453): flows, decisions, forcing, the gate control list, transmission, reception.
-/
namespace Sys2Proof.Machine

/-- Initiator ID of FP1 (R11).
Log entry 24 (DESIGN CHOICE). -/
def fp1Id : Nat := mkId 7 6 0 0

/-! ## Descriptors (R297) -/

/-- Address of byte `off` of a flow's descriptor. -/
def flowA (f off : Nat) : Nat := fptA (0x2000 + 0x40 * f + off)
/-- The 64 bytes of a flow's descriptor. -/
def State.flowDesc (s : State) (f : Nat) : List Byte := natLe 64 (s.regWords (flowA f 0) 16)
/-- A field of a flow's descriptor. -/
def State.flowF (s : State) (f off n : Nat) : Nat := fieldLe (s.flowDesc f) off n
/-- EN. -/
def State.flowEn (s : State) (f : Nat) : Bool := bit (s.flowF f 1 1) 0
/-- PHASE_BOUND. -/
def State.flowBound (s : State) (f : Nat) : Bool := bit (s.flowF f 1 1) 1
/-- TENANT. -/
def State.flowTenant (s : State) (f : Nat) : Nat := s.flowF f 0 1 % 16
/-- FLOW_CTRL and the words after it. -/
def flowCtl (f off : Nat) : Nat := fptA (0x3000 + 0x10 * f + off)
/-- FORCED. -/
def State.flowForced (s : State) (f : Nat) : Bool := s.rbit (flowCtl f 4) 31
/-- REASON. -/
def State.flowReason (s : State) (f : Nat) : Nat := s.fld (flowCtl f 4) 30 28
/-- The rest of a flow's state. -/
def State.flow (s : State) (f : Nat) : Flow := tabGet {} s.fp1.flows f
/-- Set the rest of a flow's state. -/
def State.setFlow (s : State) (f : Nat) (x : Flow) : State := { s with fp1 := { s.fp1 with flows := tabSet {} s.fp1.flows f x } }
/-- SAFE_TC. -/
def State.safeTc (s : State) : Nat := s.fld (fptA 0x1000) 6 4
/-- Whether FP1 sends nothing for a flow: a replay runs its tenant's pipeline (R302). -/
def State.flowReplay (s : State) (f : Nat) : Bool := s.log.replay.isSome && s.flowTenant f == 0

/-! ## Gate control (R296) -/

/-- The list's intervals over one cycle as (start, end, gates): the last lasts to the end of the cycle. -/
def gclSpans (cycle : Nat) : List (Nat × Nat) → Nat → List (Nat × Nat × Nat)
  | [], _ => []
  | [(g, _)], a => if a < cycle then [(a, cycle, g)] else []
  | (g, i) :: t, a => if a < cycle then (a, min cycle (a + i), g) :: gclSpans cycle t (a + i) else []

/-- How far a gate stays open from `e` on. -/
def gateRun (c : Nat) : List (Nat × Nat × Nat) → Nat → Nat
  | [], e => e
  | (a, b, g) :: t, e =>
    if b ≤ e then gateRun c t e
    else if a ≤ e ∧ bit g c then gateRun c t b
    else e

/-- The gate of class `c` at module time `t`: closed, or open until a time (none: always). Without a list every gate is
open.
Log entry 115 (DEDUCED). -/
def State.gate (s : State) (c t : Nat) : Option (Option Nat) :=
  match s.fp1.gcl with
  | none => some none
  | some (base, cycle, l) =>
    let cycle := max 1 cycle
    let pos := (t - base) % cycle
    let sp := gclSpans cycle l 0
    let e := gateRun c (sp ++ sp.map (fun x => (x.1 + cycle, x.2.1 + cycle, x.2.2))) pos
    if e = pos then none else if pos + cycle ≤ e then some none else some (some (t + (e - pos)))

/-! ## Frames (R299) -/

/-- Read a safe frame's payload. -/
def State.safeBytes (s : State) (f : Nat) : List Byte := s.unitBytes fp1Id (s.flowF f 0x28 6) (s.flowF f 0xE 2)

/-- What the read of a safe payload leaves. -/
def State.safeRead (s : State) (f : Nat) : State := s.unitRead fp1Id (s.flowF f 0x28 6) (s.flowF f 0xE 2)

/-- Whether LOCK is 0 or 2. -/
def State.phaseGood (s : State) : Bool := s.thyLock == 0 || s.thyLock == 2

/-- A safe frame of a flow. -/
def State.safeFrame (s : State) (f k reason cyc cnt tc : Nat) : Fp1Frame :=
  { flow := f, k := k, result := false, reason := reason, cyc := cyc, cnt := cnt, decided := s.timeNs, locked := s.phaseGood
    payload := s.safeBytes f, prov := [], tc := tc }

/-- The safe frame that replaces a frame on forcing. -/
def State.safeInstead (s : State) (fr : Fp1Frame) (reason : Nat) : Fp1Frame :=
  { fr with result := false, reason := reason, payload := s.safeBytes fr.flow, prov := [] }

/-- Queue a frame in its class; the end of the gate window open now is kept for LATE_TX (R298). -/
def State.fp1Queue (s : State) (fr : Fp1Frame) : State :=
  let w := match s.gate fr.tc s.timeNs with | some (some e) => some e | _ => none
  let s := s.setFlow fr.flow { s.flow fr.flow with lastFrame := s.timeNs }
  { s with fp1 := { s.fp1 with queue := s.fp1.queue ++ [{ fr with windowEnd := w }] } }

/-- Big-endian bytes. -/
def natBe (n v : Nat) : List Byte := (natLe n v).reverse

/-- The bytes of a frame on the wire without preamble, with its FCS (R299).
Log entry 116 (DEDUCED). -/
def State.fp1Bytes (s : State) (fr : Fp1Frame) (seq : Nat) : List Byte :=
  let f := fr.flow
  let vlan := s.flowF f 4 2
  let tag := if bit vlan 15 then natBe 2 0x8100 ++ natBe 2 (s.flowF f 3 1 % 8 * 2 ^ 13 + vlan % 4096) else []
  let eth := slice (s.flowDesc f) 6 6 ++ natBe 6 (Config.portMac 1 % 2 ^ 48) ++ tag ++ natBe 2 (s.fld (fptA 0x1008) 15 0)
  let flags := (if fr.result then 1 else 2) + (if fr.locked then 4 else 0) + (if fr.prov.isEmpty then 0 else 8)
  let h := natLe 1 1 ++ natLe 1 flags ++ natLe 1 f ++ natLe 1 fr.reason ++ natLe 2 (s.ring.node * 4096) ++
    natLe 2 fr.payload.length ++ natLe 8 seq ++ natLe 8 fr.k ++ natLe 4 fr.cyc ++ natLe 4 fr.cnt ++ natLe 8 fr.decided ++
    natLe 4 (crc32c (fr.payload ++ fr.prov))
  let b := eth ++ h ++ natLe 4 (crc32c h) ++ fr.payload ++ fr.prov
  let b := b ++ zeros (60 - b.length)
  b ++ natLe 4 (crc32e b)

/-- Nanoseconds a frame takes on the line at 25 Gb/s, with preamble and gap.
Log entry 115 (DEDUCED). -/
def lineNs (bytes : Nat) : Nat := ceilDiv ((bytes + 20) * 8) 25

/-! ## Decisions (R297, R298) -/

/-- Decide the next frame of a flow at a match point: a result frame when the flow is not forced and READY_OBJ has reached k,
else a safe frame. An accepted UNFORCE takes effect at a DEADLINE firing (`dl`).
Log entry 116 (DEDUCED). -/
def State.flowDecide (s : State) (f cyc cnt : Nat) (dl : Bool) : State × Fp1Frame :=
  let x := s.flow f
  let s := if x.unforce && dl then (s.setFld (flowCtl f 4) 31 28 0) else s
  let k := x.k
  let forced := s.flowForced f && !s.flowReplay f
  let ready := decide (k ≤ s.obj (s.flowF f 0x1C 4 % 0x40000))
  let (s, fr) :=
    if !forced && ready then
      let a := s.flowF f 0x10 6 + (k - 1) % 2 * s.flowF f 0x18 4
      let n := s.flowF f 0xC 2
      let pv := bit (s.flowF f 1 1) 2
      let total := if pv then ceilDiv n 32 * 32 + 160 else n
      let (s, b) := s.memRead fp1Id a total
      let (s, b) := match b with | some b => (s, b) | none => s.freeBytes total
      (s, ({ flow := f, k := k, result := true, reason := 0, cyc := cyc, cnt := cnt, decided := s.timeNs, locked := s.phaseGood
             payload := slice b 0 n, prov := if pv then slice b (ceilDiv n 32 * 32) 160 else []
             tc := s.flowF f 2 1 % 8 } : Fp1Frame))
    else
      let s := if forced then s else s.bump (fptA 0x104C)
      (s.safeRead f, s.safeFrame f k (if forced then s.flowReason f else 1) cyc cnt (s.flowF f 2 1 % 8))
  let s := s.setFlow f { s.flow f with k := k + 1, unforce := x.unforce && !dl, safeSeen := (s.flow f).safeSeen || !fr.result }
  (s.signalWord (s.flowF f 0x20 4) fp1Id, fr)

/-- A DEADLINE firing of a flow: its decision; an earlier one that awaits its release is replaced and counted. The flag says
that the decision is a safe frame. -/
def State.flowDeadline (s : State) (f cyc cnt : Nat) : State × Bool :=
  if !s.flowEn f then (s, false)
  else
    let s := if (s.flow f).decided.isSome then s.bump (fptA 0x1050) else s
    let (s, fr) := s.flowDecide f cyc cnt true
    (s.setFlow f { s.flow f with decided := some fr }, !fr.result)

/-- A RELEASE firing of a flow: the decided frame is queued, decided first if it was not. -/
def State.flowRelease (s : State) (f cyc cnt : Nat) : State × Bool :=
  if !s.flowEn f then (s, false)
  else
    let (s, fr) := match (s.flow f).decided with
      | some fr => (s, fr)
      | none => s.flowDecide f cyc cnt false
    let s := s.setFlow f { s.flow f with decided := none }
    (if s.flowReplay f then s else s.fp1Queue fr, !fr.result)

/-! ## Forcing (R300, R302) -/

/-- Force a flow: FORCED and the REASON, unstarted frames replaced by safe frames, one immediate safe frame. A trigger on a
forced flow changes nothing but an accepted UNFORCE, which it cancels.
Log entry 117 (DEDUCED). -/
def State.flowForce (s : State) (f reason : Nat) : State :=
  let x := s.flow f
  if s.flowForced f && !x.unforce then s
  else
    let s := s.setFld (flowCtl f 4) 31 28 (8 + reason)
    let s := s.setFlow f { x with
      unforce := false, decided := x.decided.map (fun fr => s.safeInstead fr reason)
      safeSeen := x.safeSeen || x.decided.isSome || s.fp1.queue.any (·.flow == f) }
    let s := { s with fp1 := { s.fp1 with
      queue := s.fp1.queue.map (fun fr => if fr.flow = f then s.safeInstead fr reason else fr) } }
    if s.flowEn f && !s.flowReplay f then
      let (cyc, cnt, _) := s.thyPhase
      (s.safeRead f).fp1Queue (s.safeFrame f 0 reason cyc cnt s.safeTc)
    else s

/-- Force the flows that a test selects. -/
def State.forceFlows (s : State) (p : Nat → Bool) (reason : Nat) : State :=
  ((List.range 64).filter p).foldl (fun s f => s.flowForce f reason) s

/-- UNFORCE: refused while a phase-bound flow's phase is not good or class F is still degraded for a flow it forced. -/
def State.flowUnforce (s : State) (f : Nat) : State :=
  if (s.flowBound f && !s.phaseGood) || (s.flowReason f == 3 && s.degraded 2) then s.setRbit (flowCtl f 4) 27 true
  else if s.flowForced f then s.setFlow f { s.flow f with unforce := true }
  else s

/-- SAFE_PERIOD_EXPIRY (R300).
Log entry 117 (DEDUCED). -/
def execSafePeriodExpiry (f : Fin 64) (s : State) : Host.Outcome State Fault Refusal :=
  let p := s.flowF f 0x24 4
  if s.flowEn f ∧ s.flowForced f ∧ !s.flowReplay f ∧ p ≠ 0 ∧ (s.flow f).lastFrame + p * 1000 ≤ s.timeNs then
    let (cyc, cnt, _) := s.thyPhase
    .next ((s.safeRead f).fp1Queue (s.safeFrame f 0 (s.flowReason f) cyc cnt s.safeTc))
  else .next s

/-- FLOW_FORCE (R300). -/
def execFlowForce (ini : Nat) (f : Fin 64) (s : State) : Host.Outcome State Fault Refusal :=
  .next (s.guarded (isMgmt ini) ini (flowCtl f 0) (s.flowForce f 4))

/-- FLOW_UNFORCE (R302). -/
def execFlowUnforce (ini : Nat) (f : Fin 64) (s : State) : Host.Outcome State Fault Refusal :=
  .next (s.guarded (isMgmt ini) ini (flowCtl f 0) (s.flowUnforce f))

/-- A write of a word of a flow's descriptor (R453). -/
def State.flowDescWrite (s : State) (f w v : Nat) : State :=
  if s.flowEn f then
    if w = 0 ∧ !bit v 8 then
      let s := s.setRbit (flowA f 0) 8 false
      let s := s.setFlow f { s.flow f with decided := none }
      { s with fp1 := { s.fp1 with queue := s.fp1.queue.filter (fun fr => fr.flow != f) } }
    else s
  else
    let s := s.setReg (flowA f (4 * w)) v
    if w = 0 ∧ bit v 8 then s.setFlow f { s.flow f with k := 1, decided := none, lastFrame := s.timeNs } else s

/-- FLOW_DESC_WRITE (R453). -/
def execFlowDescWrite (ini : Nat) (f : Fin 64) (w : Fin 16) (value : Word) (s : State) : Host.Outcome State Fault Refusal :=
  .next (s.guarded (isMgmt ini) ini (flowA f (4 * w)) (s.flowDescWrite f w value.toNat))

/-! ## Transmission (R296, R298, R301) -/

/-- The first frame of the highest traffic class whose head may start: its gate is open and stays open until it ends.
Log entry 115 (DEDUCED). -/
def State.fp1Next (s : State) : Option Fp1Frame :=
  ((List.range 8).reverse.filterMap (fun c =>
    match s.fp1.queue.find? (fun fr => fr.tc == c) with
    | none => none
    | some fr =>
      let e := s.timeNs + lineNs (s.fp1Bytes fr 0).length
      match s.gate c s.timeNs with
      | some none => some fr
      | some (some close) => if e ≤ close then some fr else none
      | none => none)).head?

/-- FRAME_TX_START (R298, R299). -/
def execFrameTxStart (s : State) : Host.Outcome State Fault Refusal :=
  if s.fp1.sending.isSome ∨ !s.rbit (fptA 0x1000) 0 ∨ !s.rbit (fptA 0x1004) 0 then .next s
  else
    match s.fp1Next with
    | none => .next s
    | some fr =>
      let seq := s.reg64 (flowCtl fr.flow 8)
      let b := s.fp1Bytes fr seq
      let s := s.setReg64 (flowCtl fr.flow 8) ((seq + 1) % 2 ^ 64)
      let s := s.bump (fptA (if fr.result then 0x1040 else 0x1044))
      let s := match fr.windowEnd with | some e => if e < s.timeNs then s.bump (fptA 0x1048) else s | none => s
      let s := s.setFlow fr.flow { s.flow fr.flow with lastFrame := s.timeNs }
      .next ({ s with fp1 := { s.fp1 with queue := s.fp1.queue.erase fr, sending := some (fr, s.timeNs + lineNs b.length) } }.send
        (.fp1 b))

/-- FRAME_TX_END (R301). -/
def execFrameTxEnd (s : State) : Host.Outcome State Fault Refusal :=
  match s.fp1.sending with
  | some (_, e) => if e ≤ s.timeNs then .next { s with fp1 := { s.fp1 with sending := none } } else .next s
  | none => .next s

/-- A write of GCL_CTRL with CHANGE: the list as the registers hold it awaits BASE (R296). -/
def State.gclChange (s : State) : State :=
  let n := clampNat 1 64 (s.fld (fptA 0x1030) 6 0)
  let l := (List.range n).map (fun i => (s.fld (fptA (0x1104 + 8 * i)) 7 0, s.reg (fptA (0x1100 + 8 * i))))
  { s with fp1 := { s.fp1 with newGcl := some (s.reg64 (fptA 0x1028), clampNat 1000 1000000000 (s.reg (fptA 0x1020)), l) } }

/-- GCL_CHANGE (R296): `value` is the word written to GCL_CTRL with CHANGE set. -/
def execGclChange (ini : Nat) (value : Word) (s : State) : Host.Outcome State Fault Refusal :=
  .next (s.guarded (isMgmt ini) ini (fptA 0x1030)
    ((s.setFld (fptA 0x1030) 6 0 (clampNat 1 64 (bits value.toNat 6 0))).gclChange))

/-- GCL_BASE_TIME (R296). -/
def execGclBaseTime (s : State) : Host.Outcome State Fault Refusal :=
  match s.fp1.newGcl with
  | none => .next s
  | some (base, cyc, l) =>
    if base ≤ s.timeNs then
      .next ({ s with fp1 := { s.fp1 with gcl := some (base, cyc, l), newGcl := none } }.setRbit (fptA 0x1030) 30 true)
    else .next s

/-! ## Reception (R303) -/

/-- EtherType and VLAN ID of a frame from its destination address on; 0 for a frame without a tag. -/
def etherOf (b : List Byte) : Nat × Nat :=
  let be := fun o => fieldLe b o 1 * 256 + fieldLe b (o + 1) 1
  if be 12 = 0x8100 then (be 16, be 14 % 4096) else (be 12, 0)

/-- Whether receive filter `r` matches a frame.
Log entry 118 (DEDUCED). -/
def State.filterHit (s : State) (b : List Byte) (r : Nat) : Bool :=
  let w := s.reg (fptA (0x1400 + 0x10 * r))
  let (et, vid) := etherOf b
  bit w 31 && et == bits w 15 0 && (bits w 27 16 == 0xFFF || bits w 27 16 == vid)

/-- Put a record into the ring of filter `r` and signal its object (R303). -/
def State.filterPut (s : State) (r : Nat) (rec_ : List Byte) : State :=
  let a := s.regWords (fptA (0x1404 + 0x10 * r)) 2
  let n := tabGet 0 s.fp1.rings r
  let s := { s with fp1 := { s.fp1 with rings := tabSet 0 s.fp1.rings r (n + 1) } }
  let slots := a / 2 ^ 48
  let s := if slots = 0 then s else (s.memWrite fp1Id (a % 2 ^ 48 + n % slots * 9248) rec_).1
  s.signal (s.reg (fptA (0x140C + 0x10 * r)) % 0x40000) 1 fp1Id

/-- Deliver a frame through filter `r`: the record into its ring, the signal, the log (R179, R303).
Log entry 118 (DEDUCED). -/
def State.fp1Deliver (s : State) (b : List Byte) (full : Bool) (r : Nat) : State :=
  let (s, seq) := s.logSeq 2 r
  let (cyc, cnt, _) := s.thyPhase
  let rec_ := logRecordBytes 2 r s.timeNs cyc cnt seq b
  (s.filterPut r rec_).logData 2 r rec_ full

/-- FP1_RX_FRAME (R303): during a replay the record comes from the log as it was recorded (R184). -/
def execFp1RxFrame (frame : List Byte) (logFull : Bool) (s : State) : Host.Outcome State Fault Refusal :=
  if s.log.replay.isSome then
    match s.replayTake 2 (fun _ => true) with
    | (s, some (h, p)) => .next (s.filterPut (fieldLe h 2 2 % 16) (h ++ p ++ zeros ((32 - p.length % 32) % 32)))
    | (s, none) => .next s
  else if !s.rbit (fptA 0x1000) 0 ∨ !s.rbit (fptA 0x1004) 0 then .next s
  else
    let s := s.bump (fptA 0x1054)
    match (List.range 16).filter (s.filterHit frame) with
    | [] => .next (s.bump (fptA 0x1058))
    | rs => .next (rs.foldl (fun s r => s.fp1Deliver frame logFull r) s)

end Sys2Proof.Machine
end

