-- ==== Sys2Proof/Machine/Thyme.lean ====
section
/-!
DEFINITION. Thyme's events (R288–R295) and the commands of its phase sources (R281–R287, R304).
-/
namespace Sys2Proof.Machine

/-! ## Entries (R288) -/

/-- An event entry. -/
def State.evt (s : State) (i : Nat) : ThyEvent := tabGet {} s.thy.events i
/-- Set an event entry. -/
def State.setEvt (s : State) (i : Nat) (e : ThyEvent) : State := { s with thy := { s.thy with events := tabSet {} s.thy.events i e } }
/-- EN. -/
def ThyEvent.en (e : ThyEvent) : Bool := bit e.ctrl 31
/-- KIND. -/
def ThyEvent.kind (e : ThyEvent) : Nat := bits e.ctrl 30 27
/-- TENANT. -/
def ThyEvent.tenant (e : ThyEvent) : Nat := bits e.ctrl 26 23

/-- An entry from its 32 bytes; reserved bits of CTRL and OBJ read 0. -/
def ThyEvent.ofBytes (b : List Byte) : ThyEvent :=
  let c := fieldLe b 0 4
  let o := fieldLe b 0x10 4
  { ctrl := putBits c 22 16 0, matchCount := fieldLe b 4 4, matchCycle := fieldLe b 8 4, step := fieldLe b 0xC 4
    obj := putBits o 30 18 0, arg := fieldLe b 0x14 4, fired := fieldLe b 0x18 4, missed := fieldLe b 0x1C 4 }

/-- The 32 bytes of an entry. -/
def ThyEvent.toBytes (e : ThyEvent) : List Byte :=
  natLe 4 e.ctrl ++ natLe 4 e.matchCount ++ natLe 4 e.matchCycle ++ natLe 4 e.step ++ natLe 4 e.obj ++ natLe 4 e.arg ++
  natLe 4 e.fired ++ natLe 4 e.missed

/-- How far the phase stands past an entry's match point, in units of 2^-32 count; none while it stands before it (R289). -/
def ThyEvent.past (e : ThyEvent) (cpc : Nat) (ph : Nat × Nat × Nat) : Option Nat :=
  let (c, n, f) := ph
  let dc := (c + 2 ^ 32 - e.matchCycle) % 2 ^ 32
  let x : Int := (dc * cpc * 2 ^ 32 + n * 2 ^ 32 + f : Nat) - (e.matchCount * 2 ^ 32 + bits e.ctrl 15 0 * 2 ^ 16 : Nat)
  if 2 ^ 31 ≤ dc then none
  else if dc = 0 then (if 0 ≤ x then some x.toNat else none)
  else some x.toNat

/-- Whether an entry is to fire now: enabled, of a kind that fires, its match point reached.
Log entry 113 (DEDUCED). -/
def State.evtDue (s : State) (e : ThyEvent) : Bool := e.en && decide (e.kind < 6) && (e.past s.thyCpc s.thyPhase).isSome

/-- Place of a kind in the order of R292. -/
def kindRank (k : Nat) : Nat := if k = 2 then 0 else if k = 3 then 1 else 2

/-- The entry that fires next in the order of R292: DEADLINE entries, RELEASE entries, the others in ascending index.
Log entry 113 (DEDUCED). -/
def State.thyFirst (s : State) : Option Nat :=
  (s.thy.events.foldl (fun (b : Option (Nat × Nat)) e =>
    if !s.evtDue e.2 || (s.log.replay.isSome && e.2.tenant == 0) then b
    else
      let r := kindRank e.2.kind
      match b with
      | none => some (r, e.1)
      | some (q, _) => if r < q then some (r, e.1) else b) none).map (·.2)

/-- Whether an entry names only its owner's objects and flows (R292).
Log entry 114 (DEDUCED). -/
def State.evtOwn (s : State) (e : ThyEvent) : Bool :=
  (!bit e.obj 31 || s.objOwned e.tenant (e.obj % 0x40000)) &&
  (!(e.kind == 2 || e.kind == 3) || s.flowTenant (e.arg % 64) == e.tenant)

/-- The match point after a firing and the points skipped by a jump (R289, R290). -/
def ThyEvent.advance (e : ThyEvent) (cpc past : Nat) : ThyEvent × Nat :=
  if e.step = 0 then ({ e with ctrl := putBit e.ctrl 31 false, late := false }, 0)
  else
    let skip := past / (e.step * 2 ^ 32)
    let t := e.matchCycle * cpc + e.matchCount + (skip + 1) * e.step
    ({ e with matchCount := t % cpc, matchCycle := t / cpc % 2 ^ 32, late := false }, skip)

/-- The firing of an entry: its index, the entry as it stood, JUMP, the firing time (in a replay, as recorded). -/
structure Firing where
  i : Nat
  e : ThyEvent
  jump : Bool
  time : Nat
  deriving DecidableEq, Repr

/-- Take the firing of entry `i` of a kind, if it is the next to fire: its match point advances and its counters move. An entry
that names what its owner does not own fires nothing and counts in MISSED. During a replay the entries of tenant 0 fire
from the log's kind-3 records (R184).
Log entry 114 (DEDUCED). -/
def State.thyTake (s : State) (i kind : Nat) : State × Option Firing :=
  let e := s.evt i
  if !s.thyOn ∨ e.kind ≠ kind then (s, none)
  else if s.log.replay.isSome ∧ e.tenant = 0 then
    match s.replayTake 3 (· == i) with
    | (s, some (h, p)) =>
      (s.setEvt i { e with fired := satAdd 32 e.fired 1 }, some ⟨i, e, bit (fieldLe p 8 4) 4, fieldLe h 8 8⟩)
    | (s, none) => (s, none)
  else if s.thyFirst ≠ some i then (s, none)
  else
    let cpc := s.thyCpc
    let (e', skip) := e.advance cpc ((e.past cpc s.thyPhase).getD 0)
    let s := s.bumpBy (thyA 0x50) skip
    if s.evtOwn e then
      let jump := e.late || decide (0 < skip)
      let s := if jump then s.bump (thyA 0x4C) else s
      (s.setEvt i { e' with fired := satAdd 32 e.fired 1, missed := satAdd 32 e.missed skip }, some ⟨i, e, jump, s.timeNs⟩)
    else ((s.setEvt i { e' with missed := satAdd 32 e.missed (skip + 1) }).bump (thyA 0x50), none)

/-- The end of a firing: the OBJ signal, and the log record of tenant 0 (R288, R292, R295). -/
def State.thyFired (s : State) (x : Firing) (forced : Bool) : State :=
  let s := if bit x.e.obj 31 then
      { s with sync := { s.sync with inflight := s.sync.inflight ++ [⟨x.e.obj % 0x40000, 1, thyId, false, x.i⟩] } }
    else s
  if x.e.tenant ≠ 0 then s
  else
    let (_, cnt, frac) := s.thyPhase
    let w := x.e.kind + (if x.jump then 16 else 0) + (if forced then 32 else 0)
    s.logRecord 3 x.i s.timeNs (natLe 4 frac ++ natLe 4 cnt ++ natLe 4 w ++ natLe 4 x.e.arg) false

/-- EVENT_SIGNAL (R291). -/
def execEventSignal (i : Fin 4096) (s : State) : Host.Outcome State Fault Refusal :=
  match s.thyTake i 0 with
  | (s, none) => .next s
  | (s, some x) => .next (s.thyFired x false)

/-- EVENT_DEADLINE (R297). -/
def execEventDeadline (i : Fin 4096) (s : State) : Host.Outcome State Fault Refusal :=
  match s.thyTake i 2 with
  | (s, none) => .next s
  | (s, some x) =>
    let (s, safe) := s.flowDeadline (x.e.arg % 64) x.e.matchCycle x.e.matchCount
    .next (s.thyFired x safe)

/-- EVENT_RELEASE (R298). -/
def execEventRelease (i : Fin 4096) (s : State) : Host.Outcome State Fault Refusal :=
  match s.thyTake i 3 with
  | (s, none) => .next s
  | (s, some x) =>
    let (s, safe) := s.flowRelease (x.e.arg % 64) x.e.matchCycle x.e.matchCount
    .next (s.thyFired x safe)

/-! ## Management's window (R304) -/

/-- The DATA registers. -/
def evtData (n : Nat) : Nat := thyA (0x120 + 4 * n)

/-- A write of THY_EVT_INDEX loads the entry into DATA0–7. -/
def State.evtIndexWrite (s : State) (v : Nat) : State :=
  let i := bits v 11 0
  (s.setReg (thyA 0x100) i).setRegWords (evtData 0) 8 (leNat (s.evt i).toBytes)

/-- COMMIT writes DATA0–7 into the indexed entry; an entry enabled with its match point behind the phase jumps (R290).
Log entry 112 (DEDUCED). -/
def State.evtCommit (s : State) : State :=
  let i := s.fld (thyA 0x100) 11 0
  let e := ThyEvent.ofBytes (natLe 32 (s.regWords (evtData 0) 8))
  let late := e.en && (match e.past s.thyCpc s.thyPhase with | some p => decide (0 < p) | none => false)
  s.setEvt i { e with owner := (s.evt i).owner, late := late }

/-- THY_EVT_FREE as it reads: entries with EN clear and no image owner. -/
def State.evtFree (s : State) : Nat := 4096 - (s.thy.events.filter (fun e => e.2.en || e.2.owner != 0)).length

/-- THY_EVT_INDEX_WRITE (R304). -/
def execThyEvtIndexWrite (ini : Nat) (value : Word) (s : State) : Host.Outcome State Fault Refusal :=
  .next (s.guarded (isMgmt ini) ini (thyA 0x100) (s.evtIndexWrite value.toNat))

/-- THY_EVT_COMMIT (R304): a write of the register; it commits when COMMIT is 1. -/
def execThyEvtCommit (ini : Nat) (value : Word) (s : State) : Host.Outcome State Fault Refusal :=
  .next (s.guarded (isMgmt ini) ini (thyA 0x104) (if bit value.toNat 0 then s.evtCommit else s))

/-! ## Entries of an image (R294) -/

/-- Owner mark of an image's entries. -/
def evtOwner (tenant handle : Nat) : Nat := tenant * 65536 + handle

/-- Whether a type-8 section passes load check 9 for tenant `t`. -/
def State.evtSectionOk (s : State) (t : Nat) (sec : List Byte) : Bool :=
  let n := fieldLe sec 4 4
  slice sec 0 4 == natLe 4 0x31485059 && decide (1 ≤ n ∧ n ≤ 4096 ∧ 16 + 32 * n ≤ sec.length ∧ n ≤ s.evtFree) &&
  (List.range n).all (fun j =>
    let b := slice sec (16 + 32 * j) 32
    let e := ThyEvent.ofBytes b
    decide (e.kind < 4) && e.tenant == t && s.evtOwn e && decide (e.matchCount < s.thyCpc))

/-- Install the entries of a passing section into the lowest free entries. -/
def State.evtInstall (s : State) (t handle : Nat) (sec : List Byte) : State :=
  let n := fieldLe sec 4 4
  let free := ((List.range 4096).filter (fun i => !(s.evt i).en && (s.evt i).owner == 0)).take n
  free.foldl (fun (p : State × Nat) i =>
    let e := ThyEvent.ofBytes (slice sec (16 + 32 * p.2) 32)
    let late := e.en && (match e.past p.1.thyCpc p.1.thyPhase with | some q => decide (0 < q) | none => false)
    (p.1.setEvt i { e with owner := evtOwner t handle, late := late }, p.2 + 1)) (s, 0) |>.1

/-- Free the entries of an image. -/
def State.evtRemove (s : State) (t handle : Nat) : State :=
  { s with thy := { s.thy with events := s.thy.events.filter (fun e => e.2.owner != evtOwner t handle) } }

/-! ## Phase sources -/

/-- Keep the phase as it stands in the stored registers, for a source that counts from it or a Thyme that stops.
Log entry 110 (DEDUCED). -/
def State.thyFreeze (s : State) : State :=
  let (c, n, f) := s.thyPhase
  (s.setPhase c n).setReg (thyA 0x28) f

/-- A write of THY_SRC: reserved values of SEL keep the previous one; a change restarts acquisition (R281, R286).
Log entry 109 (DESIGN CHOICE). -/
def State.thySrcWrite (s : State) (v : Nat) : State :=
  let old := s.thySel
  let sel := if 6 ≤ bits v 2 0 then old else bits v 2 0
  let w := putBits 0 23 16 (bits v 23 16) + putBits 0 10 8 (bits v 10 8) + putBits 0 6 4 (bits v 6 4) + sel
  if sel = old then s.setReg (thyA 0) w
  else
    let (c, n, f) := s.thyPhase
    let s := (s.thyFreeze).setReg (thyA 0) w
    ({ s with thy := { s.thy with ringBase := (c, n, f, s.timeNs) } }).thyRestart

/-- THY_SRC_WRITE (R281). -/
def execThySrcWrite (ini : Nat) (value : Word) (s : State) : Host.Outcome State Fault Refusal :=
  .next (s.guarded (isMgmt ini) ini (thyA 0) (s.thySrcWrite value.toNat))

/-- PHASE_COUNT_EDGE (R282). -/
def execPhaseCountEdge (a b z : Bool) (held : Nat) (s : State) : Host.Outcome State Fault Refusal :=
  let lock := s.thyLock
  let s := s.phaseEdge a b z held
  .next (if lock ≠ 4 ∧ s.thyLock = 4 then s.forceFlows s.flowBound 2 else s)

/-- Z_EDGE (R283). -/
def execZEdge (held : Nat) (s : State) : Host.Outcome State Fault Refusal := .next (if s.filtered held then s.zEdge else s)

/-- SYNTH_COUNT (R284). -/
def execSynthCount (s : State) : Host.Outcome State Fault Refusal := .next s.synthCount

/-- PHASE_LOSS (R287, R300). -/
def execPhaseLoss (s : State) : Host.Outcome State Fault Refusal :=
  .next (if s.wdogDue then s.declareLost.forceFlows s.flowBound 2 else s)

/-- The phase source of SEL 4 or 5 falls silent: a locked phase runs on (R286). -/
def State.thyHoldover (s : State) (sel : Nat) : State := if s.thySel = sel ∧ s.thyLock = 2 then s.setLock 3 else s

/-- A message of the time source steers module time, and tracks the lock of SEL 4 (R6, R290): offset and limit in
picoseconds, the source's time in ns.
Log entry 208 (DESIGN CHOICE). -/
def State.asMessage (s : State) (offset : Int) (tai limit : Nat) : State :=
  let s := if s.thySel = 4 ∧ s.thyOn then s.thyResume else s
  let (s, run) := s.timeMessage s.thy.syncRun offset tai limit
  let s := { s with thy := { s.thy with syncRun := run } }
  if s.thySel = 4 ∧ s.thyOn then
    let s := { s with thy := { s.thy with lastInput := s.cycle } }
    s.setLock (if 16 ≤ run then 2 else 1)
  else s

/-- Whether the ring stands in the place of FP1's time port (R444). -/
def State.ringTime (s : State) : Bool := s.fld (rngA 4) 31 28 == 2 && s.rbit (rngA 0) 29

/-- FPT_FP1_STATUS.AS_STATE: synchronised time whose Sync messages are silent is in holdover (R296).
Log entry 208 (DESIGN CHOICE). -/
def State.asState (s : State) : Nat :=
  let a := s.fld (fptA 0x1004) 4 3
  if a = 2 ∧ s.thy.lastSync.any (fun t => decide (t + max 1 (Config.silence 4) ≤ s.cycle)) then 3 else a

/-- A Sync message on FP1: its offset is reported, and it steers unless the ring does. -/
def State.fp1Sync (s : State) (offsetNs : Int) (tai : Nat) : State :=
  if !s.rbit (fptA 0x1004) 0 then s
  else
    let s := s.setReg64 (fptA 0x1018) (ofInt 64 offsetNs)
    if s.ringTime then s
    else
      let s := { s with thy := { s.thy with lastSync := some s.cycle } }
      let s := s.asMessage (offsetNs * 1000) tai 100000
      s.setFld (fptA 0x1004) 4 3 (if 16 ≤ s.thy.syncRun then 2 else 1)

end Sys2Proof.Machine
end

