-- ==== Sys2Proof/Machine/HostOps.lean ====
section
/-!
DEFINITION. Host ports and queues (R305–R323): RB_N, submission and completion queues, fetching, completions.
-/
namespace Sys2Proof.Machine

/-- State of a port. -/
def State.port (s : State) (p : Nat) : PortState := tabGet {} s.host.ports p
/-- Set the state of a port. -/
def State.setPort (s : State) (p : Nat) (x : PortState) : State := { s with host := { s.host with ports := tabSet {} s.host.ports p x } }

/-! ## RB_N (R323) -/

/-- The first condition of RB_N that fails, by its code: 1 start-up, 2 PERST_N, 3 link down, 4 below 16 GT/s, 5 management
not ready, 6 reset pending; 0 when all hold. -/
def State.rbReason (s : State) (p : Nat) : Nat :=
  let st := s.reg (pciA p 4)
  if !s.host.released then 1
  else if (s.port p).perst then 2
  else if !bit st 30 then 3
  else if bits st 15 8 < 4 then 4
  else if !s.host.mctp then 5
  else if s.host.resetPending then 6
  else 0

/-- Drive RB_N of a port by its conditions; an inactive port's floats high (R305). -/
def State.rbUpdate (s : State) (p : Nat) : State :=
  let r := s.rbReason p
  let s := s.setFld (pciA p 4) 7 4 r
  s.setRbit (pciA p 4) 31 (s.portActive p && r == 0)

/-- Drive RB_N of every port. -/
def State.rbAll (s : State) : State := (List.range 4).foldl (fun s p => s.rbUpdate p) s

/-! ## Tenants' functions -/

/-- Whether a function is READY: OPEN; an FLR is one step of the model. -/
def State.fnReady (s : State) (t : Nat) : Bool := decide ((s.tenant t).state = .isOpen)

/-- Whether a function takes doorbells: those of a tenant in SCRUBBING are discarded (R328). -/
def State.fnTakes (s : State) (t : Nat) : Bool := decide ((s.tenant t).state = .isOpen) || decide ((s.tenant t).state = .opening)

/-- STATE code of a tenant. -/
def TenState.code : TenState → Nat
  | .closed => 0
  | .opening => 1
  | .isOpen => 2
  | .scrubbing => 3
  | .stuck => 4

/-- Regions of a tenant's entry. -/
def Tenant.regions (x : Tenant) : Nat := x.hbm.foldl (· + ·) 0 + x.lp

/-- DEV_BYTES (R314). -/
def State.devBytes (s : State) (t : Nat) : Nat :=
  if (s.tenant t).holds then (s.tenant t).regions * 0x200000 else 0

/-- FN_STATUS as it reads. -/
def State.fnStatus (s : State) (t : Nat) : Nat :=
  (s.tenant t).state.code * 2 ^ 28 + (if s.fnReady t then 2 ^ 27 else 0) + t * 2 ^ 20

/-- Key of a queue. -/
def qKey (t q : Nat) : Nat := t * 64 + q
/-- A register of SQ `q`. -/
def sqA (t q off : Nat) : Nat := fnA t (0x100 + 0x20 * q + off)
/-- A register of CQ `q`. -/
def cqA (t q off : Nat) : Nat := fnA t (0x900 + 0x20 * q + off)

/-! ## Completions (R321) -/

/-- A CQ enters the error state (R317, R321). -/
def State.cqError (s : State) (t q : Nat) : State := (s.setFld (cqA t q 0x18) 31 28 2).fnAttn t 3

/-- Whether a CQ has room. -/
def State.cqRoom (s : State) (t q : Nat) : Bool :=
  let n := s.fld (cqA t q 8) 12 0
  (tabGet 0 s.host.cqTail (qKey t q) + 1) % max 1 n != tabGet 0 s.host.cqHead (qKey t q)

/-- Write a completion into a CQ with room: the entry, the tail shadow, the vector. -/
def State.cqWrite (s : State) (t q : Nat) (rec_ : List Byte) : State :=
  let p := (s.tenant t).port
  let tail := tabGet 0 s.host.cqTail (qKey t q)
  let next := (tail + 1) % max 1 (s.fld (cqA t q 8) 12 0)
  let s := s.hostWrite p (s.reg64 (cqA t q 0) + 32 * tail) rec_
  let s := { s with host := { s.host with cqTail := tabSet 0 s.host.cqTail (qKey t q) next } }
  let s := s.hostWrite p (s.reg64 (cqA t q 0x10)) (natLe 4 next)
  if s.rbit (cqA t q 0xC) 30 then s.send (.msix (p * 16 + t) (s.fld (cqA t q 0xC) 5 0)) else s

/-- Post a completion to a CQ: written, held while the CQ is full, or lost beyond 1,024 held (R321). A CQ that is off takes
none.
Log entry 122 (DEDUCED). -/
def State.postCq (s : State) (t q : Nat) (rec_ : List Byte) : State :=
  match s.fld (cqA t q 0x18) 31 28 with
  | 1 =>
    let mine := s.host.held.any (fun h => h.1 == t && h.2.1 == q)
    if s.cqRoom t q && !mine then s.cqWrite t q rec_
    else if (s.host.held.filter (fun h => h.1 == t)).length < 1024 then
      { s with host := { s.host with held := s.host.held ++ [(t, q, rec_)] } }
    else (s.cqError t q).bump (fnA t 0x14)
  | 2 => s.bump (fnA t 0x14)
  | _ => s

/-- HELD_COMPLETION_POST's effect: the oldest held completion whose CQ has room is written. -/
def State.heldPost (s : State) (t : Nat) : State :=
  match s.host.held.find? (fun h => h.1 == t && s.fld (cqA t h.2.1 0x18) 31 28 == 1 && s.cqRoom t h.2.1) with
  | none => s
  | some h => ({ s with host := { s.host with held := s.host.held.erase h } }).cqWrite t h.2.1 h.2.2

/-! ## Submission queues (R316–R318) -/

/-- Entries of an SQ not yet fetched. -/
def State.sqPending (s : State) (t q : Nat) : Nat :=
  let n := max 1 (s.fld (sqA t q 8) 12 0)
  (tabGet 0 s.host.sqTail (qKey t q) + n - s.fld (sqA t q 0x10) 15 0 % n) % n

/-- A write of an SQ doorbell (R317).
Log entry 122 (DEDUCED). -/
def State.sqDoorbell (s : State) (t q v : Nat) : State :=
  if !s.fnTakes t ∨ s.fld (sqA t q 0x10) 31 28 ≠ 1 then s
  else
    let n := s.fld (sqA t q 8) 12 0
    let v := bits v 11 0
    let head := s.fld (sqA t q 0x10) 15 0
    if n ≤ v ∨ (v + n - head % max 1 n) % max 1 n < s.sqPending t q then (s.setFld (sqA t q 0x10) 31 28 2).fnAttn t 3
    else { s with host := { s.host with sqTail := tabSet 0 s.host.sqTail (qKey t q) v } }

/-- A write of a CQ doorbell (R317).
Log entry 122 (DEDUCED). -/
def State.cqDoorbell (s : State) (t q v : Nat) : State :=
  if !s.fnTakes t ∨ s.fld (cqA t q 0x18) 31 28 ≠ 1 then s
  else
    let n := s.fld (cqA t q 8) 12 0
    let v := bits v 11 0
    let head := tabGet 0 s.host.cqHead (qKey t q)
    let tail := tabGet 0 s.host.cqTail (qKey t q)
    if n ≤ v ∨ (tail + n - head % max 1 n) % max 1 n < (v + n - head % max 1 n) % max 1 n then s.cqError t q
    else { s with host := { s.host with cqHead := tabSet 0 s.host.cqHead (qKey t q) v } }

/-- A write of SQ_CTRL or CQ_CTRL: setting EN starts an empty queue, clearing it switches the queue off. -/
def State.queueCtl (s : State) (t q : Nat) (isSq : Bool) (v : Nat) : State :=
  let a := if isSq then sqA t q 0xC else cqA t q 0xC
  let was := s.rbit a 31
  let s := s.setReg a v
  let st := if isSq then sqA t q 0x10 else cqA t q 0x18
  if bit v 31 && !was then
    let s := s.setReg st (2 ^ 28)
    if isSq then { s with host := { s.host with sqTail := tabSet 0 s.host.sqTail (qKey t q) 0 } }
    else { s with host := { s.host with cqTail := tabSet 0 s.host.cqTail (qKey t q) 0, cqHead := tabSet 0 s.host.cqHead (qKey t q) 0 } }
  else if was && !bit v 31 then s.setReg st 0
  else s

/-! ## Fetching (R318) -/

/-- Commands of a function in flight. -/
def State.inflightOf (s : State) (t : Nat) : List HostCmd := s.host.cmds.filter (·.tenant == t)

/-- Whether the head command of an SQ may start. -/
def State.sqReady (s : State) (t q : Nat) : Bool :=
  s.fld (sqA t q 0x10) 31 28 == 1 && decide (0 < s.sqPending t q) &&
  (let h := s.hostRead (s.tenant t).port (s.reg64 (sqA t q 0) + 128 * s.fld (sqA t q 0x10) 15 0) 2
   !bit (fieldLe h 1 1) 0 || !(s.inflightOf t).any (·.sq == q))

/-- The next of a cyclic range of `n` after `last` that passes a test. -/
def nextRobin (n last : Nat) (p : Nat → Bool) : Option Nat := ((List.range n).map (fun i => (last + 1 + i) % n)).find? p

/-- Whether a function has a command that may be fetched. -/
def State.fnFetchable (s : State) (p t : Nat) : Bool :=
  t != 0 && (s.tenant t).port == p && s.fnReady t && decide ((s.inflightOf t).length < 256) && (List.range 64).any (s.sqReady t)

/-- The command that the hub fetches next on a port: function and SQ in round robin; none on a link below 16 GT/s (R307). -/
def State.fetchNext (s : State) (p : Nat) : Option (Nat × Nat) :=
  if !s.rbit (pciA p 4) 30 ∨ s.rbit (pciA p 4) 28 then none
  else
    match nextRobin 16 (tabGet 0 s.host.rrFn p) (s.fnFetchable p) with
    | none => none
    | some t => (nextRobin 64 (tabGet 63 s.host.rrSq t) (s.sqReady t)).map (fun q => (t, q))

/-- The bytes of the command at an SQ's head. -/
def State.sqHeadCmd (s : State) (t q : Nat) : List Byte :=
  s.hostRead (s.tenant t).port (s.reg64 (sqA t q 0) + 128 * s.fld (sqA t q 0x10) 15 0) 128

/-- OPCODEs of R320. -/
def hostOpcodes : List Nat := [0x00, 0x10, 0x11, 0x18, 0x20, 0x30, 0x31, 0x40, 0x41, 0x42, 0x43, 0x50, 0x51, 0x60]

/-- Fetch the next command of a port if its opcode passes a test: it becomes a command in flight. -/
def State.fetch (s : State) (p : Nat) (want : Nat → Bool) : State × Option HostCmd :=
  match s.fetchNext p with
  | none => (s, none)
  | some (t, q) =>
    let b := s.sqHeadCmd t q
    if !want (fieldLe b 0 1) then (s, none)
    else
      let h := (s.fld (sqA t q 0x10) 15 0 + 1) % max 1 (s.fld (sqA t q 8) 12 0)
      let c : HostCmd := { num := s.host.nextNum, tenant := t, sq := q, data := b, head := h }
      let s := s.setFld (sqA t q 0x10) 15 0 h
      ({ s with host := { s.host with cmds := s.host.cmds ++ [c], nextNum := s.host.nextNum + 1
                                      rrFn := tabSet 0 s.host.rrFn p t, rrSq := tabSet 63 s.host.rrSq t q } }, some c)

/-- Change a command in flight. -/
def State.setHostCmd (s : State) (c : HostCmd) : State :=
  { s with host := { s.host with cmds := s.host.cmds.map (fun e => if e.num = c.num then c else e) } }

/-- Give a command in flight its result.
Log entry 124 (DEDUCED). -/
def State.cmdResult (s : State) (c : HostCmd) (status code value : Nat) : State :=
  s.setHostCmd { c with result := some (status, code, value) }

/-- Remove a command in flight. -/
def State.dropHostCmd (s : State) (n : Nat) : State := { s with host := { s.host with cmds := s.host.cmds.filter (·.num != n) } }

/-- A field of the command's header. -/
def HostCmd.h (c : HostCmd) (off n : Nat) : Nat := fieldLe c.data off n
/-- A field of the payload. -/
def HostCmd.p (c : HostCmd) (off n : Nat) : Nat := fieldLe c.data (0x40 + off) n

/-- Whether every byte of a range of a command is zero. -/
def HostCmd.zero (c : HostCmd) (off n : Nat) : Bool := (slice c.data off n).all (· == 0)

/-- Whether the header's reserved bytes and flags are zero; PROV is a flag of JOB alone. -/
def HostCmd.headOk (c : HostCmd) : Bool :=
  let f := c.h 1 1
  decide (f / 4 = 0) && (!bit f 1 || c.h 0 1 == 0x20) && c.zero 2 2 && c.zero 0xE 2 && c.zero 0x10 48

/-- A generic completion (R321). -/
def HostCmd.completion (c : HostCmd) (status code value now : Nat) : List Byte :=
  natLe 4 (c.h 4 4) ++ natLe 1 0x10 ++ natLe 1 status ++ natLe 1 c.sq ++ natLe 1 code ++ natLe 8 value ++ natLe 2 c.head ++ zeros 6 ++
  natLe 8 now

/-- Post a command's generic completion to the CQ its SQ names, and end it. -/
def State.completeCmd (s : State) (c : HostCmd) (status code value : Nat) : State :=
  let q := s.fld (sqA c.tenant c.sq 0xC) 21 16
  (s.dropHostCmd c.num).postCq c.tenant q (c.completion status code value s.timeNs)

end Sys2Proof.Machine
end

