-- ==== Sys2Proof/Machine/Kvp.lean ====
section
/-!
DEFINITION. The request table (R217) and the KVP block (R206–R212): pages, slots, summaries, folds, evictions, moves.
-/
namespace Sys2Proof.Machine

/-! ## The request table (R217) -/

/-- A request-table entry. -/
structure ReqEntry where
  state : Nat
  prio : Nat
  tenant : Nat
  flags : Nat
  committed : Nat
  kvDone : Nat
  target : Nat
  cap : Nat
  len : Nat
  rejRun : Nat
  skipped : Nat
  model : Nat
  node : Option Nat
  plist : Nat
  ctx : Nat
  deadline : Nat
  time : Nat
  cq : Nat
  ttl : Nat
  tag : Nat
  deriving DecidableEq, Repr

/-- The entry that 64 bytes hold. -/
def ReqEntry.ofBytes (b : List Byte) : ReqEntry :=
  let f := fieldLe b
  { state := f 0 1, prio := bits (f 1 1) 6 4, tenant := f 1 1 % 16, flags := f 2 2, committed := f 4 4 % 2 ^ 25
    kvDone := f 8 4 % 2 ^ 25, target := f 0xC 4 % 2 ^ 25, cap := f 0x10 1 / 16, len := f 0x10 1 % 16, rejRun := f 0x11 1
    skipped := f 0x12 1, model := f 0x13 1 % 16, node := if bit (f 0x14 4) 31 then some (f 0x14 4 % 2 ^ 22) else none
    plist := f 0x18 6, ctx := f 0x20 6, deadline := f 0x28 8, time := f 0x30 8, cq := f 0x38 4 / 2 ^ 26, ttl := f 0x38 4 % 2 ^ 20
    tag := f 0x3C 4 }

/-- The 64 bytes of an entry, reserved bits 0. -/
def ReqEntry.toBytes (e : ReqEntry) : List Byte :=
  natLe 1 e.state ++ natLe 1 (e.prio * 16 + e.tenant) ++ natLe 2 e.flags ++ natLe 4 e.committed ++ natLe 4 e.kvDone ++
  natLe 4 e.target ++ natLe 1 (e.cap * 16 + e.len) ++ natLe 1 e.rejRun ++ natLe 1 e.skipped ++ natLe 1 e.model ++
  natLe 4 (match e.node with | some n => 2 ^ 31 + n | none => 0) ++ natLe 8 e.plist ++ natLe 8 e.ctx ++ natLe 8 e.deadline ++
  natLe 8 e.time ++ natLe 4 (e.cq * 2 ^ 26 + e.ttl) ++ natLe 4 e.tag

/-- Initiator ID of the scheduler firmware's engine. -/
def schedId : Nat := hubId 7
/-- Initiator ID of the KVP block. -/
def kvpId : Nat := hubId 14

/-- Entry `i` of the request table. -/
def State.entry (s : State) (i : Nat) : ReqEntry := ReqEntry.ofBytes (s.hubRead schedId (64 * i) 64)
/-- Write an entry. -/
def State.setEntry (s : State) (i : Nat) (e : ReqEntry) : State := s.hubWrite schedId (64 * i) e.toBytes
/-- Change an entry. -/
def State.modEntry (s : State) (i : Nat) (f : ReqEntry → ReqEntry) : State :=
  (s.unitRead schedId (hubBase + 64 * i) 64).setEntry i (f (s.entry i))

/-- What the scheduler keeps of a live request. -/
def State.req (s : State) (i : Nat) : ServeReq := (tabGet none s.serve.reqs i).getD {}
/-- Set it, or drop it. -/
def State.setReq (s : State) (i : Nat) (r : Option ServeReq) : State :=
  { s with serve := { s.serve with reqs := tabSet none s.serve.reqs i r } }
/-- Change it. -/
def State.modReq (s : State) (i : Nat) (f : ServeReq → ServeReq) : State := s.setReq i (some (f (s.req i)))

/-- Live entries of a tenant, ascending. -/
def State.liveOf (s : State) (t : Nat) : List Nat := (s.serve.reqs.map (·.1)).filter (fun i => (s.entry i).tenant == t)
/-- Live entries of a lane, ascending. -/
def State.laneReqs (s : State) (t m : Nat) : List Nat := (s.liveOf t).filter (fun i => (s.entry i).model == m)

/-- A lane. -/
def State.lane (s : State) (t m : Nat) : Option Lane := tabGet none s.serve.lanes (16 * t + m)
/-- Set a lane. -/
def State.setLane (s : State) (t m : Nat) (l : Option Lane) : State :=
  { s with serve := { s.serve with lanes := tabSet none s.serve.lanes (16 * t + m) l } }
/-- Change a lane. -/
def State.modLane (s : State) (t m : Nat) (f : Lane → Lane) : State :=
  match s.lane t m with
  | some l => s.setLane t m (some (f l))
  | none => s

/-- A field of a lane's descriptor (R216). -/
def Lane.d (l : Lane) (off n : Nat) : Nat := fieldLe l.desc off n
/-- LAYERS. -/
def Lane.layers (l : Lane) : Nat := l.d 4 2
/-- WORK_ADDR. -/
def Lane.work (l : Lane) : Nat := l.d 0x28 6

/-! ## Registers of a tenant's block -/

/-- A KVP_ tenant register. -/
def kvpT (t off : Nat) : Nat := kvpA (0x100 + 0x40 * t + off)
/-- An RQT_ tenant register. -/
def rqtT (t off : Nat) : Nat := rqtA (0x100 + 0x80 * t + off)
/-- A LOV_ tenant register. -/
def lovT (t off : Nat) : Nat := lovA (0x100 + 0x80 * t + off)

/-! ## Pages and slots (R188, R241) -/

/-- Address of the metadata of page `n` of a tenant. -/
def State.pageAt (s : State) (t n : Nat) : Nat := s.reg64 (kvpT t 0) + 32 * n
/-- Metadata of page `n` of a tenant. -/
def State.page (s : State) (t n : Nat) : PageMeta := PageMeta.ofBytes (s.unitBytes kvpId (s.pageAt t n) 32)
/-- What reading the metadata of pages leaves. -/
def State.readPages (s : State) (t : Nat) (ns : List Nat) : State := s.unitReads kvpId (ns.map (fun n => (s.pageAt t n, 32)))
/-- Write it. -/
def State.setPage (s : State) (t n : Nat) (m : PageMeta) : State := s.unitWrite kvpId (s.pageAt t n) m.toBytes
/-- Change it. -/
def State.modPage (s : State) (t n : Nat) (f : PageMeta → PageMeta) : State := (s.readPages t [n]).setPage t n (f (s.page t n))

/-- Set or clear a bit of FLAGS: 0 SUMMARY_VALID, 1 PINNED, 2 MOVING, 3 FETCHED. -/
def PageMeta.flag (m : PageMeta) (i : Nat) (b : Bool) : PageMeta := { m with flags := putBit m.flags i b }

/-- Slots in use in a tier. -/
def State.slots (s : State) (t : Nat) (lp : Bool) : List Nat := tabGet [] (if lp then s.serve.lp else s.serve.hbm) t
/-- Slots of a tier. -/
def State.slotCount (s : State) (t : Nat) (lp : Bool) : Nat := s.reg (rqtT t (if lp then 0x28 else 0x18))
/-- Address of a slot. -/
def State.slotAddr (s : State) (t : Nat) (lp : Bool) (i : Nat) : Nat :=
  s.reg64 (rqtT t (if lp then 0x20 else 0x10)) % 2 ^ 48 + i * s.reg (rqtT t 0x1C)
/-- Free slots of a tier. -/
def State.slotsFree (s : State) (t : Nat) (lp : Bool) : Nat := s.slotCount t lp - (s.slots t lp).length
/-- Change the slots in use; HBM_FREE and LP_FREE follow. -/
def State.setSlots (s : State) (t : Nat) (lp : Bool) (l : List Nat) : State :=
  let s := if lp then { s with serve := { s.serve with lp := tabSet [] s.serve.lp t l } }
    else { s with serve := { s.serve with hbm := tabSet [] s.serve.hbm t l } }
  s.setReg (kvpT t (if lp then 0x10 else 0xC)) (s.slotsFree t lp)
/-- Take the lowest free slot. -/
def State.takeSlot (s : State) (t : Nat) (lp : Bool) : State × Option Nat :=
  match (List.range (s.slotCount t lp)).find? (fun i => !(s.slots t lp).contains i) with
  | some i => (s.setSlots t lp (s.slots t lp ++ [i]), some i)
  | none => (s, none)
/-- Return a slot. -/
def State.dropSlot (s : State) (t : Nat) (lp : Bool) (i : Nat) : State := s.setSlots t lp ((s.slots t lp).erase i)
/-- The slot that an address lies in. -/
def State.slotOf (s : State) (t : Nat) (lp : Bool) (a : Nat) : Nat :=
  (a - s.reg64 (rqtT t (if lp then 0x20 else 0x10)) % 2 ^ 48) / max 1 (s.reg (rqtT t 0x1C))

/-- IN_FLIGHT and STATE of KVP_STATUS, SUMM_BUSY. -/
def State.kvpStatus (s : State) : State :=
  let mv := s.serve.moves
  let st := (if mv.any (·.toLp) then 1 else 0) + (if mv.any (fun m => !m.toLp) then 2 else 0)
  let busy := s.serve.lanes.any (fun l => match l.2 with | some l => !l.summDone | none => false)
  s.setReg (kvpA 4) (st * 2 ^ 30 + (if busy then 2 ^ 29 else 0) + min mv.length 0xFFFF)

/-- Free a page whose REFS reached 0: STATE 0, its slot returned; a move of it ends without effect. -/
def State.freePage (s : State) (t n : Nat) : State :=
  let m := s.page t n
  let s := s.readPages t [n]
  let mv := s.serve.moves.filter (fun e => e.tenant == t && e.page == n)
  let s := mv.foldl (fun s e => s.dropSlot t e.toLp e.dst) s
  let s := { s with serve := { s.serve with moves := s.serve.moves.filter (fun e => !(e.tenant == t && e.page == n)) } }
  let s := s.dropSlot t (m.state == 2) (s.slotOf t (m.state == 2) m.addr)
  (s.setPage t n { m with state := 0, refs := 0 }).kvpStatus

/-- Remove one reference to a page. -/
def State.unrefPage (s : State) (t n : Nat) : State :=
  let m := s.page t n
  if m.refs ≤ 1 then s.freePage t n else (s.readPages t [n]).setPage t n { m with refs := m.refs - 1 }

/-- The hole of a page list. -/
def hole : Nat := 0xFFFFFFFF

/-- Address of the page-list entry of a block and layer of a request (R223). -/
def State.listAt (s : State) (e : ReqEntry) (layer b : Nat) : Nat := s.unitNat schedId (e.plist + 16 * layer) 6 + 4 * b
/-- The page number there. -/
def State.listGet (s : State) (e : ReqEntry) (layer b : Nat) : Nat := s.unitNat schedId (s.listAt e layer b) 4
/-- Write a page number there. -/
def State.listPut (s : State) (e : ReqEntry) (layer b n : Nat) : State := s.memPut schedId (s.listAt e layer b) 4 n
/-- What reading the directory and the page lists of a request leaves. -/
def State.readLists (s : State) (layers i : Nat) : State :=
  let e := s.entry i
  s.unitReads schedId ((List.range layers).flatMap (fun l => [(e.plist + 16 * l, 6), (s.listAt e l 0, 4 * (s.req i).blocks)]))

/-- The pages of a request that are no holes, in ascending layer and block order, as (layer, block, page). -/
def State.reqPages (s : State) (layers i : Nat) : List (Nat × Nat × Nat) :=
  let e := s.entry i
  (List.range layers).flatMap (fun l => (List.range (s.req i).blocks).filterMap (fun b =>
    let n := s.listGet e l b
    if n = hole then none else some (l, b, n)))

/-- LAYERS of a model of a tenant: its lane's, or its table's where the lane does not run.
Log entry 199 (DESIGN CHOICE). -/
def State.modelLayers (s : State) (t m : Nat) : Nat :=
  match s.lane t m with
  | some l => l.layers
  | none => min 1024 (s.unitNat schedId (s.reg64 (rqtT t 0) % 2 ^ 48 + 64 * m + 4) 2)

/-- LAYERS of the lane of a request. -/
def State.reqLayers (s : State) (i : Nat) : Nat := s.modelLayers (s.entry i).tenant (s.entry i).model

/-- The pages that a tenant's request-table entries name. -/
def State.namedPages (s : State) (t : Nat) : List Nat :=
  ((s.liveOf t).flatMap (fun i => (s.reqPages (s.reqLayers i) i).map (·.2.2))).eraseDups

/-! ## Allocation (R228) -/

/-- The lowest free metadata entry of a tenant. -/
def State.freeMeta (s : State) (t : Nat) : Option Nat := (List.range (s.reg (kvpT t 8) % 2 ^ 24)).find? (fun n => (s.page t n).state == 0)

/-- Whether `k` metadata entries are free. -/
def State.metaRoom (s : State) (t k : Nat) : Bool :=
  k == 0 || decide (k ≤ ((List.range (s.reg (kvpT t 8) % 2 ^ 24)).filter (fun n => (s.page t n).state == 0)).length)

/-- Allocate a page of a layer and block for a request. -/
def State.allocPage (s : State) (l : Lane) (i layer b : Nat) : State :=
  let e := s.entry i
  let t := e.tenant
  match s.freeMeta t, s.takeSlot t false with
  | some n, (s, some sl) =>
    let s := (s.readPages t (List.range (n + 1))).setPage t n
      { addr := s.slotAddr t false sl, state := 1, fmtV := l.d 7 1 / 16, fmtK := l.d 7 1 % 16, fill := 0, flags := 0
        layer := layer, refs := 1, first := 64 * b, score := 0, lastUse := l.step % 2 ^ 32, tenant := t, hkv := l.d 6 1
        d := l.d 8 2 }
    s.listPut e layer b n
  | _, _ => s

/-! ## Summaries (R206) -/

/-- Whether a page qualifies for a summary. -/
def State.wantsSummary (s : State) (t n : Nat) : Bool :=
  let m := s.page t n
  m.state != 0 && m.fill == 64 && !m.summarised

/-- Compute and write the summary of a page at a summary array, and whether it was written.
Log entry 82 (DESIGN CHOICE). -/
def State.summarise (s : State) (t base n : Nat) : State × Bool :=
  let m := s.page t n
  let s := s.readPages t [n]
  if m.state = 0 then (s, false)
  else
    let f := fmtGet m.fmtK
    let rb := f.width * m.d / 8
    let one := fun (a : State × List Byte × Bool) (h : Nat) =>
      let (s, es) := a.1.memRead kvpId (m.addr + m.map.kElem + h * 64 * rb) (64 * rb)
      let (s, ss) := if f.isMx then s.memRead kvpId (m.addr + m.map.kScale + h * 64 * (m.d / 32)) (64 * (m.d / 32)) else (s, some [])
      match es, ss with
      | some es, some ss =>
        let rows := pageRows f m.d 64 es ss
        let means := (List.range m.d).map (fun c =>
          (inComp fp32 0 ((rowSum fp32 0 (rows.map (fun r => r.getD c .nan))).1.scale (-6), 0)).1)
        let blocks := (List.range (m.d / 32)).map (fun k =>
          let vs := (means.drop (32 * k)).take 32
          mxBlock (fmtGet 6) vs (vs.map (fun _ => rne)))
        (s, a.2.1 ++ blocks.flatMap (fun b => b.2.1.map (BitVec.ofNat 8)) ++ blocks.map (fun b => BitVec.ofNat 8 b.1), a.2.2)
      | _, _ => (s, a.2.1, false)
    let (s, data, ok) := (List.range m.hkv).foldl one (s, [], true)
    if ok then
      let (s, w) := s.memWrite kvpId (base + n * summBytes m.hkv m.d) data
      (if w then s.bump (kvpT t 0x2C) else s, w)
    else (s, false)

/-- The KVP block ends the summaries of a lane's step; a page whose summary could not be made stays without it. -/
def State.summaryDone (s : State) (t m base : Nat) : State :=
  match s.lane t m with
  | some l =>
    if l.summDone then s
    else
      let (s, ok) := l.summ.foldl (fun (a : State × List Nat) n =>
        let (s, w) := a.1.summarise t base n
        (s, if w then a.2 ++ [n] else a.2)) (s, [])
      (s.setLane t m (some { l with summ := ok, summDone := true })).kvpStatus
  | none => s

/-- SUMMARY_DONE (R206).
Log entry 82 (DESIGN CHOICE). -/
def execSummaryDone (t m : Fin 16) (summAddr : Nat) (s : State) : Host.Outcome State Fault Refusal :=
  .next (s.summaryDone t m (summAddr % 2 ^ 48))

/-! ## Fold and eviction (R208, R209) -/

/-- ρ^k in FP32 under RNE, by binary exponentiation over the bits of `k` from the most significant, `n` bits. -/
def rhoPow (rho : FV) (k : Nat) : Nat → FV → FV
  | 0, r => r
  | n + 1, r =>
    let q := (cMul fp32 0 r r).1
    rhoPow rho k n (if bit k n then (cMul fp32 0 q rho).1 else q)

/-- SCORE of a page decayed to step `n`: the product before its rounding.
Log entry 89 (DEDUCED). -/
def State.decay (s : State) (m : PageMeta) (n : Nat) : FV :=
  let sh := clampNat 1 20 (s.reg (kvpA 8) % 32)
  rhoPow (.fin false (2 ^ sh - 1) (-(sh : Int))) ((n + 2 ^ 32 - m.lastUse) % 2 ^ 32) 32 .one

/-- The effective score of a page at step `n`. -/
def State.effScore (s : State) (m : PageMeta) (n : Nat) : FV := (cMul fp32 0 (fp32.decode m.score) (s.decay m n)).1

/-- The (KV head, MASS_GROUP, page, mass) entries of mass records (R207), in the order they were written; `n` bounds the
records. -/
def massEntries : Nat → List Byte → List (Nat × Nat × Nat × Nat)
  | 0, _ => []
  | n + 1, b =>
    if b.length < 16 then []
    else
      let c := fieldLe b 8 4
      (List.range c).map (fun i => (fieldLe b 2 1, fieldLe b 4 2, fieldLe b (16 + 8 * i) 4, fieldLe b (20 + 8 * i) 4)) ++
        massEntries n (b.drop (upTo 32 (16 + 8 * c)))

/-- Fold the step's records into the pages that they name (R208).
Log entry 89 (DEDUCED). -/
def State.foldMass (s : State) (t n : Nat) (recs : List Byte) : State :=
  let all := massEntries recs.length recs
  let named := s.namedPages t
  ((all.map (·.2.2.1)).eraseDups.filter named.contains).foldl (fun s p =>
    let mine := (all.filter (fun e => e.2.2.1 == p)).mergeSort (fun a b => decide (a.1 * 65536 + a.2.1 ≤ b.1 * 65536 + b.2.1))
    let mass := match mine.map (fun e => fp32.decode e.2.2.2) with
      | [] => FV.zero
      | v :: vs => vs.foldl (fun a b => (cAdd fp32 0 a b).1) v
    let m := s.page t p
    let s := s.readPages t [p]
    let v := (cFma fp32 0 (fp32.decode m.score) (s.decay m n) mass).1
    s.setPage t p { m with score := fp32.encode v, lastUse := n % 2 ^ 32 }) s

/-- Evict pages of one layer of a request down to its budget; `fuel` bounds the evictions.
Log entry 90 (DEDUCED). -/
def State.evictLayer (s : State) (l : Lane) (i layer budget : Nat) : Nat → State
  | 0 => s
  | fuel + 1 =>
    let e := s.entry i
    let t := e.tenant
    let nb := (s.req i).blocks
    let s := s.readLists (layer + 1) i
    let live := (List.range nb).filter (fun b => s.listGet e layer b != hole)
    if live.length ≤ budget then s
    else
      let cand := live.filter (fun b => decide (l.d 0x14 1 ≤ b) && decide (b + l.d 0x15 1 < nb) && decide (64 * (b + 1) ≤ e.kvDone))
      let score := fun b => s.effScore (s.page t (s.listGet e layer b)) l.step
      match cand with
      | [] => s
      | b0 :: bs =>
        let b := bs.foldl (fun m b => if FV.lt (score b) (score m) then b else m) b0
        let n := s.listGet e layer b
        let s := ((s.readPages t (cand.map (s.listGet e layer))).listPut e layer b hole).unrefPage t n
        (s.bump (kvpT t 0x28)).evictLayer l i layer budget fuel

/-- Evictions of a request (R209). -/
def State.evictReq (s : State) (l : Lane) (i : Nat) : State :=
  let budget := s.unitNat schedId ((s.entry i).ctx + 0xC) 4
  let s := s.unitRead schedId ((s.entry i).ctx + 0xC) 4
  if budget = 0 then s
  else (List.range l.layers).foldl (fun s layer => s.evictLayer l i layer budget (s.req i).blocks) s

/-! ## Moves (R210–R212, R241) -/

/-- Start a move of a page to the other tier, if a slot is free there. -/
def State.startMove (s : State) (t lane n : Nat) (toLp : Bool) : State × Bool :=
  match s.takeSlot t toLp with
  | (s, some sl) =>
    let m := s.page t n
    let s := (s.readPages t [n]).setPage t n ((m.flag 2 true).flag 3 (!toLp || bit m.flags 3))
    let mv : PageMove := ⟨t, lane, n, s.slotOf t (!toLp) m.addr, sl, toLp⟩
    (({ s with serve := { s.serve with moves := s.serve.moves ++ [mv] } }).kvpStatus, true)
  | (s, none) => (s, false)

/-- The copy of a move is visible: the entry's ADDR and STATE are switched and MOVING is cleared; the old slot is freed at
the lane's next boundary.
Log entry 83 (DEDUCED). -/
def State.moveDone (s : State) (k : Nat) : State :=
  match s.serve.moves[k]? with
  | none => s
  | some mv =>
    let t := mv.tenant
    let m := s.page t mv.page
    let dst := s.slotAddr t mv.toLp mv.dst
    let s := s.readPages t [mv.page]
    let (s, data) := s.memRead kvpId m.addr m.map.bytes
    let s := match data with | some b => (s.memWrite kvpId dst b).1 | none => s
    let s := s.setPage t mv.page ({ m with addr := dst, state := if mv.toLp then 2 else 1 }.flag 2 false)
    let s := s.bump (kvpT t (if mv.toLp then 0x1C else 0x20))
    let s := { s with serve := { s.serve with moves := s.serve.moves.eraseIdx k } }
    let s := s.modLane t mv.lane (fun l =>
      { l with freed := l.freed ++ [(!mv.toLp, mv.src)], fetched := if mv.toLp then l.fetched else l.fetched ++ [mv.page] })
    s.kvpStatus

/-- The pages of a paused request that move to LPDDR5X (R241). -/
def State.pauseMoves (s : State) (i : Nat) (count : Bool) : State :=
  let t := (s.entry i).tenant
  let s := s.readLists (s.reqLayers i) i
  (s.reqPages (s.reqLayers i) i).foldl (fun s p =>
    let m := s.page t p.2.2
    let s := s.readPages t [p.2.2]
    if m.state = 1 ∧ m.refs = 1 ∧ m.fill = 64 ∧ !bit m.flags 1 ∧ !bit m.flags 2 then
      let (s, ok) := s.startMove t (s.entry i).model p.2.2 true
      if ok || !count then s else s.bump (rqtT t 0x54)
    else s) s

/-- The paused requests' pages that can move now start to: each was paused at an earlier boundary, or a slot, a reference or
another move has changed since (R241).
Log entry 90 (DEDUCED). -/
def State.pausedMove (s : State) : State :=
  (s.serve.reqs.map (·.1)).foldl (fun s i => if (s.entry i).state = 4 then s.pauseMoves i false else s) s

/-- Moves of the walker in progress for a tenant's lane set (module-wide, R211). -/
def State.fetching (s : State) : Nat := (s.serve.moves.filter (fun m => !m.toLp)).length

/-- The walker starts moves of a lane while it has room in flight and free HBM pages; `fuel` bounds the pages looked at. -/
def State.walkerGo (s : State) (t m : Nat) : Nat → State
  | 0 => s
  | fuel + 1 =>
    match s.lane t m with
    | none => s
    | some l =>
      match l.walk with
      | [] => s
      | n :: rest =>
        let e := s.page t n
        let s := s.readPages t [n]
        if e.state ≠ 2 ∨ bit e.flags 2 then (s.setLane t m (some { l with walk := rest })).walkerGo t m fuel
        else if !s.rbit (kvpA 0) 1 ∨ max 1 (s.fld (kvpA 0) 15 8) ≤ s.fetching ∨ s.slotsFree t false ≤ s.reg (kvpT t 0x14) then s
        else
          let (s, ok) := (s.setLane t m (some { l with walk := rest })).startMove t m n false
          if ok then s.walkerGo t m fuel else s

/-- PREFETCH_MOVE_START (R211). -/
def execPrefetchMoveStart (t m : Fin 16) (s : State) : Host.Outcome State Fault Refusal :=
  .next (s.walkerGo t m (match s.lane t m with | some l => l.walk.length | none => 0))

/-- PAGE_MOVE_DONE (R212): move `k` of those in progress, the oldest first. Pages of paused requests that can now move start to
(R241). -/
def execPageMoveDone (k : Nat) (s : State) : Host.Outcome State Fault Refusal :=
  .next (s.moveDone k).pausedMove

/-- Spill (R210): victims of a tenant, in ascending LAST_USE and page number, until the free count would reach HIGH_WM.
`keep` are the window pages of the next step.
Log entry 90 (DEDUCED). -/
def State.spill (s : State) (t lane : Nat) (keep : List Nat) : State :=
  if !s.rbit (kvpA 0) 0 ∨ s.reg (kvpT t 0x14) ≤ s.slotsFree t false then s
  else
    let s := s.readPages t (s.namedPages t)
    let cand := (s.namedPages t).filter (fun n =>
      let m := s.page t n
      m.state == 1 && m.fill == 64 && !bit m.flags 1 && !bit m.flags 2 && !bit m.flags 3 && !keep.contains n)
    let order := cand.mergeSort (fun a b => decide ((s.page t a).lastUse * 2 ^ 32 + a ≤ (s.page t b).lastUse * 2 ^ 32 + b))
    let victims := order.take (s.reg (kvpT t 0x18) - s.slotsFree t false)
    let (s, starved) := victims.foldl (fun (a : State × Bool) n =>
      if a.2 then a
      else
        let (s, ok) := a.1.startMove t lane n true
        (s, !ok)) (s, s.slotsFree t true == 0)
    if starved then s.bump (kvpT t 0x30) else s

end Sys2Proof.Machine
end

