-- ==== Sys2Proof/Machine/Lovage.lean ====
section
/-!
DEFINITION. Lovage, the prefix index (R235–R239): nodes, buckets, lookups, insertions, reclaiming.
-/
namespace Sys2Proof.Machine

/-- Initiator ID of Lovage. -/
def lovId : Nat := hubId 4

/-- lov_root (R235). -/
def lovRoot (tenant model : Nat) : Nat := foldMix (0x4C4F564100000000 ^^^ (model * 256) ^^^ tenant)

/-- lov_hash over the 64 tokens of a block, in little-endian bytes (R235). -/
def lovHash (parent : Nat) (toks : List Byte) : Nat :=
  (List.range 32).foldl (fun x i => (foldMix (x ^^^ fieldLe toks (8 * i) 8) + 0x9E3779B97F4A7C15) % 2 ^ 64) parent

/-- A Lovage node. -/
structure LovNode where
  key : Nat
  parent : Nat
  next : Nat
  children : Nat
  users : Nat
  lastHit : Nat
  state : Nat
  model : Nat
  depth : Nat
  tokens : List Byte
  deriving DecidableEq, Repr

/-- The node that 320 bytes hold. -/
def LovNode.ofBytes (b : List Byte) : LovNode :=
  let f := fieldLe b
  ⟨f 0 8, f 8 4, f 0xC 4, f 0x10 4, f 0x14 4, f 0x18 4, f 0x1C 1, f 0x1D 1 % 16, f 0x20 4, slice b 0x40 256⟩

/-- The bytes of a node, reserved bytes 0. -/
def LovNode.toBytes (n : LovNode) : List Byte :=
  natLe 8 n.key ++ natLe 4 n.parent ++ natLe 4 n.next ++ natLe 4 n.children ++ natLe 4 n.users ++ natLe 4 n.lastHit ++
  natLe 1 n.state ++ natLe 1 n.model ++ natLe 2 0 ++ natLe 4 n.depth ++ zeros 28 ++ slice n.tokens 0 256

/-- Address of a node. -/
def State.nodeAt (s : State) (t i : Nat) : Nat := s.reg64 (lovT t 0) % 2 ^ 48 + 320 * i
/-- A node. -/
def State.node (s : State) (t i : Nat) : LovNode := LovNode.ofBytes (s.unitBytes lovId (s.nodeAt t i) 320)
/-- Write a node. -/
def State.setNode (s : State) (t i : Nat) (n : LovNode) : State := s.unitWrite lovId (s.nodeAt t i) n.toBytes
/-- What reading nodes leaves. -/
def State.readNodes (s : State) (t : Nat) (is : List Nat) : State := s.unitReads lovId (is.map (fun i => (s.nodeAt t i, 320)))
/-- Change a node. -/
def State.modNode (s : State) (t i : Nat) (f : LovNode → LovNode) : State :=
  (s.readNodes t [i]).setNode t i (f (s.node t i))
/-- Nodes of a tenant's pool. -/
def State.nodeCount (s : State) (t : Nat) : Nat := s.reg (lovT t 8)

/-- Address of the bucket of a key. -/
def State.bucketAt (s : State) (t key : Nat) : Nat :=
  s.reg64 (lovT t 0x10) % 2 ^ 48 + 4 * (key % 2 ^ clampNat 10 22 (s.reg (lovT t 0xC)))
/-- Address of the page number of a layer in a node's page vector. -/
def State.vecAt (s : State) (t i layer : Nat) : Nat := s.reg64 (lovT t 0x18) % 2 ^ 48 + s.reg (lovT t 0x20) * i + 4 * layer

/-- Module time in seconds, low 32 bits. -/
def State.lovTime (s : State) : Nat := s.timeNs / 1000000000 % 2 ^ 32

/-- Walk a bucket chain from node `i` for a block: the node found, the nodes that matched KEY but not TOKENS counted as
collisions; `fuel` bounds the chain. -/
def State.lovWalk (s : State) (t model key parent depth : Nat) (toks : List Byte) : Nat → Nat → State × Option Nat
  | 0, _ => (s, none)
  | fuel + 1, i =>
    if s.nodeCount t ≤ i then (s, none)
    else
      let n := s.node t i
      let s := s.readNodes t [i]
      if n.state = 1 ∧ n.key = key ∧ n.tokens ≠ toks then (s.bump (lovT t 0x38)).lovWalk t model key parent depth toks fuel n.next
      else if n.state = 1 ∧ n.key = key ∧ n.parent = parent ∧ n.depth = depth ∧ n.model = model then (s, some i)
      else s.lovWalk t model key parent depth toks fuel n.next

/-- Search for the node of a block (R236). -/
def State.lovFind (s : State) (t model key parent depth : Nat) (toks : List Byte) : State × Option Nat :=
  let first := s.unitNat lovId (s.bucketAt t key) 4
  (s.unitRead lovId (s.bucketAt t key) 4).lovWalk t model key parent depth toks (s.nodeCount t) first

/-- Pin a node that was found: USERS and LAST_HIT. -/
def State.pinNode (s : State) (t i : Nat) : State := s.modNode t i (fun n => { n with users := n.users + 1, lastHit := s.lovTime })

/-- Unpin a node. -/
def State.unpinNode (s : State) (t i : Nat) : State := s.modNode t i (fun n => { n with users := n.users - 1 })

/-- Unpin a chain from a node up through PARENT; `fuel` bounds it. -/
def State.unpinChain (s : State) (t : Nat) : Nat → Nat → State
  | 0, _ => s
  | fuel + 1, i => if s.nodeCount t ≤ i then s else (s.unpinNode t i).unpinChain t fuel (s.node t i).parent

/-- The 256 bytes of the tokens of block `b` of a request. -/
def State.blockTokens (s : State) (e : ReqEntry) (b : Nat) : List Byte :=
  s.unitBytes lovId (s.unitNat lovId e.ctx 6 + 256 * b) 256
/-- What reading them leaves. -/
def State.readTokens (s : State) (e : ReqEntry) (b : Nat) : State :=
  s.unitReads lovId [(e.ctx, 6), (s.unitNat lovId e.ctx 6 + 256 * b, 256)]

/-! ## Lookups (R236) -/

/-- IN_FLIGHT of LOV_STATUS. -/
def State.lovStatus (s : State) : State :=
  s.setReg (lovA 4) (min 8 (s.serve.looks.filter (fun i => (s.req i).look == 2)).length)

/-- Walk the prompt's blocks from block `b` on, pinning the nodes found; `fuel` bounds the blocks. -/
def State.lookupGo (s : State) (e : ReqEntry) : Nat → Nat → Nat → Nat → List Nat → State × List Nat
  | 0, _, _, _, acc => (s, acc)
  | fuel + 1, b, h, parent, acc =>
    if e.committed < 64 * (b + 1) + 1 then (s, acc)
    else
      let toks := s.blockTokens e b
      let key := lovHash h toks
      let s := s.readTokens e b
      match s.lovFind e.tenant e.model key parent b toks with
      | (s, some i) => ((s.pinNode e.tenant i).bump (lovT e.tenant 0x30)).lookupGo e fuel (b + 1) key i (acc ++ [i])
      | (s, none) => (s, acc)

/-- A lookup ends: its nodes are pinned and LOOKUP_BUSY is cleared; the next boundary attaches them. -/
def State.lookupEnd (s : State) (k : Nat) : State :=
  match (s.serve.looks.filter (fun i => (s.req i).look == 2))[k]? with
  | none => s
  | some i =>
    let e := s.entry i
    let (s, found) := s.lookupGo e (e.committed / 64 + 1) 0 (lovRoot e.tenant e.model) hole []
    let s := (s.modReq i (fun r => { r with look := 3, found := found })).bump (lovT e.tenant 0x34)
    let s := s.modEntry i (fun e => { e with flags := putBit e.flags 8 false })
    { s with serve := { s.serve with looks := s.serve.looks.filter (· != i) } }.lovStatus

/-- LOOKUP_START (R236): the oldest accepted lookup starts while fewer than 8 are in flight. -/
def execLookupStart (s : State) : Host.Outcome State Fault Refusal :=
  .next (if 8 ≤ (s.serve.looks.filter (fun i => (s.req i).look == 2)).length then s
    else match s.serve.looks.find? (fun i => (s.req i).look == 1) with
      | some i => (s.modReq i (fun r => { r with look := 2 })).lovStatus
      | none => s)

/-- LOOKUP_END (R236). -/
def execLookupEnd (k : Nat) (s : State) : Host.Outcome State Fault Refusal := .next (s.lookupEnd k)

/-- Attach an ended lookup (R237). -/
def State.lookupAttach (s : State) (l : Lane) (i : Nat) : State :=
  let r := s.req i
  if r.look ≠ 3 then s
  else
    let e := s.entry i
    let t := e.tenant
    let s := r.found.foldl (fun s n =>
      let d := (s.node t n).depth
      let s := (s.readNodes t [n]).unitRead lovId (s.vecAt t n 0) (4 * l.layers)
      (List.range l.layers).foldl (fun s layer =>
        let p := s.unitNat lovId (s.vecAt t n layer) 4
        (s.listPut e layer d p).modPage t p (fun m => { m with refs := m.refs + 1 })) s) s
    let k := r.found.length
    let s := s.modEntry i (fun e => { e with kvDone := 64 * k, node := r.found.getLast?, flags := putBit e.flags 8 false })
    s.modReq i (fun r => { r with look := 0, found := [], prefixPos := 64 * k, blocks := max r.blocks k })

/-! ## Insertions (R238) -/

/-- The lowest free node. -/
def State.freeNode (s : State) (t : Nat) : Option Nat := (List.range (s.nodeCount t)).find? (fun i => (s.node t i).state == 0)

/-- Insert the blocks of a request from block `b` on; `fuel` bounds the blocks.
Log entry 88 (DEDUCED). -/
def State.insertGo (s : State) (l : Lane) (i : Nat) : Nat → State
  | 0 => s
  | fuel + 1 =>
    let e := s.entry i
    let t := e.tenant
    let (b, h, parent) := match e.node with
      | some n => ((s.node t n).depth + 1, (s.node t n).key, n)
      | none => (0, lovRoot t e.model, hole)
    let pages := (List.range l.layers).map (fun layer => s.listGet e layer b)
    let s := s.readLists l.layers i
    if e.kvDone < 64 * (b + 1) ∨ (s.req i).blocks ≤ b ∨ pages.contains hole then s
    else
      let toks := s.blockTokens e b
      let key := lovHash h toks
      let s := s.readTokens e b
      match s.lovFind t e.model key parent b toks with
      | (s, some n) => ((s.pinNode t n).modEntry i (fun e => { e with node := some n })).insertGo l i fuel
      | (s, none) =>
        match s.freeNode t with
        | none => s.bump (lovT t 0x40)
        | some n =>
          let at_ := s.bucketAt t key
          let s := s.readNodes t (List.range (n + 1))
          let s := s.setNode t n ⟨key, parent, s.unitNat lovId at_ 4, 0, 1, s.lovTime, 1, e.model, b, toks⟩
          let s := s.memPut lovId at_ 4 n
          let s := (List.range l.layers).foldl (fun s layer => s.memPut lovId (s.vecAt t n layer) 4 (pages.getD layer 0)) s
          let s := pages.foldl (fun s p => s.modPage t p (fun m => { m with refs := m.refs + 1 })) s
          let s := if parent = hole then s else s.modNode t parent (fun p => { p with children := p.children + 1 })
          let s := (s.bump (lovT t 0x3C)).setReg (lovT t 0x2C) (s.reg (lovT t 0x2C) - 1)
          (s.modEntry i (fun e => { e with node := some n })).insertGo l i fuel

/-! ## Reclaiming (R239) -/

/-- Unlink node `n` from a bucket chain whose link lies at `at_`; `fuel` bounds the chain. -/
def State.unlinkNode (s : State) (t n : Nat) : Nat → Nat → State
  | 0, _ => s
  | fuel + 1, at_ =>
    let i := s.unitNat lovId at_ 4
    let s := s.unitRead lovId at_ 4
    if s.nodeCount t ≤ i then s
    else if i = n then s.memPut lovId at_ 4 (s.node t n).next
    else s.unlinkNode t n fuel (s.nodeAt t i + 0xC)

/-- Reclaim one node. -/
def State.reclaimNode (s : State) (t layers n : Nat) : State :=
  let x := s.node t n
  let s := s.unlinkNode t n (s.nodeCount t) (s.bucketAt t x.key)
  let s := s.unitRead lovId (s.vecAt t n 0) (4 * layers)
  let s := (List.range layers).foldl (fun s layer => s.unrefPage t (s.unitNat lovId (s.vecAt t n layer) 4)) s
  let s := if x.parent = hole then s else s.modNode t x.parent (fun p => { p with children := p.children - 1 })
  let s := s.modNode t n (fun x => { x with state := 0 })
  (s.bump (lovT t 0x44)).setReg (lovT t 0x2C) (s.reg (lovT t 0x2C) + 1)

/-- The candidate of least LAST_HIT. -/
def State.reclaimPick (s : State) (t : Nat) : Option Nat :=
  (List.range (s.nodeCount t)).foldl (fun m i =>
    let n := s.node t i
    if n.state = 1 ∧ n.children = 0 ∧ n.users = 0 then
      match m with
      | none => some i
      | some j => if n.lastHit < (s.node t j).lastHit then some i else m
    else m) none

/-- Reclaim nodes until the free count reaches HIGH_WM; `fuel` bounds the nodes. -/
def State.reclaimGo (s : State) (t : Nat) : Nat → State
  | 0 => s
  | fuel + 1 =>
    if s.reg (lovT t 0x28) ≤ s.reg (lovT t 0x2C) then s
    else
      match s.reclaimPick t with
      | none => s
      | some n =>
        let layers := s.modelLayers t (s.node t n).model
        ((s.readNodes t (List.range (s.nodeCount t))).reclaimNode t layers n).reclaimGo t fuel

/-- Reclaim while the free nodes are below LOW_WM. -/
def State.reclaim (s : State) (t : Nat) : State :=
  if s.reg (lovT t 0x24) ≤ s.reg (lovT t 0x2C) then s else s.reclaimGo t (s.nodeCount t)

/-- Format a tenant's pool when it has changed: buckets empty, nodes free.
Log entry 88 (DEDUCED). -/
def State.lovFormat (s : State) (t : Nat) : State :=
  let key := [s.reg64 (lovT t 0), s.nodeCount t, s.reg (lovT t 0xC), s.reg64 (lovT t 0x10), s.reg64 (lovT t 0x18), s.reg (lovT t 0x20)]
  if tabGet [] s.serve.pool t = key ∨ s.nodeCount t = 0 then s
  else
    let s := { s with serve := { s.serve with pool := tabSet [] s.serve.pool t key } }
    let s := s.unitWrite lovId (s.bucketAt t 0) (List.replicate (4 * 2 ^ clampNat 10 22 (s.reg (lovT t 0xC))) 0xFF)
    let s := (List.range (s.nodeCount t)).foldl (fun s i => s.unitWrite lovId (s.nodeAt t i + 0x1C) [0]) s
    s.setReg (lovT t 0x2C) (s.nodeCount t)

end Sys2Proof.Machine
end

