-- ==== Sys2Proof/Machine/View.lean ====
section
/-!
DEFINITION. The input pre-processor (R265–R271): geometry, sampling, colour conversion, normalisation of one view.
-/
namespace Sys2Proof.Machine

/-! ## FP32 under RNE (R267) -/

/-- a + b. -/
def v32Add (a b : FV) : FV := (cAdd fp32 0 a b).1
/-- a − b. -/
def v32Sub (a b : FV) : FV := (cSub fp32 0 a b).1
/-- a × b. -/
def v32Mul (a b : FV) : FV := (cMul fp32 0 a b).1
/-- a ÷ b. -/
def v32Div (a b : FV) : FV := (cDiv fp32 0 a b).1
/-- A number as a value. -/
def fvNat (n : Nat) : FV := .fin false n 0
/-- An integer as a value. -/
def fvInt (i : Int) : FV := .fin (decide (i < 0)) i.natAbs 0
/-- One half. -/
def fvHalf : FV := .fin false 1 (-1)
/-- The FP32 value nearest to a number of ten-thousandths. -/
def fvDec4 (n : Nat) : FV := v32Div (fvNat n) (fvNat 10000)

/-- Largest integer at or below a finite value; 0 of the others. -/
def FV.floor : FV → Int
  | .fin neg q e =>
    let i : Int := if neg then -(q : Int) else q
    if 0 ≤ e then i * (2 ^ e.toNat : Nat) else i / (2 ^ (-e).toNat : Nat)
  | _ => 0

/-! ## The view descriptor (R265) -/

/-- A field of a view descriptor. -/
def vf (v : List Byte) (off n : Nat) : Nat := fieldLe v off n
/-- ANGLE. -/
def vAngle (v : List Byte) : Int := toInt 16 (vf v 0xA 2)
/-- Channels of the output. -/
def vChans (v : List Byte) : Nat := if vf v 0x10 1 = 2 then 1 else 3
/-- Bytes of an output element. -/
def vSize (v : List Byte) : Nat := if vf v 0x11 1 = 2 then 2 else 1
/-- wr and hr (R268). -/
def vRatio (v : List Byte) : Nat × Nat := if vf v 8 1 % 2 = 0 then (vf v 4 2, vf v 6 2) else (vf v 6 2, vf v 4 2)

/-- Bytes that slot 0 of a view covers from OUT_BASE. -/
def vBytes (v : List Byte) : Nat :=
  let c := vChans v
  if vf v 0x12 1 = 0 then (vf v 0xE 2 - 1) * vf v 0x14 4 + vf v 0xC 2 * c * vSize v
  else (c - 1) * vf v 0x24 4 + (vf v 0xE 2 - 1) * vf v 0x14 4 + vf v 0xC 2 * vSize v

/-- Whether a view obeys R265 and R266, for a context of pictures up to `mw` × `mh`. -/
def viewOk (v : List Byte) (mw mh : Nat) : Bool :=
  let f := vf v
  let (wr, hr) := vRatio v
  let ow := f 0xC 2
  let oh := f 0xE 2
  f 0 2 % 2 == 0 && f 2 2 % 2 == 0 && f 4 2 % 2 == 0 && f 6 2 % 2 == 0 && decide (2 ≤ f 4 2) && decide (2 ≤ f 6 2) &&
  decide (f 0 2 + f 4 2 ≤ mw) && decide (f 2 2 + f 6 2 ≤ mh) && decide (f 8 1 ≤ 3) && decide (f 9 1 ≤ 2) &&
  decide (-20000 ≤ vAngle v) && decide (vAngle v ≤ 20000) && decide (1 ≤ ow) && decide (ow ≤ 8192) && decide (1 ≤ oh) &&
  decide (oh ≤ 8192) && decide (f 0x10 1 ≤ 3) && [2, 4, 0xB].contains (f 0x11 1) && decide (f 0x12 1 ≤ 1) && decide (f 0x13 1 ≤ 2) &&
  f 0x14 4 % 32 == 0 && f 0x18 6 % 32 == 0 && f 0x1E 2 == 0 && (f 0x12 1 == 1 || f 0x24 4 == 0) &&
  decide (ow ≤ 8 * wr) && decide (wr ≤ 16 * ow) && decide (oh ≤ 8 * hr) && decide (hr ≤ 16 * oh) &&
  (f 9 1 != 2 || (vAngle v == 0 && wr % ow == 0 && hr % oh == 0)) &&
  (List.range 6).all (fun k => (fp32.decode (f (0x28 + 4 * k) 4)).isFin)

/-! ## Geometry (R268) -/

/-- The point of output pixel (u, v) in luma units.
Log entry 99 (DEDUCED). -/
def viewPoint (d : List Byte) (u v : Nat) : FV × FV :=
  let (wr, hr) := vRatio d
  let ow := fvNat (vf d 0xC 2)
  let oh := fvNat (vf d 0xE 2)
  let du := v32Mul (v32Sub (v32Add (fvNat u) fvHalf) (v32Div ow (fvNat 2))) (v32Div (fvNat wr) ow)
  let dv := v32Mul (v32Sub (v32Add (fvNat v) fvHalf) (v32Div oh (fvNat 2))) (v32Div (fvNat hr) oh)
  let (c, s) := if vAngle d = 0 then (FV.one, FV.zero)
    else angleTrig (vAngle d)
  let a := v32Sub (v32Mul du c) (v32Mul dv s)
  let b := v32Add (v32Mul du s) (v32Mul dv c)
  let (dx, dy) := match vf d 8 1 with
    | 0 => (a, b)
    | 1 => (b, a.negate)
    | 2 => (a.negate, b.negate)
    | _ => (b.negate, a)
  (v32Add (v32Add (fvNat (vf d 0 2)) (v32Div (fvNat (vf d 4 2)) (fvNat 2))) dx,
   v32Add (v32Add (fvNat (vf d 2 2)) (v32Div (fvNat (vf d 6 2)) (fvNat 2))) dy)

/-! ## Sampling (R269) -/

/-- A plane: samples in row order, row length, and the rectangle of the crop as x, y, width, height. -/
structure Plane where
  data : List Nat
  pitch : Nat
  x : Nat
  y : Nat
  w : Nat
  h : Nat
  deriving DecidableEq, Repr

/-- A sample, its indices clamped to the crop. -/
def Plane.at (p : Plane) (i j : Int) : FV :=
  let c := fun (lo n : Nat) (k : Int) => if k < lo then lo else if (lo + n : Nat) ≤ k then lo + n - 1 else k.toNat
  fvNat (p.data.getD (c p.y p.h j * p.pitch + c p.x p.w i) 0)

/-- Bilinear sampling. -/
def Plane.bilinear (p : Plane) (x y : FV) : FV :=
  let xh := v32Sub x fvHalf
  let yh := v32Sub y fvHalf
  let i := xh.floor
  let j := yh.floor
  let fx := v32Sub xh (fvInt i)
  let fy := v32Sub yh (fvInt j)
  let gx := v32Sub .one fx
  let row := fun (j : Int) => v32Add (v32Mul (p.at i j) gx) (v32Mul (p.at (i + 1) j) fx)
  v32Add (v32Mul (row j) (v32Sub .one fy)) (v32Mul (row (j + 1)) fy)

/-- Nearest sampling. -/
def Plane.nearest (p : Plane) (x y : FV) : FV := p.at x.floor y.floor

/-- The block of luma samples that output pixel (u, v) covers with FILTER 2: first column, first row, columns, rows. -/
def areaBlock (d : List Byte) (u v : Nat) : Int × Int × Nat × Nat :=
  let (wr, hr) := vRatio d
  let ow := vf d 0xC 2
  let oh := vf d 0xE 2
  let rx := wr / max 1 ow
  let ry := hr / max 1 oh
  let du : Int := (2 * u + 1 : Nat) * rx - (ow * rx : Nat)
  let dv : Int := (2 * v + 1 : Nat) * ry - (oh * ry : Nat)
  let (dx, dy) := match vf d 8 1 with
    | 0 => (du, dv)
    | 1 => (dv, -du)
    | 2 => (-du, -dv)
    | _ => (-dv, du)
  let (bw, bh) := if vf d 8 1 % 2 = 0 then (rx, ry) else (ry, rx)
  (((2 * vf d 0 2 + vf d 4 2 : Nat) + dx - bw) / 2, ((2 * vf d 2 2 + vf d 6 2 : Nat) + dy - bh) / 2, bw, bh)

/-- Area sampling of luma. -/
def Plane.area (p : Plane) (b : Int × Int × Nat × Nat) : FV :=
  let (i, j, w, h) := b
  let vs := (List.range h).flatMap (fun r => (List.range w).map (fun c => p.at (i + (c : Nat)) (j + (r : Nat))))
  let sum := match vs with
    | [] => FV.zero
    | a :: t => t.foldl v32Add a
  v32Div sum (fvNat (w * h))

/-- Coordinates in a chroma plane, by the location type. -/
def chromaPoint (loc : Nat) (x y : FV) : FV × FV :=
  let (x0, y0) := if loc = 1 then (FV.one, FV.one) else if loc = 2 then (fvHalf, fvHalf) else (fvHalf, FV.one)
  (v32Add (v32Div (v32Sub x x0) (fvNat 2)) fvHalf, v32Add (v32Div (v32Sub y y0) (fvNat 2)) fvHalf)

/-! ## Colour (R270) -/

/-- y, cb and cr of sampled values at a bit depth. -/
def toYcc (depth : Nat) (full : Bool) (vy vb vr : FV) : FV × FV × FV :=
  if full then
    let m := fvNat (2 ^ depth - 1)
    let h := fvNat (2 ^ (depth - 1))
    (v32Div vy m, v32Div (v32Sub vb h) m, v32Div (v32Sub vr h) m)
  else
    let q := 2 ^ (depth - 8)
    (v32Div (v32Sub vy (fvNat (16 * q))) (fvNat (219 * q)), v32Div (v32Sub vb (fvNat (128 * q))) (fvNat (224 * q)),
     v32Div (v32Sub vr (fvNat (128 * q))) (fvNat (224 * q)))

/-- R′, G′ and B′. -/
def toRgb (bt2020 : Bool) (y cb cr : FV) : FV × FV × FV :=
  let kr := fvDec4 (if bt2020 then 2627 else 2126)
  let kb := fvDec4 (if bt2020 then 593 else 722)
  let r := v32Add y (v32Mul (v32Mul (fvNat 2) (v32Sub .one kr)) cr)
  let b := v32Add y (v32Mul (v32Mul (fvNat 2) (v32Sub .one kb)) cb)
  let g := v32Div (v32Sub (v32Sub y (v32Mul kr r)) (v32Mul kb b)) (v32Sub (v32Sub .one kr) kb)
  (r, g, b)

/-! ## One view (R271) -/

/-- The channel values of output pixel (u, v) before normalisation. -/
def viewPixel (d : List Byte) (p : Picture) (data : List Nat) (u v : Nat) : List FV :=
  let cw := (p.w + 1) / 2
  let ch := (p.h + 1) / 2
  let cx := vf d 0 2
  let cy := vf d 2 2
  let w := vf d 4 2
  let h := vf d 6 2
  let lp : Plane := ⟨data, p.w, cx, cy, w, h⟩
  let bp : Plane := ⟨data.drop (p.w * p.h), cw, cx / 2, cy / 2, w / 2, h / 2⟩
  let rp : Plane := ⟨data.drop (p.w * p.h + cw * ch), cw, cx / 2, cy / 2, w / 2, h / 2⟩
  let (x, y) := viewPoint d u v
  let (xc, yc) := chromaPoint p.loc x y
  let filter := vf d 9 1
  let luma := if filter = 1 then lp.nearest x y else if filter = 2 then lp.area (areaBlock d u v) else lp.bilinear x y
  let chroma := fun (q : Plane) => if filter = 1 then q.nearest xc yc else q.bilinear xc yc
  let (yy, cb, cr) := toYcc p.depth p.full luma (chroma bp) (chroma rp)
  let (r, g, b) := toRgb (if vf d 0x13 1 = 0 then p.bt2020 else vf d 0x13 1 == 2) yy cb cr
  match vf d 0x10 1 with
  | 0 => [r, g, b]
  | 1 => [b, g, r]
  | 2 => [yy]
  | _ => [yy, cb, cr]

/-- The encoded elements of output pixel (u, v), and how many saturated. -/
def viewElems (d : List Byte) (p : Picture) (data : List Nat) (u v : Nat) : List Nat × Nat :=
  let f := fmtGet (vf d 0x11 1)
  let es := (viewPixel d p data u v).mapIdx (fun k x =>
    f.put ⟨0, true, 0⟩ (v32Mul (v32Sub x (fp32.decode (vf d (0x28 + 4 * k) 4))) (fp32.decode (vf d (0x34 + 4 * k) 4))))
  (es.map (·.1), (es.filter (fun e => e.2 / fSat % 2 == 1)).length)

/-- Write a view of a picture into ring slot `n` as initiator `ini`; the answer counts saturated values.
Log entry 99 (DEDUCED). -/
def State.writeView (s : State) (ini : Nat) (d : List Byte) (p : Picture) (data : List Nat) (n : Nat) : State × Nat :=
  let c := vChans d
  let sz := vSize d
  let base := vf d 0x18 6 + n * vf d 0x20 4
  (List.range (vf d 0xE 2)).foldl (fun (a : State × Nat) v =>
    let px := (List.range (vf d 0xC 2)).map (fun u => viewElems d p data u v)
    let sat := a.2 + (px.map (·.2)).sum
    let row := base + v * vf d 0x14 4
    if vf d 0x12 1 = 0 then ((a.1.memWrite ini row (px.flatMap (fun e => e.1.flatMap (natLe sz)))).1, sat)
    else
      ((List.range c).foldl (fun s k =>
        (s.memWrite ini (row + k * vf d 0x24 4) (px.flatMap (fun e => natLe sz (e.1.getD k 0)))).1) a.1, sat)) (s, 0)

end Sys2Proof.Machine
end

