-- ==== Sys2Proof/Machine/Video.lean ====
section
/-!
DEFINITION. FP0 and the decode contexts (R249–R274): packets, access units, RTSP, decoders, pre-processors, records.
-/
namespace Sys2Proof.Machine

/-! ## Contexts -/

/-- A decode context. -/
def State.dctx (s : State) (c : Nat) : DecCtx := tabGet {} s.video.dec c
/-- Set a decode context. -/
def State.setDctx (s : State) (c : Nat) (x : DecCtx) : State := { s with video := { s.video with dec := tabSet {} s.video.dec c x } }
/-- Change a decode context. -/
def State.modDctx (s : State) (c : Nat) (f : DecCtx → DecCtx) : State := s.setDctx c (f (s.dctx c))
/-- The descriptor of a decode context as its registers hold it (R257). -/
def State.ddesc (s : State) (c : Nat) : List Byte := natLe 128 (s.regWords (vdecA c 0x100) 32)
/-- A field of it. -/
def State.dd (s : State) (c off n : Nat) : Nat := fieldLe (s.ddesc c) off n
/-- Tenant of a decode context. -/
def State.dten (s : State) (c : Nat) : Nat := s.dd c 0 1 % 16
/-- STATE of a decode context. -/
def State.dstate (s : State) (c : Nat) : Nat := s.fld (vdecA c 4) 31 28
/-- Set STATE. -/
def State.setDstate (s : State) (c v : Nat) : State := s.setFld (vdecA c 4) 31 28 v
/-- Set ERR. -/
def State.setDerr (s : State) (c v : Nat) : State := s.setFld (vdecA c 4) 27 20 v
/-- Increment counter `k` of a decode context: 0 PKTS to 14 RECONNECTS. -/
def State.dcount (s : State) (c k : Nat) : State := s.bump (vdecA c (0x10 + 4 * k))
/-- Open and not closing. -/
def State.dopen (s : State) (c : Nat) : Bool := s.dstate c != 0 && !(s.dctx c).closing
/-- Decode contexts that are open. -/
def State.dopens (s : State) : List Nat := (List.range 128).filter s.dopen

/-- Initiator ID of engine `i` of the codec unit: 0–3 decoders, 4–5 encoders (R11).
Log entry 24 (DESIGN CHOICE). -/
def codecId (i : Nat) : Nat := mkId 4 0 14 i

/-- A picture of a tenant-0 context was lost: the step markers that expected it carry FLAGS bit 0 (R253, R272).
Log entry 96 (DEDUCED). -/
def State.inputLost (s : State) (c : Nat) : State :=
  if s.dten c = 0 then
    { s with log := { s.log with
      gapCtx := s.log.gapCtx.filter (fun e => e.2 != c) ++ (List.range 8).map (fun p => (p, c)) } }
  else s

/-- FP0 is enabled and its link is up. -/
def State.fp0Up (s : State) : Bool := s.rbit (fptA 0) 0 && s.rbit (fptA 4) 0

/-- A frame leaves FP0 while its link is up. -/
def State.fp0Send (s : State) (kind : String) (data : List Byte) : State :=
  if s.fp0Up then (s.bump (fptA 0x20)).send (.fp0 kind data) else s

/-- The time that a context's input follows: module time, or the MODULE_TIME of the record last taken while a replay stands for
tenant 0's input (R184, R252). -/
def State.inputTime (s : State) (c : Nat) : Nat :=
  match s.log.replay with
  | some r => if s.dten c = 0 then r.time else s.timeNs
  | none => s.timeNs

/-- VID_STATUS.
Log entry 104 (DEDUCED). -/
def State.vidStatus (s : State) : State :=
  let v := s.video
  let m := fun n (p : Nat → Bool) => ((List.range n).filter p).foldl (fun a i => a + 2 ^ i) 0
  s.setReg (vidA 4) (m 4 (fun i => (tabGet none v.decoder i).isSome) + 16 * m 4 (fun i => (tabGet none v.pre i).isSome) +
    256 * m 2 (fun i => (tabGet none v.encoder i).isSome))

/-! ## Drops (R263) -/

/-- An access unit is dropped whose drop goes back to an overflow of the queue (R253). -/
def State.overDrop (s : State) (c au : Nat) : State := (s.modDctx c (fun x => { x with overAus := x.overAus ++ [au] })).inputLost c

/-- A picture is dropped.
Log entry 96 (DEDUCED). -/
def State.dropPic (s : State) (c au : Nat) : State :=
  let keep := fun (o : OutPic) => o.au != au
  (s.modDctx c (fun x => { x with
    dropped := x.dropped ++ [au], wait := x.wait.filter (· != au), pics := x.pics.filter (·.au != au), out := x.out.filter keep
    jobs := x.jobs.filter (fun j => match j.pic with | some o => keep o | none => true)
    feed := x.feed.filter (· != au) })).dcount c 8

/-! ## Access units (R252, R253) -/

/-- Numbers of the range `[a, b]` that a list does not hold. -/
def missing (held : List Nat) (a b : Nat) : Nat := ((List.range (b + 1 - a)).filter (fun i => !held.contains (a + i))).length

/-- Numbers of the packets that have arrived. -/
def AuOpen.nums (a : AuOpen) : List Nat := a.pkts.map (·.1) ++ a.refused
/-- Highest sequence number that has arrived. -/
def AuOpen.top (a : AuOpen) : Nat := a.nums.foldl max 0
/-- Lowest sequence number that has arrived. -/
def AuOpen.bottom (a : AuOpen) : Nat := a.nums.foldl min a.top
/-- The number of the packet with the marker bit. -/
def AuOpen.marker (a : AuOpen) : Option Nat := (a.pkts.find? (fun p => p.2.1)).map (·.1)

/-- Where an access unit begins: behind what is closed and behind the open ones of lower numbers. -/
def DecCtx.from_ (x : DecCtx) (a : AuOpen) : Nat :=
  let ends : List Nat := (x.ahead.map (fun p => p.2) ++ x.assem.map (fun (b : AuOpen) => b.top + 1)).filter (fun e => decide (e ≤ a.top))
  ends.foldl max (x.next.getD a.bottom)

/-- Take an access unit that ends before `e` out of those being assembled. While one of lower numbers is open, the end of the
last access unit stays where it is.
Log entry 95 (DEDUCED). -/
def DecCtx.closed (x : DecCtx) (a : AuOpen) (e : Nat) : DecCtx :=
  let open_ := x.assem.filter (fun b => b.ts != a.ts)
  let behind := fun (e : Nat) => open_.any (fun b => decide (b.top < e))
  let ahead := x.ahead ++ [(a.ts, e)]
  let done := ahead.filter (fun p => !behind p.2)
  let x := { x with assem := open_, ahead := ahead.filter (fun p => behind p.2) }
  match done with
  | [] => x
  | p :: ps =>
    let last := ps.foldl (fun m q => if m.2 < q.2 then q else m) p
    { x with next := some (max last.2 (x.next.getD 0)), lastTs := some last.1 }

/-- Close an access unit at a time.
Log entry 95 (DEDUCED). -/
def State.closeAu (s : State) (c : Nat) (a : AuOpen) (time : Nat) : State :=
  let x := s.dctx c
  let hi := a.marker.getD a.top
  let miss := missing (x.assem.flatMap AuOpen.nums) (x.from_ a) hi
  let damaged := decide (0 < miss) || !a.refused.isEmpty || a.marker.isNone
  let s := s.dcount c 4
  let s := s.bumpBy (vdecA c 0x14) miss
  let s := if damaged then s.dcount c 5 else s
  let n := x.auNext
  let x : DecCtx := { x.closed a (hi + 1) with auNext := n + 1 }
  if 8 ≤ x.queue.length + x.wait.length then
    (((s.setDctx c x).dcount c 6).dropPic c n).overDrop c n
  else
    let order := a.pkts.mergeSort (fun p q => decide (p.1 ≤ q.1))
    s.setDctx c { x with queue := x.queue ++ [⟨n, a.ts, time, a.cyc, a.cnt, order.map (·.2.2), damaged⟩] }

/-- Deadline of an access unit. -/
def State.auDeadline (s : State) (c : Nat) (a : AuOpen) : Nat := a.first + clampNat 100 200000 (s.dd c 0x20 4) * 1000

/-- The access unit of the earliest deadline before `t`; of several the one of the lowest numbers. -/
def State.auDue (s : State) (c t : Nat) : Option AuOpen :=
  let d := s.auDeadline c
  match (s.dctx c).assem.filter (fun a => decide (d a < t)) with
  | [] => none
  | a :: as => some (as.foldl (fun m b => if d b < d m ∨ d b = d m ∧ b.top < m.top then b else m) a)

/-- Close the access units whose deadline lies before `t`, each at its own; `fuel` bounds them.
Log entry 95 (DEDUCED). -/
def State.closeDue (s : State) (c t : Nat) : Nat → State
  | 0 => s
  | fuel + 1 =>
    match s.auDue c t with
    | none => s
    | some a => (s.closeAu c a (s.auDeadline c a)).closeDue c t fuel

/-- Close the access units that are complete (R252); `fuel` bounds them. -/
def State.closeComplete (s : State) (c t : Nat) : Nat → State
  | 0 => s
  | fuel + 1 =>
    let x := s.dctx c
    match x.assem.find? (fun a =>
      match a.marker with
      | some m => missing (a.pkts.map (·.1)) (x.next.getD a.bottom) m == 0 &&
          (x.next.isSome || x.assem.all (fun b => decide (a.bottom ≤ b.bottom)))
      | none => false) with
    | none => s
    | some a => (s.closeAu c a t).closeComplete c t fuel

/-! ## Packets (R250–R252) -/

/-- A big-endian number of a byte list. -/
def fieldBe (l : List Byte) (off n : Nat) : Nat := (slice l off n).foldl (fun a b => a * 256 + b.toNat) 0

/-- An RTP packet: marker, payload type, sequence number, timestamp, payload. -/
def rtpParse (b : List Byte) : Option (Bool × Nat × Nat × Nat × List Byte) :=
  let b0 := fieldBe b 0 1
  let b1 := fieldBe b 1 1
  let h := 12 + 4 * (b0 % 16)
  let h := if bit b0 4 then h + 4 + 4 * fieldBe b (h + 2) 2 else h
  let pad := if bit b0 5 then fieldBe b (b.length - 1) 1 else 0
  if b.length < 12 ∨ b0 / 64 ≠ 2 ∨ b.length < h + pad then none
  else some (bit b1 7, b1 % 128, fieldBe b 2 2, fieldBe b 4 4, (b.drop h).take (b.length - h - pad))

/-- Whether a payload uses a packetisation that R251 accepts. -/
def packOk (codec : Nat) (p : List Byte) : Bool :=
  let t := fieldBe p 0 1
  match codec with
  | 0 => (decide (1 ≤ t % 32) && decide (t % 32 ≤ 24)) || t % 32 == 28
  | 1 => decide (t / 2 % 64 ≤ 49)
  | _ => !p.isEmpty

/-- The extended number of a 16-bit sequence number, nearest to the highest so far. -/
def extSeq (hi : Option Nat) (n : Nat) : Nat :=
  match hi with
  | none => 65536 + n
  | some h =>
    let d := (n + 65536 - h % 65536) % 65536
    if d < 32768 then h + d else h + d - 65536

/-- A packet of a context, arrived at a time with its phase stamp.
Log entry 95 (DEDUCED). -/
def State.packetIn (s : State) (c time cyc cnt : Nat) (b : List Byte) : State :=
  let s := s.closeDue c time (s.dctx c).assem.length
  let s := (s.dcount c 0).setReg64 (vdecA c 0x50) time
  let s := s.modDctx c (fun x => { x with heard := s.timeNs, silent := false })
  match rtpParse b with
  | none => s
  | some (mark, pt, n, ts, p) =>
    let x := s.dctx c
    let refused := pt ≠ s.dd c 0xC 1 ∨ !packOk (s.dd c 1 1) p
    let e := extSeq x.hi n
    let x := { x with hi := some (max e (x.hi.getD 0)) }
    let known := x.assem.any (·.ts == ts)
    let late := !known && ((match x.next with | some m => decide (e < m) | none => false) || x.lastTs == some ts ||
      x.ahead.any (·.1 == ts))
    if late then (s.setDctx c x).dcount c 2
    else if x.assem.any (fun a => a.nums.contains e) then (s.setDctx c x).dcount c 3
    else
      let x := if known then x else { x with assem := x.assem ++ [{ ts := ts, first := time, cyc := cyc, cnt := cnt }] }
      let x := { x with assem := x.assem.map (fun a =>
        if a.ts ≠ ts then a
        else if refused then { a with refused := a.refused ++ [e] }
        else { a with pkts := a.pkts ++ [(e, mark, p)] }) }
      (s.setDctx c x).closeComplete c time x.assem.length

/-- CLOCK_OFFSET from an RTCP sender report: module time less the report's NTP time, in ns since 1970.
Log entry 104 (DEDUCED). -/
def State.rtcpIn (s : State) (c : Nat) (b : List Byte) : State :=
  if fieldBe b 1 1 ≠ 200 ∨ b.length < 16 then s
  else
    let ntp : Int := ((fieldBe b 8 4 : Nat) - 2208988800) * 1000000000 + (fieldBe b 12 4 * 1000000000 / 2 ^ 32 : Nat)
    s.setReg64 (vdecA c 0x58) (ofInt 64 ((s.timeNs : Int) - ntp))

/-- UDP port of a context: the descriptor's, or that of a multicast session. -/
def State.dport (s : State) (c : Nat) : Nat := ((s.dctx c).rtsp.group.map (·.2)).getD (s.dd c 0xA 2)

/-- The context that a datagram is for, and whether it is RTCP (R250). -/
def State.udpFor (s : State) (x : UdpIn) : Option (Nat × Bool) :=
  match s.dopens.find? (fun c => s.dport c == x.dport && (!bit (s.dd c 2 1) 3 || slice x.src 0 16 == slice (s.ddesc c) 0x10 16)) with
  | some c => some (c, false)
  | none => (s.dopens.find? (fun c => s.dport c + 1 == x.dport)).map (fun c => (c, true))

/-- A datagram that FP0 accepts (R250). -/
def State.udpIn (s : State) (x : UdpIn) (full : Bool) : State :=
  match s.udpFor x with
  | some (c, false) =>
    let (cyc, cnt, _) := s.thyPhase
    let s := if s.dten c = 0 then s.logRecord 1 c s.timeNs x.payload full else s
    s.packetIn c s.timeNs cyc cnt x.payload
  | some (c, true) => s.rtcpIn c x.payload
  | none => s.bump (fptA 0x18)

/-- The next packet of a replay (R184): that of the next record, if it is of kind 1. -/
def State.replayPacket (s : State) : State :=
  match s.replayTake 1 (fun _ => true) with
  | (s, some (h, p)) =>
    if s.dopen (fieldLe h 2 2) then s.packetIn (fieldLe h 2 2) (fieldLe h 8 8) (fieldLe h 0x10 4) (fieldLe h 0x14 4) p else s
  | (s, none) => s

/-- UDP_DATAGRAM_RX (R250): during a replay a datagram that is for no host tenant's context stands for the pipeline's next
recorded packet (R184).
Log entry 79 (DEDUCED). -/
def execUdpDatagramRx (x : UdpIn) (logFull : Bool) (s : State) : Host.Outcome State Fault Refusal :=
  let host := match s.udpFor x with | some (c, _) => s.dten c != 0 | none => false
  if s.log.replay.isSome ∧ !host then .next s.replayPacket
  else if !s.fp0Up then .next s
  else
    let s := (s.bump (fptA 0x10)).bump64By (fptA 0x28) x.frameLen
    if x.fcsBad then .next (s.bump (fptA 0x14))
    else if x.fragment then .next (s.bump (fptA 0x1C))
    else if 9216 < x.frameLen ∨ (s.rbit (fptA 0) 1 ∧ x.vlan ≠ some (s.fld (fptA 0) 27 16)) then .next s
    else .next (s.udpIn x logFull)

/-- AU_REORDER_TIMEOUT (R252). -/
def execAuReorderTimeout (c : Fin 128) (s : State) : Host.Outcome State Fault Refusal :=
  .next (if s.dopen c then s.closeDue c (s.inputTime c) (s.dctx c).assem.length else s)

/-! ## RTCP, RTSP and silence (R251, R254, R255) -/

/-- RTCP_RECEIVER_REPORT (R251): every 5 s. -/
def execRtcpReceiverReport (c : Fin 128) (s : State) : Host.Outcome State Fault Refusal :=
  if s.dopen c ∧ (s.dctx c).rtcpAt + 5000000000 ≤ s.timeNs then
    .next ((s.modDctx c (fun x => { x with rtcpAt := s.timeNs })).fp0Send "RTCP receiver report" (natLe 1 c))
  else .next s

/-- Change the RTSP session of a context. -/
def State.modRtsp (s : State) (c : Nat) (f : Rtsp → Rtsp) : State := s.modDctx c (fun x => { x with rtsp := f x.rtsp })

/-- The request of a step. -/
def rtspName (step : Nat) : String :=
  match step with
  | 1 => "OPTIONS"
  | 2 => "DESCRIBE"
  | 3 => "SETUP"
  | _ => "PLAY"

/-- The camera-table entry of a context (R368). -/
def State.camera (s : State) (c : Nat) : List Byte := s.video.cams.getD (s.dd c 0x34 4) []

/-- Whether the camera entry of a context permits Basic authentication (R368). -/
def State.basicOk (s : State) (c : Nat) : Bool := bit (fieldLe (s.camera c) 0xF0 1) 0

/-- The transport that a SETUP asks for (R254): RTP/AVP over UDP on the client ports of a unicast session, or on the group and
port of a multicast one. -/
def State.rtspTransport (s : State) (c : Nat) : List Byte :=
  match (s.dctx c).rtsp.group with
  | none => natLe 1 0 ++ natLe 2 (s.dd c 0xA 2) ++ natLe 2 (s.dd c 0xA 2 + 1)
  | some (g, p) => natLe 1 1 ++ slice g 0 16 ++ natLe 2 p ++ natLe 2 (p + 1)

/-- A request of the client: the context, the camera's URL, the authentication that goes with it (0 none, 1 and 2 Digest, 3
Basic) with the user name and password it is computed from, and more by request.
Log entry 101 (DEDUCED). -/
def State.rtspRequest (s : State) (c : Nat) (name : String) (more : List Byte) : State :=
  let auth := (s.dctx c).rtsp.auth
  s.fp0Send name (natLe 1 c ++ slice (s.camera c) 0 160 ++ natLe 1 auth ++
    (if auth = 0 then [] else slice (s.camera c) 0xA0 80) ++ more)

/-- Send the request of a step. -/
def State.rtspGo (s : State) (c step : Nat) : State :=
  (s.modRtsp c (fun r => { r with step := step })).rtspRequest c (rtspName step) (if step = 3 then s.rtspTransport c else [])

/-- The client connects. -/
def State.rtspConnect (s : State) (c : Nat) : State :=
  ((s.modRtsp c (fun r => { r with auth := 0, group := none, joined := false })).setDstate c 1).rtspGo c 1

/-- A session is lost (R255). -/
def State.rtspLost (s : State) (c err : Nat) : State :=
  let s := (s.rtspRequest c "TEARDOWN" []).setDerr c err
  (s.modRtsp c (fun r => { r with
    step := 0, retryAt := s.timeNs + r.backoff * 1000000000, backoff := min 64 (2 * r.backoff), group := none, joined := false })).setDstate c 3

/-- Whether a group address is an IPv4 one. -/
def isIp4 (g : List Byte) : Bool := slice g 0 12 == zeros 10 ++ natLe 2 0xFFFF

/-- Report groups as joined (R249). -/
def State.joinReport (s : State) (v4 : Bool) (groups : List (List Byte)) : State :=
  match groups.filter (fun g => isIp4 g == v4) with
  | [] => s
  | gs =>
    if v4 then s.fp0Send "IGMPv3 report" (gs.flatMap (fun g => slice g 12 4))
    else s.fp0Send "MLDv2 report" (gs.flatMap (fun g => slice g 0 16))

/-- Join the group of a multicast session. -/
def State.joinGroup (s : State) (c : Nat) : State :=
  match (s.dctx c).rtsp.group with
  | none => s
  | some (g, _) => (s.modRtsp c (fun r => { r with joined := true })).joinReport (isIp4 g) [g]

/-- The authentication that the client answers a challenge with (0: none). -/
def State.rtspAuth (s : State) (c : Nat) (r : RtspReply) : Nat :=
  if r.sha256 then 1 else if r.md5 then 2 else if r.basic && s.basicOk c then 3 else 0

/-- A response to the client's request (R254).
Log entry 101 (DEDUCED). -/
def State.rtspReply (s : State) (c : Nat) (r : RtspReply) : State :=
  let x := (s.dctx c).rtsp
  if !s.dopen c ∨ x.step = 0 then s
  else if 400 ≤ r.status then
    let auth := s.rtspAuth c r
    if r.status = 401 ∧ x.auth = 0 ∧ x.step < 5 ∧ auth ≠ 0 then (s.modRtsp c (fun q => { q with auth := auth })).rtspGo c x.step
    else s.rtspLost c 0x13
  else
    match x.step with
    | 1 => (s.modRtsp c (fun q => { q with getParam := r.getParam })).rtspGo c 2
    | 2 =>
      if r.media then
        let s := s.modDctx c (fun d => { d with hist := if r.params.isEmpty then d.hist else d.hist ++ [(2 ^ 32, r.params)] })
        (s.modRtsp c (fun q => { q with group := r.group })).rtspGo c 3
      else s.rtspLost c 0x13
    | 3 => ((s.modRtsp c (fun q => { q with timeout := r.timeout.getD 60, group := r.group.or q.group })).joinGroup c).rtspGo c 4
    | 4 =>
      let s := s.modRtsp c (fun q => { q with step := 5, backoff := 1, keepAt := s.timeNs + q.timeout * 500000000 })
      (s.modDctx c (fun d => { d with waitRap := true, heard := s.timeNs, silent := false })).setDstate c 4
    | _ => s

/-- RTSP_RESPONSE (R254). -/
def execRtspResponse (c : Fin 128) (r : RtspReply) (s : State) : Host.Outcome State Fault Refusal := .next (s.rtspReply c r)

/-- RTSP_KEEPALIVE (R254).
Log entry 101 (DEDUCED). -/
def execRtspKeepalive (c : Fin 128) (s : State) : Host.Outcome State Fault Refusal :=
  let x := (s.dctx c).rtsp
  if s.dopen c ∧ x.step = 5 ∧ x.keepAt ≤ s.timeNs then
    .next ((s.modRtsp c (fun q => { q with keepAt := s.timeNs + q.timeout * 500000000 })).rtspRequest c
      (if x.getParam then "GET_PARAMETER" else "OPTIONS") [])
  else .next s

/-- RTSP_SESSION_LOST (R255): the TCP connection fails. -/
def execRtspSessionLost (c : Fin 128) (s : State) : Host.Outcome State Fault Refusal :=
  .next (if s.dopen c && (s.dctx c).rtsp.step != 0 then s.rtspLost c 0x13 else s)

/-- RTSP_RETRY (R255).
Log entry 101 (DEDUCED). -/
def execRtspRetry (c : Fin 128) (s : State) : Host.Outcome State Fault Refusal :=
  .next (if s.dopen c && s.dstate c == 3 && decide ((s.dctx c).rtsp.retryAt ≤ s.timeNs) then (s.dcount c 14).rtspConnect c else s)

/-- STREAM_SILENCE (R255). -/
def execStreamSilence (c : Fin 128) (s : State) : Host.Outcome State Fault Refusal :=
  let x := s.dctx c
  if !s.dopen c ∨ x.silent ∨ s.timeNs < x.heard + s.dd c 0x24 4 * 1000000 then .next s
  else
    let s := s.modDctx c (fun x => { x with silent := true })
    .next (if bit (s.dd c 2 1) 2 && x.rtsp.step == 5 then s.rtspLost c 0x14 else s.setDerr c 0x14)

/-! ## OPEN and CLOSE (R256–R260) -/

/-- Whether a descriptor field set obeys R257. -/
def ddescOk (d : List Byte) : Bool :=
  let f := fieldLe d
  let rng := fun v lo hi => decide (lo ≤ v) && decide (v ≤ hi)
  let fl := f 2 1
  f 0 1 / 16 == 0 && decide (f 1 1 ≤ 2) && decide (fl < 16) && (!bit fl 2 || f 0 1 == 0) && rng (f 3 1) 1 4 && rng (f 4 2) 16 8192 &&
  rng (f 6 2) 16 4320 && rng (f 8 2) 1 24000 && f 0xA 2 % 2 == 0 && rng (f 0xA 2) 1024 65534 && rng (f 0xC 1) 96 127 && f 0xD 1 == 0 &&
  (if bit fl 1 then decide (f 0xE 2 < 4096) else f 0xE 2 == 0) && rng (f 0x20 4) 100 200000 && rng (f 0x24 4) 100 60000 &&
  f 0x2E 2 == 0 && f 0x28 6 % 4096 == 0 && (bit fl 2 || f 0x34 4 == 0) && f 0x3E 2 == 0 && f 0x38 6 % 32 == 0 && f 0x46 2 == 0 &&
  rng (f 0x48 4) 1 1024 && decide (f 0x4C 4 < 2 ^ 18) && bits (f 0x50 4) 30 18 == 0 && (slice d 0x54 44).all (· == 0)

/-- The view descriptors that a decode descriptor names. -/
def State.viewsOf (s : State) (d : List Byte) : List (List Byte) :=
  (List.range (fieldLe d 3 1)).map (fun k => s.unitBytes (codecId 0) (fieldLe d 0x38 6 + 64 * k) 64)

/-- Load of a decode context, in units of 1/200,000 engine-microsecond per second: decoders, pre-processors (R260). -/
def decLoad (d : List Byte) (views : List (List Byte)) : Nat × Nat :=
  let rate := fieldLe d 8 2
  (rate * (16000 + fieldLe d 4 2 * fieldLe d 6 2), (views.map (fun v => rate * (8000 + vf v 0xC 2 * vf v 0xE 2))).sum)

/-- Admitted decode and pre-processor load in the same units. -/
def State.decLoads (s : State) : Nat × Nat :=
  ((List.range 128).filter (fun c => s.dstate c != 0)).foldl (fun a c =>
    let l := decLoad (s.ddesc c) (s.dctx c).views
    (a.1 + l.1, a.2 + l.2)) (0, 0)

/-- Load registers and the count of priority contexts. -/
def State.decAdmit (s : State) : State :=
  let (a, b) := s.decLoads
  let p := ((List.range 128).filter (fun c => s.dstate c != 0 && bit (s.dd c 2 1) 0)).length
  ((s.setReg (vidA 0x10) (a / 200000)).setReg (vidA 0x14) (b / 200000)).setReg (vidA 0x1C) p

/-- The codes for which an OPEN is refused, in the order of R258. -/
def State.decErrs (s : State) (c : Nat) : List Nat :=
  let d := s.ddesc c
  let f := fieldLe d
  let t := f 0 1 % 16
  let inV := s.inPartition t (f 0x38 6) (64 * f 3 1)
  let views := if inV then s.viewsOf d else []
  let slots := f 0x48 4
  let pic := f 4 2 * f 6 2 * 3 / 2 * (if f 1 1 = 0 then 1 else 2)
  let (ld, lp) := decLoad d views
  let (a, b) := s.decLoads
  let others := (List.range 128).filter (fun k => k != c && s.dstate k != 0)
  (if ddescOk d && views.all (fun v => viewOk v (f 4 2) (f 6 2)) then [] else [1]) ++
  (if inV && s.inPartition t (f 0x28 6) (f 0x30 4) && s.inPartition t (f 0x40 6) (64 * slots) && s.objOwned t (f 0x4C 4) &&
      (match s.place (f 0x28 6) with | .hbm _ => true | _ => false) &&
      (!bit (f 0x50 4) 31 || s.objOwned t (f 0x50 4 % 2 ^ 18)) &&
      views.all (fun v => s.inPartition t (vf v 0x18 6) ((slots - 1) * vf v 0x20 4 + vBytes v) &&
        (match s.place (vf v 0x18 6) with | .hbm _ | .cluMem _ _ => true | _ => false)) then [] else [2]) ++
  (if 4000000 * 200000 < a + ld ∨ 4000000 * 200000 < b + lp then [3] else []) ++
  (if bit (f 2 1) 0 && decide (8 ≤ (others.filter (fun k => bit (s.dd k 2 1) 0)).length) then [4] else []) ++
  (if others.any (fun k => s.dd k 0xA 2 == f 0xA 2) then [5] else []) ++
  (if f 0x30 4 < ((if f 1 1 = 2 then 8 else 16) + 2) * pic then [6] else [])

/-- OPEN of a decode context (R258). -/
def State.decodeOpen (s : State) (c : Nat) : State :=
  if s.dstate c ≠ 0 then s
  else
    match s.decErrs c with
    | code :: _ => s.setFld (vdecA c 8) 7 0 code
    | [] =>
      let s := s.resetRegs (vdecA c 0x10) (vdecA c 0x60)
      let s := (s.setFld (vdecA c 8) 7 0 0).setReg (vdecA c 4) 0
      let views := s.viewsOf (s.ddesc c)
      let s := s.unitRead (codecId 0) (s.dd c 0x38 6) (64 * views.length)
      let s := s.setDctx c { views := views, heard := s.timeNs, rtcpAt := s.timeNs }
      (if bit (s.dd c 2 1) 2 then s.rtspConnect c else s.setDstate c 2).decAdmit

/-- DECODE_OPEN (R258). -/
def execDecodeOpen (ini : Nat) (c : Fin 128) (s : State) : Host.Outcome State Fault Refusal :=
  .next (s.guarded (isMgmt ini) ini (vdecA c 0) (s.decodeOpen c))

/-- CLOSE of a decode context: it takes no packet from now on and abandons what is in a decoder or a pre-processor. -/
def State.decodeClose (s : State) (c : Nat) : State :=
  if s.dstate c = 0 then s
  else
    let v := s.video
    let dec := (List.range 4).foldl (fun t i => if (tabGet none t i).any (fun p => p.1 == c) then tabSet none t i none else t) v.decoder
    let pre := (List.range 4).foldl (fun t i => if (tabGet none t i).any (fun p => p.ctx == c) then tabSet none t i none else t) v.pre
    ({ s with video := { v with decoder := dec, pre := pre } }.modDctx c (fun x => { x with closing := true })).vidStatus

/-- DECODE_CLOSE (R258). -/
def execDecodeClose (ini : Nat) (c : Fin 128) (s : State) : Host.Outcome State Fault Refusal :=
  .next (s.guarded (isMgmt ini) ini (vdecA c 0) (s.decodeClose c))

/-- Whether a signal is one of an engine of the codec unit on an object. -/
def codecSignal (o : Nat) (g : Signal) : Bool := g.obj == o && g.ini / 16 * 16 == codecId 0

/-- Whether a codec engine's signal of an object has not committed. -/
def State.codecSignals (s : State) (o : Nat) : Bool :=
  s.sync.inflight.any (codecSignal o) || s.sync.reached.any (fun r => codecSignal o r.2)

/-- Drop the codec engines' signals of an object that have not committed. -/
def State.dropSignals (s : State) (o : Nat) : State :=
  { s with sync := { s.sync with
    inflight := s.sync.inflight.filter (fun g => !codecSignal o g)
    reached := s.sync.reached.filter (fun r => !codecSignal o r.2) } }

/-- OUT_OBJ of a decode context. -/
def State.doutObj (s : State) (c : Nat) : Nat := s.dd c 0x4C 4 % 2 ^ 18

/-- A closing decode context reaches STATE 0; no signal of it is applied any more (R258). -/
def State.decodeClosed (s : State) (c : Nat) : State :=
  if (s.dctx c).closing then (((s.setDstate c 0).setDctx c {}).dropSignals (s.doutObj c)).decAdmit else s

/-! ## Encoders' sources from decode contexts (R275) -/

/-- The descriptor of an encode context (R275). -/
def State.edesc (s : State) (e : Nat) : List Byte := natLe 128 (s.regWords (vencA e 0x100) 32)
/-- A field of it. -/
def State.ed (s : State) (e off n : Nat) : Nat := fieldLe (s.edesc e) off n
/-- An encode context. -/
def State.ectx (s : State) (e : Nat) : EncCtx := tabGet {} s.video.enc e
/-- Set an encode context. -/
def State.setEctx (s : State) (e : Nat) (x : EncCtx) : State := { s with video := { s.video with enc := tabSet {} s.video.enc e x } }
/-- Open and not closing. -/
def State.eopen (s : State) (e : Nat) : Bool := s.fld (vencA e 4) 31 28 != 0 && !(s.ectx e).closing

/-- Samples of a decoded picture.
Log entry 98 (PRESUMED). -/
def State.picData (s : State) (c : Nat) (p : Picture) : List Nat := Config.videoPicture (s.dd c 1 1) ((s.dctx c).hist.take p.hist)

/-- Hand decoded pictures, in output order, to the encode contexts that take them; `fuel` bounds them. -/
def State.feedEnc (s : State) (c : Nat) : Nat → State
  | 0 => s
  | fuel + 1 =>
    let x := s.dctx c
    match x.feed with
    | [] => s
    | au :: rest =>
      match x.pics.find? (fun p => p.au == au) with
      | none => (s.setDctx c { x with feed := rest }).feedEnc c fuel
      | some p =>
        if p.decoded.isNone then s
        else
          let s := (List.range 64).foldl (fun s e =>
            if s.eopen e && bit (s.ed e 2 1) 1 && s.ed e 3 1 == c then
              if p.w = s.ed e 4 2 ∧ p.h = s.ed e 6 2 then
                let y := s.ectx e
                (s.setEctx e { y with placed := y.placed ++ [(s.timeNs, some (s.picData c p))] }).bump (vencA e 0x10)
              else s.bump (vencA e 0x20)
            else s) s
          (s.setDctx c { x with feed := rest }).feedEnc c fuel

/-! ## Windows (R273) -/

/-- Choose the picture of the oldest window once the context's input has passed its firing time and every access unit closed by
then is decoded or dropped; `fuel` bounds the windows.
Log entry 100 (DEDUCED). -/
def State.chooseWindows (s : State) (c : Nat) : Nat → State
  | 0 => s
  | fuel + 1 =>
    let x := s.dctx c
    match x.windows with
    | [] => s
    | t :: rest =>
      if decide (s.inputTime c ≤ t) || x.assem.any (fun a => decide (s.auDeadline c a ≤ t)) || x.queue.any (fun a => decide (a.closed ≤ t)) ||
          x.pics.any (fun p => decide (p.closed ≤ t) && p.decoded.isNone) then s
      else
        let ready := x.out.filter (fun o => decide (o.avail ≤ t))
        let s := s.bumpBy (vdecA c 0x38) (ready.length - 1)
        let x := { x with windows := rest, out := x.out.filter (fun o => decide (t < o.avail)), jobs := x.jobs ++ [⟨t, ready.getLast?⟩] }
        (s.setDctx c x).chooseWindows c fuel

/-- What follows a picture's decode or drop: encoders are fed, windows are chosen. -/
def State.picsMoved (s : State) (c : Nat) : State :=
  let s := s.feedEnc c (s.dctx c).feed.length
  s.chooseWindows c (s.dctx c).windows.length

/-- Bring a context to the present: access units past their deadlines close, and windows choose. -/
def State.settle (s : State) (c : Nat) : State :=
  if (s.dctx c).windows.isEmpty then s else (s.closeDue c (s.inputTime c) (s.dctx c).assem.length).picsMoved c

/-! ## Headers and decoding (R259–R264) -/

/-- Whether a decoder supports a picture (R261, R262). -/
def auSupported (codec : Nat) (i : Config.AuInfo) : Bool :=
  i.chroma420 && !i.fields && !i.slices &&
  (match codec, i.profile with
   | 0, 0 | 0, 1 | 0, 2 => i.depth == 8 && decide (i.level ≤ 62)
   | 1, 0 => i.depth == 8 && decide (i.level ≤ 61)
   | 1, 1 => decide (8 ≤ i.depth) && decide (i.depth ≤ 10) && decide (i.level ≤ 61)
   | 2, 0 => (i.depth == 8 || i.depth == 10) && decide (i.level ≤ 61)
   | _, _ => false)

/-- Pictures become available for output. -/
def State.showPics (s : State) (c : Nat) (shows : List Nat) (closed : Nat) : State :=
  shows.foldl (fun s au =>
    let x := s.dctx c
    if !x.pics.any (·.au == au) then s
    else
      let re := match x.markFrom with | some r => decide (r ≤ au) | none => false
      let o : OutPic := ⟨au, closed, re⟩
      let x := { x with markFrom := if re then none else x.markFrom, feed := x.feed ++ [au] }
      s.setDctx c (if bit (s.dd c 2 1) 1 then { x with out := x.out ++ [o] } else { x with jobs := x.jobs ++ [⟨closed, some o⟩] })) s

/-- The oldest closed access unit of a context is parsed. -/
def State.headersParsed (s : State) (c : Nat) : State :=
  let x := s.dctx c
  match x.queue with
  | [] => s
  | a :: rest =>
    let s := s.setDctx c { x with queue := rest }
    if a.damaged then (s.dropPic c a.num).picsMoved c
    else
      let hist := x.hist ++ [(a.num, a.data.flatten)]
      let s := s.modDctx c (fun x => { x with hist := hist })
      let i := Config.videoHeaders (s.dd c 1 1) hist
      let w := i.w % 65536
      let h := i.h % 65536
      let wait := fun (s : State) => s.modDctx c (fun x => { x with waitRap := true })
      let s :=
        if !i.pic then s
        else if !auSupported (s.dd c 1 1) i then wait ((s.setDerr c 0x10).dropPic c a.num)
        else if s.dd c 4 2 < w ∨ s.dd c 6 2 < h then wait ((s.setDerr c 0x11).dropPic c a.num)
        else
          let x := s.dctx c
          let after := x.waitRap || x.dropped.any (fun d => decide (d < a.num))
          let s := if i.rap then
              (if s.dstate c = 4 then s.setDstate c 2 else s).setDctx c { x with
                waitRap := false, dropped := x.dropped.filter (fun d => decide (a.num < d)), overAus := [], rasl := after
                raslOver := after && !x.overAus.isEmpty
                markFrom := if after then some a.num else x.markFrom }
            else s
          let x := s.dctx c
          let lost := !i.rap && (x.waitRap || (x.rasl && i.rasl) || i.refs.any x.dropped.contains)
          let hit := i.refs.any x.overAus.contains || (x.raslOver && i.rasl)
          let crop := x.views.any (fun v => decide (w < vf v 0 2 + vf v 4 2) || decide (h < vf v 2 2 + vf v 6 2))
          if lost then (if hit then (s.dropPic c a.num).overDrop c a.num else s.dropPic c a.num)
          else if crop then (s.setDerr c 0x11).dropPic c a.num
          else
            s.setDctx c { x with wait := x.wait ++ [a.num], pics := x.pics ++
              [⟨a.num, a.ts, a.closed, a.cyc, a.cnt, hist.length, w, h, i.depth, i.loc, i.full, i.bt2020, i.grain, i.rap,
               i.rasl, i.refs, none⟩] }
      (s.showPics c i.shows a.closed).picsMoved c

/-- HEADERS_PARSED (R264). -/
def execHeadersParsed (c : Fin 128) (s : State) : Host.Outcome State Fault Refusal :=
  .next (if s.dopen c then s.headersParsed c else s)

/-- The candidate of the lowest rank (R259): not priority, time, context, and what it carries. -/
def firstRanked {α : Type} (l : List (Nat × Nat × Nat × α)) : Option (Nat × α) :=
  match l with
  | [] => none
  | x :: xs =>
    let lt := fun (a b : Nat × Nat × Nat × α) => a.1 < b.1 || (a.1 == b.1 && (a.2.1 < b.2.1 || (a.2.1 == b.2.1 && a.2.2.1 < b.2.2.1)))
    let m := xs.foldl (fun m y => if lt y m then y else m) x
    some (m.2.2.1, m.2.2.2)

/-- Rank key of a context's priority. -/
def State.prioKey (s : State) (c : Nat) : Nat := if bit (s.dd c 2 1) 0 then 0 else 1

/-- A free decoder takes the first-ranked waiting picture. -/
def State.decoderStart (s : State) : State :=
  let v := s.video
  match (List.range 4).find? (fun i => (tabGet none v.decoder i).isNone && !s.sorrel.fenced.contains (0x6000 + i)) with
  | none => s
  | some i =>
    let busy := fun c => (List.range 4).any (fun k => (tabGet none v.decoder k).any (fun p => p.1 == c))
    let cand := s.dopens.filterMap (fun c =>
      if busy c then none
      else
        match (s.dctx c).wait with
        | au :: _ => ((s.dctx c).pics.find? (·.au == au)).map (fun p => (s.prioKey c, p.closed, c, au))
        | [] => none)
    match firstRanked cand with
    | none => s
    | some (c, au) =>
      let s := s.modDctx c (fun x => { x with wait := x.wait.filter (· != au) })
      { s with video := { s.video with decoder := tabSet none s.video.decoder i (some (c, au)) } }.vidStatus

/-- DECODER_START (R259). -/
def execDecoderStart (s : State) : Host.Outcome State Fault Refusal := .next (if s.rbit (vidA 0) 0 then s.decoderStart else s)

/-- The first output at or after an access unit carries the mark of a random-access point that follows a drop. -/
def DecCtx.markOutput (x : DecCtx) (r : Nat) : DecCtx :=
  let first := fun (o : OutPic) => decide (r ≤ o.au)
  if x.jobs.any (fun j => j.pic.any first) then
    { x with jobs := (x.jobs.foldl (fun (a : List PicJob × Bool) j =>
        if !a.2 && j.pic.any first then (a.1 ++ [{ j with pic := j.pic.map (fun o => { o with resync := true }) }], true)
        else (a.1 ++ [j], a.2)) ([], false)).1 }
  else if x.out.any first then
    { x with out := (x.out.foldl (fun (a : List OutPic × Bool) o =>
        if !a.2 && first o then (a.1 ++ [{ o with resync := true }], true) else (a.1 ++ [o], a.2)) ([], false)).1 }
  else { x with markFrom := some r }

/-- Bad slice or tile data is found in a picture (R263): it is dropped, and so are the pictures parsed since that reference it,
directly or through others, up to a random-access point parsed since, and the RASL pictures of that; its first output is marked. -/
def State.dropBad (s : State) (c au : Nat) : State :=
  let later := (s.dctx c).pics.filter (fun p => decide (au < p.au))
  let s := s.dropPic c au
  match later.find? (·.rap) with
  | none => (later.filter (fun p => p.decoded.isNone)).foldl (fun s p =>
      if p.refs.any (s.dctx c).dropped.contains then s.dropPic c p.au else s) s
  | some r =>
    let next := (later.filter (fun p => p.rap && decide (r.au < p.au))).head?
    let s := later.foldl (fun s p =>
      let own := decide (p.au < r.au) && p.refs.any (s.dctx c).dropped.contains
      let rasl := p.rasl && decide (r.au < p.au) && (match next with | some q => decide (p.au < q.au) | none => true)
      if own || rasl then s.dropPic c p.au else s) s
    s.modDctx c (fun x => { x with dropped := x.dropped.filter (fun d => decide (r.au ≤ d)), rasl := x.rasl || next.isNone }.markOutput r.au)

/-- A decoder ends its picture (R263): the decoded-picture buffer's bytes are the codec's own.
Log entry 97 (DESIGN CHOICE). -/
def State.decodeDone (s : State) (i : Nat) : State :=
  match tabGet none s.video.decoder i with
  | none => s
  | some (c, au) =>
    let s := { s with video := { s.video with decoder := tabSet none s.video.decoder i none } }.vidStatus
    match (s.dctx c).pics.find? (·.au == au) with
    | none => s
    | some p =>
      let s := s.undefine [(s.dd c 0x28 6, s.dd c 0x30 4)]
      if Config.videoBad (s.dd c 1 1) ((s.dctx c).hist.take p.hist) then
        (((s.setDerr c 0x12).dcount c 5).dropBad c au).picsMoved c
      else
        let now := s.timeNs
        ((s.modDctx c (fun x => { x with pics := x.pics.map (fun q => if q.au = au then { q with decoded := some now } else q) })).dcount
          c 7).picsMoved c

/-- DECODE_DONE (R263). -/
def execDecodeDone (i : Fin 4) (s : State) : Host.Outcome State Fault Refusal := .next (s.decodeDone i)

/-! ## Pre-processing and records (R271–R274) -/

/-- The picture of a record. -/
def State.jobPic (s : State) (c : Nat) (j : PicJob) : Option Picture :=
  match j.pic with
  | some o => (s.dctx c).pics.find? (·.au == o.au)
  | none => none

/-- Whether the head record of a context may be made, with its rank time. -/
def State.jobReady (s : State) (c : Nat) : Option (PicJob × Nat) :=
  match (s.dctx c).jobs with
  | [] => none
  | j :: _ =>
    match j.pic with
    | none => some (j, j.fire)
    | some _ =>
      match s.jobPic c j with
      | some p => if p.decoded.isSome then some (j, p.closed) else none
      | none => none

/-- The consumer still holds the slot of record `seq` (R272). -/
def State.slotHeld (s : State) (c seq : Nat) : Bool :=
  let co := s.dd c 0x50 4
  let n := s.dd c 0x48 4
  bit co 31 && decide (n < seq) && decide (s.obj (co % 2 ^ 18) < seq - n)

/-- A free pre-processor takes the first-ranked record.
Log entry 100 (DEDUCED). -/
def State.preTake (s : State) : State :=
  let v := s.video
  match (List.range 4).find? (fun i => (tabGet none v.pre i).isNone) with
  | none => s
  | some i =>
    let busy := fun c => (List.range 4).any (fun k => (tabGet none v.pre k).any (fun p => p.ctx == c))
    let cand := s.dopens.filterMap (fun c => if busy c then none else (s.jobReady c).map (fun j => (s.prioKey c, j.2, c, j.1)))
    match firstRanked cand with
    | none => s
    | some (c, j) =>
      let s := s.modDctx c (fun x => { x with jobs := x.jobs.drop 1 })
      let seq := (s.dctx c).seq + 1
      if s.slotHeld c seq then (s.dcount c 12).inputLost c
      else
        let r : PreRun := { ctx := c, job := j, seq := seq, view := if j.pic.isNone then (s.dctx c).views.length else 0, time := s.timeNs }
        { s with video := { s.video with pre := tabSet none s.video.pre i (some r) } }.vidStatus

/-- The contexts are brought to the present, then a free pre-processor takes a record. -/
def State.preStart (s : State) : State := (s.dopens.foldl State.settle s).preTake

/-- PREPROCESS_START (R272). -/
def execPreprocessStart (s : State) : Host.Outcome State Fault Refusal := .next (if s.rbit (vidA 0) 0 then s.preStart else s)

/-- A pre-processor writes its next view. -/
def State.viewWritten (s : State) (i : Nat) : State :=
  match tabGet none s.video.pre i with
  | none => s
  | some r =>
    match (s.dctx r.ctx).views[r.view]?, s.jobPic r.ctx r.job with
    | some v, some p =>
      let (s, sat) := s.writeView (codecId i) v p (s.picData r.ctx p) (r.seq % max 1 (s.dd r.ctx 0x48 4))
      let s := s.bumpBy (vdecA r.ctx 0x44) sat
      let r := { r with view := r.view + 1, sat := r.sat || decide (0 < sat), time := s.timeNs }
      { s with video := { s.video with pre := tabSet none s.video.pre i (some r) } }
    | _, _ => s

/-- VIEW_WRITTEN (R264). -/
def execViewWritten (i : Fin 4) (s : State) : Host.Outcome State Fault Refusal := .next (s.viewWritten i)

/-- The bytes of a picture record (R274). -/
def recordBytes (r : PreRun) (p : Option Picture) : List Byte :=
  match r.job.pic, p with
  | some o, some p =>
    let fl := (if r.sat then 4 else 0) + (if o.resync then 8 else 0) + (if p.grain then 16 else 0)
    natLe 8 r.seq ++ natLe 4 fl ++ natLe 4 p.ts ++ natLe 8 o.avail ++ natLe 4 p.cyc ++ natLe 4 p.cnt ++ natLe 8 (p.decoded.getD 0) ++
    natLe 8 r.time ++ natLe 4 p.au ++ natLe 2 p.w ++ natLe 2 p.h ++ zeros 8
  | _, _ => natLe 8 r.seq ++ natLe 4 1 ++ natLe 4 0 ++ natLe 8 r.job.fire ++ zeros 40

/-- The record is written and OUT_OBJ is signalled (R272). -/
def State.recordWrite (s : State) (i : Nat) : State :=
  match tabGet none s.video.pre i with
  | none => s
  | some r =>
    let c := r.ctx
    if r.view < (s.dctx c).views.length then s
    else
      let b := recordBytes r (s.jobPic c r.job)
      let s := (s.memWrite (codecId i) (s.dd c 0x40 6 + 64 * (r.seq % max 1 (s.dd c 0x48 4))) b).1
      let s := s.signal (s.doutObj c) 1 (codecId i)
      let s := s.dcount c (if r.job.pic.isSome then 9 else 11)
      let s := s.modDctx c (fun x => { x with seq := r.seq })
      { s with video := { s.video with pre := tabSet none s.video.pre i none } }.vidStatus

/-- PICTURE_RECORD_WRITE (R272). -/
def execPictureRecordWrite (i : Fin 4) (s : State) : Host.Outcome State Fault Refusal := .next (s.recordWrite i)

/-- EVENT_INGEST (R273): each windowed context of the event takes a window. -/
def execEventIngest (i : Fin 4096) (s : State) : Host.Outcome State Fault Refusal :=
  match s.thyTake i 1 with
  | (s, none) => .next s
  | (s, some x) =>
    let s := (s.dopens.filter (fun c => bit (s.dd c 2 1) 1 && s.dd c 0xE 2 == i.val)).foldl (fun s c =>
      let s := s.modDctx c (fun d => { d with windows := d.windows ++ [x.time] })
      s.chooseWindows c (s.dctx c).windows.length) s
    .next (s.thyFired x false)

/-! ## The field ports' links (R249, R296) -/

/-- FIELD_PORT_LINK_UP (R249, R447): the FEC that CTRL.FEC names, or the one that negotiation gives. -/
def execFieldPortLinkUp (port : Fin 2) (fec : Fin 3) (s : State) : Host.Outcome State Fault Refusal :=
  let o := 0x1000 * port.val
  let f := s.fld (fptA o) 3 2
  if s.rbit (fptA o) 0 ∧ s.linksReady ∧ !s.start.recovery then
    .next ((s.setFld (fptA (o + 4)) 2 1 (if f = 3 then fec.val else f)).setRbit (fptA (o + 4)) 0 true)
  else .next s

/-- FIELD_PORT_LINK_DOWN (R296): traffic stops, and FP1's time source falls silent.
Log entry 105 (DEDUCED). -/
def State.linkLost (s : State) (port : Nat) : State :=
  let o := 0x1000 * port
  let s := (s.setFld (fptA (o + 4)) 2 1 0).setRbit (fptA (o + 4)) 0 false
  if port = 0 then s
  else
    let s := { s with fp1 := { s.fp1 with sending := none } }
    let s := s.setFld (fptA 0x1004) 4 3 (if s.fld (fptA 0x1004) 4 3 = 2 then 3 else 0)
    if s.ringTime then s else s.thyHoldover 4

/-- FIELD_PORT_LINK_DOWN. -/
def execFieldPortLinkDown (port : Fin 2) (s : State) : Host.Outcome State Fault Refusal := .next (s.linkLost port)

/-- ARP_NEIGHBOUR_REQUEST (R249): the firmware answers for FP0's addresses, and reports the multicast groups it has joined. -/
def execArpNeighbourRequest (r : NbrReq) (s : State) : Host.Outcome State Fault Refusal :=
  if !s.fp0Up then .next s
  else
    let mac := natLe 6 (Config.portMac 0)
    let groups := s.dopens.filterMap (fun c => let r := (s.dctx c).rtsp; if r.joined then r.group.map (·.1) else none)
    match r with
    | .arp ip => .next (if s.video.ip4 ≠ 0 ∧ ip = s.video.ip4 then s.fp0Send "ARP reply" (mac ++ natLe 4 ip) else s)
    | .ndisc ip => .next (if s.video.ip6 ≠ 0 ∧ ip = s.video.ip6 then s.fp0Send "neighbour advertisement" (mac ++ natLe 16 ip) else s)
    | .igmpQuery => .next (s.joinReport true groups)
    | .mldQuery => .next (s.joinReport false groups)

end Sys2Proof.Machine
end

