-- ==== Sys2Proof/Machine/Encode.lean ====
section
/-!
DEFINITION. Encode contexts (R275–R278): admission, sources, rate control, the bitstream ring, the recorder, RTP.
-/
namespace Sys2Proof.Machine

/-- Number of the record-signing key (R335). -/
def recordKey : Nat := 2

/-- A flag of an encode descriptor: 0 TEN_BIT, 1 SRC_DECODE, 2 DEST_MEM, 3 DEST_NAND, 4 DEST_RTP. -/
def State.eflag (s : State) (e i : Nat) : Bool := bit (s.ed e 2 1) i
/-- Tenant of an encode context. -/
def State.eten (s : State) (e : Nat) : Nat := s.ed e 0 1 % 16

/-- Whether a descriptor obeys R275. -/
def edescOk (d : List Byte) : Bool :=
  let f := fieldLe d
  let rng := fun v lo hi => decide (lo ≤ v) && decide (v ≤ hi)
  let fl := f 2 1
  let top := if f 1 1 = 1 then 51 else 255
  let mem := !bit fl 1
  f 0 1 / 16 == 0 && rng (f 1 1) 1 2 && decide (fl < 32) && decide (fl / 4 ≠ 0) && (mem || decide (f 3 1 < 128)) &&
  f 4 2 % 8 == 0 && rng (f 4 2) 64 4096 && f 6 2 % 8 == 0 && rng (f 6 2) 64 2160 && rng (f 8 2) 1 24000 && decide (1 ≤ f 0xA 2) &&
  rng (f 0xC 1) (if f 1 1 = 1 then 0 else 1) top && rng (f 0xD 1) (f 0xC 1) top && f 0xE 2 == 0 && rng (f 0x10 4) 100000 200000000 &&
  rng (f 0x14 4) (f 4 2 * f 6 2 / 4) (4 * f 0x10 4) && f 0x1E 2 == 0 && (!mem || rng (f 0x20 4) 1 64) &&
  decide (f 0x2C 4 < 2 ^ 18) && f 0x36 2 == 0 && f 0x30 6 % 32 == 0 && f 0x38 4 % 32 == 0 && (!bit fl 2 || decide (0 < f 0x38 4)) &&
  decide (f 0x3C 4 < 2 ^ 18) && (!bit fl 3 || rng (f 0x44 4) 2 65535) && (!bit fl 4 || (f 0x58 2 % 2 == 0 && rng (f 0x5A 1) 96 127)) &&
  f 0x5B 1 == 0 && decide (f 0x5C 4 < 2 ^ 18) && (slice d 0x60 32).all (· == 0)

/-- Load of an encode context in units of 1/200,000 engine-microsecond per second (R260). -/
def encLoad (d : List Byte) : Nat := fieldLe d 8 2 * (24000 + fieldLe d 4 2 * fieldLe d 6 2)

/-- Admitted encode load in the same units. -/
def State.encLoads (s : State) : Nat :=
  (((List.range 64).filter (fun e => s.fld (vencA e 4) 31 28 != 0)).map (fun e => encLoad (s.edesc e))).sum

/-- The codes for which an OPEN is refused, in the order of R258. -/
def State.encErrs (s : State) (e : Nat) : List Nat :=
  let d := s.edesc e
  let f := fieldLe d
  let t := f 0 1 % 16
  let fl := f 2 1
  let mem := !bit fl 1
  let sb := if bit fl 0 then 2 else 1
  (if edescOk d && (mem || (s.dstate (f 3 1) != 0 && s.dten (f 3 1) == t)) then [] else [1]) ++
  (if (!mem || (s.inPartition t (f 0x18 6) ((f 0x20 4 - 1) * f 0x28 4 + f 6 2 * 3 / 2 * f 0x24 4) && decide (f 4 2 * sb ≤ f 0x24 4) &&
        s.objOwned t (f 0x2C 4) && s.objOwned t (f 0x5C 4))) &&
      (!bit fl 2 || s.inPartition t (f 0x30 6) (f 0x38 4)) && (!(bit fl 2 || bit fl 3) || s.objOwned t (f 0x3C 4)) &&
      (!bit fl 3 || decide (f 0x40 4 + 16384 * f 0x44 4 ≤ (s.tenant t).nandBlocks)) then [] else [2]) ++
  (if 2000000 * 200000 < s.encLoads + encLoad d then [3] else [])

/-- VID_LOAD_ENC. -/
def State.encAdmit (s : State) : State := s.setReg (vidA 0x18) (s.encLoads / 200000)

/-- OPEN of an encode context.
Log entry 102 (DEDUCED). -/
def State.encodeOpen (s : State) (e : Nat) : State :=
  if s.fld (vencA e 4) 31 28 ≠ 0 then s
  else
    match s.encErrs e with
    | code :: _ => s.setFld (vencA e 8) 7 0 code
    | [] =>
      let s := s.resetRegs (vencA e 0x10) (vencA e 0x34)
      let (s, r) := s.free 80
      let s := ((s.setFld (vencA e 8) 7 0 0).setReg (vencA e 4) (2 * 2 ^ 28)).setEctx e
        { fw := s.reg (updA 0x10C), ssrc := r % 2 ^ 32, rtpBase := r / 2 ^ 32 % 2 ^ 32, rtpSeq := r / 2 ^ 64 }
      (s.notePlaced e).encAdmit

/-- ENCODE_OPEN (R275). -/
def execEncodeOpen (ini : Nat) (e : Fin 64) (s : State) : Host.Outcome State Fault Refusal :=
  .next (s.guarded (isMgmt ini) ini (vencA e 0) (s.encodeOpen e))

/-- CLOSE of an encode context: its picture in an encoder is abandoned. -/
def State.encodeClose (s : State) (e : Nat) : State :=
  if s.fld (vencA e 4) 31 28 = 0 then s
  else
    let enc := (List.range 2).foldl (fun t i => if tabGet none t i = some e then tabSet none t i none else t) s.video.encoder
    ({ s with video := { s.video with encoder := enc } }.setEctx e { s.ectx e with closing := true, placed := [], coding := none }).vidStatus

/-- ENCODE_CLOSE (R275). -/
def execEncodeClose (ini : Nat) (e : Fin 64) (s : State) : Host.Outcome State Fault Refusal :=
  .next (s.guarded (isMgmt ini) ini (vencA e 0) (s.encodeClose e))

/-- A closing encode context reaches STATE 0. -/
def State.encodeClosed (s : State) (e : Nat) : State :=
  if (s.ectx e).closing then
    ((((s.setFld (vencA e 4) 31 28 0).setEctx e {}).dropSignals (s.ed e 0x3C 4 % 2 ^ 18)).dropSignals (s.ed e 0x5C 4 % 2 ^ 18)).encAdmit
  else s

/-- Whether signals of a stream context have not committed. -/
def State.streamSignals (s : State) (encode : Bool) (c : Nat) : Bool :=
  if encode then s.codecSignals (s.ed c 0x3C 4 % 2 ^ 18) || s.codecSignals (s.ed c 0x5C 4 % 2 ^ 18) else s.codecSignals (s.doutObj c)

/-- CONTEXT_CLOSED (R258): a context whose signals have not committed is not yet closed. -/
def execContextClosed (encode : Bool) (c : Fin 128) (s : State) : Host.Outcome State Fault Refusal :=
  let c := if encode then c.val % 64 else c.val
  if s.streamSignals encode c then .next s
  else .next ((if encode then s.encodeClosed c else s.decodeClosed c).vidStatus)

/-! ## Sources (R259, R275) -/

/-- Read a source picture of memory: luma, then the two chroma planes of the interleaved rows.
Log entries 98 (PRESUMED), 103 (DEDUCED). -/
def State.readSource (s : State) (ini e n : Nat) : State × Option (List Nat) :=
  let w := s.ed e 4 2
  let h := s.ed e 6 2
  let sb := if s.eflag e 0 then 2 else 1
  let pitch := s.ed e 0x24 4
  let base := s.ed e 0x18 6 + n % max 1 (s.ed e 0x20 4) * s.ed e 0x28 4
  let val := fun (b : List Byte) i => if sb = 2 then fieldLe b (2 * i) 2 / 64 else fieldLe b i 1
  let rows := (List.range (h + h / 2)).foldl (fun (a : State × Option (List (List Byte))) r =>
    match a.2 with
    | none => a
    | some l =>
      match a.1.memRead ini (base + r * pitch) (w * sb) with
      | (s, some b) => (s, some (l ++ [b]))
      | (s, none) => (s, none)) (s, some [])
  match rows with
  | (s, none) => (s, none)
  | (s, some l) =>
    let luma := (l.take h).flatMap (fun b => (List.range w).map (val b))
    let plane := fun k => (l.drop h).flatMap (fun b => (List.range (w / 2)).map (fun i => val b (2 * i + k)))
    (s, some (luma ++ plane 0 ++ plane 1))

/-- A free encoder takes the first-ranked source picture.
Log entry 103 (DEDUCED). -/
def State.encodeStart (s : State) : State :=
  match (List.range 2).find? (fun i => (tabGet none s.video.encoder i).isNone && !s.sorrel.fenced.contains (0x6004 + i)) with
  | none => s
  | some i =>
    let cand := (List.range 64).filterMap (fun e =>
      if !s.eopen e || (s.ectx e).coding.isSome then none
      else match (s.ectx e).placed with
        | p :: _ => some (0, p.1, e, p)
        | [] => none)
    match firstRanked cand with
    | none => s
    | some (e, time, src) =>
      let x := s.ectx e
      let s := s.setEctx e { x with placed := x.placed.drop 1 }
      let take := fun (s : State) (d : List Nat) =>
        let s := s.setEctx e { s.ectx e with coding := some (time, d) }
        { s with video := { s.video with encoder := tabSet none s.video.encoder i (some e) } }.vidStatus
      match src with
      | some d => take s d
      | none =>
        let (s, d) := s.readSource (codecId (4 + i)) e x.slot
        let s := (s.setEctx e { s.ectx e with slot := x.slot + 1 }).signal (s.ed e 0x5C 4 % 2 ^ 18) 1 (codecId (4 + i))
        match d with
        | some d => take (s.bump (vencA e 0x10)) d
        | none => s.bump (vencA e 0x20)

/-- ENCODE_START (R259). -/
def execEncodeStart (s : State) : Host.Outcome State Fault Refusal := .next (if s.rbit (vidA 0) 0 then s.encodeStart else s)

/-! ## Rate control (R277) -/

/-- What coding one picture comes to: its bytes, kind (0 intra, 1 P, 2 skip), quantiser, calls of code() and skip(), whether
skip() stands for it. -/
structure Coded where
  bytes : List Byte
  kind : Nat
  q : Nat
  passes : Nat
  deriving DecidableEq, Repr

/-- The quantiser of the first pass for a drained fill `f`. -/
def firstQ (d : List Byte) (f : Nat) : Nat :=
  let g := if fieldLe d 1 1 = 1 then 1 else 4
  let cpb := fieldLe d 0x14 4
  min (fieldLe d 0xD 1) (fieldLe d 0xC 1 + g * (12 * (2 * f - cpb) / (2 * max 1 cpb)))

/-- A pass of code(): an intra picture at QP_MAX is at most W × H ÷ 8 bits.
Log entry 94 (DESIGN CHOICE). -/
def codeAt (d : List Byte) (fw : Nat) (srcs : List (List Nat)) (intra : Bool) (q : Nat) : List Byte :=
  let b := Config.videoCode d fw srcs intra q
  if intra && q == fieldLe d 0xD 1 then b.take (fieldLe d 4 2 * fieldLe d 6 2 / 64) else b

/-- Code a picture under the cap. -/
def codePicture (d : List Byte) (fw : Nat) (srcs : List (List Nat)) (intra : Bool) (f : Nat) : Coded :=
  let g := if fieldLe d 1 1 = 1 then 1 else 4
  let cpb := fieldLe d 0x14 4
  let top := fieldLe d 0xD 1
  let code := codeAt d fw srcs intra
  let kind := if intra then 0 else 1
  let fits := fun (b : List Byte) => decide (f + 8 * b.length ≤ cpb)
  let q := firstQ d f
  let b := code q
  if fits b then ⟨b, kind, q, 1⟩
  else
    let q := min top (q + 6 * g)
    let b := code q
    if fits b then ⟨b, kind, q, 2⟩
    else
      let b := code top
      if fits b then ⟨b, kind, top, 3⟩ else ⟨Config.videoSkip d fw srcs, 2, top, 4⟩

/-- An access unit as it is written: header, bytes, padding (R278). -/
def auBytes (au : Nat) (c : Coded) (time : Nat) : List Byte :=
  let h := natLe 8 au ++ natLe 4 c.bytes.length ++ natLe 1 c.kind ++ natLe 1 c.q ++ natLe 1 c.passes ++ natLe 1 0 ++ natLe 8 time
  let b := h ++ natLe 8 (crc32c (h ++ c.bytes)) ++ c.bytes
  b ++ zeros ((32 - b.length % 32) % 32)

/-- Write bytes into the bitstream ring, cyclically. -/
def State.ringWrite (s : State) (ini base size pos : Nat) (b : List Byte) : State :=
  let p := pos % max 1 size
  let n := size - p
  let s := (s.memWrite ini (base + p) (b.take n)).1
  if b.length ≤ n then s else (s.memWrite ini base ((b.drop n).take size)).1

/-- Bytes of a recorder extent before its trailer. -/
def extRoom : Nat := 0x4000000 - 0x2000

/-- Position in NAND of a recorder extent. -/
def State.extPos (s : State) (e seq : Nat) : Nat :=
  ((s.tenant (s.eten e)).nandFirst + s.ed e 0x40 4 + 16384 * (seq % max 1 (s.ed e 0x44 4))) * 4096

/-- Close the recorder's extent with its trailer. -/
def State.extClose (s : State) (e : Nat) : State :=
  let x := s.ectx e
  let pos := s.extPos e x.extSeq
  let body := cellsRead s.mem.nand pos extRoom
  let h := natLe 4 0x31585659 ++ natLe 8 x.extSeq ++ natLe 8 x.extFirst ++ natLe 8 x.extLast ++ natLe 4 x.extAus ++ sha3_256 body
  let t := h ++ slice (Config.sign recordKey (sha3_384 h)) 0 4627
  let s := s.nandWrite (pos + extRoom) (t ++ zeros (0x2000 - t.length))
  (s.setEctx e { x with extPos := 0, extSeq := x.extSeq + 1, extAus := 0 }).bump (vencA e 0x30)

/-- Write an access unit to the recorder; the extent that cannot hold it is closed first.
Log entry 103 (DEDUCED). -/
def State.recorder (s : State) (e : Nat) (b : List Byte) (time : Nat) : State :=
  let s := if extRoom < (s.ectx e).extPos + b.length then s.extClose e else s
  let x := s.ectx e
  let s := s.nandWrite (s.extPos e x.extSeq + x.extPos) b
  s.setEctx e { x with extPos := x.extPos + b.length, extAus := x.extAus + 1, extFirst := if x.extAus = 0 then time else x.extFirst
                       extLast := time }

/-- A byte list in pieces of at most `n` bytes; `fuel` bounds them. -/
def pieces (n : Nat) (b : List Byte) : Nat → List (List Byte)
  | 0 => []
  | fuel + 1 => if b.length ≤ n then [b] else b.take n :: pieces n (b.drop n) fuel

/-- The RTP payloads of an H.265 NAL unit (RFC 7798): itself, or fragmentation units of its bytes behind the NAL unit header. -/
def nalPayloads (u : List Byte) : List (List Byte) :=
  if u.length ≤ 1400 then [u]
  else
    let h0 := fieldLe u 0 1
    let ps := pieces 1397 (u.drop 2) u.length
    ps.mapIdx (fun i p =>
      let fu := (if i = 0 then 0x80 else 0) + (if i + 1 = ps.length then 0x40 else 0) + h0 / 2 % 64
      natLe 1 (h0 / 128 * 128 + 49 * 2 + h0 % 2) ++ slice u 1 1 ++ natLe 1 fu ++ p)

/-- The RTP payloads of an AV1 OBU: one element a packet, behind an aggregation header with Z, Y, W = 1 and N. -/
def obuPayloads (first : Bool) (u : List Byte) : List (List Byte) :=
  let ps := pieces 1399 u u.length
  ps.mapIdx (fun i p =>
    natLe 1 ((if i = 0 then 0 else 0x80) + (if i + 1 = ps.length then 0 else 0x40) + 0x10 + (if first && i == 0 then 8 else 0)) ++ p)

/-- The RTP payloads of an access unit (R251).
Log entry 102 (DEDUCED). -/
def auPayloads (codec : Nat) (intra : Bool) (b : List Byte) : List (List Byte) :=
  let us := Config.videoUnits codec b
  if codec = 1 then us.flatMap nalPayloads else (us.mapIdx (fun i u => obuPayloads (intra && i == 0) u)).flatten

/-- Send an access unit from FP0 as RTP packets of at most 1,400 bytes of payload, the last with the marker bit; the timestamp
counts a 90 kHz clock from the source's time (R251, R278).
Log entry 102 (DEDUCED). -/
def State.rtpSend (s : State) (e time : Nat) (ps : List (List Byte)) : State :=
  let x := s.ectx e
  let ts := (x.rtpBase + time * 9 / 100000) % 2 ^ 32
  let s := (ps.zipIdx).foldl (fun s p =>
    let h := natBe 1 0x80 ++ natBe 1 ((if p.2 + 1 = ps.length then 0x80 else 0) + s.ed e 0x5A 1 % 128) ++
      natBe 2 ((x.rtpSeq + p.2) % 2 ^ 16) ++ natBe 4 ts ++ natBe 4 x.ssrc
    s.fp0Send "RTP" (slice (s.edesc e) 0x48 16 ++ natLe 2 (s.ed e 0x58 2) ++ h ++ p.1)) s
  s.setEctx e { x with rtpSeq := (x.rtpSeq + ps.length) % 2 ^ 16 }

/-- An encoder ends its picture (R277, R278). -/
def State.encodeDone (s : State) (i : Nat) : State :=
  match tabGet none s.video.encoder i with
  | none => s
  | some e =>
    let s := { s with video := { s.video with encoder := tabSet none s.video.encoder i none } }.vidStatus
    let x := s.ectx e
    match x.coding with
    | none => s
    | some (time, src) =>
      let d := s.edesc e
      let intra := x.intraDue || decide (fieldLe d 0xA 2 ≤ x.since)
      let fw := if intra then s.reg (updA 0x10C) else x.fw
      let hist := x.hist ++ [src]
      let f := s.reg (vencA e 0x24) - fieldLe d 0x10 4 * 100 / max 1 (fieldLe d 8 2)
      let c := codePicture d fw hist intra f
      let s := s.setReg (vencA e 0x24) (f + 8 * c.bytes.length)
      let s := s.bump64By (vencA e 0x28) (8 * c.bytes.length)
      let s := s.bump (vencA e 0x14)
      let s := s.bumpBy (vencA e 0x18) (min 3 c.passes - 1)
      let s := if c.kind = 2 then s.bump (vencA e 0x1C) else s
      let b := auBytes x.au c time
      let s := s.setEctx e { x with coding := none, hist := hist, fw := fw, au := x.au + 1
                                    intraDue := c.kind == 2 && intra
                                    since := if c.kind = 0 then 1 else x.since + 1 }
      let id := codecId (4 + i)
      let s := if s.eflag e 2 then
          (s.ringWrite id (fieldLe d 0x30 6) (fieldLe d 0x38 4) x.ringPos b).setEctx e { s.ectx e with ringPos := x.ringPos + b.length }
        else s
      let s := if s.eflag e 3 then s.recorder e b s.timeNs else s
      let s := if s.eflag e 2 || s.eflag e 3 then s.signal (fieldLe d 0x3C 4 % 2 ^ 18) 1 id else s
      if s.eflag e 4 then s.rtpSend e time (auPayloads (fieldLe d 1 1) (c.kind == 0) c.bytes) else s

/-- ENCODE_DONE (R277). -/
def execEncodeDone (i : Fin 2) (s : State) : Host.Outcome State Fault Refusal := .next (s.encodeDone i)

end Sys2Proof.Machine
end

