-- ==== Sys2Proof/Machine/SageOps.lean ====
section
/-!
DEFINITION. What other units use of Sage (R333–R361): keys, consents, nonces, the lease clock, TDIs and IDE streams.
-/
namespace Sys2Proof.Machine

/-- A Sage register of tenant `t`. -/
def sgeT (t off : Nat) : Nat := sgeA (0x1000 + 0x80 * t + off)
/-- A register of crate `c`. -/
def crateA (c off : Nat) : Nat := sgeA (0x3000 + 0x40 * c + off)
/-- The module serial. -/
def serialNo : Nat := Config.serial % 2 ^ 64
/-- STATE of SGE_STATUS. -/
def State.sageState (s : State) : Nat := s.fld (sgeA 0) 31 28
/-- Sage as an initiator. -/
def sageId : Nat := hubId 2

/-! ## Keys (R334, R343) -/

/-- Generate a key: the number of the draw, or 0 once the entropy source has failed its health test.
Log entries 132 (DESIGN CHOICE), 136 (DEDUCED). -/
def State.newKey (s : State) : State × Nat :=
  if s.sage.entropyBad then (s, 0) else ({ s with freeCtr := s.freeCtr + 1 }, s.freeCtr + 1)

/-- Set a memory-key slot.
Log entry 12 (DESIGN CHOICE). -/
def State.setMemKey (s : State) (t slot k : Nat) : State :=
  { s with sage := { s.sage with memKeys := tabSet 0 s.sage.memKeys (2 * t + slot) k } }

/-- The keys created at ACTIVATE: both memory-key slots, and for t ≥ 1 the storage key. -/
def State.createKeys (s : State) (t : Nat) : State :=
  let (s, a) := s.newKey
  let (s, b) := s.newKey
  let s := (s.setMemKey t 0 a).setMemKey t 1 b
  if t = 0 then s
  else
    let (s, c) := s.newKey
    { s with sage := { s.sage with storeKeys := tabSet 0 s.sage.storeKeys t c } }

/-- Destroy a tenant's keys, and end its rotation without counting (R328 step 4, R347). -/
def State.destroyKeys (s : State) (t : Nat) : State :=
  let s := (s.setMemKey t 0 0).setMemKey t 1 0
  let s := { s with sage := { s.sage with
    storeKeys := if t = 0 then s.sage.storeKeys else tabSet 0 s.sage.storeKeys t 0
    ide := s.sage.ide.filter (fun x => x.tenant != t) } }
  ((s.setReg (sgeT t 4) (putBits (s.reg (sgeT t 4)) 31 30 0)).setReg (sgeT t 8) 0).setReg (sgeT t 0x10) 0

/-! ## The lease clock (R350) -/

/-- LEASE_CLOCK in seconds. -/
def State.lease (s : State) : Nat := s.reg64 (sgeA 0x10)

/-- Raise LEASE_CLOCK to a time that is ahead of it. -/
def State.leaseRaise (s : State) (v : Nat) : State := if s.lease < v then s.setReg64 (sgeA 0x10) v else s

/-- One cycle of the arithmetic clock: a second of 1,100,000,000 cycles passes.
Log entry 139 (DEDUCED). -/
def State.leaseTick (s : State) : State :=
  let n := s.sage.leaseCycles + 1
  if n < 1100000000 then { s with sage := { s.sage with leaseCycles := n } }
  else ({ s with sage := { s.sage with leaseCycles := 0 } }).bump64By (sgeA 0x10) 1

/-- Store LEASE_CLOCK in MRAM.
Log entry 139 (DEDUCED). -/
def State.leaseStore (s : State) : State :=
  { s with sage := { s.sage with leaseStored := s.lease, leaseStoredAt := s.timeNs } }

/-- TAI is held: TAI_SEEN sets and the lease clock is raised to it.
Log entry 139 (DEDUCED). -/
def State.leaseTai (s : State) : State :=
  if s.thy.stepped then (s.setRbit (sgeA 0) 27 true).leaseRaise (s.timeNs / 1000000000) else s

/-! ## Consents (R358–R360) -/

/-- Consent `i`. -/
def State.consent (s : State) (i : Nat) : Option Consent := tabGet none s.sage.consents i

/-- Tenants whose consent a hub access needs: 0 and every OPENING or OPEN tenant. -/
def State.hubTenants (s : State) : List Nat :=
  (List.range 16).filter (fun t => t == 0 || decide ((s.tenant t).state = .opening) || decide ((s.tenant t).state = .isOpen))

/-- Whether debug access with SCOPE bit `b` (0 read, 1 control) to a page of cluster `k` is allowed. -/
def State.clusterDebug (s : State) (k b : Nat) : Bool :=
  match s.cluOwner (k / 8) (k % 8) with
  | none => true
  | some t => s.consentList.any (fun c => c.2.tenant == t && bit c.2.scope b && bit c.2.clusters k)

/-- Whether debug access with SCOPE bit `b` to hub-die units is allowed. -/
def State.hubDebug (s : State) (b : Nat) : Bool :=
  s.hubTenants.all (fun t => s.consentList.any (fun c => c.2.tenant == t && bit c.2.scope 5 && bit c.2.scope b))

/-- Whether boundary-scan instructions are allowed. -/
def State.scanAllowed (s : State) : Bool := s.hubTenants.all (fun t => s.consentScope t 4)

/-- Whether some access that needs consent is allowed by the active ones.
Log entry 141 (DEDUCED). -/
def State.debugOpen (s : State) : Bool :=
  s.hubDebug 0 || s.hubDebug 1 || s.scanAllowed ||
  s.consentList.any (fun c => bit c.2.scope 2 || bit c.2.scope 3 ||
    ((bit c.2.scope 0 || bit c.2.scope 1) && (cluList c.2.clusters).any (fun k => s.cluOwner (k / 8) (k % 8) == some c.2.tenant)))

/-- Whether an active consent reaches the partition of tenant `t` (check 0x56 of R355): the tenant's own.
Log entry 141 (DEDUCED). -/
def State.consentReaches (s : State) (t : Nat) : Bool := s.consentList.any (fun c => c.2.tenant == t)

/-- Show the active consents in the registers. -/
def State.consentRegs (s : State) : State :=
  let l := s.consentList
  let s := s.setFld (sgeA 0x24) 15 0 (l.foldl (fun m c => m + 2 ^ c.1) 0)
  s.setFld (sgeA 0) 4 0 l.length

/-- Resume a unit that debug has halted: its register's HALT bit clears. -/
def State.debugResume (s : State) (a : Nat) : State :=
  match regBlock a with
  | some (.tc, 4) => s.setRbit a 0 false
  | some (.ac, 4) =>
    let r := a - 0x0C0000000000
    let s := s.setRbit a 1 false
    let x := acIx (r / 0x1000000) (r % 0x1000000 / 0x100000) (r % 0x100000 / 0x10000 - 9)
    if s.fld (a + 4) 31 28 = 3 ∧ !(s.acGet x).selfHalted then s.setFld (a + 4) 31 28 2 else s
  | _ => s

/-- End a consent: the units halted under it resume. -/
def State.endConsent (s : State) (i : Nat) : State :=
  match s.consent i with
  | none => s
  | some c =>
    let s := { s with sage := { s.sage with consents := tabSet none s.sage.consents i none } }
    let s := c.halted.foldl State.debugResume s
    s.consentRegs

/-- End every consent of a tenant. -/
def State.endConsentsOf (s : State) (t : Nat) : State :=
  ((s.consentList.filter (fun c => c.2.tenant == t)).map (·.1)).foldl State.endConsent s

/-- A fresh 32-byte nonce, valid for 600 s. -/
def State.freshNonce (s : State) : State × List Byte :=
  let (s, v) := s.free 256
  let b := natLe 32 v
  ({ s with sage := { s.sage with nonces := s.sage.nonces ++ [(b, s.timeNs)] } }, b)

/-- Nanoseconds that a nonce stays valid. -/
def nonceLife : Nat := 600000000000

/-- Whether a nonce is valid.
Log entry 140 (DEDUCED). -/
def State.nonceOk (s : State) (n : List Byte) : Bool := s.sage.nonces.any (fun x => x.1 == n && decide (s.timeNs < x.2 + nonceLife))

/-! ## TDIs and IDE streams (R341) -/

/-- The TDI of a tenant. -/
def State.tdi (s : State) (t : Nat) : Tdi := tabGet {} s.sage.tdi t
/-- Set a TDI. -/
def State.setTdi (s : State) (t : Nat) (x : Tdi) : State := { s with sage := { s.sage with tdi := tabSet {} s.sage.tdi t x } }
/-- CONFIG_LOCKED or RUN. -/
def Tdi.isLocked (x : Tdi) : Bool := decide (x.state = .locked) || decide (x.state = .run)

/-- An IDE stream by port and ID. -/
def State.ideStream (s : State) (p id : Nat) : Option IdeStream := s.sage.ide.find? (fun x => x.port == p && x.id == id)
/-- Replace or add an IDE stream. -/
def State.setIde (s : State) (x : IdeStream) : State :=
  { s with sage := { s.sage with ide := s.sage.ide.filter (fun y => !(y.port == x.port && y.id == x.id)) ++ [x] } }

/-! ## Weight packages (R356, R357) -/

/-- Clear the marks of the weight regions that a package holds. -/
def State.unmarkWeights (s : State) (w : Weights) : State :=
  let n := fieldLe w.header 0xC 4
  (List.range ((n + 31) / 32)).foldl (fun s i =>
    match s.devAddr w.tenant (w.devOff + 0x200000 * i) with
    | some a => s.setRegion (regionOf a) { s.region (regionOf a) with weight := false, coded := 0, failed := 0, elem := 1 }
    | none => s) s

/-- Drop everything of a tenant's weight packages at its teardown. -/
def State.dropWeights (s : State) (t : Nat) : State :=
  let s := (s.sage.weights.filter (fun w => w.tenant == t)).foldl State.unmarkWeights s
  { s with sage := { s.sage with weights := s.sage.weights.filter (fun w => w.tenant != t)
                                 loads := s.sage.loads.filter (fun w => w.tenant != t) } }

/-- FEATURES bits that a tenant's policy admits (R357). -/
def State.policyBits (s : State) (t : Nat) : Nat :=
  let has := fun b => s.sage.weights.any (fun w => w.tenant == t && bit (fieldLe w.header 0xA4 2) b) || (t == 0 && bit s.sage.policy0 b)
  (if has 1 then 2 else 0) + (if has 3 then 8 else 0)

end Sys2Proof.Machine
end

