-- ==== Sys2Proof/Machine/Image.lean ====
section
/-!
DEFINITION. Loading an image (R81–R85): the ten checks in their order, the image area, the copy into the partition's
clusters, and unloading.
-/
namespace Sys2Proof.Machine

/-- A section as the section table lists it: type, offset in the image, size, and whether its reserved bytes are zero. -/
structure SecEntry where
  typ : Nat
  off : Nat
  size : Nat
  clean : Bool
  deriving DecidableEq, Repr

/-- The section table of an image. -/
def imgTable (im : List Byte) : List SecEntry :=
  (List.range (fieldLe im 8 4)).map (fun i =>
    let o := 256 + 32 * i
    ⟨fieldLe im o 4, fieldLe im (o + 8) 8, fieldLe im (o + 16) 8,
      (slice im (o + 4) 4).all (· == 0) && (slice im (o + 24) 8).all (· == 0)⟩)

/-- The bytes of an image's first section of a type. -/
def imgSection (im : List Byte) (typ : Nat) : List Byte :=
  match (imgTable im).find? (·.typ == typ) with
  | some e => slice im e.off e.size
  | none => []

/-- Whether spans overlap pairwise. -/
def anyMeet : List (Nat × Nat) → Bool
  | [] => false
  | x :: t => t.any (fun y => spansMeet x.1 x.2 y.1 y.2) || anyMeet t

/-- Check 3 of R84: header bytes, section table, counts, limits and formats of types 1 to 4 and 10. -/
def imgFormOk (im : List Byte) : Bool :=
  let n := fieldLe im 8 4
  decide (fieldLe im 6 2 < 32) && (slice im 0x1C 4).all (· == 0) && (slice im 0x78 136).all (· == 0) &&
  decide (1 ≤ n) && decide (n ≤ 32) && decide (256 + 32 * n ≤ im.length) &&
  (let tab := imgTable im
   let count := fun k => (tab.filter (·.typ == k)).length
   let size := fun k => (imgSection im k).length
   tab.all (fun e => e.clean && decide (1 ≤ e.typ) && decide (e.typ ≤ 11) && decide (e.off + e.size ≤ im.length)) &&
   !anyMeet ((0, 256 + 32 * n) :: tab.map (fun e => (e.off, e.size))) &&
   count 1 == 1 && count 4 == 1 && [2, 3, 5, 6, 7, 8, 9, 10].all (fun k => decide (count k ≤ 1)) &&
   decide (size 1 ≤ 131072) && decide (size 2 ≤ 32512) && size 3 % 64 == 0 &&
   (let e := fieldLe im 0x70 4
    decide (1 ≤ e) && decide (e ≤ 4096) && size 4 == 16 * e &&
    (List.range e).all (fun i => (slice (imgSection im 4) (16 * i + 8) 8).all (· == 0))) &&
   size 10 % 8 == 0)

/-- The largest S for which logical slots 0 to S − 1 of every cluster of a partition are serviceable (R84). -/
def State.slotShape (s : State) (t : Nat) : Nat :=
  ((List.range 8).takeWhile (fun l => (s.tenClusters t).all (fun k =>
    !s.sorrel.fenced.contains (0x1000 + k / 8 * 0x100 + k % 8 * 0x10 + s.physSlot (k / 8) (k % 8) l) &&
    !s.sorrel.fenced.contains (0x3000 + k / 8 * 0x100 + k % 8 * 0x10)))).length

/-- The resident sections of an image as they lie in its run (R85), and the resident bytes. -/
def imgLayout : List SecEntry → Nat → List Section × Nat
  | [], at_ => ([], at_)
  | e :: t, at_ =>
    if e.typ = 8 ∨ e.typ = 11 then imgLayout t at_
    else
      let off := (at_ + 4095) / 4096 * 4096
      let (l, n) := imgLayout t (off + e.size)
      (⟨e.typ, off, e.size⟩ :: l, n)

/-- The bytes of a run (R85). -/
def imgRun (im : List Byte) : List SecEntry → List Byte
  | l => l.foldl (fun b e =>
    if e.typ = 8 ∨ e.typ = 11 then b
    else b ++ zeros ((b.length + 4095) / 4096 * 4096 - b.length) ++ slice im e.off e.size) []

/-- The start of the highest free run of `len` bytes among the runs of a partition's image area (R85). -/
def highRun (runs : List (Nat × Nat)) (len : Nat) : Option Nat :=
  ((0x3000000 :: runs.map (·.1)).filterMap (fun top =>
    if len ≤ top ∧ !runs.any (fun r => spansMeet r.1 r.2 (top - len) len) then some (top - len) else none)).foldl
    (fun b x => match b with | none => some x | some y => some (max x y)) none

/-- The images of a tenant. -/
def State.imagesOf (s : State) (t : Nat) : List Image := s.images.filter (·.tenant == t)

/-- Where check 5 places a run: its start; none where the image area, with it, would not lie wholly above every
CLUSTER_BYTES. `alone` asks for an area that holds no other image. -/
def State.imgPlace (s : State) (t len bytes : Nat) (alone : Bool) : Option Nat :=
  let ims := if alone then [] else s.imagesOf t
  let floor := ims.foldl (fun m i => max m i.clusterBytes) bytes
  match highRun (ims.map (fun i => (i.run, i.runLen))) len with
  | some b => if floor ≤ b ∧ ims.all (fun i => decide (floor ≤ i.run)) then some b else none
  | none => none

/-- The relocations of an image: template slot and word. -/
def imgRelocs (im : List Byte) : List (Nat × Nat) :=
  let b := imgSection im 10
  (List.range (b.length / 8)).map (fun i => (fieldLe b (8 * i) 4, fieldLe b (8 * i + 4) 2))

/-- The static checks that one template breaks (R91) on a core of the partition: those of R90 that read no word which a
relocation names, no walk (R135 judges it) and no state of the running image. `trees` are the image's own. A relocation of word
0 leaves the opcode open, so only the header's other words are judged.
Log entry 125 (DEDUCED). -/
def State.templateErrs (s : State) (x : Core3) (ws : List Nat) (rel : List Nat) (trees : List Byte) (treeCount : Nat) : List Check :=
  let id := db ws 4 31 16
  let tree := if id < treeCount then treeAt trees id else none
  let es := if rel.contains 0 then headerChecks s x ws (db ws 0 23 22) [] else cmdChecks s x ws [] tree
  es.filter (fun e => e.1 != 0x0C && !(e.2.any (fun i => i == walkWord || rel.contains i)))

/-- Check 6 on the template section from slot `i` on.
Log entry 125 (DEDUCED). -/
def State.templatesOk (s : State) (x : Core3) (tpl : List Byte) (rel : List (Nat × Nat)) (trees : List Byte) (treeCount : Nat) :
    Nat → Nat → Bool
  | 0, _ => true
  | fuel + 1, i =>
    if tpl.length ≤ 64 * i then true
    else
      let len := bits (fieldLe tpl (64 * i) 4) 23 22
      if len = 0 ∨ tpl.length < 64 * (i + len) then false
      else
        let ws := (List.range (16 * len)).map (fun j => fieldLe tpl (64 * i + 4 * j) 4)
        let r := (rel.filter (fun e => decide (i ≤ e.1) && decide (e.1 < i + len))).map (fun e => 16 * (e.1 - i) + e.2)
        (s.templateErrs x ws r trees treeCount).isEmpty && State.templatesOk s x tpl rel trees treeCount fuel (i + len)

/-- The TREE_IDs of the XRD templates that no relocation names. -/
def treeIds (tpl : List Byte) (rel : List (Nat × Nat)) : Nat → Nat → List Nat
  | 0, _ => []
  | fuel + 1, i =>
    if tpl.length ≤ 64 * i then []
    else
      let w := fieldLe tpl (64 * i) 4
      let l := treeIds tpl rel fuel (i + max 1 (bits w 23 22))
      if bits w 31 24 = 0x18 ∧ !rel.contains (i, 4) then fieldLe tpl (64 * i + 18) 2 :: l else l

/-- Whether `n` trees that meet R83 fill a section. -/
def treesOk : Nat → List Byte → Bool
  | 0, b => b.isEmpty
  | n + 1, b =>
    match treeAt b 0 with
    | some (leaves, nodes) => treeOk leaves nodes && decide (4 * leaves ≤ b.length) && treesOk n (b.drop (4 * max leaves 1))
    | none => false

/-- Whether a type-7 section is a sequence of bias tables on 32-byte boundaries (R195). -/
def biasSectionOk (b : List Byte) : Nat → Nat → Bool
  | 0, _ => true
  | fuel + 1, at_ =>
    if b.length ≤ at_ then true
    else
      let h := slice b at_ 16
      let n := biasBytes h
      decide (at_ + 16 ≤ b.length) && biasHeaderOk h && decide (at_ + n ≤ b.length) && biasEntriesOk (slice b at_ n) &&
      biasSectionOk b fuel (at_ + (n + 31) / 32 * 32)

/-- Whether a type-9 section meets R151. -/
def acSectionOk (b : List Byte) : Bool :=
  let n := fieldLe b 4 4
  let txt := fieldLe b 8 8
  let tsz := fieldLe b 0x10 8
  let ro := fieldLe b 0x18 8
  let rsz := fieldLe b 0x20 8
  let tab := fieldLe b 0x28 8
  slice b 0 4 == natLe 4 0x31434159 && decide (1 ≤ n) && decide (n ≤ 64) && txt % 64 == 0 && decide (1 ≤ tsz) &&
  decide (tsz ≤ 0x800000) && ro % 64 == 0 && (rsz != 0 || ro == 0) && (slice b 0x30 16).all (· == 0) &&
  decide (64 ≤ b.length) && decide (txt + tsz ≤ b.length) && decide (ro + rsz ≤ b.length) && decide (tab + 8 * n ≤ b.length) &&
  !anyMeet [(0, 64), (txt, tsz), (ro, rsz), (tab, 8 * n)] &&
  (List.range n).all (fun i =>
    let e := fieldLe b (tab + 8 * i) 4
    e % 2 == 0 && decide (e < tsz) && (slice b (tab + 8 * i + 4) 4).all (· == 0))

/-- The layout that a type-9 section's header gives (R151). -/
def acLayoutOf (b : List Byte) : AcLayout :=
  { entries := fieldLe b 4 4, text := fieldLe b 8 8, textSize := fieldLe b 0x10 8, rodata := fieldLe b 0x18 8
    rodataSize := fieldLe b 0x20 8, table := fieldLe b 0x28 8 }

/-- Check 9 of R84: the sections of types 6 to 9.
Log entry 125 (DEDUCED). -/
def State.imgSectionsOk (s : State) (t : Nat) (im : List Byte) : Bool :=
  let has := fun k => (imgTable im).any (·.typ == k)
  let w := imgSection im 6
  w.length % 256 == 0 && (List.range (w.length / 256)).all (fun i => (walkErrs (slice w (256 * i) 256)).isEmpty) &&
  (let b := imgSection im 7
   biasSectionOk b (b.length / 32 + 1) 0) &&
  (!has 8 || s.evtSectionOk t (imgSection im 8)) &&
  (!has 9 || (bit (fieldLe im 6 2) 2 && acSectionOk (imgSection im 9)))

/-- The first check of R84 that an image for tenant `t` fails: its code; none where it passes all.
Log entry 125 (DEDUCED). -/
def State.imgCheck (s : State) (t : Nat) (im : List Byte) : Option Nat :=
  let f := fieldLe im
  let (_, res) := imgLayout (imgTable im) 0
  let len := (res + 65535) / 65536 * 65536
  let rel := imgRelocs im
  let tpl := imgSection im 3
  let x : Core3 := match s.tenClusters t with | k :: _ => ⟨k / 8, k % 8, 0⟩ | [] => ⟨0, 0, 0⟩
  if im.length < 256 ∨ slice im 0 4 ≠ natLe 4 0x31495059 ∨ f 5 1 ≠ 1 ∨ f 0x10 8 ≠ im.length ∨ 0x10000000 < im.length then some 0x41
  else if sha3_256 (im.take 0x20 ++ zeros 32 ++ im.drop 0x40) ≠ slice im 0x20 32 then some 0x42
  else if !imgFormOk im then some 0x43
  else if s.reg (updA 0x110) < f 0xC 4 then some 0x44
  else if f 0x60 2 ≠ (s.tenClusters t).length ∨ f 0x62 2 ≠ s.slotShape t ∨ f 0x60 2 = 0 ∨ f 0x62 2 = 0 ∨ 0x200000 < f 0x64 4 ∨
      0x3000000 < f 0x68 4 ∨ 8192 < f 0x6C 4 ∨ 0x1000000 < res ∨ (s.imgPlace t len (f 0x68 4) false).isNone then some 0x45
  else if !s.templatesOk x tpl rel (imgSection im 5) (f 0x74 4) (tpl.length / 64 + 1) 0 then some 0x46
  else if 65535 < f 0x74 4 ∨ !treesOk (f 0x74 4) (imgSection im 5) ∨
      !(treeIds tpl rel (tpl.length / 64 + 1) 0).all (fun i => decide (i < f 0x74 4)) then some 0x47
  else if !(List.range (f 0x70 4)).all (fun i => decide (fieldLe (imgSection im 4) (16 * i) 4 < (imgSection im 1).length)) ∨
      !rel.all (fun e => decide (64 * e.1 < tpl.length) && decide (e.2 < 16)) then some 0x48
  else if !s.imgSectionsOk t im then some 0x49
  else if (f 6 2 &&& 0xA) &&& s.policyBits t ≠ f 6 2 &&& 0xA then some 0x4A
  else none

/-- Whether a failed check 5 is a shortage of image space alone: the image would be placed in an empty image area. -/
def State.imgBusy (s : State) (t : Nat) (im : List Byte) : Bool :=
  let f := fieldLe im
  let (_, res) := imgLayout (imgTable im) 0
  f 0x60 2 == (s.tenClusters t).length && f 0x62 2 == s.slotShape t && f 0x60 2 != 0 && f 0x62 2 != 0 &&
  decide (f 0x64 4 ≤ 0x200000) && decide (f 0x68 4 ≤ 0x3000000) && decide (f 0x6C 4 ≤ 8192) && decide (res ≤ 0x1000000) &&
  (s.imgPlace t ((res + 65535) / 65536 * 65536) (f 0x68 4) true).isSome

/-- The lowest handle in use by no image.
Log entry 36 (DESIGN CHOICE). -/
def State.freeHandle (s : State) : Option Nat := ((List.range 65535).map (· + 1)).find? (fun h => !s.images.any (·.handle == h))

/-- Place an image that has passed the checks: the copy in each cluster, the phase schedule, the handle. -/
def State.imgInstall (s : State) (t h run : Nat) (im : List Byte) : State :=
  let tab := imgTable im
  let (secs, res) := imgLayout tab 0
  let len := (res + 65535) / 65536 * 65536
  let b := imgRun im tab
  let s := (s.tenClusters t).foldl (fun s k =>
    (s.memWrite hubDmaId (cluBase (k / 8) (k % 8) + run) (b ++ zeros (len - b.length))).1) s
  let i : Image := { handle := h, tenant := t, run := run, runLen := len, sections := secs
                     ac := if tab.any (·.typ == 9) then some (acLayoutOf (imgSection im 9)) else none, entryCount := fieldLe im 0x70 4
                     treeCount := fieldLe im 0x74 4, features := fieldLe im 6 2, clusterBytes := fieldLe im 0x68 4
                     shape := fieldLe im 0x60 2, slots := fieldLe im 0x62 2, digest := slice im 0x20 32
                     weightDigest := slice im 0x40 32 }
  let s := { s with images := s.images ++ [i] }
  if tab.any (·.typ == 8) then s.evtInstall t h (imgSection im 8) else s

/-- Load an image for a tenant: the result as (STATUS, CODE, VALUE). -/
def State.imgLoad (s : State) (t : Nat) (im : List Byte) : State × (Nat × Nat × Nat) :=
  match s.imgCheck t im with
  | some c => (s, (if c = 0x45 ∧ s.imgBusy t im then 4 else 1, c, 0))
  | none =>
    let (_, res) := imgLayout (imgTable im) 0
    match s.imgPlace t ((res + 65535) / 65536 * 65536) (fieldLe im 0x68 4) false, s.freeHandle with
    | some run, some h => (s.imgInstall t h run im, (0, 0, h))
    | _, _ => (s, (4, 0x45, 0))

/-- Whether a job, a kernel or a lane uses a tenant's image. -/
def State.imgInUse (s : State) (t h : Nat) : Bool :=
  s.job.jobs.any (fun j => j.tenant == t && fieldLe j.data 0 2 == h) ||
  s.tile.any (fun e => s.coreTenant (coreOf e.1) == t &&
    (e.2.queue.any (fun r => fieldLe r.data 0 2 == h) || (match e.2.kernel with | some k => fieldLe k.launch.data 0 2 == h | none => false))) ||
  s.serve.lanes.any (fun e => e.1 / 16 == t && (match e.2 with | some l => fieldLe l.desc 0 2 == h | none => false))

/-- Unload an image: its run and its Thyme entries are freed. -/
def State.imgUnload (s : State) (t h : Nat) : State :=
  { s with images := s.images.filter (fun i => !(i.tenant == t && i.handle == h)) }.evtRemove t h

/-- Drop every image of a tenant, as its scrub does. -/
def State.imgDrop (s : State) (t : Nat) : State := (s.imagesOf t).foldl (fun s i => s.imgUnload t i.handle) s

end Sys2Proof.Machine
end

