-- ==== Sys2Proof/Machine/Serve.lean ====
section
/-!
DEFINITION. The serving scheduler (R214–R234, R240–R247): inbox, completions, the twelve steps of a boundary, lanes.
-/
namespace Sys2Proof.Machine

/-! ## Completion records (R224) -/

/-- Post a serving record: on the tenant's queue, or for tenant 0 in its completion ring. -/
def State.postServe (s : State) (t cq : Nat) (rec_ : List Byte) : State :=
  if t = 0 then
    let (a, n, k) := s.serve.ring0
    if n = 0 then s
    else
      let s := s.unitWrite schedId (a + 32 * (k % n)) rec_
      { s with serve := { s.serve with ring0 := (a, n, k + 1) } }
  else s.postCq t cq rec_

/-- A record for a live request. -/
def State.serveRec (s : State) (i kind reason err : Nat) : List Byte :=
  let e := s.entry i
  let r := s.req i
  let step := match s.lane e.tenant e.model with | some l => l.step | none => 0
  let fl := (if r.cancelLate then 1 else 0) + (if r.late then 2 else 0) + (if bit e.flags 5 then 4 else 0) +
    (if r.retried then 8 else 0) + err * 256
  natLe 4 e.tag ++ natLe 1 kind ++ natLe 1 reason ++ natLe 2 fl ++ natLe 2 i ++ natLe 2 0 ++ natLe 4 e.committed ++ natLe 4 r.new ++
  natLe 4 r.prefixPos ++ natLe 8 step

/-- Post a record for a live request. -/
def State.postReq (s : State) (i kind reason err : Nat) : State :=
  s.postServe (s.entry i).tenant (s.entry i).cq (s.serveRec i kind reason err)

/-- Post REJECTED and count it.
Log entry 87 (DEDUCED). -/
def State.reject (s : State) (t cq tag reason step : Nat) : State :=
  (s.bump (rqtT t 0x34)).postServe t cq
    (natLe 4 tag ++ natLe 1 6 ++ natLe 1 reason ++ zeros 18 ++ natLe 8 step)

/-- Post ACCEPTED when a request first becomes runnable. -/
def State.postAccepted (s : State) (i : Nat) : State :=
  let e := s.entry i
  if (s.req i).accepted ∨ e.state = 0 ∨ e.state = 4 ∨ bit e.flags 8 ∨ (s.req i).look ≠ 0 then s
  else (s.modReq i (fun r => { r with accepted := true })).postReq i 1 0 0

/-- LIVE of the tenant and of the module. -/
def State.liveCount (s : State) (t : Nat) : State :=
  let s := s.setReg (rqtT t 0x2C) (s.liveOf t).length
  s.setFld (rqtA 4) 14 0 s.serve.reqs.length

/-! ## The inbox (R220) -/

/-- Append a command to a tenant's inbox, or refuse it at once. -/
def State.inboxAdd (s : State) (t : Nat) (c : InCmd) : State :=
  let box := tabGet [] s.serve.inbox t
  if 1024 ≤ box.length then (s.bump (rqtT t 0x38)).reject t c.cq (fieldLe c.data 0 4) 1 0
  else { s with serve := { s.serve with inbox := tabSet [] s.serve.inbox t (box ++ [c]) } }

/-- A serving command arrives: fetched from a port's queues, or from management for tenant 0. -/
def State.serveArrive (s : State) (op : Nat) (src : ServeSrc) : State :=
  match src with
  | .mgmt b => s.inboxAdd 0 ⟨s.timeNs, op, slice b 0 64, 0⟩
  | .host p =>
    match s.fetch p (· == 0x40 + op) with
    | (s, none) => s
    | (s, some c) =>
      if !c.headOk then s.completeCmd c 2 0 0
      else
        (s.dropHostCmd c.num).inboxAdd c.tenant ⟨s.timeNs, op, slice c.data 0x40 64, s.fld (sqA c.tenant c.sq 0xC) 21 16⟩

/-- SUBMIT (R221). -/
def execSubmit (src : ServeSrc) (s : State) : Host.Outcome State Fault Refusal := .next (s.serveArrive 0 src)
/-- CANCEL (R245). -/
def execCancel (src : ServeSrc) (s : State) : Host.Outcome State Fault Refusal := .next (s.serveArrive 1 src)
/-- PAUSE (R240). -/
def execPause (src : ServeSrc) (s : State) : Host.Outcome State Fault Refusal := .next (s.serveArrive 2 src)
/-- RESUME (R242). -/
def execResume (src : ServeSrc) (s : State) : Host.Outcome State Fault Refusal := .next (s.serveArrive 3 src)

/-! ## Acceptance (R231–R233) -/

/-- Most accepted drafts: d[i] = c[i − 1] for every i from 1.
Log entry 93 (DEDUCED). -/
def draftRun (rec_ : List Byte) (len : Nat) : Nat → Nat
  | 0 => 0
  | n + 1 =>
    let i := len - n
    if fieldLe rec_ (0x44 + 4 * (i - 1)) 4 = fieldLe rec_ (4 + 4 * (i - 1)) 4 then 1 + draftRun rec_ len n else 0

/-- Tokens to commit: those of `toks` up to TARGET and up to and with a stop token, and whether a stop token is among them.
Log entry 93 (DEDUCED). -/
def commitTokens (stops : List Nat) (room : Nat) : List Nat → List Nat × Bool
  | [] => ([], false)
  | c :: cs =>
    if room = 0 then ([], false)
    else if stops.contains c then ([c], true)
    else
      let (l, st) := commitTokens stops (room - 1) cs
      (c :: l, st)

/-- CAP and REJ_RUN after a step with L ≥ 1 (R232), and SPEC_OFF (R233). -/
def ReqEntry.adapt (e : ReqEntry) (l : Lane) (len a : Nat) : ReqEntry :=
  if len = 0 then e
  else
    let e := if a = len then { e with cap := min (e.cap + 1) (l.d 0x16 1), rejRun := 0 }
      else if 0 < a then { e with cap := max (a + 1) (l.d 0x17 1), rejRun := 0 }
      else { e with cap := max (e.cap / 2) (l.d 0x17 1), rejRun := min (e.rejRun + 1) 255 }
    if l.d 0x18 1 ≤ e.rejRun then { e with flags := putBit e.flags 5 true, cap := 0 } else e

/-- STATE of a request that a step has run (R218). -/
def ReqEntry.ran (e : ReqEntry) : ReqEntry := { e with state := if e.kvDone + 1 = e.committed then 3 else 2 }

/-- FILL of every page of a request. -/
def State.setFills (s : State) (l : Lane) (i : Nat) : State :=
  let kv := (s.entry i).kvDone
  let s := s.readLists l.layers i
  (s.reqPages l.layers i).foldl (fun s p => s.modPage (s.entry i).tenant p.2.2 (fun m => { m with fill := min 64 (kv - 64 * p.2.1) })) s

/-- Accept one request of a step: record `k` of the step list.
Log entries 86 (DEDUCED), 87 (DEDUCED). -/
def State.acceptReq (s : State) (l : Lane) (k i pos0 npos : Nat) : State :=
  let e := s.entry i
  let r := s.unitBytes schedId (l.work + 64 + 32 * l.d 0xA 2 + 128 * k) 128
  let s := s.unitRead schedId (l.work + 64 + 32 * l.d 0xA 2 + 128 * k) 128
  let status := fieldLe r 0 1
  if status ≠ 0 then s.modReq i (fun q => { q with ended := some (5, status) })
  else
    let len := min 15 (fieldLe r 1 1)
    let s :=
      if fieldLe r 2 1 = 0 then s.modEntry i (fun e => { e with kvDone := pos0 + npos, len := len }.adapt l len 0)
      else
        let a := draftRun r len len
        let ctxCap := s.unitNat schedId (e.ctx + 8) 4
        let stops := (List.range (bits ctxCap 31 28)).map (fun j => s.unitNat schedId (e.ctx + 0x20 + 4 * j) 4)
        let toks := (List.range (a + 1)).map (fun j => fieldLe r (4 + 4 * j) 4)
        let (out, stop) := commitTokens stops (e.target - e.committed) toks
        let at_ := s.unitNat schedId e.ctx 6 + 4 * e.committed
        let s := (s.unitRead schedId e.ctx 64).unitWrite schedId at_ (out.flatMap (natLe 4))
        let c := e.committed + out.length
        let s := s.modReq i (fun q => { q with new := out.length
                                               ended := if c = e.target then some (0, 0) else if stop then some (1, 0) else q.ended })
        let e' := { e with committed := c, kvDone := c - 1, len := len }.adapt l len a
        let s := if bit e'.flags 5 && !bit e.flags 5 then s.bump (rqtT e.tenant 0x4C) else s
        s.setEntry i e'
    let s := s.modEntry i ReqEntry.ran
    let s := s.setFills l i
    if bit (s.entry i).flags 0 && decide (0 < (s.req i).new) then s.postReq i 2 0 0 else s

/-! ## Commands (R221, R240–R245) -/

/-- The live request of a tenant with a tag. -/
def State.findTag (s : State) (t tag : Nat) : Option Nat := (s.liveOf t).find? (fun i => (s.entry i).tag == tag)

/-- Whether the token target of a request breaks the rules of a SUBMIT on length (R221). -/
def State.tooLong (s : State) (t layers ctx plist len target : Nat) : Bool :=
  decide (target ≤ len) || decide (16777216 < target) ||
  (s.inPartition t ctx 64 && decide (s.unitNat schedId (ctx + 8) 4 % 2 ^ 25 < target + 15)) ||
  (s.inPartition t plist (16 * layers) &&
    (List.range layers).any (fun j => decide (s.unitNat schedId (plist + 16 * j + 8) 4 < ceilDiv (target + 15) 64)))

/-- The reasons for which a SUBMIT is refused, in the order of R221.
Log entry 84 (DEDUCED). -/
def State.submitErrs (s : State) (t : Nat) (l : Option Lane) (b : List Byte) : List Nat :=
  let f := fieldLe b
  let layers := match l with | some l => l.layers | none => 0
  let ctx := f 0x10 6
  let plist := f 0x18 6
  let cap := s.unitNat schedId (ctx + 8) 4
  let fl := f 6 2
  let free := (List.range 16384).find? (fun i => (tabGet none s.serve.reqs i).isNone)
  (if s.reg (rqtT t 0xC) ≤ (s.liveOf t).length ∨ free = none then [2] else []) ++
  (if s.reg (rqtT t 8) ≤ f 4 1 then [3] else []) ++
  (if s.tooLong t layers ctx plist (f 8 4) (f 0xC 4) then [4] else []) ++
  (if (s.findTag t (f 0 4)).isSome then [5] else []) ++
  (if s.inPartition t ctx 64 && s.inPartition t plist (16 * layers) && s.inPartition t (s.unitNat schedId ctx 6) (4 * (cap % 2 ^ 25)) &&
      (List.range layers).all (fun j => s.inPartition t (s.unitNat schedId (plist + 16 * j) 6) (4 * s.unitNat schedId (plist + 16 * j + 8) 4)) &&
      (!bit fl 7 || s.inPartition t (s.unitNat schedId (ctx + 0x18) 6) 160) then [] else [8]) ++
  (if 7 < f 5 1 ∨ fl / 256 ≠ 0 ∨ bit fl 5 ∨ f 0x16 2 ≠ 0 ∨ f 0x1E 2 ≠ 0 ∨ 604800 < f 0x28 4 ∨ 63 < f 0x2C 1 ∨
      !(slice b 0x2D 19).all (· == 0) ∨ 8 < bits cap 31 28 ∨ bits cap 27 25 ≠ 0 then [9] else [])

/-- Process a SUBMIT. -/
def State.doSubmit (s : State) (t ts : Nat) (l : Option Lane) (b : List Byte) : State :=
  let f := fieldLe b
  let step := match l with | some l => l.step | none => 0
  let layers := match l with | some l => l.layers | none => 0
  let s := if s.inPartition t (f 0x10 6) 64 && s.inPartition t (f 0x18 6) (16 * layers) then
      s.unitReads schedId [(f 0x10 6, 64), (f 0x18 6, 16 * layers)] else s
  match s.submitErrs t l b, (List.range 16384).find? (fun i => (tabGet none s.serve.reqs i).isNone) with
  | [], some i =>
    let look := bit (f 6 2) 3 && s.rbit (lovA 0) 0
    let s := s.setReq i (some { ranges := [(0, f 8 4)], look := if look then 1 else 0 })
    let s := s.setEntry i
      { state := 1, prio := f 5 1, tenant := t, flags := putBit (f 6 2) 8 look, committed := f 8 4, kvDone := 0, target := f 0xC 4
        cap := match l with | some l => l.d 0x16 1 | none => 0
        len := 0, rejRun := 0, skipped := 0, model := f 4 1, node := none, plist := f 0x18 6, ctx := f 0x10 6
        deadline := f 0x20 8, time := ts, cq := f 0x2C 1, ttl := if f 0x28 4 = 0 then 3600 else f 0x28 4, tag := f 0 4 }
    let s := if look then { s with serve := { s.serve with looks := s.serve.looks ++ [i] } } else s
    ((s.bump (rqtT t 0x30)).liveCount t).postAccepted i
  | code :: _, _ => s.reject t (f 0x2C 1 % 64) (f 0 4) code step
  | [], none => s.reject t (f 0x2C 1 % 64) (f 0 4) 2 step

/-- A request becomes PAUSED (R240). -/
def State.pauseReq (s : State) (i ts ttl : Nat) : State :=
  let s := s.modEntry i (fun e =>
    let v := if ttl = 0 then e.ttl else ttl
    { e with state := 4, ttl := v, time := ts + v * 1000000000 })
  (s.postReq i 4 0 0).pauseMoves i true

/-- Process a CANCEL (R245).
Log entry 86 (DEDUCED). -/
def State.doCancel (s : State) (t i : Nat) : State :=
  match (s.req i).ended with
  | some (0, _) | some (1, _) => (s.bump (rqtT t 0x40)).modReq i (fun r => { r with cancelLate := true })
  | some _ => s
  | none => s.modReq i (fun r => { r with ended := some (2, 0) })

/-- Process a PAUSE.
Log entry 86 (DEDUCED). -/
def State.doPause (s : State) (t ts i : Nat) (c : InCmd) (step : Nat) : State :=
  let ttl := fieldLe c.data 4 4
  if (s.entry i).state = 4 then s.reject t c.cq (fieldLe c.data 0 4) 7 step
  else if 604800 < ttl ∨ !(slice c.data 8 56).all (· == 0) then s.reject t c.cq (fieldLe c.data 0 4) 9 step
  else
    match (s.req i).ended with
    | some (0, _) | some (1, _) => s.modReq i (fun r => { r with pauseTtl := some ttl })
    | some _ => s
    | none => s.pauseReq i ts ttl

/-- Process a RESUME (R242). -/
def State.doResume (s : State) (t ts i : Nat) (c : InCmd) (l : Option Lane) (step : Nat) : State :=
  let f := fieldLe c.data
  let e := s.entry i
  let layers := match l with | some l => l.layers | none => 0
  if e.state ≠ 4 then s.reject t c.cq (f 0 4) 7 step
  else if f 4 4 = 0 ∨ s.tooLong t layers e.ctx e.plist (e.committed + f 4 4) (f 8 4) then s.reject t c.cq (f 0 4) 4 step
  else if 63 < f 0x14 1 ∨ !(slice c.data 0x15 43).all (· == 0) then s.reject t c.cq (f 0 4) 9 step
  else
    let s := s.modReq i (fun r => { r with ranges := r.ranges ++ [(e.committed, f 4 4)] })
    let s := s.setEntry i
      { e with state := 1, time := ts, committed := e.committed + f 4 4, target := f 8 4, deadline := f 0xC 8, cq := f 0x14 1
               cap := match l with | some l => l.d 0x16 1 | none => 0
               flags := putBit e.flags 5 false, rejRun := 0 }
    (s.postReq i 5 0 0).postAccepted i

/-- Process one command at a boundary of lane `m`; none: it belongs to another lane. `before` are the commands of other lanes
that precede it.
Log entry 84 (DEDUCED). -/
def State.doCmd (s : State) (t m ts : Nat) (before : List InCmd) (c : InCmd) : Option State :=
  let tag := fieldLe c.data 0 4
  let l := s.lane t m
  let step := match l with | some l => l.step | none => 0
  if c.op = 0 then
    let model := fieldLe c.data 4 1
    if model = m ∨ s.reg (rqtT t 8) ≤ model then some (s.doSubmit t ts (if model = m then l else none) c.data) else none
  else
    match s.findTag t tag with
    | some i =>
      if (s.entry i).model ≠ m then none
      else if c.op = 1 then
        if (slice c.data 4 60).all (· == 0) then some (s.doCancel t i) else some (s.reject t c.cq tag 9 step)
      else if c.op = 2 then some (s.doPause t ts i c step)
      else some (s.doResume t ts i c l step)
    | none =>
      if before.any (fun b => b.op == 0 && fieldLe b.data 0 4 == tag) then none
      else some (s.reject t c.cq tag 6 step)

/-- Step 5: the inbox commands that arrived before T_s, in arrival order.
Log entry 85 (DEDUCED). -/
def State.bdCommands (s : State) (t m ts : Nat) : State :=
  let box := tabGet [] s.serve.inbox t
  let (s, keep) := box.foldl (fun (a : State × List InCmd) c =>
    if ts ≤ c.time then (a.1, a.2 ++ [c])
    else
      match a.1.doCmd t m ts a.2 c with
      | some s => (s, a.2)
      | none => (a.1, a.2 ++ [c])) (s, [])
  { s with serve := { s.serve with inbox := tabSet [] s.serve.inbox t keep } }

/-! ## Deadlines and releases (R243, R244, R246, R247) -/

/-- Step 6 for one request.
Log entry 87 (DEDUCED). -/
def State.deadlineReq (s : State) (t ts i : Nat) : State :=
  let e := s.entry i
  let done := match (s.req i).ended with | some (why, _) => decide (why < 2) | none => false
  let past := !done && decide (e.deadline ≠ 0) && decide (e.deadline < ts)
  let s := if past then s.modReq i (fun r => { r with late := true }) else s
  if (s.req i).ended.isSome then s
  else if past && bit e.flags 6 then (s.bump (rqtT t 0x48)).modReq i (fun r => { r with ended := some (4, 0) })
  else if e.state = 4 ∧ e.time < ts then (s.bump (rqtT t 0x44)).modReq i (fun r => { r with ended := some (3, 0) })
  else s

/-- The provenance record of a request that ends (R247). -/
def State.serveProv (s : State) (l : Lane) (i : Nat) : State :=
  let e := s.entry i
  match s.images.find? (fun im => im.handle == l.d 0 2 && im.tenant == e.tenant) with
  | some im =>
    let src := (s.req i).ranges.map (fun r => (s.unitNat schedId e.ctx 6 + 4 * r.1, 4 * r.2))
    let toks := src.flatMap (fun r => s.unitBytes schedId r.1 r.2)
    (s.unitReads schedId ((e.ctx, 64) :: src)).unitWrite schedId (s.unitNat schedId (e.ctx + 0x18) 6)
      (s.provenance im (inputDigest [toks]) (l.d 2 2) (l.d 0x20 4))
  | none => s

/-- Give back what a request holds: page references, nodes, its lookup, its entry. -/
def State.dropReq (s : State) (layers i : Nat) : State :=
  let e := s.entry i
  let t := e.tenant
  let s := (s.reqPages layers i).foldl (fun s p => s.unrefPage t p.2.2) (s.readLists layers i)
  let s := match e.node with | some n => s.unpinChain t (s.nodeCount t) n | none => s
  let s := (s.req i).found.foldl (fun s n => s.unpinNode t n) s
  let s := { s with serve := { s.serve with looks := s.serve.looks.filter (· != i) } }
  ((s.modEntry i (fun e => { e with state := 0 })).setReq i none).lovStatus.liveCount t

/-- Step 7 for one request that ends here. -/
def State.releaseReq (s : State) (l : Lane) (t ts i : Nat) : State :=
  match (s.req i).ended with
  | none => s
  | some (why, err) =>
    let e := s.entry i
    let r := s.req i
    if why < 2 ∧ (bit e.flags 1 ∨ r.pauseTtl.isSome) then
      (s.modReq i (fun r => { r with ended := none, pauseTtl := none })).pauseReq i ts (r.pauseTtl.getD 0)
    else
      let s := if why = 2 then s.bump (rqtT t 0x3C) else s
      let s := if bit e.flags 7 then s.serveProv l i else s
      (s.postReq i 3 why err).dropReq l.layers i

/-! ## Batch building (R227, R228) -/

/-- Whether a request is runnable. -/
def State.runnable (s : State) (i : Nat) : Bool :=
  let e := s.entry i
  decide (1 ≤ e.state) && decide (e.state ≤ 3) && !bit e.flags 8 && (s.req i).look == 0 && decide (e.committed < e.target)

/-- Effective priority. -/
def ReqEntry.effPrio (e : ReqEntry) (l : Lane) : Nat :=
  if l.d 0x19 1 = 0 then e.prio else min 7 (e.prio + e.skipped / l.d 0x19 1)

/-- The rank of a request as a list of keys, lower first. -/
def State.rank (s : State) (l : Lane) (i : Nat) : List Nat :=
  let e := s.entry i
  [7 - e.effPrio l, if e.deadline = 0 then 1 else 0, e.deadline, e.time, i]

/-- Lexicographic order of two ranks. -/
def rankLe : List Nat → List Nat → Bool
  | a :: as, b :: bs => decide (a < b) || (a == b && rankLe as bs)
  | _, _ => true

/-- The positions and the draft want that a request takes with `left` positions left; none: it is skipped. -/
def ReqEntry.takes (e : ReqEntry) (l : Lane) (left : Nat) : Option (Nat × Nat) :=
  if e.state = 3 then
    if left = 0 then none
    else
      let w := if bit e.flags 4 && !bit e.flags 5 && decide (l.d 0x16 1 ≠ 0) then e.cap else 0
      let w := min (min w (e.target - e.committed - 1)) (left - 1)
      some (1 + w, w)
  else
    let n := min (min (l.d 0x10 4) (e.committed - e.kvDone)) left
    let hi := e.kvDone + n
    let n := if hi = e.committed then n else hi / 64 * 64 - e.kvDone
    if n = 0 then none else some (n, 0)

/-- Scan the ranked requests; `slots` counts the requests that may still be taken.
Log entry 89 (DEDUCED). -/
def State.scan (s : State) (l : Lane) (t : Nat) :
    List Nat → Nat → Nat → List (Nat × Nat × Nat × Nat) → State × List (Nat × Nat × Nat × Nat)
  | [], _, _, acc => (s, acc)
  | i :: is, slots, left, acc =>
    if slots = 0 then (s, acc)
    else
      let e := s.entry i
      match e.takes l left with
      | none => s.scan l t is slots left acc
      | some (n, w) =>
        let have_ := (s.req i).blocks
        let need := ceilDiv (e.kvDone + n) 64 - have_
        if s.slotsFree t false < need * l.layers ∨ !s.metaRoom t (need * l.layers) then (s, acc)
        else
          let s := (List.range need).foldl (fun s b => (List.range l.layers).foldl (fun s layer =>
            s.allocPage l i layer (have_ + b)) s) s
          let s := s.modReq i (fun r => { r with blocks := max r.blocks (have_ + need) })
          s.scan l t is (slots - 1) (left - n) (acc ++ [(i, e.kvDone, n, w)])

/-- Step 10: the next batch, and its step list in the work area. -/
def State.bdBatch (s : State) (t m : Nat) : State :=
  match s.lane t m with
  | none => s
  | some l =>
    let again := l.batch.filter (fun b => s.runnable b.1)
    let runn := (s.laneReqs t m).filter s.runnable
    let (s, batch) :=
      if l.repeats && !again.isEmpty then (s, again)
      else
        let ranked := (runn.map (fun i => (s.rank l i, i))).mergeSort (fun a b => rankLe a.1 b.1)
        s.scan l t (ranked.map (·.2)) (l.d 0xA 2) (l.d 0xC 4) []
    let s := runn.foldl (fun s i =>
      if batch.any (·.1 == i) then s.modEntry i (fun e => { e with skipped := 0 })
      else s.modEntry i (fun e => { e with skipped := min 255 (e.skipped + 1) })) s
    let s := s.setLane t m (some { l with batch := batch, repeats := l.repeats && !again.isEmpty })
    if batch.isEmpty then s
    else
      let recs := batch.flatMap (fun b =>
        let e := s.entry b.1
        natLe 4 b.1 ++ natLe 4 b.2.1 ++ natLe 4 b.2.2.1 ++ natLe 1 b.2.2.2 ++ zeros 3 ++ natLe 8 e.plist ++ natLe 8 e.ctx)
      let hd := natLe 8 (l.step + 1) ++ natLe 4 batch.length ++ natLe 4 (batch.map (·.2.2.1)).sum ++ natLe 8 s.timeNs ++ zeros 8
      let s := s.unitWrite schedId l.work hd
      s.unitWrite schedId (l.work + 64) recs

/-! ## Spill, fetch and launch (R210, R211, R214) -/

/-- Step 11. -/
def State.bdSpill (s : State) (t m : Nat) (retrieve : Bool) : State :=
  match s.lane t m with
  | none => s
  | some l =>
    let s := l.batch.foldl (fun s b => s.readLists l.layers b.1) s
    let window := l.batch.flatMap (fun b =>
      (s.reqPages l.layers b.1).filterMap (fun p => if (s.req b.1).blocks ≤ p.2.1 + l.d 0x15 1 then some p.2.2 else none))
    let s := s.spill t m window
    let coming := (s.serve.moves.filter (fun e => e.tenant == t && e.lane == m && !e.toLp)).map (·.page)
    let s := (l.fetched ++ coming).foldl (fun s n => s.modPage t n (fun x => x.flag 3 false)) s
    let want := if s.rbit (kvpA 0) 1 then l.batch.flatMap (fun b =>
      (s.reqPages l.layers b.1).filterMap (fun p =>
        let inReach := decide (64 * p.2.1 < b.2.1 + b.2.2.1)
        let named := !retrieve || decide (p.2.1 < l.d 0x14 1) || decide ((s.req b.1).blocks ≤ p.2.1 + l.d 0x15 1)
        if inReach && named && (s.page t p.2.2).state == 2 then some p.2.2 else none)) else []
    (s.modLane t m (fun l => { l with fetched := [], walk := want })).walkerGo t m want.length

/-- The job record of a lane's step (R214). -/
def Lane.record (l : Lane) (n : Nat) : List Byte :=
  natLe 2 (l.d 0 2) ++ natLe 2 (l.d 2 2) ++ natLe 4 1 ++ natLe 4 (l.d 0x20 4) ++ natLe 1 1 ++ natLe 1 (l.d 0x1A 1) ++ natLe 2 0 ++
  natLe 8 l.work ++ natLe 4 0 ++ natLe 4 (l.d 0x1C 4) ++ natLe 4 (l.d 0x24 4) ++ natLe 4 n ++ natLe 8 0 ++ natLe 8 (l.work + 0x20) ++
  natLe 8 0

/-- Step 12: submit the step's job through the admission path; the step is counted when the distributor takes the job. -/
def State.bdLaunch (s : State) (t m : Nat) : State :=
  match s.lane t m with
  | none => s
  | some l =>
    if l.batch.isEmpty then s
    else
      let n := s.job.nextNum
      let home := (cluList (l.d 0x1C 4)).headD 0
      let s := s.jobSubmit home 1 (l.record (l.step + 1))
      if s.job.nextNum = n then s
      else
        let summ := if s.rbit (kvpA 0) 2 then
            (((s.laneReqs t m).flatMap (fun i => (s.reqPages l.layers i).map (·.2.2))).eraseDups).filter (s.wantsSummary t)
          else []
        (s.setLane t m (some { l with
          step := l.step + 1, job := n, doneAt := s.obj (l.d 0x24 4 % 2 ^ 18), summ := summ, summDone := summ.isEmpty })).kvpStatus

/-! ## The boundary (R225) -/

/-- Requests of a lane in step-list order, then in entry order. -/
def State.order (s : State) (t m : Nat) : List Nat :=
  let live := s.laneReqs t m
  let b := match s.lane t m with | some l => (l.batch.map (·.1)).filter live.contains | none => []
  b ++ live.filter (fun i => !b.contains i)

/-- Steps 1 to 4 of a boundary that ends a step: the job's result, the retry, the acceptance. -/
def State.bdResult (s : State) (t m : Nat) : State :=
  match s.lane t m with
  | none => s
  | some l =>
    let word := s.unitNat schedId (l.work + 0x20) 4
    let res := bits word 31 28
    let s := s.unitRead schedId (l.work + 0x20) 4
    if res = 2 ∨ res = 3 then
      let s := s.bump (rqtT t 0x50)
      let s := l.batch.foldl (fun s b =>
        if (tabGet none s.serve.reqs b.1).isNone then s
        else (s.modEntry b.1 ReqEntry.ran).modReq b.1 (fun r => if l.repeats then { r with ended := some (5, bits word 27 20) } else { r with retried := true })) s
      s.setLane t m (some { l with repeats := !l.repeats, batch := l.batch })
    else
      let s := (List.range l.batch.length).foldl (fun s k =>
        match l.batch[k]? with
        | some (i, pos0, npos, _) => s.acceptReq l k i pos0 npos
        | none => s) s
      s.setLane t m (some { l with repeats := false })

/-- Step 8: summaries become valid, masses are folded, pages are evicted. -/
def State.bdKvp (s : State) (t m : Nat) (job : Nat) : State :=
  match s.lane t m with
  | none => s
  | some l =>
    let s := l.summ.foldl (fun s n =>
      let x := s.page t n
      let s := s.readPages t [n]
      if x.state ≠ 0 ∧ x.fill = 64 then s.setPage t n (x.flag 0 true) else s) s
    let recs := (s.serve.mass.filter (·.1 == job)).flatMap (·.2)
    let s := s.foldMass t l.step recs
    let s := { s with serve := { s.serve with mass := s.serve.mass.filter (·.1 != job) } }
    let s := (s.order t m).foldl (fun s i => s.evictReq l i) s
    (s.modLane t m (fun l => { l with summ := [], summDone := true })).kvpStatus

/-- Step 9. -/
def State.bdLovage (s : State) (t m : Nat) : State :=
  match s.lane t m with
  | none => s
  | some l =>
    let ord := s.order t m
    let s := if s.rbit (lovA 0) 0 then ord.foldl (fun s i =>
      if bit (s.entry i).flags 2 then s.insertGo l i ((s.req i).blocks + 1) else s) s else s
    let s := ord.foldl (fun s i => (s.lookupAttach l i).postAccepted i) s
    s.reclaim t

/-- The boundary of a lane at which its job `job` has ended (0: no step ended).
Log entry 83 (DEDUCED). -/
def State.boundary (s : State) (t m job : Nat) (retrieve : Bool) : State :=
  let ts := s.timeNs
  let s : State := match s.lane t m with
    | some l => l.freed.foldl (fun s f => s.dropSlot t f.1 f.2) (s.setLane t m (some { l with freed := [], job := 0, last := ts }))
    | none => s
  let s := (s.laneReqs t m).foldl (fun s i => s.modReq i (fun r => { r with new := 0 })) s
  let s := if job = 0 then s else s.bdResult t m
  let s := s.bdCommands t m ts
  let s := (s.order t m).foldl (fun s i => s.deadlineReq t ts i) s
  let s : State := match s.lane t m with
    | some l => (s.order t m).foldl (fun s i => s.releaseReq l t ts i) s
    | none => s
  let go := job != 0 || (s.laneReqs t m).any s.runnable
  let s := if go then s.bdKvp t m job else s
  let s := s.bdLovage t m
  let go := go || (s.laneReqs t m).any s.runnable
  let s := if go then s.bdBatch t m else s.modLane t m (fun l => { l with batch := [] })
  let s := (s.bdSpill t m retrieve).pausedMove
  if go then s.bdLaunch t m else s

/-- Whether a lane's step has ended: its job has ended, DONE_OBJ has committed, its summaries are written (R225, R206).
Log entry 91 (DEDUCED). -/
def State.stepOver (s : State) (l : Lane) : Bool :=
  l.job != 0 && !s.job.jobs.any (·.num == l.job) && s.obj (l.d 0x24 4 % 2 ^ 18) != l.doneAt && l.summDone

/-- STEP_BOUNDARY (R225). -/
def execStepBoundary (t m : Fin 16) (retrieve : Bool) (s : State) : Host.Outcome State Fault Refusal :=
  .next (match s.lane t m with
    | some l =>
      if s.rbit (rqtA 0) 0 && s.stepOver l then
        let s := { s with job := { s.job with results := tabSet [] s.job.results l.job [] } }
        s.boundary t m l.job retrieve
      else s
    | none => s)

/-- EMPTY_BOUNDARY (R215): of a lane with no step, every IDLE_US.
Log entry 91 (DEDUCED). -/
def execEmptyBoundary (t m : Fin 16) (retrieve : Bool) (s : State) : Host.Outcome State Fault Refusal :=
  .next (match s.lane t m with
    | some l =>
      if s.rbit (rqtA 0) 0 && l.job == 0 && decide (l.last + clampNat 100 65535 (s.fld (rqtA 0) 31 16) * 1000 ≤ s.timeNs) then
        s.boundary t m 0 retrieve
      else s
    | none => s)

/-! ## Lanes (R216) -/

/-- Whether a descriptor passes its checks. -/
def State.descOk (s : State) (t : Nat) (b : List Byte) : Bool :=
  let f := fieldLe b
  let rng := fun v lo hi => decide (lo ≤ v) && decide (v ≤ hi)
  let cl := f 0x1C 4
  s.images.any (fun i => i.handle == f 0 2 && i.tenant == t && decide (f 2 2 < i.entryCount)) &&
  rng (f 4 2) 1 1024 && rng (f 6 1) 1 64 && kvFmtOk (f 7 1 / 16) && kvFmtOk (f 7 1 % 16) &&
  rng (f 8 2) 32 256 && f 8 2 % 32 == 0 && rng (f 0xA 2) 1 1024 && rng (f 0xC 4) 1 65536 &&
  rng (f 0x10 4) 64 65536 && f 0x10 4 % 64 == 0 && decide (f 0x14 1 ≤ 64) && rng (f 0x15 1) 1 64 && decide (f 0x16 1 ≤ 15) &&
  (if f 0x16 1 = 0 then f 0x17 1 == 0 else rng (f 0x17 1) 1 (f 0x16 1)) && decide (f 0x18 1 ≠ 0) && decide (f 0x1A 1 ≠ 0) &&
  f 0x1B 1 == 0 && decide (cl ≠ 0) && (cluList cl).all (bit (s.tenant t).clusters) && rng (f 0x20 4) 1 16777215 &&
  bit (f 0x24 4) 31 && bits (f 0x24 4) 30 18 == 0 && s.objOwned t (f 0x24 4 % 2 ^ 18) &&
  f 0x2E 2 == 0 && f 0x28 6 % 32 == 0 && decide (64 + 160 * f 0xA 2 ≤ f 0x30 4) && s.inPartition t (f 0x28 6) (f 0x30 4) &&
  (slice b 0x34 12).all (· == 0) && decide ((pageMap (f 7 1 % 16) (f 7 1 / 16) (f 6 1) (f 8 2)).bytes ≤ s.reg (rqtT t 0x1C))

/-- Lanes running in the module. -/
def State.lanesRunning (s : State) : Nat := (s.serve.lanes.filter (·.2.isSome)).length

/-- Stop a tenant's lanes.
Log entry 92 (DEDUCED). -/
def State.stopLanes (s : State) (t : Nat) : State :=
  let s := { s with serve := { s.serve with lanes := s.serve.lanes.filter (fun l => l.1 / 16 != t) } }
  (s.setFld (rqtA 4) 21 15 s.lanesRunning).kvpStatus

/-- Start the lanes of a tenant's model table: at most 16 of the tenant and 64 of the module.
Log entry 92 (DEDUCED). -/
def State.startLanes (s : State) (t : Nat) : State :=
  let s := (s.stopLanes t).lovFormat t
  let s := (s.setSlots t false (s.slots t false)).setSlots t true (s.slots t true)
  let s := (List.range (min 16 (s.reg (rqtT t 8)))).foldl (fun s m =>
    let at_ := s.reg64 (rqtT t 0) % 2 ^ 48 + 64 * m
    let b := s.unitBytes schedId at_ 64
    let s := s.unitRead schedId at_ 64
    if s.descOk t b && decide (s.lanesRunning < 64) then s.setLane t m (some { desc := b, last := s.timeNs }) else s) s
  s.setFld (rqtA 4) 21 15 s.lanesRunning

/-- A write of MODEL_COUNT (R216, R248), which a live request refuses. -/
def State.modelCount (s : State) (t v : Nat) : State :=
  if !(s.liveOf t).isEmpty then s.setRbit (rqtA 4) 31 true
  else (s.setReg (rqtT t 8) (min 16 v)).startLanes t

/-- RQT_MODEL_COUNT_WRITE (R216). -/
def execRqtModelCountWrite (ini : Nat) (t : Fin 16) (value : Word) (s : State) : Host.Outcome State Fault Refusal :=
  .next (s.guarded (isMgmt ini) ini (rqtT t 8) (s.modelCount t value.toNat))

/-- The serving part of a teardown or reset of a function (R327, R328): requests are released without completions. -/
def State.serveDrop (s : State) (t : Nat) : State :=
  let s := (s.liveOf t).foldl (fun s i => s.dropReq (s.reqLayers i) i) s
  { s with serve := { s.serve with inbox := tabSet [] s.serve.inbox t [] } }

end Sys2Proof.Machine
end

