-- ==== Sys2Proof/Machine/Tenancy.lean ====
section
/-!
DEFINITION. Tenants (R311–R315, R324–R331): activation, regions, background zeroing, FLR, teardown and its scrub.
-/
namespace Sys2Proof.Machine

/-- A word of MOD_TENANT block `t`. -/
def tenA (t off : Nat) : Nat := modA (0x1000 + 0x40 * t + off)
/-- The tenancy unit. -/
def tenancyId : Nat := hubId 11
/-- Regions of an HBM stack. -/
def stackRegions : Nat := 24576
/-- Regions of LPDDR5X. -/
def lpRegions : Nat := 262144
/-- The first of the highest 80 LPDDR5X regions, which hold an update package and are never FREE (R372). -/
def stagingRegion : Nat := 458752 - 80

/-- The partition entry that the registers hold (R311). -/
def State.tenEntry (s : State) (t : Nat) : Tenant :=
  let f := fun off hi lo => s.fld (tenA t off) hi lo
  { clusters := s.reg (tenA t 4), port := f 0 11 8, kind := f 0 7 7, func := f 0 3 0
    hbm := (List.range 8).map (fun k => if k % 2 = 0 then f (0x10 + 2 * k) 15 0 else f (0x10 + 2 * (k - 1)) 31 16)
    lp := f 0xC 18 0, nandFirst := s.reg (tenA t 0x20), nandBlocks := s.reg (tenA t 0x24) }

/-! ## Activation (R312) -/

/-- The tier of a region: stacks 0–7, LPDDR5X 8. -/
def regionTier (r : Nat) : Nat := if r < 196608 then r / stackRegions else 8

/-- Regions of a tier that no tenant holds.
Log entry 129 (DEDUCED). -/
def State.unassigned (s : State) (tier : Nat) : Nat :=
  (if tier < 8 then stackRegions else lpRegions - 80) -
    (s.mem.regions.filter (fun r => decide (r.2.state = .assigned) && regionTier r.1 == tier)).length

/-- Whether a field of an entry lies outside its range. -/
def State.entryBad (s : State) (t : Nat) (e : Tenant) : Bool :=
  e.hbm.any (fun n => decide (stackRegions < n)) || decide (lpRegions < e.lp) ||
  (if t = 0 then e.port != 0xF else !(decide (e.port < 4) && decide (1 ≤ e.func) && (e.kind == 1 || decide (e.func ≤ 7)))) ||
  (e.nandBlocks != 0 && !(decide (s.nandScratch.1 ≤ e.nandFirst) &&
    decide (e.nandFirst + e.nandBlocks ≤ s.nandScratch.1 + s.nandScratch.2))) ||
  (List.range 16).any (fun u => u != t && (s.tenant u).holds &&
    spansMeet e.nandFirst e.nandBlocks (s.tenant u).nandFirst (s.tenant u).nandBlocks)

/-- The ERR code of an ACTIVATE of tenant `t` (0: accepted); `start` is start-up's activation of tenant 0.
Log entry 128 (DEDUCED). -/
def State.activateErr (s : State) (t : Nat) (start : Bool) : Nat :=
  let e := s.tenEntry t
  if t = 0 ∧ !start then 5
  else if (s.tenant t).state ≠ .closed then 6
  else if s.entryBad t e then 4
  else if (cluList e.clusters).any (fun k => (s.cluOwner (k / 8) (k % 8)).isSome) then 1
  else if !start && (!s.portActive e.port || (List.range 16).any (fun u =>
      (decide ((s.tenant u).state = .opening) || decide ((s.tenant u).state = .isOpen)) &&
      (s.tenant u).port == e.port && (s.tenant u).kind == e.kind && (s.tenant u).func == e.func)) then 3
  else if (List.range 8).any (fun k => decide (s.unassigned k < e.hbm.getD k 0) || (decide (0 < e.hbm.getD k 0) && s.stackFenced k)) ||
      decide (s.unassigned 8 < e.lp) then 2
  else 0

/-- The tier of the next region that a tenant takes. -/
def nextTier : List Nat → Nat → Nat → Option Nat
  | [], _, _ => none
  | n :: l, k, taken => if taken < n then some k else nextTier l (k + 1) (taken - n)

/-- An OPENING tenant takes FREE regions in its order, the lowest of each tier first, while there are any; it is OPEN once it
holds all of them.
Log entry 129 (DEDUCED). -/
def State.takeRegions (s : State) (t : Nat) : Nat → State
  | 0 => s
  | n + 1 =>
    let x := s.tenant t
    match nextTier (x.hbm ++ [x.lp]) 0 x.taken with
    | none => s.setTenant t { x with state := .isOpen }
    | some k =>
      match s.mem.regions.find? (fun r => decide (r.2.state = .free) && regionTier r.1 == k) with
      | none => s
      | some (r, e) =>
        if k < 8 ∧ s.stackFenced k then s
        else
          let s := s.setRegion r { e with state := .assigned, owner := t, index := x.taken
                                          epoch := s.fld (sgeT t 4) 30 30, sweep := 0, weight := false, coded := 0 }
          State.takeRegions (s.setTenant t { x with taken := x.taken + 1 }) t n

/-- Steps 1 to 5 of R312, or the refusal. -/
def State.activate (s : State) (t : Nat) (start : Bool) : State :=
  let err := s.activateErr t start
  if err ≠ 0 then s.setFld (tenA t 8) 27 20 err
  else
    let e := s.tenEntry t
    let s := s.setTenant t { e with state := .opening, trigger := s.timeNs }
    let s := s.createKeys t
    s.takeRegions t (e.regions + 1)

/-- Insert a key into a list in rising order of its rank. -/
def insertRank (rank : Nat → Nat) (x : Nat) : List Nat → List Nat
  | [] => [x]
  | y :: l => if rank x < rank y then x :: y :: l else y :: insertRank rank x l

/-- OPENING tenants take regions, the one activated first first.
Log entry 129 (DEDUCED). -/
def State.serveOpening (s : State) : State :=
  let l := (List.range 16).filter (fun t => decide ((s.tenant t).state = .opening))
  (l.foldl (fun a t => insertRank (fun u => (s.tenant u).trigger) t a) []).foldl
    (fun s t => s.takeRegions t ((s.tenant t).regions + 1)) s

/-- TENANT_ACTIVATE (R312): a write of ACTIVATE. -/
def execTenantActivate (ini : Nat) (t : Fin 16) (s : State) : Host.Outcome State Fault Refusal :=
  .next (s.guarded (isMgmt ini) ini (tenA t 0) (s.activate t false))

/-- REGION_ZEROED (R315): zeroing finishes region `r`, which is DIRTY or SCRUBBING, in a trained tier that is not fenced;
tenants that wait take it.
Log entry 130 (DESIGN CHOICE). -/
def execRegionZeroed (r : Nat) (s : State) : Host.Outcome State Fault Refusal :=
  let e := s.region r
  let k := regionTier r
  let up := if k < 8 then s.rbit (modA 0x100) k && !s.stackFenced k else s.rbit (modA 0x100) 16
  if stagingRegion ≤ r ∨ !up ∨ (e.state ≠ .dirty ∧ e.state ≠ .scrubbing) then .next s
  else .next ((s.zeroRange (regionBase r) 0x200000).setRegion r { state := .free }).serveOpening

/-! ## Stopping a tenant's work -/

/-- The tile-core slots of a tenant's clusters. -/
def State.tenCores (s : State) (t : Nat) : List Core3 :=
  (s.tenClusters t).flatMap (fun k => (List.range 9).map (fun sl => ⟨k / 8, k % 8, sl⟩))

/-- The application cores of a tenant's clusters. -/
def State.tenAcs (s : State) (t : Nat) : List AcCore :=
  (s.tenClusters t).flatMap (fun k => (List.range 2).map (fun j => ⟨k / 8, k % 8, j⟩))

/-- Drop a tenant's jobs without results. -/
def State.dropJobs (s : State) (t : Nat) : State :=
  { s with job := { s.job with jobs := s.job.jobs.filter (fun j => j.tenant != t) } }

/-- Abort every slot of a tenant with FLUSH; the aborted kernels end (R108). -/
def State.abortTenant (s : State) (t : Nat) : State :=
  (s.tenCores t).foldl (fun s x => ((s.abortSlot x).flushQueue x).abortDone x) s

/-- Close every stream context of a tenant (R258). -/
def State.closeStreams (s : State) (t : Nat) : State :=
  let s := ((List.range 128).filter (fun c => s.dstate c != 0 && s.dten c == t)).foldl (fun s c => (s.decodeClose c).decodeClosed c) s
  let s := ((List.range 64).filter (fun e => s.fld (vencA e 4) 31 28 != 0 && s.eten e == t)).foldl
    (fun s e => (s.encodeClose e).encodeClosed e) s
  s.vidStatus

/-- Clear the queues of a function: registers, MSI-X table, counters, everything held or in flight (R325, R332). -/
def State.clearFunction (s : State) (t : Nat) : State :=
  let s := (s.resetRegs (fnA t 0x100) (fnA t 0x1100)).resetRegs (fnA t 0x4000) (fnA t 0x5000)
  let s := s.setReg (fnA t 0x14) 0
  let h := s.host
  let mine := fun (p : Nat × Nat) => p.1 / 64 != t
  let gone := (h.cmds.filter (fun c => c.tenant == t)).map (·.num)
  { s with
    host := { h with sqTail := h.sqTail.filter mine, cqTail := h.cqTail.filter mine, cqHead := h.cqHead.filter mine
                     held := h.held.filter (fun x => x.1 != t), cmds := h.cmds.filter (fun c => c.tenant != t) }
    sage := { s.sage with loads := s.sage.loads.filter (fun w => match w.cmd with | some n => !gone.contains n | none => true) } }

/-! ## Teardown (R328) -/

/-- The counters of a register range return to 0: every register of it whose fields the hardware alone writes. -/
def State.resetCounters (s : State) (a b : Nat) : State :=
  { s with regs := s.regs.filter (fun p => decide (p.1 < a) || decide (b ≤ p.1) ||
      (match regAt p.1 with | some (r, _, _) => !r.fields.all (fun f => decide (f.acc = .roh)) | none => false)) }

/-- Steps 2 and 3 of R328: work stops, contexts break off, flows are forced, streams close. -/
def State.teardownStop (s : State) (t : Nat) : State :=
  let s := s.dropJobs t
  let s := s.abortTenant t
  let s := (List.range 32).foldl (fun s b =>
    if s.rbit (ctxA b 0) 31 ∧ s.fld (ctxA b 0) 23 20 = t then s.barCtrlWrite b (s.reg (ctxA b 0) % 2 ^ 31) else s) s
  let s := s.serveDrop t
  let s := { s with thy := { s.thy with events := s.thy.events.filter (fun e => !(e.2.tenant == t || (e.2.owner != 0 && e.2.owner / 65536 == t))) } }
  let s := s.forceFlows (fun f => s.flowEn f && s.flowTenant f == t) 4
  s.closeStreams t

/-- Step 5 of R328: what the scrub clears.
Log entry 131 (DESIGN CHOICE). -/
def State.teardownClear (s : State) (t : Nat) : State :=
  let mine := fun (o : Nat) => s.objOwned t o
  let from_ := fun (i : Nat) => decide (s.iniTenant i = some t)
  let s := { s with sync := { s.sync with
    vals := s.sync.vals.filter (fun p => !mine p.1)
    inflight := s.sync.inflight.filter (fun g => !(mine g.obj || from_ g.ini))
    reached := s.sync.reached.filter (fun g => !mine g.2.obj)
    arriving := s.sync.arriving.filter (fun w => !mine w.obj)
    waiters := s.sync.waiters.filter (fun w => !mine w.obj) } }
  let s := (s.tenAcs t).foldl State.scrubAc s
  let s := (s.tenCores t).foldl State.scrubSlot s
  let s := (s.tenClusters t).foldl (fun s k => s.zeroRange (cluBase (k / 8) (k % 8)) 0x3000000) s
  let s := s.dropWeights t
  let s := s.imgDrop t
  let s := s.stopLanes t
  let sv := s.serve
  let s := { s with serve := { sv with moves := sv.moves.filter (fun m => m.tenant != t), hbm := tabSet [] sv.hbm t []
                                       lp := tabSet [] sv.lp t [], pool := tabSet [] sv.pool t [] } }
  let s := s.kvpStatus
  let s := (s.resetCounters (rqtT t 0) (rqtT t 0x80)).resetCounters (lovT t 0) (lovT t 0x80)
  let s := s.resetCounters (kvpT t 0) (kvpT t 0x40)
  { s with mem := { s.mem with regions := s.mem.regions.map (fun r =>
      if r.2.state = .assigned ∧ r.2.owner = t then (r.1, { state := .scrubbing }) else r) } }

/-- A teardown trigger: steps 1 to 5 of R328. Only an OPENING or OPEN tenant t ≥ 1 is torn down.
Log entry 131 (DESIGN CHOICE). -/
def State.teardown (s : State) (t : Nat) : State :=
  let x := s.tenant t
  if t = 0 ∨ (x.state ≠ .opening ∧ x.state ≠ .isOpen) then s
  else
    let s := s.endConsentsOf t
    let s := s.setTenant t { x with state := .scrubbing, trigger := s.timeNs }
    let s := s.clearFunction t
    let s := s.teardownStop t
    let s := s.destroyKeys t
    s.teardownClear t

/-- TENANT_TEARDOWN (R328): a write of TEARDOWN, refused for tenant 0 with ERR 5. -/
def execTenantTeardown (ini : Nat) (t : Fin 16) (s : State) : Host.Outcome State Fault Refusal :=
  .next (s.guarded (isMgmt ini) ini (tenA t 0) (if t = 0 then s.setFld (tenA t 8) 27 20 5 else s.teardown t))

/-- Nanoseconds of a scrub. -/
def scrubNs : Nat := 400000000

/-- SCRUB_END (R328 step 6, R329): 400 ms after the trigger; `stuck` says that a step is still incomplete.
Log entries 131 (DESIGN CHOICE), 137 (DEDUCED). -/
def execScrubEnd (t : Fin 16) (stuck : Bool) (s : State) : Host.Outcome State Fault Refusal :=
  let x := s.tenant t
  if x.state ≠ .scrubbing ∨ s.timeNs < x.trigger + scrubNs then .next s
  else if stuck then .next ((s.setTenant t { x with state := .stuck }).presentHub 0x21 10 tenancyId 5 0 0)
  else
    let s := s.fnAttn t 4
    let s := ((s.setTenant t {}).bump (tenA t 0x28)).setTdi t {}
    .next (if s.rbit (tenA t 0) 29 then s.activate t false else s)

/-- Tear down every tenant of a port. -/
def State.teardownPort (s : State) (p : Nat) (vfOnly : Bool) : State :=
  (List.range 16).foldl (fun s t =>
    if (s.tenant t).port = p ∧ (!vfOnly ∨ (s.tenant t).kind = 1) then s.teardown t else s) s

/-! ## Function level reset (R325) -/

/-- An FLR of a tenant function: a teardown where its TDI is locked.
Log entry 131 (DESIGN CHOICE). -/
def State.flr (s : State) (t : Nat) : State :=
  let x := s.tenant t
  let s := s.bump (pciA x.port 0x18)
  if (s.tdi t).isLocked then s.teardown t
  else
    let s := s.clearFunction t
    let s := s.dropJobs t
    let s := s.abortTenant t
    let s := (s.tenAcs t).foldl (fun s x => (s.acReset x).acResetDone x) s
    let s := s.serveDrop t
    s.closeStreams t

/-- FLR (R325): of the function of an OPENING or OPEN tenant. -/
def execFlr (t : Fin 16) (s : State) : Host.Outcome State Fault Refusal :=
  let x := s.tenant t
  if t = 0 ∨ (x.state ≠ .opening ∧ x.state ≠ .isOpen) then .next s else .next (s.flr t)

end Sys2Proof.Machine
end

