-- ==== Sys2Proof/Machine/Host.lean ====
section
/-!
DEFINITION. Ports, configuration writes, BAR2, and the host commands (R305–R327).
-/
namespace Sys2Proof.Machine

/-! ## Links (R305–R308, R323, R327) -/

/-- PCIE_LINK_UP (R307, R447): a port that its group creates reaches L0, at most at MAX_SPEED and its configured width; under
the recovery responder port A alone (R376).
Log entry 119 (DEDUCED). -/
def execPcieLinkUp (p : Fin 4) (speed : Fin 7) (width : Fin 17) (flit : Bool) (s : State) : Host.Outcome State Fault Refusal :=
  let full := if (if p.val < 2 then s.host.bifAB else s.host.bifCD) then 8 else 16
  if !s.linksReady ∨ (s.start.recovery ∧ p ≠ 0) ∨ !s.portActive p ∨ (s.port p).perst ∨ speed.val = 0 ∨ !([1, 2, 4, 8, 16].contains width.val) ∨ full < width.val ∨
      s.fld (pciA p 0) 2 0 < speed.val then .next s
  else
    let a := pciA p 4
    let s := s.setFld a 15 8 speed
    let s := s.setFld a 23 16 width
    let s := s.setRbit a 28 (speed.val < 4)
    let s := s.setRbit a 29 (speed.val == 6 || (flit && decide (4 ≤ speed.val)))
    let s := s.setRbit a 30 true
    .next ((s.setPort p { s.port p with downAt := none }).rbUpdate p)

/-- The link of a port leaves L0. -/
def State.linkOut (s : State) (p : Nat) : State :=
  let a := pciA p 4
  ((s.setFld a 30 28 0).setFld a 23 8 0).rbUpdate p

/-- PCIE_LINK_DOWN (R327): recovery starts. -/
def execPcieLinkDown (p : Fin 4) (s : State) : Host.Outcome State Fault Refusal :=
  if !s.rbit (pciA p 4) 30 then .next s
  else .next (((s.bump (pciA p 0x10)).setPort p { s.port p with downAt := some s.timeNs }).linkOut p)

/-- What a reset of the management function clears in Sage: MCTP and SPDM state. -/
def State.mgmtReset (s : State) (p : Nat) : State :=
  { s with sage := { s.sage with
      sessions := s.sage.sessions.filter (fun x => x.port != p)
      chunksIn := tabSet [] s.sage.chunksIn p []
      chunksOut := tabSet [] s.sage.chunksOut p [] } }

/-- A port reset (R327): RB_N floats high and the port's tenants are torn down; its IDE keys are destroyed (R334).
Log entry 119 (DEDUCED). -/
def State.portReset (s : State) (p : Nat) : State :=
  let s := s.bump (pciA p 0x14)
  let s := (s.setPort p { s.port p with downAt := none }).linkOut p
  let s := (s.teardownPort p false).mgmtReset p
  { s with
    sage := { s.sage with ide := s.sage.ide.filter (fun x => x.port != p) }
    host := { s.host with config := s.host.config.filter (fun e => e.1 / 65536 != p) } }

/-- LINK_DOWN_TIMEOUT (R327): 10 ms out of L0. -/
def execLinkDownTimeout (p : Fin 4) (s : State) : Host.Outcome State Fault Refusal :=
  match (s.port p).downAt with
  | some t => .next (if t + 10000000 ≤ s.timeNs then s.portReset p else s)
  | none => .next s

/-- HOT_RESET (R327). -/
def execHotReset (p : Fin 4) (s : State) : Host.Outcome State Fault Refusal :=
  .next (if s.portActive p ∧ !(s.port p).perst then s.portReset p else s)

/-! ## Functions (R309, R310, R326, R341) -/

/-- A configuration register, by function and number (BARs 0–5, command 6, MSI-X 7, then offsets). -/
def cfgKey (p t n : Nat) : Nat := p * 65536 + t * 4096 + n

/-- Write a configuration register.
Log entry 120 (DESIGN CHOICE). -/
def State.setCfg (s : State) (p t n v : Nat) : State :=
  { s with host := { s.host with config := tabSet 0 s.host.config (cfgKey p t n) v } }

/-- VF Enable of a port's management function clears: every tenant bound as a virtual function is torn down (R326). -/
def State.vfOff (s : State) (p : Nat) : State := (s.setCfg p 0 8 0).teardownPort p true

/-- VF_ENABLE_CLEAR (R326). -/
def execVfEnableClear (p : Fin 4) (s : State) : Host.Outcome State Fault Refusal :=
  .next (if s.portActive p then s.vfOff p else s)

/-- MANAGEMENT_FLR (R326). -/
def execManagementFlr (p : Fin 4) (s : State) : Host.Outcome State Fault Refusal :=
  .next (if s.portActive p then ((s.bump (pciA p 0x18)).mgmtReset p).vfOff p else s)

/-- Whether tenant `t` has a function on port `p`; 0 is the management function. -/
def State.onPort (s : State) (p t : Nat) : Bool :=
  s.portActive p && (t == 0 || ((s.tenant t).holds && (s.tenant t).port == p))

/-- The size of a tenant's BAR2: the power of two at or above DEV_BYTES, or what a host has chosen.
Log entry 121 (DEDUCED). -/
def State.bar2Bytes (s : State) (t : Nat) : Nat :=
  match tabGet 0 s.host.bar2 t with
  | 0 => 2 ^ Nat.log2 (2 * max 0x200000 (s.devBytes t) - 1)
  | n => n

/-- A locked TDI enters ERROR, and its tenant is torn down (R341). -/
def State.tdiError (s : State) (t : Nat) : State :=
  if (s.tdi t).isLocked then (s.setTdi t { s.tdi t with state := .error }).teardown t else s

/-- CONFIG_WRITE (R341): a change of a BAR, the command register or the MSI-X capability of a locked TDI makes it ERROR.
Log entry 120 (DESIGN CHOICE). -/
def execConfigWrite (p : Fin 4) (t : Fin 16) (w : CfgWrite) (s : State) : Host.Outcome State Fault Refusal :=
  if !s.onPort p t then .next s
  else
    let put := fun (n v : Nat) (guard : Bool) =>
      let same := tabGet 0 s.host.config (cfgKey p t n) == v
      let s := s.setCfg p t n v
      if guard && !same then s.tdiError t else s
    match w with
    | .bar n v => .next (put n v true)
    | .command v => .next (put 6 v true)
    | .msix v => .next (put 7 v true)
    | .bar2Size k =>
      if t = 0 ∨ k < 21 ∨ 40 < k then .next s
      else
        let same := s.bar2Bytes t == 2 ^ k
        let s := { s with host := { s.host with bar2 := tabSet 0 s.host.bar2 t (2 ^ k) } }
        .next (if same then s else s.tdiError t)
    | .vfEnable on =>
      if t ≠ 0 then .next s
      else
        .next (if on then s.setCfg p 0 8 1 else s.vfOff p)
    | .other off v => .next (s.setCfg p t (16 + off % 4000) v)

/-! ## Device memory (R314) -/

/-- A range of a tenant's device-memory space cut at region boundaries: offsets and lengths. -/
def devChunks (off n : Nat) : List (Nat × Nat) :=
  if n = 0 then []
  else (List.range ((off + n - 1) / 0x200000 - off / 0x200000 + 1)).map (fun i =>
    let lo := max off ((off / 0x200000 + i) * 0x200000)
    (lo, min (off + n) ((off / 0x200000 + i + 1) * 0x200000) - lo))

/-- Read a tenant's device memory. None: some access completed with an error status. -/
def State.devRead (s : State) (ini t off n : Nat) : State × Option (List Byte) :=
  (devChunks off n).foldl (fun (a : State × Option (List Byte)) c =>
    match a.2, a.1.devAddr t c.1 with
    | some b, some m =>
      let (s, r) := a.1.memRead ini m c.2
      (s, r.map (b ++ ·))
    | _, _ => (a.1, none)) (s, some [])

/-- Write a tenant's device memory, region by region up to the first error. -/
def State.devWrite (s : State) (ini t off : Nat) (data : List Byte) : State × Bool :=
  (devChunks off data.length).foldl (fun (a : State × Bool) c =>
    match a.2, a.1.devAddr t c.1 with
    | true, some m => a.1.memWrite ini m (slice data (c.1 - off) c.2)
    | _, _ => (a.1, false)) (s, true)

/-- BAR2_ACCESS (R314): above DEV_BYTES, or while the tenant is not OPEN, a read answers Unsupported Request and a write is
discarded. -/
def execBar2Access (p : Fin 4) (t : Fin 16) (off : Nat) (acc : BusAcc) (s : State) : Host.Outcome State Fault Refusal :=
  let n := match acc with | .read n => n | .write d => d.length
  let ok := t ≠ 0 ∧ (s.tenant t).state = .isOpen ∧ (s.tenant t).port = p ∧ off + n ≤ s.devBytes t ∧ off + n ≤ s.bar2Bytes t
  if ¬ ok then .next ((s.bump (pciA p 0x1C)).answer (match acc with | .read _ => .unsupported | .write _ => .none))
  else
    let ini := mkId 7 p t 0
    match acc with
    | .read n =>
      match s.devRead ini t off n with
      | (s, some b) => .next (s.answer (.bytes b))
      | (s, none) => .next (s.answer .err)
    | .write d =>
      let (s, ok) := s.devWrite ini t off d
      .next (s.answer (if ok then .ok 0 else .err))

/-- SQ_DOORBELL (R317). -/
def execSqDoorbell (t : Fin 16) (q : Fin 64) (value : Word) (s : State) : Host.Outcome State Fault Refusal :=
  .next (s.sqDoorbell t q value.toNat)

/-- CQ_DOORBELL (R317). -/
def execCqDoorbell (t : Fin 16) (q : Fin 64) (value : Word) (s : State) : Host.Outcome State Fault Refusal :=
  .next (s.cqDoorbell t q value.toNat)

/-! ## Host commands (R319, R320) -/

/-- Fetch the next command of a port if it has an opcode, check its header, and run it. -/
def State.hostCmd (s : State) (p op : Nat) (run : State → HostCmd → State) : State :=
  match s.fetch p (· == op) with
  | (s, none) => s
  | (s, some c) => if c.headOk then run s c else s.cmdResult c 2 0 0

/-- HOST_NOP (R320): completes at once; so does a command with an OPCODE outside the table, with STATUS 2. -/
def execHostNop (p : Fin 4) (s : State) : Host.Outcome State Fault Refusal :=
  match s.fetch p (fun o => o == 0 || !hostOpcodes.contains o) with
  | (s, none) => .next s
  | (s, some c) => .next (s.completeCmd c (if c.h 0 1 = 0 ∧ c.headOk ∧ c.zero 0x40 64 then 0 else 2) 0 0)

/-- LOAD_IMAGE (R84, R320). -/
def execLoadImage (p : Fin 4) (s : State) : Host.Outcome State Fault Refusal :=
  .next (s.hostCmd p 0x10 (fun s c =>
    if !c.zero 0x50 48 then s.cmdResult c 2 0 0
    else if !s.inPartition c.tenant (c.p 0 8) (c.p 8 8) then s.cmdResult c 3 0 0
    else
      match s.memRead hubDmaId (c.p 0 8) (c.p 8 8) with
      | (s, none) => s.cmdResult c 5 0 0
      | (s, some b) =>
        let (s, (st, code, v)) := s.imgLoad c.tenant b
        s.cmdResult c st code v))

/-- The end of an UNLOAD_IMAGE: once nothing uses the handle. -/
def State.unloadTry (s : State) (c : HostCmd) : State :=
  let h := c.p 0 2
  if s.imgInUse c.tenant h then s else (s.imgUnload c.tenant h).cmdResult c 0 0 0

/-- UNLOAD_IMAGE (R85, R320). -/
def execUnloadImage (p : Fin 4) (s : State) : Host.Outcome State Fault Refusal :=
  .next (s.hostCmd p 0x11 (fun s c =>
    if !c.zero 0x42 62 then s.cmdResult c 2 0 0
    else if !(s.imagesOf c.tenant).any (·.handle == c.p 0 2) then s.cmdResult c 1 0x13 0
    else s.unloadTry c))

/-- How a job's rejection code shows in a completion (R320, R322).
Log entry 126 (DEDUCED). -/
def jobStatus (code : Nat) : Nat := if code = 1 then 4 else if code = 5 then 2 else if code = 6 ∨ code = 7 then 3 else 1

/-- JOB (R167, R320): through window CL_JOB_ADM of the lowest cluster of CLUSTERS.
Log entry 126 (DEDUCED). -/
def execJob (p : Fin 4) (s : State) : Host.Outcome State Fault Refusal :=
  .next (s.hostCmd p 0x20 (fun s c =>
    let r := slice c.data 0x40 64
    let prov := bit (c.h 1 1) 1
    match cluList (fieldLe r 0x1C 4) with
    | [] => s.cmdResult c 1 3 0
    | k :: _ =>
      if !bit (s.tenant c.tenant).clusters k then s.cmdResult c 1 3 0
      else if prov && !s.inPartition c.tenant (c.h 8 6) 160 then s.cmdResult c 3 0 0
      else
        match s.jobErrs k 1 r with
        | [] => (s.jobAccept k 1 r).setHostCmd { c with job := s.job.nextNum }
        | code :: _ => (s.jobReject k code).cmdResult c (jobStatus code) code 0))

/-- COPY_IN (R320).
Log entry 124 (DEDUCED). -/
def execCopyIn (p : Fin 4) (s : State) : Host.Outcome State Fault Refusal :=
  .next (s.hostCmd p 0x30 (fun s c =>
    let n := c.p 0x10 8
    if !c.zero 0x58 40 ∨ n = 0 ∨ 0x400000000 < n then s.cmdResult c 2 0 0
    else if s.devBytes c.tenant < c.p 8 8 + n then s.cmdResult c 3 0 0
    else
      let (s, ok) := s.devWrite hubDmaId c.tenant (c.p 8 8) (s.hostRead p (c.p 0 8) n)
      s.cmdResult c (if ok then 0 else 5) 0 0))

/-- COPY_OUT (R320). -/
def execCopyOut (p : Fin 4) (s : State) : Host.Outcome State Fault Refusal :=
  .next (s.hostCmd p 0x31 (fun s c =>
    let n := c.p 0x10 8
    if !c.zero 0x58 40 ∨ n = 0 ∨ 0x400000000 < n then s.cmdResult c 2 0 0
    else if s.devBytes c.tenant < c.p 8 8 + n then s.cmdResult c 3 0 0
    else
      match s.devRead hubDmaId c.tenant (c.p 8 8) n with
      | (s, some b) => (s.hostWrite p (c.p 0 8) b).cmdResult c 0 0 0
      | (s, none) => s.cmdResult c 5 0 0))

/-- Put a descriptor of 128 bytes into a stream context's registers. -/
def State.putDesc (s : State) (a : Nat) (d : List Byte) : State := s.setRegWords a 32 (leNat d)

/-- The status of a refused OPEN: an address outside the partition is RANGE, a load over the admitted limit BUSY.
Log entry 124 (DEDUCED). -/
def openStatus (code : Nat) : Nat := if code = 2 then 3 else if code = 3 then 4 else 1

/-- STREAM_OPEN (R258, R320): the descriptor's TENANT is the submitter, and the context is closed.
Log entry 124 (DEDUCED). -/
def execStreamOpen (p : Fin 4) (s : State) : Host.Outcome State Fault Refusal :=
  .next (s.hostCmd p 0x50 (fun s c =>
    let kind := c.p 0 1
    let x := c.p 1 1
    if !c.zero 0x42 6 ∨ !c.zero 0x50 48 ∨ 1 < kind ∨ (if kind = 0 then 128 else 64) ≤ x then s.cmdResult c 2 0 0
    else if !s.inPartition c.tenant (c.p 8 8) 128 then s.cmdResult c 3 0 0
    else
      match s.memRead hubDmaId (c.p 8 8) 128 with
      | (s, none) => s.cmdResult c 5 0 0
      | (s, some d) =>
        let st := if kind = 0 then s.dstate x else s.fld (vencA x 4) 31 28
        if st ≠ 0 then s.cmdResult c 1 7 0
        else if fieldLe d 0 1 ≠ c.tenant then (s.setFld (if kind = 0 then vdecA x 8 else vencA x 8) 7 0 7).cmdResult c 1 7 0
        else
          let a := if kind = 0 then vdecA x 0x100 else vencA x 0x100
          let s := s.putDesc a d
          let s := if kind = 0 then s.decodeOpen x else s.encodeOpen x
          let code := s.fld (if kind = 0 then vdecA x 8 else vencA x 8) 7 0
          if code = 0 then s.cmdResult c 0 0 0 else s.cmdResult c (openStatus code) code 0))

/-- STATE of a stream context. -/
def State.streamState (s : State) (kind x : Nat) : Nat := if kind = 0 then s.dstate x else s.fld (vencA x 4) 31 28

/-- STREAM_CLOSE (R258, R320). -/
def execStreamClose (p : Fin 4) (s : State) : Host.Outcome State Fault Refusal :=
  .next (s.hostCmd p 0x51 (fun s c =>
    let kind := c.p 0 1
    let x := c.p 1 1
    if !c.zero 0x42 62 ∨ 1 < kind ∨ (if kind = 0 then 128 else 64) ≤ x then s.cmdResult c 2 0 0
    else if s.streamState kind x ≠ 0 ∧ (if kind = 0 then s.dten x else s.eten x) ≠ c.tenant then s.cmdResult c 1 7 0
    else if kind = 0 then s.decodeClose x else s.encodeClose x))

/-- The description that PARTITION_INFO writes.
Log entry 127 (DEDUCED). -/
def State.partitionInfo (s : State) (t : Nat) : List Byte :=
  let n := if (s.tenant t).holds then (s.tenant t).taken else 0
  natLe 4 (s.tenant t).clusters ++ natLe 4 t ++ natLe 8 (s.devBytes t) ++ natLe 8 n ++ zeros 40 ++
  (List.range n).flatMap (fun i => natLe 8 ((s.devAddr t (0x200000 * i)).getD 0))

/-- PARTITION_INFO (R320).
Log entry 127 (DEDUCED). -/
def execPartitionInfo (p : Fin 4) (s : State) : Host.Outcome State Fault Refusal :=
  .next (s.hostCmd p 0x60 (fun s c =>
    if !c.zero 0x50 48 then s.cmdResult c 2 0 0
    else
      let b := (s.partitionInfo c.tenant).take (c.p 8 8)
      (s.hostWrite p (c.p 0 8) b).cmdResult c 0 0 b.length))

/-! ## Completion (R320, R321) -/

/-- What a command in flight that waits has come to: a job's result, the end of an unload or of a close. -/
def State.cmdPoll (s : State) (c : HostCmd) : State :=
  if c.result.isSome then s
  else
    match c.h 0 1 with
    | 0x11 => s.unloadTry c
    | 0x20 =>
      match s.job.results.find? (·.1 == c.job) with
      | none => s
      | some (_, r) =>
        let s := { s with job := { s.job with results := tabSet [] s.job.results c.job [] } }
        let ok := if bit (c.h 1 1) 1 then
            match (s.imagesOf c.tenant).find? (·.handle == c.p 0 2) with
            | some im => s.memWrite hubDmaId (c.h 8 6) (s.provenance im (inputDigest []) (c.p 2 2) (c.p 8 3))
            | none => (s, true)
          else (s, true)
        ok.1.cmdResult c (if ok.2 then 0 else 5) 0 (fieldLe r 0 4)
    | 0x51 => if s.streamState (c.p 0 1) (c.p 1 1) = 0 then s.cmdResult c 0 0 0 else s
    | _ => s

/-- HOST_COMMAND_COMPLETE (R321): the `i`-th command of a function in flight completes if it has ended. -/
def execHostCommandComplete (t : Fin 16) (i : Fin 256) (s : State) : Host.Outcome State Fault Refusal :=
  match (s.inflightOf t)[i.val]? with
  | none => .next s
  | some c =>
    let s := s.cmdPoll c
    match (s.inflightOf t).find? (·.num == c.num) with
    | some c =>
      match c.result with
      | some (st, code, v) => .next (s.completeCmd c st code v)
      | none => .next s
    | none => .next s

/-- HELD_COMPLETION_POST (R321). -/
def execHeldCompletionPost (t : Fin 16) (s : State) : Host.Outcome State Fault Refusal := .next (s.heldPost t)

end Sys2Proof.Machine
end

