-- ==== Sys2Proof/Machine/Memory.lean ====
section
/-!
DEFINITION. The commands of the memory tiers and links: scrub (R33–R36, R40), link retransmission (R37), the slot map (R15).
-/
namespace Sys2Proof.Machine

/-- TARGETED_SCRUB (R35). -/
def execTargetedScrub (addr : Nat) (miscorrect : Option (List Byte)) (s : State) : Host.Outcome State Fault Refusal :=
  .next (s.targetedScrub (s.phys addr / 32) miscorrect)

/-- CORRECTION_WRITEBACK (R33): the corrected word is written; a word that a newer write covered has no write-back left.
Log entry 27 (DEDUCED). -/
def execCorrectionWriteback (addr : Nat) (s : State) : Host.Outcome State Fault Refusal :=
  let w := s.phys addr / 32
  .next (if (s.word w).writeback then s.setWord w {} else s)

/-! ## Patrol scrub -/

/-- The patrol of a tier. -/
def State.patrol (s : State) : ScrubTier → Patrol
  | .sram => s.mem.patrolSram
  | .hbm => s.mem.patrolHbm
  | .lp => s.mem.patrolLp

/-- Set the patrol of a tier. -/
def State.setPatrol (s : State) (t : ScrubTier) (p : Patrol) : State :=
  match t with
  | .sram => { s with mem := { s.mem with patrolSram := p } }
  | .hbm => { s with mem := { s.mem with patrolHbm := p } }
  | .lp => { s with mem := { s.mem with patrolLp := p } }

/-- Number of a tier in MOD_SCRUB_CTRL and in the period registers. -/
def tierIx : ScrubTier → Nat
  | .sram => 0
  | .hbm => 1
  | .lp => 2

/-- The enable bit of a tier (MOD_SCRUB_CTRL). -/
def State.scrubOn (s : State) (t : ScrubTier) : Bool := s.rbit (modA 0x110) (tierIx t)

/-- Cycles of the arithmetic clock in a second.
Log entry 144 (DEDUCED). -/
def cyclesPerSecond : Nat := 1100000000

/-- Words of a tier: SRAM is tile, cluster and hub memory. -/
def tierWords : ScrubTier → Nat
  | .sram => 32 * (0x3000000 / 32 + 9 * (0x200000 / 32)) + 0x4000000 / 32
  | .hbm => 0x6000000000 / 32
  | .lp => 0x8000000000 / 32

/-- Address of word `n` of a tier. -/
def tierAddr : ScrubTier → Nat → Nat
  | .sram, n =>
    let per := 0x3000000 / 32 + 9 * (0x200000 / 32)
    if 32 * per ≤ n then hubBase + (n - 32 * per) * 32
    else
      let g := n / per
      let r := n % per
      if r < 0x3000000 / 32 then cluBase (g / 8) (g % 8) + r * 32
      else
        let q := r - 0x3000000 / 32
        tileBase (g / 8) (g % 8) (q / (0x200000 / 32)) + q % (0x200000 / 32) * 32
  | .hbm, n => n * 32
  | .lp, n => 0x10000000000 + n * 32

/-- The next word of a pass at or after `n`: patrol pauses on a fenced stack, so its words are passed over (R25).
Log entry 28 (DESIGN CHOICE). -/
def State.scrubSkip (s : State) (n : Nat) : Nat → Nat
  | 0 => n
  | f + 1 =>
    let k := n * 32 / 0xC00000000
    if k < 8 && s.stackFenced k then State.scrubSkip s ((k + 1) * (0xC00000000 / 32)) f else n

/-- The next word of a tier's pass.
Log entry 28 (DESIGN CHOICE). -/
def State.scrubNext (s : State) (t : ScrubTier) (n : Nat) : Nat :=
  match t with
  | .hbm => s.scrubSkip n 8
  | _ => n

/-- Increment the 16-bit pass counter of a tier. -/
def State.scrubPass (s : State) : ScrubTier → State
  | .sram => s.bumpFld (modA 0x120) 15 0
  | .hbm => s.bumpFld (modA 0x120) 31 16
  | .lp => s.bumpFld (modA 0x124) 15 0

/-- PATROL_SCRUB_PASS_START (R40): at the start of a period, whose length is then taken from the register. -/
def execPatrolScrubPassStart (tier : ScrubTier) (s : State) : Host.Outcome State Fault Refusal :=
  let p := s.patrol tier
  .next (if s.cycle < p.nextStart then s
    else s.setPatrol tier
      { nextStart := p.nextStart + s.reg (modA (0x114 + 4 * (tierIx tier))) * cyclesPerSecond
        cursor := s.scrubNext tier 0
        running := s.scrubOn tier })

/-- The patrol scrub of one word (R34): one or two symbols corrected as class C; a word double correction cannot correct is
poisoned as class U, SOURCE 0x04, unless `mis` says that it is miscorrected without notice; poison stays. The read of a word
that waits for its targeted scrub comes after that scrub (R35).
Log entry 27 (DEDUCED). -/
def State.patrolWord (s : State) (w : Nat) (mis : Bool) : State :=
  let s := s.targetedScrub w none
  let x := s.word w
  let pl := (placeOf (w * 32)).1
  if x.poison ∨ x.sym = 0 then s
  else if x.sym ≤ 2 ∨ (x.sym = 3 ∧ mis) then
    (s.setWord w {}).presentHub (if x.sym = 1 then 0x01 else 0x02) 4 pl.ctrlId 0 (w * 32) (min x.sym 2)
  else (s.poisonWord w).present ⟨0x04, 4, pl.ctrlId, 0, w * 32, 0, pl.detUnit⟩

/-- PATROL_SCRUB_READ (R34): the next word of a running pass; the pass that reads its last word is counted (R40). While the
tier's enable bit is clear no word is read and the pass stands where it is; a pass starts at PATROL_SCRUB_PASS_START alone.
Log entry 200 (DESIGN CHOICE). -/
def execPatrolScrubRead (tier : ScrubTier) (upset : Option Upset) (s : State) : Host.Outcome State Fault Refusal :=
  let p := s.patrol tier
  let k := s.scrubNext tier p.cursor
  if !p.running || !s.scrubOn tier || decide (tierWords tier ≤ p.cursor) then .next s
  else if tierWords tier ≤ k then .next ((s.setPatrol tier { p with cursor := k, running := false }).scrubPass tier)
  else
    let a := tierAddr tier k
    let s := match upset with | some u => s.upset [{ u with addr := a }] | none => s
    let s := s.patrolWord (a / 32) (match upset with | some u => u.data.isSome | none => false)
    let n := s.scrubNext tier (k + 1)
    if tierWords tier ≤ n then .next ((s.setPatrol tier { p with cursor := n, running := false }).scrubPass tier)
    else .next (s.setPatrol tier { p with cursor := n })

/-! ## Links -/

/-- Initiator ID of the end of a link that detects an error (R11).
Log entry 32 (DEDUCED). -/
def linkEndId (link : Nat) (far : Bool) : Nat :=
  if link < 4 then (if far then mkId ((link + 1) % 4) 0 14 3 else mkId link 0 14 2)
  else if far then hubId (16 + (link - 4)) else mkId (link - 4) 0 14 4

/-- LINK_FLIT_ERROR (R37): every retransmission counts; a flit that fails its fourth declares the link failed.
Log entry 32 (DEDUCED). -/
def execLinkFlitError (link : Fin 8) (far : Bool) (retries : Fin 5) (recovered : Bool) (s : State) :
    Host.Outcome State Fault Refusal :=
  let s := s.bumpBy (srlA (0x60 + 4 * link)) retries
  .next (if retries.val = 4 ∧ !recovered then s.present ⟨0x0A, 5, linkEndId link far, 4, link, 4, 0x5000 + link⟩ else s)

/-! ## The slot map -/

/-- The write of CL_SLOT_MAP: refused, with MAP_REJECT, when a slot it moves is busy (R15). -/
def State.slotMapWrite (s : State) (d c v : Nat) : State :=
  let a := clA d c 0x40
  let l := bits v 26 24
  let old := s.reg a
  let after := if bit v 31 then 8 else l
  if s.slotBusy ⟨d, c, s.physSlot d c l⟩ || s.slotBusy ⟨d, c, after⟩ then s.setRbit a 30 true
  else
    let n := putBits (putBit old 31 (bit v 31)) 26 24 l
    let x : Core3 := ⟨d, c, 8⟩
    let s := if bit old 31 && !bit v 31 then s.setReg64 (x.reg 0x420) (s.tcCycles x) else s
    let s := if !bit old 31 && bit v 31 then s.tileSet x { s.tileGet x with awake := s.cycle } else s
    s.setReg a (if bit v 30 then putBit n 30 false else n)

/-- CL_SLOT_MAP_WRITE (R15). -/
def execClSlotMapWrite (ini : Nat) (d : Fin 4) (c : Fin 8) (value : Word) (s : State) : Host.Outcome State Fault Refusal :=
  .next (s.guarded (isMgmt ini) ini (clA d c 0x40) (s.slotMapWrite d c value.toNat))

end Sys2Proof.Machine
end

