-- ==== Sys2Proof/Machine/Pipe.lean ====
section
/-!
DEFINITION. The end of a job (R171) and, where it was a step of a pipeline of tenant 0, its step marker (R174, R181, R185).
-/
namespace Sys2Proof.Machine

/-- The bytes of result frame `k` of a flow: its payload, in the flow's buffer (R297).
Log entry 205 (DEDUCED). -/
def State.frameBytes (s : State) (f k : Nat) : List Byte :=
  s.unitBytes fp1Id (s.flowF f 0x10 6 + (k - 1) % 2 * s.flowF f 0x18 4) (s.flowF f 0xC 2)

/-- FLAGS of a step's marker (R181): input lost for a decode context that the step expected pictures of, a wait of the job
timed out, a class U or F error from its clusters, a safe frame on one of its flows.
Log entry 205 (DEDUCED). -/
def State.stepFlags (s : State) (j : Job) (p : PipeStep) : Nat :=
  (if p.contexts.any (fun c => s.log.gapCtx.contains (p.pipeline.val, c)) then 1 else 0) + (if j.timeout then 2 else 0) +
  (if j.fault then 4 else 0) + (if p.frames.any (fun e => (s.flow e.1).safeSeen) then 8 else 0)

/-- What a step's marker has reported is forgotten. -/
def State.stepClear (s : State) (p : PipeStep) : State :=
  let s := { s with log := { s.log with
    gapCtx := s.log.gapCtx.filter (fun e => !(e.1 == p.pipeline.val && p.contexts.contains e.2)) } }
  p.frames.foldl (fun s e => s.setFlow e.1 { s.flow e.1 with safeSeen := false }) s

/-- The oldest ended job of a home distributor: its result record and DONE_OBJ, and the marker of a pipeline step. -/
def State.jobEnd (s : State) (k : Nat) (step : Option PipeStep) : State :=
  match oldestJob (s.job.jobs.filter (fun j => j.home == k && j.over)) with
  | none => s
  | some j =>
    let r := s.jobResult j
    let folds := s.foldDigests j
    let im := s.images.find? (fun i => i.handle == j.f 0 2 && i.tenant == j.tenant)
    let s := (s.memWrite (mkId (k / 8) (k % 8) 12 0) (j.f 0x30 6) r).1
    let s := s.signalWord (j.f 0x20 4) (mkId (k / 8) (k % 8) 12 0)
    let s := { s with job := { s.job with
      jobs := s.job.jobs.filter (fun e => e.num != j.num)
      results := if j.window = 1 then tabSet [] s.job.results j.num r else s.job.results } }
    match step, im with
    | some p, some im =>
      if j.tenant ≠ 0 then s
      else
        let out := sha3_256 (p.frames.flatMap (fun e => s.frameBytes e.1 e.2))
        (s.stepDone p.pipeline (s.stepFlags j p) (j.f 0x38 4)
          (s.provenance im (sha3_256 (s.stepInputs p.inputs)) (j.f 2 2) j.tiles) out folds).stepClear p
    | _, _ => s

/-- JOB_END (R171).
Log entry 205 (DEDUCED). -/
def execJobEnd (d : Fin 4) (c : Fin 8) (step : Option PipeStep) (s : State) : Host.Outcome State Fault Refusal :=
  .next (s.jobEnd (8 * d + c) step)

end Sys2Proof.Machine
end

