-- ==== Sys2Proof/Machine/RingOps.lean ====
section
/-!
DEFINITION. What other units use of the ring node (R433–R443): its states, joining and leaving.
-/
namespace Sys2Proof.Machine

/-- RNG_STATUS.STATE: 0 bypassed, 1 joining, 2 member, 3 re-forming, 4 duplicate. -/
def State.ringState (s : State) : Nat := s.fld (rngA 4) 31 28
/-- Set RNG_STATUS.STATE. -/
def State.setRing (s : State) (v : Nat) : State := s.setFld (rngA 4) 31 28 v

/-- Close the bypass: the node is off the ring in STATE `st`, and the hop keys of both links are destroyed (R434, R443). -/
def State.ringClose (s : State) (st : Nat) : State :=
  let s := { s with ring := { s.ring with up := none, down := none, hello := none, fails := 0 } }
  (((s.setRing st).setRbit (rngA 4) 24 false).setFld (rngA 4) 19 16 0).setFld (rngA 4) 15 12 0

/-- Leave the ring (R443): every ring barrier context breaks; a follower of ring phase runs on.
Log entry 183 (DEDUCED). -/
def State.ringLeave (s : State) (st : Nat) : State :=
  let s := s.ringClose st
  let s := (List.range 32).foldl (fun s b => if s.barState b = 1 ∧ s.rbit (ctxA b 0) 30 then s.barBreak b else s) s
  if s.thySel = 5 ∧ s.thyLock = 2 then s.setLock 3 else s

/-- Begin to join, where EN is 1, the retimer holds lock, start-up step 3 has ended and no wait runs: the bypass opens, and
NODE and SEGMENTS take effect (R434, R441, R451). -/
def State.ringJoin (s : State) : State :=
  if s.rbit (rngA 0) 31 ∧ s.rbit (rngA 4) 27 ∧ s.ringState = 0 ∧ s.start.ended.contains 3 ∧ s.ring.waitUntil ≤ s.cycle then
    let s := { s with ring := { s.ring with node := s.fld (rngA 0) 3 0, segments := max 1 (s.fld (rngA 0) 12 8), openedAt := s.cycle
                                            up := none, down := none, hello := none, fails := 0, lastFrom := none } }
    (s.setRing 1).setRbit (rngA 4) 24 true
  else s

end Sys2Proof.Machine
end

