-- ==== Sys2Proof/Machine/Weights.lean ====
section
/-!
DEFINITION. Weight packages (R351–R357): the checks of a load, the blocks, the marks of the weight regions, unloading.
-/
namespace Sys2Proof.Machine

/-- The measurement of component 1–7 (R338): the digest of its installed image. -/
def State.measure (s : State) (i : Nat) : List Byte := slice (s.upd.active.getD (i - 1) {}).digest 0 48

/-- Version of component 1–7 that is active. -/
def State.compVersion (s : State) (i : Nat) : Nat := s.reg (updA (0x100 + 4 * (i - 1)))

/-- A field of a package header.
Log entry 36 (DESIGN CHOICE). -/
def wh (h : List Byte) (off n : Nat) : Nat := fieldLe h off n

/-- Blocks of a package. -/
def wBlocks (h : List Byte) : Nat := wh h 0xC 4

/-- Bytes before the first block: header, index, owner's key and signature (R352). -/
def wPrefix (h : List Byte) : Nat := 512 + 16 * wBlocks h + 2592 + 4627

/-- RAW_LEN of block `i`, as RAW_BYTES gives it. -/
def wRawLen (h : List Byte) (i : Nat) : Nat := min 65536 (wh h 0x10 8 - 65536 * i)

/-- Check 0x50 on the header. -/
def wHeadOk (h : List Byte) : Bool :=
  let n := wBlocks h
  let e := wh h 0x22 1
  slice h 0 4 == natLe 4 0x31505759 && wh h 4 2 == 1 && wh h 6 2 == 512 && decide (wh h 8 4 < 4) && decide (1 ≤ n) &&
  decide (n ≤ 16777216) && decide (65536 * (n - 1) < wh h 0x10 8) && decide (wh h 0x10 8 ≤ 65536 * n) && (e == 1 || e == 2 || e == 4) &&
  wh h 0x10 8 % e == 0 && decide (0 < wh h 0x18 8) && wh h 0x20 2 == 1000 * wh h 0x10 8 / wh h 0x18 8 &&
  wh h 0x23 1 == 0 && wh h 0xA4 2 &&& 0xFFF5 == 0 && (slice h 0xC4 4).all (· == 0) && (slice h 0xF8 264).all (· == 0)

/-- Check 0x50 on the index: offsets within SIZE. -/
def wIndexOk (h ix : List Byte) (size : Nat) : Bool :=
  (List.range (wBlocks h)).all (fun i =>
    let o := fieldLe ix (16 * i) 8
    o % 64 == 0 && decide (wPrefix h ≤ o) && decide (o + fieldLe ix (16 * i + 8) 4 ≤ size) && decide (32 ≤ fieldLe ix (16 * i + 8) 4) &&
    (slice ix (16 * i + 12) 4).all (· == 0))

/-- Read bytes of a package where it lies: device memory, or NAND blocks. -/
def State.pkgRead (s : State) (t kind src off n : Nat) (bad : List Nat) : State × Option (List Byte) :=
  if kind = 0 then s.devRead sageId t (src + off) n
  else if n = 0 then (s, some [])
  else
    let b := src + off / 4096
    let (s, r) := s.nandRead sageId b ((off + n - 1) / 4096 - off / 4096 + 1) bad
    (s, r.map (fun d => slice d (off % 4096) n))

/-- Whether the source of a package lies in the tenant's memory. -/
def State.pkgIn (s : State) (t kind src size : Nat) : Bool :=
  if kind = 0 then decide (src + size ≤ s.devBytes t) else s.nandOk t src ((size + 4095) / 4096)

/-- The crate with an ID: register index and key. -/
def State.crateOf (s : State) (id : List Byte) : Option (Nat × Crate) :=
  (s.sage.crates.filterMap (fun p => p.2.map (fun c => (p.1, c)))).find? (fun p => natLe 16 (s.regWords (crateA p.1 0) 4) == id)

/-- LEASE_END of a crate. -/
def State.crateEnd (s : State) (i : Nat) : Nat := s.reg64 (crateA i 0x10)

/-- Check 0x55. -/
def State.wVersionsOk (s : State) (h : List Byte) : Bool :=
  (List.range 7).all (fun i => decide (wh h (0xA8 + 4 * i) 4 ≤ s.compVersion (i + 1))) &&
  ((slice h 0xC8 48).all (· == 0) || slice h 0xC8 48 == s.measure 1)

/-- Check 0x56. -/
def State.wDebugOk (s : State) (h : List Byte) (t : Nat) : Bool := bit (wh h 8 4) 1 || !s.consentReaches t

/-- Check 0x58: every slot in the tenant's HBM regions, none marked. -/
def State.wSlotsOk (s : State) (h : List Byte) (t devOff : Nat) : Bool :=
  devOff % 0x200000 == 0 &&
  (List.range ((wBlocks h + 31) / 32)).all (fun i =>
    match s.devAddr t (devOff + 0x200000 * i) with
    | some a => (match s.place a with | .hbm _ => true | _ => false) && !(s.region (regionOf a)).weight
    | none => false)

/-- Count a load's failure. -/
def State.wFailed (s : State) : State := s.bump (sgeA 0x8C)

/-- The checks of a load before its first block, in table order: the load that runs, or its failure as (STATUS, CODE).
Log entry 142 (DEDUCED). -/
def State.wStart (s : State) (cmd : Option Nat) (t kind src size devOff : Nat) (bad : List Nat) :
    State × (WLoad ⊕ (Nat × Nat)) :=
  let fail := fun (s : State) (st code : Nat) => (s.wFailed, (Sum.inr (st, code) : WLoad ⊕ (Nat × Nat)))
  if 16 ≤ ((s.sage.weights.filter (fun w => w.tenant == t)).length + (s.sage.loads.filter (fun w => w.tenant == t)).length) then fail s 4 0
  else if !s.pkgIn t kind src size then fail s 3 0
  else if size < 512 then fail s 1 0x50
  else
    match s.pkgRead t kind src 0 512 bad with
    | (s, none) => fail s 5 0
    | (s, some h) =>
      if !wHeadOk h ∨ size < wPrefix h then fail s 1 0x50
      else
        match s.pkgRead t kind src 512 (wPrefix h - 512) bad with
        | (s, none) => fail s 5 0
        | (s, some rest) =>
          let ix := rest.take (16 * wBlocks h)
          let pk := slice rest (16 * wBlocks h) 2592
          let sig := slice rest (16 * wBlocks h + 2592) 4627
          if !wIndexOk h ix size then fail s 1 0x50
          else
            match s.crateOf (slice h 0x38 16) with
            | none => fail s 1 0x51
            | some (c, cr) =>
              if sha3_384 pk ≠ cr.owner then fail s 1 0x51
              else if !Config.verify pk (h ++ ix ++ pk) sig then fail (s.bump (sgeA 0x84)) 1 0x52
              else if s.crateEnd c ≤ s.lease ∨ cr.revoked then fail s 1 0x53
              else if !bit (wh h 0xA6 2) t then fail s 1 0x54
              else if !s.wVersionsOk h then fail s 1 0x55
              else if !s.wDebugOk h t then fail s 1 0x56
              else
                match Config.gcmOpen cr.key (slice h 0x98 12) (slice h 0 0x68) (slice h 0x68 48) with
                | none => fail s 1 0x57
                | some key =>
                  if s.devBytes t < devOff + 65536 * wBlocks h then fail s 3 0
                  else if !s.wSlotsOk h t devOff then fail s 1 0x58
                  else (s, .inl { cmd := cmd, tenant := t, header := h, index := ix, kind := kind, src := src, size := size
                                  devOff := devOff, key := key, leaseEnd := s.crateEnd c })

/-- A stored block, decrypted: the bytes for its slot, whether it is coded, its raw bytes; or the code of the check that fails.
Log entry 142 (DEDUCED). -/
def wBlock (w : WLoad) (b : List Byte) : (List Byte × Bool × List Byte) ⊕ Nat :=
  let i := w.next
  match Config.gcmOpen w.key (natLe 8 i ++ zeros 4) (slice w.header 0x28 16 ++ slice w.header 0x24 4 ++ natLe 8 i) b with
  | none => .inr 0x59
  | some p =>
    let rawLen := fieldLe p 0 4
    let coded := fieldLe p 4 1
    let len := fieldLe p 8 4
    let body := p.drop 16
    let raw := if coded = 0 then some body else codedRaw (wh w.header 0x22 1) rawLen body
    let ok := rawLen = wRawLen w.header i ∧ coded ≤ 1 ∧ slice p 5 3 = zeros 3 ∧ body.length = len ∧
      (if coded = 0 then len = rawLen else len + 16 < rawLen ∧ bit (wh w.header 8 4) 0)
    match raw with
    | some r => if ok ∧ crc32c r = fieldLe p 12 4 then .inl (if coded = 0 then r else p, coded == 1, r) else .inr 0x5A
    | none => .inr 0x5A

/-- The result of a load reaches its host command, or start-up. -/
def State.wResult (s : State) (w : WLoad) (status code value : Nat) : State :=
  let s := { s with sage := { s.sage with loads := s.sage.loads.erase w } }
  match w.cmd with
  | some n =>
    match s.host.cmds.find? (·.num == n) with
    | some c => s.cmdResult c status code value
    | none => s
  | none =>
    let s := { s with start := { s.start with loading := false } }
    if status = 0 then s
    else (s.setRbit (modA 0x200) 18 true).presentHub 0x18 10 sageId 5 0 0

/-- A load that fails after its first slot was written leaves its slots undefined. -/
def State.wFail (s : State) (w : WLoad) (status code : Nat) : State :=
  let s := if w.next = 0 then s
    else
      (devChunks w.devOff (65536 * wBlocks w.header)).foldl (fun s c =>
        match s.devAddr w.tenant c.1 with
        | some a => s.undefine [(a, c.2)]
        | none => s) s
  s.wFailed.wResult w status code 0

/-- The end of a load: the marks, the handle. -/
def State.wDone (s : State) (w : WLoad) : State :=
  if sha3_256 w.raw ≠ slice w.header 0x48 32 then s.wFail w 1 0x5B
  else
    let n := wBlocks w.header
    let s := (List.range ((n + 31) / 32)).foldl (fun s i =>
      match s.devAddr w.tenant (w.devOff + 0x200000 * i) with
      | some a =>
        let mask := ((List.range 32).filter (fun j => w.coded.contains (32 * i + j))).foldl (fun m j => m + 2 ^ j) 0
        s.setRegion (regionOf a) { s.region (regionOf a) with weight := true, coded := mask, failed := 0, elem := wh w.header 0x22 1 }
      | none => s) s
    let h := (((List.range 65535).map (· + 1)).find? (fun k => !s.sage.weights.any (fun x => x.tenant == w.tenant && x.handle == k))).getD 1
    let x : Weights := { handle := h, tenant := w.tenant, header := w.header, leaseEnd := w.leaseEnd, devOff := w.devOff }
    let s := { s with sage := { s.sage with weights := s.sage.weights ++ [x] } }
    (s.bump (sgeA 0x88)).wResult w 0 0 (h + wh w.header 0x20 2 * 65536 + n * 2 ^ 32)

/-- One block of a load. -/
def State.wNext (s : State) (w : WLoad) (bad : List Nat) : State :=
  if !s.wVersionsOk w.header then s.wFail w 1 0x55
  else if !s.wDebugOk w.header w.tenant then s.wFail w 1 0x56
  else
    match s.pkgRead w.tenant w.kind w.src (fieldLe w.index (16 * w.next) 8) (fieldLe w.index (16 * w.next + 8) 4) bad with
    | (s, none) => s.wFail w 5 0
    | (s, some b) =>
      match wBlock w b with
      | .inr code => s.wFail w 1 code
      | .inl (data, coded, raw) =>
        let (s, ok) := s.devWrite sageId w.tenant (w.devOff + 65536 * w.next) data
        let w' := { w with next := w.next + 1, raw := w.raw ++ raw, coded := if coded then w.coded ++ [w.next] else w.coded }
        let s := { s with sage := { s.sage with loads := s.sage.loads.map (fun x => if x = w then w' else x) } }
        if !ok then s.wFail w' 5 0
        else if w'.next = wBlocks w.header then s.wDone w'
        else s

/-- WEIGHT_BLOCK_LOAD (R355, R356). -/
def execWeightBlockLoad (i : Fin 256) (badBlocks : List Nat) (s : State) : Host.Outcome State Fault Refusal :=
  match s.sage.loads[i.val]? with
  | some w => .next (s.wNext w badBlocks)
  | none => .next s

/-- Whether the next command of a port is LOAD_WEIGHTS with OP 1. -/
def State.nextUnloads (s : State) (p : Nat) : Bool :=
  match s.fetchNext p with
  | some (t, q) => fieldLe (s.sqHeadCmd t q) 0x40 1 == 1
  | none => false

/-- LOAD_WEIGHTS (R354, R355): OP 0, or an OP out of range. -/
def execLoadWeights (p : Fin 4) (badBlocks : List Nat) (s : State) : Host.Outcome State Fault Refusal :=
  if s.nextUnloads p then .next s
  else .next (s.hostCmd p 0x18 (fun s c =>
    if c.p 0 1 ≠ 0 ∨ 1 < c.p 1 1 ∨ !c.zero 0x42 6 ∨ !c.zero 0x60 32 then s.cmdResult c 2 0 0
    else
      match s.wStart (some c.num) c.tenant (c.p 1 1) (c.p 8 8) (c.p 0x10 8) (c.p 0x18 8) badBlocks with
      | (s, .inl w) => { s with sage := { s.sage with loads := s.sage.loads ++ [w] } }
      | (s, .inr (st, code)) => s.cmdResult c st code 0))

/-- UNLOAD_WEIGHTS (R354): OP 1. -/
def execUnloadWeights (p : Fin 4) (s : State) : Host.Outcome State Fault Refusal :=
  if !s.nextUnloads p then .next s
  else .next (s.hostCmd p 0x18 (fun s c =>
    if !c.zero 0x41 3 ∨ !c.zero 0x46 58 then s.cmdResult c 2 0 0
    else
      match s.sage.weights.find? (fun w => w.tenant == c.tenant && w.handle == c.p 4 2) with
      | none => s.cmdResult c 1 0x5D 0
      | some w =>
        let s := s.unmarkWeights w
        ({ s with sage := { s.sage with weights := s.sage.weights.erase w } }).cmdResult c 0 0 0))

end Sys2Proof.Machine
end

