-- ==== Sys2Proof/Machine/Sage.lean ====
section
/-!
DEFINITION. Sage's protocols and events (R334–R350, R358–R360): SPDM, the attestation report, TDISP and IDE, rotation of
memory keys, crates, the lease clock, consents and nonces; and FP1's Sync messages, which raise the lease clock.
-/
namespace Sys2Proof.Machine

/-! ## SPDM (R336) -/

/-- A text as bytes. -/
def ascii (t : String) : List Byte := t.toList.map (fun c => BitVec.ofNat 8 c.toNat)

/-- Send an answer over MCTP; one above 4,096 bytes is kept to be read in chunks.
Log entry 133 (DESIGN CHOICE). -/
def State.spdmReply (s : State) (p : Nat) (name : String) (data : List Byte) : State :=
  if data.length ≤ 4096 then s.send (.reply name p data)
  else
    ({ s with sage := { s.sage with chunksOut := tabSet [] s.sage.chunksOut p data } }).send (.reply "ERROR LargeResponse" p [])

/-- Answer with an SPDM error.
Log entry 133 (DESIGN CHOICE). -/
def State.spdmError (s : State) (p : Nat) (name : String) : State := s.send (.reply ("ERROR " ++ name) p [])

/-- Whether the MCTP endpoint answers: of a port's management function, or, as port 4, over the ring (R446). -/
def State.mctpUp (s : State) (p : Nat) : Bool :=
  s.host.mctp && (if p = 4 then s.fld (rngA 4) 31 28 == 2 else s.portActive p && s.rbit (pciA p 4) 30)

/-- A request on the endpoint of a port: none is answered before the endpoint is ready, nor, but GET_VERSION, after an identity
mismatch (R333).
Log entry 135 (DEDUCED). -/
def State.spdm (s : State) (p : Nat) (f : State → State) : State := if s.mctpUp p && !s.sage.identityBad then f s else s

/-- A session by port and number. -/
def State.session (s : State) (p sid : Nat) : Option Session := s.sage.sessions.find? (fun x => x.port == p && x.id == sid)

/-- Replace a session. -/
def State.setSession (s : State) (x : Session) : State :=
  { s with sage := { s.sage with sessions := s.sage.sessions.map (fun y => if y.port = x.port ∧ y.id = x.id then x else y) } }

/-- End a session; its keys are destroyed. -/
def State.endSession (s : State) (p sid : Nat) : State :=
  { s with sage := { s.sage with sessions := s.sage.sessions.filter (fun x => !(x.port == p && x.id == sid)) } }

/-- A message in an open session, which it keeps alive. -/
def State.inSession (s : State) (p sid : Nat) (f : State → Session → State) : State :=
  s.spdm p (fun s =>
    match s.session p sid with
    | some x =>
      if x.open_ then
        let x := { x with last := s.timeNs }
        f (s.setSession x) x
      else s.spdmError p "UnexpectedRequest"
    | none => s.spdmError p "UnexpectedRequest")

/-- SPDM_GET_VERSION: version 1.4 alone. -/
def execSpdmGetVersion (p : Fin 5) (s : State) : Host.Outcome State Fault Refusal :=
  .next (if s.mctpUp p then s.spdmReply p "VERSION" [0x14] else s)

/-- SPDM_GET_CAPABILITIES: the largest message and the largest unchunked one. -/
def execSpdmGetCapabilities (p : Fin 5) (s : State) : Host.Outcome State Fault Refusal :=
  .next (s.spdm p (fun s => s.spdmReply p "CAPABILITIES" (natLe 4 4096 ++ natLe 4 65536)))

/-- NEGOTIATE_ALGORITHMS: the one set. -/
def execNegotiateAlgorithms (p : Fin 5) (s : State) : Host.Outcome State Fault Refusal :=
  .next (s.spdm p (fun s => s.spdmReply p "ALGORITHMS" (ascii "ML-DSA-87 SHA3-384 ML-KEM-1024 AES-256-GCM HMAC-SHA3-384")))

/-- The chain of a certificate slot. -/
def State.chain (s : State) (slot : Nat) : List Byte := Config.certChain slot (s.measure 1)

/-- GET_DIGESTS: of slots 0 to 2. -/
def execGetDigests (p : Fin 5) (s : State) : Host.Outcome State Fault Refusal :=
  .next (s.spdm p (fun s => s.spdmReply p "DIGESTS" ((List.range 3).flatMap (fun i => sha3_384 (s.chain i)))))

/-- GET_CERTIFICATE (R335): part of a chain. -/
def execGetCertificate (p : Fin 5) (slot : Fin 8) (off len : Nat) (s : State) : Host.Outcome State Fault Refusal :=
  .next (s.spdm p (fun s =>
    if 3 ≤ slot.val then s.spdmError p "InvalidRequest"
    else s.spdmReply p "CERTIFICATE" (((s.chain slot).drop off).take len)))

/-- The bytes of the consent section of a report (R339). -/
def State.consentSection (s : State) : List Byte :=
  s.consentList.flatMap (fun c => slice c.2.digest 0 32 ++ natLe 1 c.2.tenant ++ natLe 1 0 ++ natLe 2 c.2.scope ++
    natLe 4 c.2.clusters ++ natLe 8 c.2.notAfter ++ zeros 16)

/-- TDI_STATE of a tenant record. -/
def State.tdiCode (s : State) (t : Nat) : Nat :=
  if t = 0 ∨ !(s.tenant t).holds then 0
  else match (s.tdi t).state with | .unlocked => 1 | .locked => 2 | .run => 3 | .error => 4

/-- The tenant record of a report (R339). -/
def State.tenantRecord (s : State) (t : Nat) : List Byte :=
  let x := s.tenant t
  let st := s.reg (sgeT t 4)
  natLe 1 x.state.code ++ natLe 1 x.port ++ natLe 1 x.kind ++ natLe 1 x.func ++ natLe 4 x.clusters ++ natLe 8 (s.devBytes t) ++
  natLe 4 x.lp ++ natLe 1 (bits st 30 30 + 2 * bits st 31 31) ++ natLe 1 (s.tdiCode t) ++
  natLe 1 (s.sage.ide.filter (fun i => i.tenant == t)).length ++ natLe 1 0 ++ natLe 4 (s.reg (sgeT t 0x10)) ++ natLe 4 0 ++
  natLe 48 (s.regWords (sgeT t 0x20) 12) ++ zeros 16

/-- The security settings: broker-key list and ring peer list (R338). -/
def State.securitySettings (s : State) : List Byte :=
  (List.range 8).flatMap (fun n => natLe 48 (s.regWords (sgeA (0x4000 + 0x40 * n)) 12)) ++
  (List.range 16).flatMap (fun n => natLe 48 (s.regWords (rngA (0x1000 + 0x40 * n)) 12))

/-- Measurement `i` (R338). -/
def State.measurement (s : State) (i : Nat) : Option (List Byte) :=
  if 1 ≤ i ∧ i ≤ 7 then some (s.measure i)
  else if i = 8 then some (sha3_384 s.sage.standing)
  else if i = 9 then some (sha3_384 s.securitySettings)
  else if i = 10 then some (sha3_384 s.consentSection)
  else if 0x20 ≤ i ∧ i < 0x30 then some (sha3_384 (s.tenantRecord (i - 0x20)))
  else none

/-- Every measurement index. -/
def measureIndices : List Nat := (List.range 10).map (· + 1) ++ (List.range 16).map (· + 0x20)

/-- CHALLENGE: a signature of slot 0's key over the nonce and every measurement. -/
def execChallenge (p : Fin 5) (slot : Fin 8) (nonce : List Byte) (s : State) : Host.Outcome State Fault Refusal :=
  .next (s.spdm p (fun s =>
    if slot.val ≠ 0 then s.spdmError p "InvalidRequest"
    else
      let m := slice nonce 0 32 ++ sha3_384 (s.chain 0) ++ sha3_384 (measureIndices.flatMap (fun i => (s.measurement i).getD []))
      s.spdmReply p "CHALLENGE_AUTH" (m ++ Config.sign 1 m)))

/-- GET_MEASUREMENTS (R338), signed or not. -/
def execGetMeasurements (p : Fin 5) (index : Fin 256) (signed : Bool) (nonce : List Byte) (s : State) : Host.Outcome State Fault Refusal :=
  .next (s.spdm p (fun s =>
    let l := if index.val = 0xFF then measureIndices else [index.val]
    if l.any (fun i => (s.measurement i).isNone) then s.spdmError p "InvalidRequest"
    else
      let b := l.flatMap (fun i => natLe 1 i ++ (s.measurement i).getD [])
      s.spdmReply p "MEASUREMENTS" (b ++ (if signed then slice nonce 0 32 ++ Config.sign 1 (b ++ slice nonce 0 32) else []))))

/-- KEY_EXCHANGE: a management function holds at most 4 sessions.
Log entry 134 (DEDUCED). -/
def execKeyExchange (p : Fin 5) (share : List Byte) (s : State) : Host.Outcome State Fault Refusal :=
  .next (s.spdm p (fun s =>
    if 4 ≤ (s.sage.sessions.filter (fun x => x.port == p.val)).length then s.spdmError p "Busy"
    else
      let (s, k) := s.newKey
      let id := s.sage.nextSession
      let x : Session := { port := p, id := id, last := s.timeNs, secret := k }
      let s := { s with sage := { s.sage with sessions := s.sage.sessions ++ [x], nextSession := id + 1 } }
      let m := natLe 4 id ++ sha3_384 share
      (s.bump (sgeA 0x80)).spdmReply p "KEY_EXCHANGE_RSP" (m ++ Config.sign 1 m)))

/-- FINISH: a request that verifies opens the session; one that does not ends it. -/
def execFinish (p : Fin 5) (sid : Nat) (ok : Bool) (s : State) : Host.Outcome State Fault Refusal :=
  .next (s.spdm p (fun s =>
    match s.session p sid with
    | some x =>
      if x.open_ then s.spdmError p "UnexpectedRequest"
      else if ok then (s.setSession { x with open_ := true, last := s.timeNs }).spdmReply p "FINISH_RSP" []
      else (s.endSession p sid).spdmError p "DecryptError"
    | none => s.spdmError p "UnexpectedRequest"))

/-- HEARTBEAT. -/
def execHeartbeat (p : Fin 5) (sid : Nat) (s : State) : Host.Outcome State Fault Refusal :=
  .next (s.inSession p sid (fun s _ => s.spdmReply p "HEARTBEAT_ACK" []))

/-- KEY_UPDATE.
Log entry 134 (DEDUCED). -/
def execKeyUpdate (p : Fin 5) (sid : Nat) (s : State) : Host.Outcome State Fault Refusal :=
  .next (s.inSession p sid (fun s x => (s.setSession { x with updates := x.updates + 1 }).spdmReply p "KEY_UPDATE_ACK" []))

/-- END_SESSION. -/
def execEndSession (p : Fin 5) (sid : Nat) (s : State) : Host.Outcome State Fault Refusal :=
  .next (s.inSession p sid (fun s _ => (s.endSession p sid).spdmReply p "END_SESSION_ACK" []))

/-- SPDM_SESSION_TIMEOUT: 180 s without a message. -/
def execSpdmSessionTimeout (p : Fin 5) (sid : Nat) (s : State) : Host.Outcome State Fault Refusal :=
  match s.session p sid with
  | some x => .next (if x.last + 180000000000 ≤ s.timeNs then s.endSession p sid else s)
  | none => .next s

/-- CHUNK_GET: the next 4,096 bytes of the answer that is kept.
Log entry 133 (DESIGN CHOICE). -/
def execChunkGet (p : Fin 5) (s : State) : Host.Outcome State Fault Refusal :=
  .next (s.spdm p (fun s =>
    match tabGet [] s.sage.chunksOut p with
    | [] => s.spdmError p "UnexpectedRequest"
    | b => ({ s with sage := { s.sage with chunksOut := tabSet [] s.sage.chunksOut p (b.drop 4096) } }).send
        (.reply "CHUNK_RESPONSE" p (b.take 4096))))

/-! ## The report (R337, R339, R340) -/

/-- The bank that a component runs from. -/
def State.compBank (s : State) (i : Nat) : Nat :=
  let a := s.fld (updA 8) 31 31
  if s.upd.switched.any (fun e => e.1 == i) then 1 - a else a

/-- The signed part of the report of tenant `t`. -/
def State.reportBody (s : State) (t : Nat) (nonce : List Byte) : List Byte :=
  let ims := s.imagesOf t
  let ws := s.sage.weights.filter (fun w => w.tenant == t)
  ascii "YAR1" ++ natLe 2 1 ++ natLe 1 t ++
  natLe 1 (s.fld (sgeA 0) 27 27 + 2 * s.debugOpen.toNat + 4 * s.fld (sgeT t 4) 31 31) ++
  natLe 8 serialNo ++ slice nonce 0 32 ++ natLe 8 s.timeNs ++ natLe 8 s.lease ++ natLe 4 (s.reg (sgeA 0x18)) ++
  natLe 1 s.consentList.length ++ natLe 1 ims.length ++ natLe 1 ws.length ++ natLe 1 0 ++ sha3_256 s.sage.standing ++ zeros 24 ++
  ((List.range 7).map (· + 1)).flatMap (fun i =>
    natLe 1 i ++ natLe 1 (s.compBank i) ++ zeros 2 ++ natLe 4 (s.compVersion i) ++ s.measure i ++ zeros 8) ++
  s.tenantRecord t ++
  ims.flatMap (fun i => natLe 2 i.handle ++ natLe 2 i.features ++ zeros 12 ++ slice i.digest 0 32) ++
  ws.flatMap (fun w => natLe 2 w.handle ++ natLe 2 (wh w.header 0x20 2) ++ natLe 4 (wh w.header 0x24 4) ++ natLe 8 w.leaseEnd ++
    slice w.header 0x28 16 ++ slice w.header 0x38 16 ++ slice w.header 0x48 32 ++ zeros 16) ++
  s.consentSection

/-- Whether a session may have the report of tenant `t`, or set its consent key while its TDI is locked (R340, R358). -/
def State.sessionFor (s : State) (x : Session) (t : Nat) : Bool :=
  t == 0 || ((s.tenant t).holds && (s.tenant t).port == x.port && (!(s.tdi t).isLocked || (s.tdi t).session == some (x.port, x.id)))

/-- GET_REPORT (R339, R340). -/
def execGetReport (p : Fin 5) (sid : Nat) (t : Fin 16) (nonce : List Byte) (s : State) : Host.Outcome State Fault Refusal :=
  .next (s.inSession p sid (fun s x =>
    if s.sessionFor x t then
      let b := s.reportBody t nonce
      s.spdmReply p "REPORT" (b ++ Config.sign 1 b)
    else s.spdmError p "UnexpectedRequest"))

/-- GET_NONCE (R337): needs no session. -/
def execGetNonce (p : Fin 5) (s : State) : Host.Outcome State Fault Refusal :=
  .next (s.spdm p (fun s =>
    let (s, n) := s.freshNonce
    s.spdmReply p "NONCE" n))

/-! ## Crates (R348, R349) -/

/-- The form of a crate record. -/
def crateForm (r : List Byte) : Bool :=
  r.length == 9011 && slice r 0 4 == ascii "YCK1" && fieldLe r 4 2 == 1 && (slice r 6 2).all (· == 0) && (slice r 0x70 48).all (· == 0) &&
  (slice r 0x6FC 4).all (· == 0)

/-- Whether a broker's key is in the list. -/
def State.brokerKnown (s : State) (pk : List Byte) : Bool :=
  let d := sha3_384 pk
  (List.range 8).any (fun n =>
    let w := s.regWords (sgeA (0x4000 + 0x40 * n)) 12
    w != 0 && natLe 48 w == d)

/-- The crate key that a record delivers. -/
def crateKey (r : List Byte) : Option (List Byte) :=
  match Config.kemDecap 0 (slice r 0xA0 1568) with
  | some z => Config.gcmOpen (Config.hkdf z (ascii "yml crate")) (slice r 0x6F0 12) (slice r 0 0xA0) (slice r 0x6C0 48)
  | none => none

/-- Submit a crate record: the result code.
Log entry 140 (DEDUCED). -/
def State.putCrate (s : State) (r : List Byte) : State × Nat :=
  let leaseEnd := fieldLe r 0x30 8
  let issued := fieldLe r 0x38 8
  let pk := slice r 0x700 2592
  if fieldLe r 8 8 ≠ serialNo then (s, 1)
  else if !s.brokerKnown pk then (s, 2)
  else if !crateForm r ∨ !Config.verify pk (slice r 0 0x1120) (slice r 0x1120 4627) then (s.bump (sgeA 0x84), 3)
  else
    match crateKey r with
    | none => (s, 4)
    | some key =>
      if issued + 34560000 < leaseEnd then (s, 5)
      else
        let held := s.crateOf (slice r 0x10 16)
        let slot := match held with
          | some (i, _) => some i
          | none => (List.range 16).find? (fun i => (tabGet none s.sage.crates i).isNone)
        let old := match held with | some (i, _) => decide (issued ≤ s.reg64 (crateA i 0x18)) | none => false
        if old then (s, 6)
        else
          match slot with
          | none => (s, 7)
          | some i =>
            let rev := leaseEnd == issued
            let s := s.setRegWords (crateA i 0) 4 (fieldLe r 0x10 16)
            let s := ((s.setReg64 (crateA i 0x10) leaseEnd).setReg64 (crateA i 0x18) issued).setReg (crateA i 0x20) (if rev then 0 else 1)
            let c : Crate := { key := if rev then [] else key, owner := slice r 0x40 48, revoked := rev }
            (({ s with sage := { s.sage with crates := tabSet none s.sage.crates i (some c) } }).leaseRaise issued, 0)

/-- PUT_CRATE (R337, R349). -/
def execPutCrate (p : Fin 5) (sid : Nat) (record : List Byte) (s : State) : Host.Outcome State Fault Refusal :=
  .next (s.inSession p sid (fun s _ =>
    let (s, c) := s.putCrate record
    s.spdmReply p "CRATE" (natLe 1 c)))

/-! ## Consent keys, chunks -/

/-- SET_CONSENT_KEY's effect: accepted for a locked TDI in the session of R340 (R358 leaves every other key to the standing
configuration and to management's register writes). -/
def State.setConsentKey (s : State) (x : Session) (t : Nat) (key : List Byte) : State :=
  let ok := t ≠ 0 ∧ (s.tdi t).isLocked ∧ s.sessionFor x t ∧ key.length = 2592
  if ok then (s.setRegWords (sgeT t 0x20) 12 (leNat (sha3_384 key))).spdmReply x.port "CONSENT_KEY" [0]
  else s.spdmReply x.port "CONSENT_KEY" [1]

/-- SET_CONSENT_KEY (R337, R358). -/
def execSetConsentKey (p : Fin 5) (sid : Nat) (t : Fin 16) (key : List Byte) (s : State) : Host.Outcome State Fault Refusal :=
  .next (s.inSession p sid (fun s x => s.setConsentKey x t key))

/-- CHUNK_SEND (R336, R337): the last chunk completes a vendor-defined request of at most 65,536 bytes.
Log entry 134 (DEDUCED). -/
def execChunkSend (p : Fin 5) (sid : Nat) (chunk : List Byte) (last : Bool) (s : State) : Host.Outcome State Fault Refusal :=
  .next (s.inSession p sid (fun s x =>
    let b := tabGet [] s.sage.chunksIn p ++ chunk
    let set := fun (s : State) (b : List Byte) => { s with sage := { s.sage with chunksIn := tabSet [] s.sage.chunksIn p b } }
    if 4096 < chunk.length ∨ 65536 < b.length then (set s []).spdmError p "RequestTooLarge"
    else if !last then (set s b).spdmReply p "CHUNK_SEND_ACK" []
    else
      let s := set s []
      match fieldLe b 0 1 with
      | 3 =>
        let (s, c) := s.putCrate (b.drop 1)
        s.spdmReply p "CRATE" (natLe 1 c)
      | 5 => s.setConsentKey x (fieldLe b 1 1 % 16) (b.drop 2)
      | _ => s.spdmError p "InvalidRequest"))

/-! ## TDISP and IDE (R341) -/

/-- TDISP_GET_VERSION: 1.0. -/
def execTdispGetVersion (p : Fin 4) (sid : Nat) (s : State) : Host.Outcome State Fault Refusal :=
  .next (s.inSession p sid (fun s _ => s.spdmReply p "TDISP_VERSION" [0x10]))

/-- TDISP_GET_CAPABILITIES: the messages that Sage supports. -/
def execTdispGetCapabilities (p : Fin 4) (sid : Nat) (s : State) : Host.Outcome State Fault Refusal :=
  .next (s.inSession p sid (fun s _ => s.spdmReply p "TDISP_CAPABILITIES"
    (ascii "GET_VERSION GET_CAPABILITIES LOCK_INTERFACE GET_DEVICE_INTERFACE_REPORT GET_DEVICE_INTERFACE_STATE START_INTERFACE STOP_INTERFACE")))

/-- A TDISP message about the TDI of tenant `t`, whose function is on the port.
Log entry 133 (DESIGN CHOICE). -/
def State.tdisp (s : State) (p sid t : Nat) (f : State → Session → State) : State :=
  s.inSession p sid (fun s x => if t ≠ 0 ∧ s.onPort p t then f s x else s.spdmReply p "TDISP_ERROR InvalidInterface" [])

/-- LOCK_INTERFACE. -/
def execLockInterface (p : Fin 4) (sid : Nat) (t : Fin 16) (s : State) : Host.Outcome State Fault Refusal :=
  .next (s.tdisp p sid t (fun s x =>
    let d := s.tdi t
    if d.state ≠ .unlocked ∨ ((s.tenant t).state ≠ .opening ∧ (s.tenant t).state ≠ .isOpen) then
      s.spdmReply p "TDISP_ERROR InvalidInterfaceState" []
    else
      let (s, n) := s.free 256
      let s := s.setTdi t { state := .locked, session := some (x.port, x.id), nonce := n }
      let s := s.setSession { x with locked := x.locked ++ [t.val] }
      s.spdmReply p "LOCK_INTERFACE_RESPONSE" (natLe 32 n)))

/-- GET_DEVICE_INTERFACE_REPORT: BAR0 and BAR2 with their sizes. -/
def execGetDeviceInterfaceReport (p : Fin 4) (sid : Nat) (t : Fin 16) (s : State) : Host.Outcome State Fault Refusal :=
  .next (s.tdisp p sid t (fun s _ =>
    if (s.tdi t).isLocked then s.spdmReply p "DEVICE_INTERFACE_REPORT" (natLe 1 0 ++ natLe 8 0x10000 ++ natLe 1 2 ++ natLe 8 (s.bar2Bytes t))
    else s.spdmReply p "TDISP_ERROR InvalidInterfaceState" []))

/-- GET_DEVICE_INTERFACE_STATE. -/
def execGetDeviceInterfaceState (p : Fin 4) (sid : Nat) (t : Fin 16) (s : State) : Host.Outcome State Fault Refusal :=
  .next (s.tdisp p sid t (fun s _ => s.spdmReply p "DEVICE_INTERFACE_STATE" (natLe 1 (s.tdiCode t - 1))))

/-- Whether a tenant's traffic is on a selective IDE stream in the ENABLED state. -/
def State.ideOn (s : State) (t : Nat) : Bool := s.sage.ide.any (fun x => x.tenant == t && x.port == (s.tenant t).port && x.enabled.isSome)

/-- START_INTERFACE: refused unless the traffic is on an enabled IDE stream.
Log entry 137 (DEDUCED). -/
def execStartInterface (p : Fin 4) (sid : Nat) (t : Fin 16) (s : State) : Host.Outcome State Fault Refusal :=
  .next (s.tdisp p sid t (fun s _ =>
    if (s.tdi t).state ≠ .locked ∨ !s.ideOn t then s.spdmReply p "TDISP_ERROR InvalidInterfaceState" []
    else (s.setTdi t { s.tdi t with state := .run }).spdmReply p "START_INTERFACE_RESPONSE" []))

/-- STOP_INTERFACE: the tenant is torn down. -/
def execStopInterface (p : Fin 4) (sid : Nat) (t : Fin 16) (s : State) : Host.Outcome State Fault Refusal :=
  .next (s.tdisp p sid t (fun s _ => (s.teardown t).spdmReply p "STOP_INTERFACE_RESPONSE" []))

/-- IDE_KEY_PROG: the key and IV fields are zero, and the key comes from the session's secret. -/
def execIdeKeyProg (p : Fin 4) (sid : Nat) (stream : Fin 256) (t : Fin 16) (set : Fin 2) (dir : Fin 2) (sub : Fin 8) (keyIv : List Byte)
    (s : State) : Host.Outcome State Fault Refusal :=
  .next (s.tdisp p sid t (fun s x =>
    let old := s.ideStream p stream
    let count := (s.sage.ide.filter (fun y => y.port == p.val)).length
    let clash : Bool := match old with
      | some y => y.tenant != t.val
      | none => 8 ≤ count
    if !keyIv.all (· == 0) || !s.rbit (pciA p 4) 29 || clash then
      s.spdmReply p "KP_ACK" [1]
    else
      let k := Config.hkdf (natLe 32 (Config.freeValue x.secret)) (ascii "yml ide" ++ [stream.val, set.val, dir.val, sub.val].map (BitVec.ofNat 8 ·))
      let n := 16 * set.val + 8 * dir.val + sub.val
      let y := old.getD { port := p, id := stream, tenant := t }
      (s.setIde { y with keys := y.keys.filter (fun e => e.1 != n) ++ [(n, k)] }).spdmReply p "KP_ACK" [0]))

/-- IDE_K_SET_GO: a key set that has been programmed is enabled.
Log entry 137 (DEDUCED). -/
def execIdeKSetGo (p : Fin 4) (sid : Nat) (stream : Fin 256) (set : Fin 2) (s : State) : Host.Outcome State Fault Refusal :=
  .next (s.inSession p sid (fun s _ =>
    match s.ideStream p stream with
    | some y =>
      if y.keys.any (fun e => e.1 / 16 == set.val) then (s.setIde { y with enabled := some set }).spdmReply p "K_GOSTOP_ACK" []
      else s.spdmError p "InvalidRequest"
    | none => s.spdmError p "InvalidRequest"))

/-- IDE_K_SET_STOP: the stream stops and its keys are destroyed (R334). -/
def execIdeKSetStop (p : Fin 4) (sid : Nat) (stream : Fin 256) (s : State) : Host.Outcome State Fault Refusal :=
  .next (s.inSession p sid (fun s _ =>
    ({ s with sage := { s.sage with ide := s.sage.ide.filter (fun y => !(y.port == p.val && y.id == stream.val)) } }).spdmReply p
      "K_GOSTOP_ACK" []))

/-! ## Rotation (R344–R347) -/

/-- Regions of a tenant whose EPOCH is not `e`. -/
def State.oldRegions (s : State) (t e : Nat) : List (Nat × Region) :=
  s.mem.regions.filter (fun r => decide (r.2.state = .assigned) && r.2.owner == t && r.2.epoch != e)

/-- A ROTATE: the reason of its refusal, 0 when it starts.
Log entry 136 (DEDUCED). -/
def State.rotate (s : State) (t : Nat) : State × Nat :=
  let a := sgeT t 4
  let refuse := fun (n : Nat) => (s.setFld a 29 24 n, n)
  if (s.tenant t).state ≠ .isOpen then refuse 1
  else if s.rbit a 31 then refuse 2
  else
    let (s, k) := s.newKey
    if k = 0 then (s, 0)
    else
      let e := 1 - s.fld a 30 30
      let s := s.setMemKey t e k
      let s := (s.setFld a 30 30 e).setRbit a 31 true
      (s.setReg (sgeT t 8) (s.oldRegions t e).length, 0)

/-- ROTATE (R344). -/
def execRotate (src : RotSrc) (t : Fin 16) (s : State) : Host.Outcome State Fault Refusal :=
  match src with
  | .reg ini => .next (s.guarded (isMgmt ini) ini (sgeT t 0) (s.rotate t).1)
  | .vendor p sid =>
    .next (s.inSession p sid (fun s _ =>
      let (s, n) := s.rotate t
      s.spdmReply p "ROTATE" (natLe 1 n)))

/-- The region of a tier that the sweep of a tenant works on: the lowest device index under the old epoch. -/
def State.sweepRegion (s : State) (t tier : Nat) : Option (Nat × Region) :=
  ((s.oldRegions t (s.fld (sgeT t 4) 30 30)).filter (fun r => regionTier r.1 == tier)).foldl (fun b r =>
    match b with
    | none => some r
    | some x => if r.2.index < x.2.index then some r else some x) none

/-- One unit of the sweep: read, rewritten under the new key, and the pointer advances past it; a region whose pointer passes
its last unit takes the new EPOCH.
Log entry 138 (DEDUCED). -/
def State.sweepUnit (s : State) (t tier : Nat) : State :=
  if !s.rbit (sgeT t 4) 31 ∨ (tier < 8 ∧ s.stackFenced tier) then s
  else
    match s.sweepRegion t tier with
    | none => s
    | some (r, e) =>
      let a := regionBase r + e.sweep
      let (s, ok) := s.decodeWords (placeOf a).1.ctrlId 2 (s.badWords (a / 32) (a / 32 + 2))
      let s := if ok then s.clearWords a 64 else s
      if e.sweep + 64 < 0x200000 then s.setRegion r { e with sweep := e.sweep + 64 }
      else
        let s := s.setRegion r { e with sweep := 0, epoch := s.fld (sgeT t 4) 30 30 }
        s.setReg (sgeT t 8) (s.reg (sgeT t 8) - 1)

/-- ROTATION_SWEEP_UNIT (R344).
Log entry 138 (DEDUCED). -/
def execRotationSweepUnit (t : Fin 16) (tier : Fin 9) (s : State) : Host.Outcome State Fault Refusal := .next (s.sweepUnit t tier)

/-- OLD_KEY_DESTROY (R346): once OLD_REGIONS and OLD_READS are both 0. -/
def execOldKeyDestroy (t : Fin 16) (s : State) : Host.Outcome State Fault Refusal :=
  if s.rbit (sgeT t 4) 31 ∧ s.reg (sgeT t 8) = 0 ∧ s.reg (sgeT t 0xC) = 0 then
    let s := s.setMemKey t (1 - s.fld (sgeT t 4) 30 30) 0
    .next ((s.setRbit (sgeT t 4) 31 false).bump (sgeT t 0x10))
  else .next s

/-! ## The lease clock (R350) -/

/-- LEASE_CLOCK_STORE: every 600 s. -/
def execLeaseClockStore (s : State) : Host.Outcome State Fault Refusal :=
  .next (if s.sage.leaseStoredAt + 600000000000 ≤ s.timeNs then s.leaseStore else s)

/-- AS_SYNC_MESSAGE (R290, R350): an 802.1AS Sync message on FP1. -/
def execAsSyncMessage (offsetNs : Int) (tai : Nat) (s : State) : Host.Outcome State Fault Refusal :=
  .next (s.fp1Sync offsetNs tai).leaseTai

/-! ## Consents (R358–R360) -/

/-- The form of a token. -/
def tokenForm (b : List Byte) : Bool :=
  slice b 0 4 == ascii "YCN1" && fieldLe b 4 2 == 1 && decide (fieldLe b 6 2 < 64) && (slice b 0x11 3).all (· == 0) &&
  (slice b 0x48 24).all (· == 0)

/-- Submit a token: the result code.
Log entry 140 (DEDUCED). -/
def State.consentSubmit (s : State) (b : List Byte) : State × Nat :=
  let t := fieldLe b 0x10 1
  let scope := fieldLe b 6 2
  let from_ := fieldLe b 0x18 8
  let to_ := fieldLe b 0x20 8
  let nonce := slice b 0x28 32
  let pk := slice b 0x60 2592
  let key := s.regWords (sgeT (t % 16) 0x20) 12
  if fieldLe b 8 8 ≠ serialNo then (s, 1)
  else if !s.nonceOk nonce then (s, 2)
  else
    let s := { s with sage := { s.sage with nonces := s.sage.nonces.filter (fun x => x.1 != nonce) } }
    if 16 ≤ t ∨ key = 0 ∨ sha3_384 pk ≠ natLe 48 key then (s, 3)
    else if !tokenForm b ∨ !Config.verify pk (slice b 0 0xA80) (slice b 0xA80 4627) then (s.bump (sgeA 0x84), 4)
    else if s.lease < from_ ∨ to_ ≤ s.lease ∨ from_ + 604800 < to_ then (s, 5)
    else if t ≠ 0 ∧ (s.tenant t).state ≠ .opening ∧ (s.tenant t).state ≠ .isOpen then (s, 6)
    else if scope = 0 then (s.endConsentsOf t, 0)
    else
      match (List.range 16).find? (fun i => (s.consent i).isNone) with
      | none => (s, 7)
      | some i =>
        let c : Consent := { tenant := t, scope := scope, clusters := fieldLe b 0x14 4, notAfter := to_, digest := sha3_256 b }
        (({ s with sage := { s.sage with consents := tabSet none s.sage.consents i (some c) } }).consentRegs, 0)

/-- A write of SUBMIT: the token at TOKEN_ADDR in hub memory. -/
def State.consentCtrl (s : State) : State :=
  let a := s.reg64 (sgeA 0x28) % 2 ^ 48
  let b := s.unitBytes (hubId 2) a 7315
  let s := s.unitRead (hubId 2) a 7315
  let inHub := decide (hubBase ≤ a) && decide (a + 7315 ≤ hubBase + 0x4000000)
  let (s, code) := s.consentSubmit (if inHub then b else [])
  let s := if code = 0 then s else s.bump (sgeA 0x90)
  s.setFld (sgeA 0x24) 31 24 code

/-- CONSENT_SUBMIT (R359). -/
def execConsentSubmit (ini : Nat) (s : State) : Host.Outcome State Fault Refusal :=
  .next (s.guarded (isMgmt ini) ini (sgeA 0x20) s.consentCtrl)

/-- CONSENT_REVOKE (R360): the consent that INDEX names. -/
def execConsentRevoke (ini : Nat) (index : Fin 16) (s : State) : Host.Outcome State Fault Refusal :=
  .next (s.guarded (isMgmt ini) ini (sgeA 0x20) ((s.setFld (sgeA 0x20) 3 0 index).endConsent index))

/-- A write of NEW_NONCE. -/
def State.nonceCtrl (s : State) : State :=
  let (s, n) := s.freshNonce
  s.setRegWords (sgeA 0x40) 8 (leNat n)

/-- NEW_NONCE (R358). -/
def execNewNonce (ini : Nat) (s : State) : Host.Outcome State Fault Refusal :=
  .next (s.guarded (isMgmt ini) ini (sgeA 0x20) s.nonceCtrl)

/-- CONSENT_EXPIRY (R360). -/
def execConsentExpiry (index : Fin 16) (s : State) : Host.Outcome State Fault Refusal :=
  match s.consent index with
  | some c => .next (if c.notAfter ≤ s.lease then s.endConsent index else s)
  | none => .next s

/-- NONCE_EXPIRY (R358): the oldest nonce, 600 s after it was issued. -/
def execNonceExpiry (s : State) : Host.Outcome State Fault Refusal :=
  match s.sage.nonces with
  | (_, t) :: l => .next (if t + nonceLife ≤ s.timeNs then { s with sage := { s.sage with nonces := l } } else s)
  | [] => .next s

/-- ENTROPY_HEALTH_FAILURE (R334): no key is generated from now on; class F.
Log entry 136 (DEDUCED). -/
def execEntropyHealthFailure (s : State) : Host.Outcome State Fault Refusal :=
  let s := { s with sage := { s.sage with entropyBad := true } }
  .next ((s.setFld (sgeA 0) 31 28 2).presentHub 0x20 10 sageId 5 0 0)

end Sys2Proof.Machine
end

