-- ==== Sys2Proof/Machine/RegView.lean ====
section
/-!
DEFINITION. Registers as they read: fields that show other state are computed from it, every other field from the register
file; write-only and reserved bits read 0 (R8).
-/
namespace Sys2Proof.Machine

/-- Word `w` of a 64-bit value. -/
def word64 (v w : Nat) : Nat := v / 2 ^ (32 * w) % 2 ^ 32

/-! ## Derived registers -/

/-- A tile-core page. -/
def State.viewTc (s : State) (x : Core3) (off : Nat) : Nat :=
  if off = 0 then s.tcId x
  else if off = 0x8 then s.tcStatus x
  else if off = 0x20 then s.tcLqStatus x
  else if 0x400 ≤ off ∧ off < 0x420 then word64 (s.tcBusy x ((off - 0x400) / 8)) (off % 8 / 4)
  else if off = 0x420 ∨ off = 0x424 then word64 (s.tcCycles x) (off % 8 / 4)
  else if off = 0x500 then s.agStatus x
  else s.reg (x.reg off)

/-- An application core's page. -/
def State.viewAc (s : State) (x : AcCore) (off : Nat) : Nat :=
  if off = 0 then s.acIdReg x
  else if off = 0x400 ∨ off = 0x404 then word64 (s.acCycles x) (off % 8 / 4)
  else s.reg (x.reg off)

/-- CL_SLOT_MAP.FENCED (R391). -/
def State.slotsFenced (s : State) (d c : Nat) : Nat :=
  (List.range 9).foldl (fun m l => if s.sorrel.fenced.contains (0x1000 + d * 0x100 + c * 0x10 + l) then m + 2 ^ l else m) 0

/-- A CL_ page. -/
def State.viewCl (s : State) (d c off : Nat) : Nat :=
  if off = 0x40 then putBits (s.reg (clA d c 0x40)) 8 0 (s.slotsFenced d c)
  else if off = 0x300 then s.jobFree (8 * d + c)
  else s.reg (clA d c off)

/-- A SYNC_ page. -/
def State.viewSync (s : State) (d c off : Nat) : Nat :=
  if off < 0x8000 then s.obj (mkObj d c (off / 4))
  else if off = 0x8008 then s.syncWaiters d c
  else s.reg (syncA d c off)

/-- The module-wide page; MRAM_READY and NOR_READY set 1 ms after internal reset (R363).
Log entry 145 (DEDUCED). -/
def State.viewMod (s : State) (off : Nat) : Nat :=
  if 0x1000 ≤ off ∧ off < 0x1400 then
    let t := (off - 0x1000) / 0x40
    let o := (off - 0x1000) % 0x40
    if o = 0x8 then putBits (s.reg (modA off)) 31 28 (s.tenant t).state.code
    else if o = 0x30 ∨ o = 0x34 then word64 (s.devBytes t) (o % 8 / 4)
    else s.reg (modA off)
  else if off = 0x100 ∧ 1100000 ≤ s.cycle ∧ !s.start.held ∧ !s.start.dark then putBits (s.reg (modA 0x100)) 19 18 3
  else s.reg (modA off)

/-- A THY_ register. -/
def State.viewThy (s : State) (off : Nat) : Nat :=
  let (cyc, cnt, frac) := s.thyPhase
  if off = 0x20 then cnt
  else if off = 0x24 then cyc
  else if off = 0x28 then frac
  else if off = 0x18 then putBits (s.reg (thyA 0x18)) 31 28 s.thyLock
  else if off = 0x108 then s.evtFree
  else s.reg (thyA off)

/-- SRL_STATE as it reads. -/
def State.srlState (s : State) : Nat :=
  let d := (List.range 3).foldl (fun m c => if s.degraded c then m + 2 ^ c else m) 0
  d + (if s.sorrel.pulseEnd.isSome then 16 else 0)

/-- A BAR0 register of a tenant's function. -/
def State.viewFn (s : State) (t off : Nat) : Nat :=
  if off = 0 then s.fnStatus t
  else if off = 0x8 ∨ off = 0xC then word64 (s.devBytes t) (off % 8 / 4)
  else if off = 0x10 then (s.inflightOf t).length
  else s.reg (fnA t off)

/-! ## Power (R412) -/

/-- A domain register of the hub PWR_ page. -/
def domA (k off : Nat) : Nat := pwrA (0x100 + 0x10 * k + off)

/-- R̂ of a domain in K/W: before its first period R_BASE, or 0.25 where R_BASE is 0. -/
def State.rHat (s : State) (k : Nat) : Rat :=
  match tabGet none s.power.rEst k with
  | some r => r
  | none =>
    let b := s.fld (domA k 0) 31 16
    if b = 0 then 1 / 4 else (b : Rat) / 10000

/-- A rational as an unsigned field of `w` bits: its floor, from 0 to the largest value.
Log entry 168 (DEDUCED). -/
def ratField (w : Nat) (r : Rat) : Nat := min r.floor.toNat (2 ^ w - 1)

/-- A register of the hub PWR_ page; R_EST shows R̂ in units of 10^-4 K/W. -/
def State.viewPwr (s : State) (off : Nat) : Nat :=
  if 0x100 ≤ off ∧ off < 0x1D0 ∧ off % 16 = 0 then putBits (s.reg (pwrA off)) 15 0 (ratField 16 (s.rHat ((off - 0x100) / 16) * 10000))
  else s.reg (pwrA off)

/-- The word of a register as the state gives it, all bits. -/
def State.viewWord (s : State) (a : Nat) : Nat :=
  match regBlock a with
  | none => 0
  | some (b, off) =>
    let r := a - 0x0C0000000000
    let d := r / 0x1000000
    let c := r % 0x1000000 / 0x100000
    let p := r % 0x100000 / 0x10000
    match b with
    | .tc => s.viewTc ⟨d, c, p⟩ off
    | .ac => s.viewAc ⟨d, c, p - 9⟩ off
    | .cl => s.viewCl d c off
    | .sync => s.viewSync d c off
    | .dieBar => s.dieArrived d
    | .mod => s.viewMod off
    | .hub => if off = 0x404 then s.logState * 2 ^ 30 else s.reg a
    | .bar => if off = 0 ∨ off = 4 then word64 s.cycle (off / 4) else s.reg a
    | .thy => s.viewThy off
    | .fpt => if off = 0x1004 then putBits (s.reg a) 4 3 s.asState else s.reg a
    | .sge => if off = 0 then putBits (s.reg a) 26 26 s.debugOpen.toNat else if off = 8 ∨ off = 12 then word64 serialNo (off % 8 / 4) else s.reg a
    | .srlA => if off = 0xC then s.srlState else s.reg a
    | .pwr => s.viewPwr off
    | .fn => s.viewFn ((a - 0x1000000000000) / 0x10000) off
    | _ => s.reg a

/-- The word that a read of a register delivers: 0 in write-only and reserved bits.
Log entry 14 (DEDUCED). -/
def State.readWord (s : State) (a : Nat) : Nat :=
  match regAt a with
  | some (r, _, w) => s.viewWord a &&& r.maskOf w (fun x => x != .wo)
  | none => 0

end Sys2Proof.Machine
end

