-- ==== Sys2Proof/Machine/DillOps.lean ====
section
/-!
DEFINITION. Dill's triggers (R399), the content of a snapshot (R400–R403) and of a counter snapshot (R397, R398).
-/
namespace Sys2Proof.Machine

/-! ## Triggers (R399) -/

/-- Add a trigger that awaits its latch. -/
def State.addTrigger (s : State) (x : Trigger) : State := { s with dill := { s.dill with trigs := s.dill.trigs ++ [x] } }

/-- A local trigger: the latch lies 64 cycles ahead (R400). With RING_SEND the module also broadcasts a SNAPSHOT frame
(R438) and, with RING_ACCEPT, latches a further snapshot at the release time itself.
Log entry 165 (DEDUCED). -/
def State.dillTrigger (s : State) (code arg faultSeq : Nat) : State :=
  if !s.rbit (dilA 0) 31 then s
  else
    let s := s.addTrigger ⟨code, arg, faultSeq, false, s.cycle + 64⟩
    if s.rbit (dilA 0) 29 && s.fld (rngA 4) 31 28 == 2 then
      let t := s.timeNs + s.reg (barA 0x10)
      let s := s.ringSend 0x05 0xFF (natLe 8 t ++ natLe 4 arg ++ natLe 1 code ++ zeros 3)
      if s.rbit (dilA 0) 30 then s.addTrigger ⟨4, arg, 0xFFFFFFFF, true, t⟩ else s
    else s

/-! ## The content of a snapshot (R400, R402, R403) -/

/-- The register pages of R30 in ascending address. -/
def regPages : List Nat :=
  (List.range 4).flatMap (fun d =>
    (List.range 8).flatMap (fun c => (List.range 13).map (cluPage d c)) ++ (List.range 6).map (diePage d)) ++
  (List.range 21).map hubPage ++ ((List.range 13).map (fun i => hubPage (0x20 + i)))

/-- Offsets in a block that hold a field with access ROH or RW1C, in ascending order; a 64-bit register with such a field
counts with both its words. -/
def latchOffsets (b : Blk) : List Nat :=
  let one := fun (r : RegSpec) =>
    let ok := fun (x : Acc) => x == .roh || x == .rw1c
    if r.fields.any (fun f => ok f.acc) then
      (List.range r.count).flatMap (fun i =>
        ((List.range (r.width / 32)).filter (fun w => r.width == 64 || r.maskOf w ok != 0)).map (fun w => r.off + i * r.stride + 4 * w))
    else []
  ((blkRegs b).flatMap one).mergeSort

/-- Offsets of the page at an address, from the page's start: pages of codec contexts hold 16 contexts 0x1000 apart (R279). -/
def pageOffsets (a : Nat) : List Nat :=
  match regBlock a with
  | some (.vdec, _) => (List.range 16).flatMap (fun i => (latchOffsets .vdec).map (· + 0x1000 * i))
  | some (.venc, _) => (List.range 16).flatMap (fun i => (latchOffsets .venc).map (· + 0x1000 * i))
  | some (b, _) => latchOffsets b
  | none => []

/-- Whether a latch shows 0 for the profiling counters of the unit of a page: its tenant is not tenant 0 and no PROFILE
consent of that tenant is active (R403). -/
def State.latchMasked (s : State) (a : Nat) : Bool :=
  match regBlock a with
  | some (b, _) =>
    let r := a - 0x0C0000000000
    (b == .tc || b == .ac) &&
    (match s.cluOwner (r / 0x1000000) (r % 0x1000000 / 0x100000) with
     | some t => t != 0 && !s.consentScope t 2
     | none => false)
  | none => false

/-- Offsets of TC_BUSY_, TC_CYCLES, AC_CYCLES and AC_INSTRET in their pages. -/
def profileOff (off : Nat) : Bool := decide (0x400 ≤ off) && decide (off < 0x428)

/-- The latched value of a register word: its ROH and RW1C fields.
Log entry 165 (DEDUCED). -/
def State.latchWord (s : State) (a : Nat) : Nat :=
  match regAt a with
  | some (r, _, w) => s.viewWord a &&& r.maskOf w (fun x => x == .roh || x == .rw1c)
  | none => 0

/-- The block record of a page (R402). -/
def State.blockRecord (s : State) (a : Nat) : List Byte :=
  let offs := pageOffsets a
  let m := s.latchMasked a
  natLe 4 (a / 2 ^ 16) ++ natLe 2 offs.length ++ natLe 2 (if m then 1 else 0) ++
    offs.flatMap (fun o => natLe 4 o ++ natLe 4 (if m && profileOff o then 0 else s.latchWord (a + o)))

/-- A snapshot's bytes as a trigger latches them. -/
def State.snapshotBytes (s : State) (x : Trigger) : List Byte :=
  let (cyc, cnt, _) := s.thyPhase
  let body := regPages.flatMap s.blockRecord
  let flags := (if x.ring then 1 else 0) + (if regPages.any s.latchMasked then 2 else 0)
  [0x59#8, 0x44#8, 0x53#8, 0x31#8] ++ natLe 2 1 ++ natLe 1 x.code ++ natLe 1 flags ++ natLe 8 s.dill.nextSeq ++ natLe 4 x.arg ++
    natLe 4 x.faultSeq ++ natLe 8 s.cycle ++ natLe 8 s.timeNs ++ natLe 4 cyc ++ natLe 4 cnt ++ natLe 4 regPages.length ++
    natLe 4 (64 + body.length) ++ zeros 8 ++ body

/-! ## Counter snapshots (R397, R398) -/

/-- A counter of the catalogue: register address, high and low bit of its field in the 64-bit value read there. -/
structure CounterAt where
  addr : Nat
  hi : Nat
  lo : Nat
  deriving DecidableEq, Repr

/-- `n` 32-bit counters from an address on. -/
def counters32 (a n : Nat) : List CounterAt := (List.range n).map (fun i => ⟨a + 4 * i, 31, 0⟩)

/-- The catalogue of R398 in table order. -/
def counterList : List CounterAt :=
  counters32 (srlA 0x20) 6 ++ [⟨srlA 0x38, 15, 0⟩, ⟨srlA 0x38, 31, 16⟩, ⟨srlA 0x3C, 15, 0⟩] ++ counters32 (srlA 0x40) 2 ++
  counters32 (srlA 0x60) 8 ++ counters32 (srlA 0x80) 8 ++ [⟨srlA 0xA0, 63, 0⟩] ++
  [⟨modA 0x120, 15, 0⟩, ⟨modA 0x120, 31, 16⟩, ⟨modA 0x124, 15, 0⟩] ++
  (List.range 4).flatMap (fun d => (List.range 8).flatMap (fun c => (List.range 9).flatMap (fun l =>
    counters32 (tcA d c l 0x304) 1 ++ counters32 (tcA d c l 0x508) 2))) ++
  (List.range 4).flatMap (fun d => (List.range 8).flatMap (fun c => counters32 (syncA d c 0x8004) 1)) ++
  counters32 (barA 0x14) 1 ++ counters32 (hubA 0x408) 1 ++
  (List.range 16).flatMap (fun t => counters32 (kvpA (0x100 + 0x40 * t + 0x1C)) 6) ++
  (List.range 16).flatMap (fun t => counters32 (rqtA (0x100 + 0x80 * t + 0x30)) 10) ++
  (List.range 16).flatMap (fun t => counters32 (lovA (0x100 + 0x80 * t + 0x30)) 6) ++
  (List.range 128).flatMap (fun x => counters32 (vdecA x 0x10) 15) ++ (List.range 64).flatMap (fun x => counters32 (vencA x 0x10) 5) ++
  counters32 (fptA 0x10) 5 ++ [⟨fptA 0x28, 63, 0⟩] ++ counters32 (fptA 0x1040) 7 ++ counters32 (thyA 0x40) 5 ++
  (List.range 4).flatMap (fun p => counters32 (pciA p 0x10) 5) ++ (List.range 16).flatMap (fun t => counters32 (modA (0x1028 + 0x40 * t)) 1) ++
  counters32 (sgeA 0x80) 5 ++ counters32 (updA 0x40) 6 ++ counters32 (nvsA 0xC) 1 ++ counters32 (dilA 0x20) 3 ++ counters32 (pwrA 0x20) 7

/-- The value of a counter. -/
def State.counter (s : State) (c : CounterAt) : Nat := bits (s.reg64 c.addr) c.hi c.lo

/-- Up to 64 class U and F records of the record store, newest first (R394, R397). -/
def State.storeRecords (s : State) : List (List Byte) :=
  let n := s.sorrel.stored
  (((List.range (min n 4096)).map (fun i => s.hubRead (hubId 6) (0x480000 + (n - 1 - i) % 4096 * 64) 64)).filter
    (fun r => fieldLe r 4 1 % 4 != 0)).take 64

/-- A counter snapshot's 65,536 bytes. -/
def State.counterSnapshot (s : State) (reason : Nat) : List Byte :=
  let recs := s.storeRecords
  let body := slice recs.flatten 0 4096 ++ slice (counterList.flatMap (fun c => natLe 8 c.addr ++ natLe 8 (s.counter c))) 0 61376
  let head := [0x59#8, 0x43#8, 0x53#8, 0x31#8] ++ natLe 2 1 ++ natLe 1 reason ++ zeros 1 ++ natLe 4 (s.reg (nvsA 0x18)) ++
    natLe 4 (s.reg (sgeA 0x18)) ++ natLe 8 s.timeNs ++ natLe 8 s.lease ++ natLe 4 counterList.length ++ natLe 4 recs.length ++
    natLe 4 (crc32c body)
  slice head 0 64 ++ body

end Sys2Proof.Machine
end

