-- ==== Sys2Proof/Machine/Sorrel.lean ====
section
/-!
DEFINITION. Sorrel (R380–R394): classification, first-error slots, reactions, degraded states, the record store, watchdogs;
Dill's commands (R399–R406).
-/
namespace Sys2Proof.Machine

/-! ## Where an error lies (R391) -/

/-- UNIT code of the unit whose register page an address lies in; none for any other page. -/
def pageUnit (a : Nat) : Option Nat :=
  match regBlock a with
  | none => none
  | some (b, _) =>
    let r := a - 0x0C0000000000
    let d := r / 0x1000000
    let c := r % 0x1000000 / 0x100000
    let p := r % 0x100000 / 0x10000
    match b with
    | .tc => some (0x1000 + d * 0x100 + c * 0x10 + p)
    | .ac => some (0x2000 + d * 0x100 + c * 0x10 + (p - 9))
    | .cl => some (0x3000 + d * 0x100 + c * 0x10)
    | .sync => some (0x3000 + d * 0x100 + c * 0x10)
    | .dieHbm => some (0x4000 + 2 * d + (p - 2) % 2)
    | _ => none

/-- UNIT code of the smallest unit that holds an error's location, else of the unit that detected it. -/
def State.errUnit (s : State) (e : ErrEv) : Nat :=
  if e.space = 4 then 0x5000 + e.addr % 8
  else if e.space = 1 ∨ e.space = 2 ∨ e.space = 3 then 0xFFFF
  else if e.space ≠ 0 then e.detUnit
  else
    match s.place e.addr with
    | .tile d c l => 0x1000 + d * 0x100 + c * 0x10 + l
    | .cluMem d c => 0x3000 + d * 0x100 + c * 0x10
    | .hbm k => 0x4000 + k
    | .lp => 0xFFFF
    | _ => (pageUnit e.addr).getD e.detUnit

/-- Add a unit to the fenced ones; a test that it passed before counts no longer (R422). -/
def State.addFence (s : State) (u : Nat) : State :=
  let s := { s with sorrel := { s.sorrel with passed := s.sorrel.passed.filter (· != u) } }
  if s.sorrel.fenced.contains u then s else { s with sorrel := { s.sorrel with fenced := s.sorrel.fenced ++ [u] } }

/-- Fence a tile-core slot: its kernel is aborted (R108). -/
def State.fenceSlot (s : State) (d c l : Nat) : State :=
  (s.addFence (0x1000 + d * 0x100 + c * 0x10 + l)).abortSlot ⟨d, c, l⟩

/-- Fence an application core: it is held in reset (R150).
Log entry 164 (DEDUCED). -/
def State.fenceCore (s : State) (d c k : Nat) : State :=
  ((s.addFence (0x2000 + d * 0x100 + c * 0x10 + k)).acReset ⟨d, c, k⟩).acResetDone ⟨d, c, k⟩

/-- Whether a number is a UNIT code of R391 and names a unit that exists. -/
def unitOk (u : Nat) : Bool :=
  let k := u / 0x1000
  let d := u / 0x100 % 16
  let c := u / 0x10 % 16
  let x := u % 16
  if k = 1 then decide (d < 4) && decide (c < 8) && decide (x < 9)
  else if k = 2 then decide (d < 4) && decide (c < 8) && decide (x < 2)
  else if k = 3 then decide (d < 4) && decide (c < 8) && x == 0
  else if k = 4 ∨ k = 5 then decide (u % 0x1000 < 8)
  else if k = 6 then decide (u % 0x1000 < 6)
  else false

/-- Fence a unit (R391).
Log entry 164 (DEDUCED). -/
def State.fenceUnit (s : State) (u : Nat) : State :=
  let d := u / 0x100 % 16
  let c := u / 0x10 % 16
  if !unitOk u then s
  else if u / 0x1000 = 1 then s.fenceSlot d c (u % 16)
  else if u / 0x1000 = 2 then s.fenceCore d c (u % 16)
  else if u / 0x1000 = 3 then
    let s := (List.range 9).foldl (fun s l => s.fenceSlot d c l) (s.addFence u)
    (List.range 2).foldl (fun s k => s.fenceCore d c k) s
  else if u / 0x1000 = 4 then
    let s := (s.addFence u).setRbit (modA 0x100) (8 + u % 8) true
    { s with mem := { s.mem with fenceSeen := s.mem.fenceSeen.filter (· != u % 8) } }
  else s.addFence u

/-! ## Classification (R380–R388) -/

/-- Class at detection of a source: 0 C, 1 U, 2 F; none where the source makes no record (R381). -/
def sourceClass (n : Nat) : Option Nat :=
  if [0x01, 0x02, 0x0B, 0x10].contains n then some 0
  else if [0x03, 0x04, 0x05, 0x06, 0x07, 0x08, 0x09, 0x11, 0x18, 0x19, 0x28].contains n then some 1
  else if [0x0A, 0x20, 0x21, 0x30, 0x31].contains n then some 2
  else none

/-- Whether the first-error slot of a class is held. -/
def State.errHeld (s : State) (c : Nat) : Bool := s.rbit (srlB 0xC0) c

/-- The class after escalation (R385), and the escalation steps. -/
def State.escalate (s : State) (c : Nat) : Nat × Nat :=
  if c = 0 ∧ s.errHeld 0 then (if s.errHeld 1 then (2, 2) else (1, 1))
  else if c = 1 ∧ s.errHeld 1 then (2, 1)
  else (c, 0)

/-- Whether the management firmware runs (R386): started by start-up step 1, not restarting under R377, and neither core's
watchdog expired.
Log entry 143 (DEDUCED). -/
def State.fwRuns (s : State) : Bool :=
  s.start.ended.contains 1 && s.upd.todo.head? != some 2 && !s.sorrel.wdog0.expired && !s.sorrel.wdog1.expired

/-- Set the quiet deadline of a class. -/
def State.setQuiet (s : State) (c : Nat) (x : Option Nat) : State :=
  { s with sorrel :=
      if c = 0 then { s.sorrel with quietC := x } else if c = 1 then { s.sorrel with quietU := x } else { s.sorrel with quietF := x } }

/-- Whether class F of an error in a unit forces the flow `f` (R300): the flows of the initiator's tenant where the error lies
in a slot, core or cluster; else every flow.
Log entry 163 (DEDUCED). -/
def State.forcesFlow (s : State) (unit ini f : Nat) : Bool :=
  if unit / 0x1000 = 1 ∨ unit / 0x1000 = 2 ∨ unit / 0x1000 = 3 then s.iniTenant ini == some (s.flowTenant f) else true

/-- The record of a classification (R383). -/
def State.errRecord (s : State) (e : ErrEv) (cls det steps unit actions : Nat) : List Byte :=
  let (cyc, cnt, _) := s.thyPhase
  natLe 4 s.sorrel.seq ++ natLe 1 (cls + 4 * det + (if steps = 0 then 0 else 16)) ++ natLe 1 e.access ++ natLe 2 e.initiator ++
    natLe 8 (e.space % 16 * 2 ^ 48 + e.addr % 2 ^ 48) ++ natLe 1 e.source ++ natLe 1 e.detail ++ natLe 2 unit ++
    natLe 1 ((s.iniTenant e.initiator).getD 0xFF) ++ natLe 1 actions ++ zeros 2 ++ natLe 8 s.cycle ++ natLe 8 s.timeNs ++
    natLe 4 cyc ++ natLe 4 cnt ++ zeros 16

/-- A new storm window where module time has entered another second (R387). -/
def State.stormRoll (s : State) : State :=
  if s.timeNs / 1000000000 = s.sorrel.window then s
  else { s with sorrel := { s.sorrel with window := s.timeNs / 1000000000, stormCount := 0, stormDone := false } }

/-- Count an error whose class at detection is C; the one that exceeds C_STORM presents SOURCE 0x28 in the next cycle.
Log entry 162 (DEDUCED). -/
def State.storm (s : State) (e : ErrEv) : State :=
  let s := s.stormRoll
  let n := s.sorrel.stormCount + 1
  let s := { s with sorrel := { s.sorrel with stormCount := n } }
  let thr := s.reg (srlA 0x8)
  if thr = 0 ∨ n ≤ thr ∨ s.sorrel.stormDone then s
  else
    let s := s.bump (srlA 0x34)
    let x : ErrEv := { e with source := 0x28, detail := 0 }
    { s with sorrel := { s.sorrel with stormDone := true, presented := s.sorrel.presented ++ [(s.cycle + 1, x)] } }

/-- The reactions of class F (R390, R391): the FAULT_N pulse, for which the firmware sets FAULT_HOLD, and the fence.
Log entries 161 (DEDUCED), 163 (DEDUCED), 164 (DEDUCED). -/
def State.fatal (s : State) (unit : Nat) : State :=
  let s := { s with sorrel := { s.sorrel with pulseEnd := some (s.cycle + 1100000) } }
  let s := if s.fwRuns then s.setRbit (srlA 0) 0 true else s
  s.fenceUnit unit

/-- Attention of a U or F classification (R392).
Log entry 164 (DEDUCED). -/
def State.faultAttention (s : State) (ini : Nat) : State :=
  let s := match s.iniTenant ini with
    | some t => s.fnAttn t 2
    | none => s
  s.mgmtAttention

/-- The exit from the degraded state of a class, once its deadline has passed (R393): RECOV counts, and at class F the firmware
clears FAULT_HOLD.
Log entry 161 (DEDUCED). -/
def State.degradedExit (s : State) (cls : Nat) : State :=
  match s.sorrel.quiet cls with
  | none => s
  | some c =>
    if s.cycle ≤ c then s
    else
      let s := s.setQuiet cls none
      if cls = 0 then s.bumpFld (srlA 0x38) 15 0
      else if cls = 1 then s.bumpFld (srlA 0x38) 31 16
      else
        let s := s.bumpFld (srlA 0x3C) 15 0
        if s.fwRuns then s.setRbit (srlA 0) 0 false else s

/-- Classify one error (R382–R388); one of class U or F marks the jobs of the cluster it came from (R181). -/
def State.classify (s : State) (e : ErrEv) : State :=
  match sourceClass e.source with
  | none => s
  | some det =>
    let (cls, steps) := s.escalate det
    let past := cls == 2 && s.errHeld 2
    let unit := if cls = 2 then s.errUnit e else 0xFFFF
    let fence := unitOk unit
    let force := fun f => cls == 2 && s.forcesFlow unit e.initiator f
    let forced := (List.range 64).any (fun f => force f && s.flowEn f && !s.flowForced f)
    let trig := s.rbit (dilA 0) 31 && s.rbit (dilA 0) cls
    let actions := (if forced then 1 else 0) + (if fence then 2 else 0) + (if cls = 2 then 4 else 0) + (if 1 ≤ cls then 8 else 0) +
      (if trig then 16 else 0)
    let rec_ := s.errRecord e cls det steps (if fence then unit else 0xFFFF) actions
    let seq := s.sorrel.seq
    let s := (s.bump (srlA (0x20 + 4 * cls))).bumpBy (srlA 0x2C) steps
    let s := if past then s.bump (srlA 0x30)
      else (s.setRegWords (srlB (0x40 * cls)) 16 (leNat rec_)).setRbit (srlB 0xC0) cls true
    let s := { s with sorrel := { s.sorrel with seq := seq + 1, lastClass := some s.cycle } }
    let s := (s.degradedExit cls).setQuiet cls (some (s.cycle + s.reg (srlA 4) * 1100000000))
    let s := if det = 0 then s.storm e else s
    let s := if trig then s.dillTrigger 1 0 (seq % 2 ^ 32) else s
    let s := if cls = 2 then (s.forceFlows force 3).fatal unit else s
    if cls = 0 then s
    else
      let s := if idDie e.initiator < 4 then s.modJobsOn (8 * idDie e.initiator + idClu e.initiator) (fun j => { j with fault := true }) else s
      s.faultAttention e.initiator

/-- The first of the presented errors by cycle, SOURCE, initiator ID.
Log entry 160 (DEDUCED). -/
def firstErr : List (Nat × ErrEv) → Option (Nat × ErrEv)
  | [] => none
  | x :: l =>
    match firstErr l with
    | none => some x
    | some y =>
      if y.1 < x.1 ∨ (y.1 = x.1 ∧ (y.2.source < x.2.source ∨ (y.2.source = x.2.source ∧ y.2.initiator < x.2.initiator))) then some y
      else some x

/-- ERROR_CLASSIFY (R382): at most one error per cycle, of those that have reached Sorrel.
Log entry 160 (DEDUCED). -/
def execErrorClassify (s : State) : Host.Outcome State Fault Refusal :=
  match firstErr s.sorrel.presented with
  | none => .next s
  | some x =>
    if s.cycle < x.1 ∨ s.sorrel.lastClass = some s.cycle then .next s
    else .next ({ s with sorrel := { s.sorrel with presented := s.sorrel.presented.erase x } }.classify x.2)

/-- FAULT_N as the module drives it: low while the pulse runs or FAULT_HOLD is 1; it floats high in reset (R390). -/
def State.faultN (s : State) : Bool := s.start.held || s.start.dark || !(s.sorrel.pulseEnd.isSome || s.rbit (srlA 0) 0)

/-- FAULT_N_PULSE_END (R390). -/
def execFaultNPulseEnd (s : State) : Host.Outcome State Fault Refusal :=
  match s.sorrel.pulseEnd with
  | some c => .next (if c ≤ s.cycle then { s with sorrel := { s.sorrel with pulseEnd := none } } else s)
  | none => .next s

/-! ## Acknowledgement and the record store (R386, R394) -/

/-- Write a held record to the store.
Log entry 143 (DEDUCED). -/
def State.drain (s : State) (c : Nat) : State :=
  let r := natLe 64 (s.regWords (srlB (0x40 * c)) 16)
  let s := s.hubWrite (hubId 0) (0x480000 + s.sorrel.stored % 4096 * 64) r
  { s.setReg (srlA 0x14) (fieldLe r 0 4) with sorrel := { s.sorrel with stored := s.sorrel.stored + 1 } }

/-- A write of SRL_ACK: the firmware (a management core) drains the slots it acknowledges, in SEQ order; the slots are freed at
the end of the cycle.
Log entry 143 (DEDUCED). -/
def State.ackWrite (s : State) (ini v : Nat) : State :=
  let cs := (List.range 3).filter (fun c => bit v c && s.errHeld c && !bit s.sorrel.acking c)
  let seqOf := fun c => s.reg (srlB (0x40 * c))
  let cs := cs.mergeSort (fun a b => decide (seqOf a ≤ seqOf b))
  let s := if isMgmtCore ini then cs.foldl (fun s c => s.drain c) s else s
  { s with sorrel := { s.sorrel with acking := cs.foldl (fun m c => putBit m c true) s.sorrel.acking } }

/-- The end of a cycle: acknowledged slots are free.
Log entry 162 (DEDUCED). -/
def State.ackEnd (s : State) : State :=
  if s.sorrel.acking = 0 then s
  else
    let s := s.setReg (srlB 0xC0) ((List.range 3).foldl (fun m c => if bit s.sorrel.acking c then putBit m c false else m) (s.reg (srlB 0xC0)))
    { s with sorrel := { s.sorrel with acking := 0 } }

/-- SRL_ACK_WRITE (R386). -/
def execSrlAckWrite (ini : Nat) (value : Word) (s : State) : Host.Outcome State Fault Refusal :=
  .next (s.guarded (isMgmt ini) ini (srlB 0xC0) (s.ackWrite ini value.toNat))

/-- 50 ms of the arithmetic clock. -/
def wdogCycles : Nat := 55000000

/-- A management core writes its SRL_WDOG bit.
Log entry 161 (DEDUCED). -/
def State.wdogKick (s : State) (k : Nat) : State :=
  let w : Watchdog := ⟨s.cycle + wdogCycles, false⟩
  { s with sorrel := if k = 0 then { s.sorrel with wdog0 := w } else { s.sorrel with wdog1 := w } }

/-- A write of SRL_WDOG: bit k counts as a sign of life where core k writes it. -/
def State.wdogWrite (s : State) (ini v : Nat) : State :=
  (List.range 2).foldl (fun s k => if bit v k && ini == hubId k then s.wdogKick k else s) s

/-- SRL_WDOG_KICK (R386). -/
def execSrlWdogKick (ini : Nat) (value : Word) (s : State) : Host.Outcome State Fault Refusal :=
  .next (s.guarded (isMgmt ini) ini (srlA 0x10) (s.wdogWrite ini value.toNat))

/-- MGMT_WATCHDOG_EXPIRY (R386): once the firmware has been started. -/
def execMgmtWatchdogExpiry (k : Fin 2) (s : State) : Host.Outcome State Fault Refusal :=
  let w := if k = 0 then s.sorrel.wdog0 else s.sorrel.wdog1
  if !s.start.ended.contains 1 ∨ w.expired ∨ s.cycle < w.deadline then .next s
  else
    let w := { w with expired := true }
    let s := { s with sorrel := if k = 0 then { s.sorrel with wdog0 := w } else { s.sorrel with wdog1 := w } }
    .next (s.presentHub 0x31 10 (hubId k) 5 0 0)

/-- STORM_WINDOW_START (R387). -/
def execStormWindowStart (s : State) : Host.Outcome State Fault Refusal := .next s.stormRoll

/-- DEGRADED_EXIT (R393). -/
def execDegradedExit (cls : Fin 3) (s : State) : Host.Outcome State Fault Refusal := .next (s.degradedExit cls)

/-! ## Dill (R399–R406) -/

/-- DIL_TRIGGER_WRITE (R399). -/
def execDilTriggerWrite (ini : Nat) (value : Word) (s : State) : Host.Outcome State Fault Refusal :=
  .next (s.guarded (isMgmt ini) ini (dilA 8) (s.dillTrigger 3 (value.toNat % 65536) 0xFFFFFFFF))

/-- DIL_TIMER_EXPIRY (R399).
Log entry 166 (DEDUCED). -/
def execDilTimerExpiry (s : State) : Host.Outcome State Fault Refusal :=
  let p := s.reg (dilA 4) * 1000000
  if p = 0 ∨ s.timeNs < s.dill.timerFrom + p then .next s
  else .next ({ s with dill := { s.dill with timerFrom := s.dill.timerFrom + p } }.dillTrigger 5 0 0xFFFFFFFF)

/-- Whether a trigger's latch is due (R400). -/
def State.latchDue (s : State) (x : Trigger) : Bool := if x.ring then decide (x.at_ ≤ s.timeNs) else decide (x.at_ ≤ s.cycle)

/-- The latch of a trigger: dropped while the last snapshot is being copied (R401).
Log entry 165 (DEDUCED). -/
def State.latchNow (s : State) (x : Trigger) : State :=
  let s := { s with dill := { s.dill with trigs := s.dill.trigs.erase x } }
  if s.dill.copying.isSome then s.bump (dilA 0x24)
  else
    let b := s.snapshotBytes x
    let s := { s with dill := { s.dill with copying := some b, nextSeq := s.dill.nextSeq + 1 } }
    s.setRbit (dilA 0xC) 31 true

/-- SNAPSHOT_LATCH (R400). -/
def execSnapshotLatch (s : State) : Host.Outcome State Fault Refusal :=
  match s.dill.trigs.find? s.latchDue with
  | some x => .next (s.latchNow x)
  | none => .next s

/-- SNAPSHOT_COPY_DONE (R401). -/
def execSnapshotCopyDone (s : State) : Host.Outcome State Fault Refusal :=
  match s.dill.copying with
  | none => .next s
  | some b =>
    let n := fieldLe b 8 8
    let s := s.hubWrite (hubId 6) (0x4C0000 + n % 4 * 0x100000) (b.take 0x100000)
    let s := { s with dill := { s.dill with copying := none } }
    .next (((s.setReg (dilA 0xC) (n % 4)).setReg64 (dilA 0x10) n).bump (dilA 0x20))

/-- Enabled checkpoint regions of a pipeline in entry order. -/
def State.ckptEntries (s : State) (p : Nat) : List Nat :=
  (List.range 16).filter (fun r => s.rbit (dilA (0x100 + 0x10 * r)) 31 && s.fld (dilA (0x100 + 0x10 * r)) 2 0 == p)

/-- The same regions as (DEV_OFF, LENGTH). -/
def State.ckptRegions (s : State) (p : Nat) : List (Nat × Nat) :=
  (s.ckptEntries p).map (fun r => (s.reg64 (dilA (0x104 + 0x10 * r)) % 2 ^ 48, s.reg (dilA (0x10C + 0x10 * r))))

/-- Bytes that hold a checkpoint's regions with their entries and the header. -/
def ckptBytes (rs : List (Nat × Nat)) : Nat := 128 + 16 * rs.length + (rs.map (·.2)).foldl (· + ·) 0

/-- A checkpoint begins (R405): the one whose regions do not fit is not taken.
Log entry 167 (DESIGN CHOICE). -/
def State.ckptStart (s : State) (p : Nat) (snap : Nat) : State :=
  if s.reg (dilA 0x48) < ckptBytes (s.ckptRegions p) then s.bump (dilA 0x24)
  else
    let (cyc, cnt, _) := s.thyPhase
    let m := tabGet (0, 0) s.log.lastMark p
    { s with dill := { s.dill with ckpts := s.dill.ckpts ++ [⟨p, s.reg64 (paceA p 0), m.1, m.2, s.timeNs, cyc, cnt, snap⟩] } }

/-- EVENT_SNAPSHOT (R291, R399, R405). -/
def execEventSnapshot (i : Fin 4096) (s : State) : Host.Outcome State Fault Refusal :=
  match s.thyTake i 4 with
  | (s, none) => .next s
  | (s, some x) =>
    let snap := s.dill.nextSeq + s.dill.trigs.length
    let s := s.dillTrigger 2 x.e.arg 0xFFFFFFFF
    let s := if bit x.e.arg 31 then s.ckptStart (bits x.e.arg 26 24) snap else s
    .next (s.thyFired x false)

/-- Read regions of tenant 0's device memory one after the other. -/
def State.readRegions (s : State) : List (Nat × Nat) → State × Option (List Byte)
  | [] => (s, some [])
  | (off, n) :: l =>
    match s.devRead hubDmaId 0 off n with
    | (s, none) => (s, none)
    | (s, some b) =>
      match State.readRegions s l with
      | (s, some c) => (s, some (b ++ c))
      | (s, none) => (s, none)

/-- The checkpoint's header (R406). -/
def Checkpoint.header (c : Checkpoint) (rs : List (Nat × Nat)) (data : List Byte) : List Byte :=
  [0x59#8, 0x43#8, 0x50#8, 0x31#8] ++ natLe 2 1 ++ natLe 1 c.pipe ++ zeros 1 ++ natLe 8 c.step ++ natLe 8 c.segment ++ natLe 4 c.logSeq ++
    natLe 4 rs.length ++ natLe 8 c.time ++ natLe 8 (c.cyc * 2 ^ 32 + c.cnt) ++ natLe 8 data.length ++ sha3_256 data ++
    natLe 8 c.snap ++ zeros 32

/-- The end of a checkpoint: regions, digest, header, CHECKPOINTS, CKPT_OBJ.
Log entry 167 (DESIGN CHOICE). -/
def State.ckptDone (s : State) (c : Checkpoint) : State :=
  let rs := s.ckptRegions c.pipe
  let size := s.reg (dilA 0x48)
  let base := s.reg64 (dilA 0x40) % 2 ^ 48 + (c.pipe * 2 + s.reg (dilA 0x28) % 2) * size
  match s.readRegions rs with
  | (s, none) => s.bump (dilA 0x24)
  | (s, some data) =>
    let entries := (s.ckptEntries c.pipe).flatMap (fun r => natLe 16 (s.regWords (dilA (0x100 + 0x10 * r)) 4))
    match s.devWrite hubDmaId 0 base (c.header rs data ++ entries ++ data) with
    | (s, false) => s.bump (dilA 0x24)
    | (s, true) => (s.bump (dilA 0x28)).signal (s.reg (dilA 0x4C) % 2 ^ 18) 1 hubDmaId

/-- CHECKPOINT_DONE (R405).
Log entry 167 (DESIGN CHOICE). -/
def execCheckpointDone (s : State) : Host.Outcome State Fault Refusal :=
  match s.dill.ckpts with
  | [] => .next s
  | c :: l => .next ({ s with dill := { s.dill with ckpts := l } }.ckptDone c)

end Sys2Proof.Machine
end

