-- ==== Sys2Proof/Machine/Boot.lean ====
section
/-!
DEFINITION. Persistent settings and counter snapshots in MRAM (R369–R371, R397), module reset (R324, R327) and the state in
which start-up begins (R6, R362).
-/
namespace Sys2Proof.Machine

/-! ## Persistent settings (R370, R371) -/

/-- The words of the module that hold RWP fields, as (address, mask of those fields). -/
def rwpWords : List (Nat × Nat) :=
  ((List.range 21).map hubPage ++ [hubPage 0x20]).flatMap (fun a =>
    match regBlock a with
    | some (b, _) =>
      (blkRegs b).flatMap (fun r =>
        (List.range r.count).flatMap (fun i =>
          ((List.range ((r.width + 31) / 32)).map (fun w => (a + r.off + i * r.stride + 4 * w, r.maskOf w (· == .rwp)))).filter (fun x => x.2 != 0)))
    | none => [])

/-- The settings records of the RWP fields as they stand.
Log entry 149 (DESIGN CHOICE). -/
def State.rwpRecs (s : State) : List NvsRec := rwpWords.map (fun w => ⟨w.1, s.reg w.1 &&& w.2, w.2⟩)

/-- Whether SEQ `a` is newer than `b`, modulo 2^32.
Log entry 149 (DESIGN CHOICE). -/
def seqNewer (a b : Nat) : Bool := decide (0 < (a + 2 ^ 32 - b) % 2 ^ 32) && decide ((a + 2 ^ 32 - b) % 2 ^ 32 < 2 ^ 31)

/-- The copy in force: its number and content; none where neither is valid. -/
def NvsState.newest (n : NvsState) : Option (Nat × NvsCopy) :=
  match n.copy0, n.copy1 with
  | none, none => none
  | some a, none => some (0, a)
  | none, some b => some (1, b)
  | some a, some b => if seqNewer b.seq a.seq then some (1, b) else some (0, a)

/-- Power is lost: a store that runs leaves the older copy corrupt and the newer one in force (R371). -/
def NvsState.powerLost (n : NvsState) : NvsState :=
  match n.storing, n.newest with
  | some _, some (0, _) => { n with storing := none, copy1 := none }
  | some _, some (_ + 1, _) => { n with storing := none, copy0 := none }
  | _, _ => { n with storing := none }

/-- The value that a set of records gives the RWP fields of a word: VALUE under MASK, else the documented default. -/
def rwpValue (recs : List NvsRec) (w : Nat × Nat) : Nat :=
  match recs.find? (·.addr == w.1) with
  | some r => (r.value &&& (r.mask &&& w.2)) + ((regReset w.1).toNat &&& (w.2 - (r.mask &&& w.2)))
  | none => (regReset w.1).toNat &&& w.2

/-- A word with its RWP fields set. -/
def State.rwpSet (s : State) (w : Nat × Nat) (v : Nat) : State := s.setReg w.1 ((s.reg w.1 &&& (2 ^ 32 - 1 - w.2)) + v)

/-- Every RWP field at what the settings give. -/
def State.rwpApply (s : State) (recs : List NvsRec) : State := rwpWords.foldl (fun s w => s.rwpSet w (rwpValue recs w)) s

/-- Write a counter snapshot to MRAM, which keeps the last 16 (R369, R397).
Log entry 151 (DEDUCED). -/
def State.snapshotStore (s : State) (reason : Nat) : State :=
  let b := s.counterSnapshot reason
  let s := s.unitRead (hubId 6) (hubBase + 0x480000) (64 * min s.sorrel.stored 4096)
  let l := s.nvs.snapshots ++ [b]
  ({ s with nvs := { s.nvs with snapshots := l.drop (l.length - 16) } }).bump (nvsA 0x18)

/-- STORE (R371): refused while a store runs. -/
def State.nvsStore (s : State) : State :=
  if s.nvs.storing.isSome then s.setRbit (nvsA 4) 30 true
  else
    let s := { s with nvs := { s.nvs with storing := some s.rwpRecs } }
    (s.setRbit (nvsA 4) 31 true).snapshotStore 2

/-- NVS_STORE (R371). -/
def execNvsStore (ini : Nat) (s : State) : Host.Outcome State Fault Refusal := .next (s.guarded (isMgmt ini) ini (nvsA 0) s.nvsStore)

/-- NVS_STORE_DONE (R371): the older copy takes the settings; `ok` is false where the write or its read-back failed.
Log entry 149 (DESIGN CHOICE). -/
def execNvsStoreDone (ok : Bool) (s : State) : Host.Outcome State Fault Refusal :=
  match s.nvs.storing with
  | none => .next s
  | some recs =>
    let (to1, seq) := match s.nvs.newest with
      | none => (false, 1)
      | some (k, c) => (k == 0, (c.seq + 1) % 2 ^ 32)
    let c : Option NvsCopy := if ok then some ⟨seq, recs⟩ else none
    let n := { s.nvs with storing := none }
    let s := { s with nvs := if to1 then { n with copy1 := c } else { n with copy0 := c } }
    let s := s.setRbit (nvsA 4) 31 false
    if ok then .next (((s.setRbit (nvsA 4) 0 to1).setReg (nvsA 8) seq).bump (nvsA 0xC))
    else .next (s.setRbit (nvsA 4) 29 true)

/-- NVS_DEFAULTS (R371). -/
def execNvsDefaults (ini : Nat) (s : State) : Host.Outcome State Fault Refusal :=
  .next (s.guarded (isMgmt ini) ini (nvsA 0) ({ s with nvs := { s.nvs with defaults := true } }.setRbit (nvsA 4) 27 true))

/-- COUNTER_SNAPSHOT (R397): each SNAP_PERIOD_S, while the firmware runs. -/
def execCounterSnapshot (s : State) : Host.Outcome State Fault Refusal :=
  let p := s.reg (nvsA 0x14) * cyclesPerSecond
  if s.fwRuns ∧ s.nvs.lastSnap + p ≤ s.cycle then
    .next { s.snapshotStore 0 with nvs := { (s.snapshotStore 0).nvs with lastSnap := s.cycle } }
  else .next s

/-! ## Module reset (R324, R327) -/

/-- Every link of the connector goes down: the PCIe ports' and the field ports' (R447).
Log entry 152 (DESIGN CHOICE). -/
def State.linksDown (s : State) : State :=
  let s := (List.range 4).foldl (fun s p => s.linkOut p) s
  (s.setRbit (fptA 4) 0 false).setRbit (fptA 0x1004) 0 false

/-- The module's own reset: flows are forced with REASON 4, RB_N floats high, the ring's bypass closes, internal reset is
held and the links go down (R447); no tenant exists from here on, the standing tenant neither (R1), and no job runs. -/
def State.resetHold (s : State) : State :=
  let s := ((s.forceFlows (fun _ => true) 4).ringClose 0).linksDown
  { s with start := { s.start with held := true }, host := { s.host with resetPending := true }, tenants := [], job := {} }.rbAll

/-- A module reset that the firmware performs: LEASE_CLOCK and a counter snapshot are stored first (R350, R371).
Log entry 151 (DEDUCED). -/
def State.moduleReset (s : State) : State :=
  if s.start.held ∨ s.start.dark then s
  else
    let s := s.forceFlows (fun _ => true) 4
    let s := if s.fwRuns then s.leaseStore.snapshotStore 1 else s
    s.resetHold

/-- MODULE_RESET (R324, rung 3b): management functions alone can ask for it.
Log entry 152 (DESIGN CHOICE). -/
def execModuleReset (ini : Nat) (s : State) : Host.Outcome State Fault Refusal :=
  .next (if isMgmtFn ini then s.moduleReset else s)

/-! ## The release of internal reset (R6, R19, R324) -/

/-- Registers that keep their values over a reset: UPD_BANKS, versions and floors, BOOT_COUNT, NVS_SNAP_COUNT, Sage's crates. -/
def keptRegs : List (Nat × Nat) :=
  [(updA 8, updA 0xC), (updA 0x100, updA 0x13C), (sgeA 0x18, sgeA 0x1C), (nvsA 0x18, nvsA 0x1C), (sgeA 0x3000, sgeA 0x3400)]

/-- The state in which start-up begins: what survives a module reset or a power cycle, and everything else at reset.
Log entry 152 (DESIGN CHOICE). -/
def State.bootState (s : State) : State :=
  let regs := s.regs.filter (fun e => keptRegs.any (fun r => decide (r.1 ≤ e.1) && decide (e.1 < r.2)))
  let new : State := {
    pending := s.pending, freeCtr := s.freeCtr, sent := s.sent, regs := regs
    mem := { nand := s.mem.nand, host := s.mem.host }
    thy := { a := s.thy.a, b := s.thy.b, z := s.thy.z }
    power := { coolPin := s.power.coolPin, pwrEn := s.power.pwrEn }
    nvs := { s.nvs with storing := none, defaults := false, lastSnap := 0 }
    host := { ports := s.host.ports.map (fun e => (e.1, { e.2 with downAt := none })) }
    log := { extents := s.log.extents, copies := s.log.copies }
    sage := { crates := s.sage.crates, leaseStored := s.sage.leaseStored }
    upd := { banks := s.upd.banks, copies := s.upd.copies, sums := s.upd.sums, owner := s.upd.owner
             bankId := s.upd.bankId, bankComps := s.upd.bankComps } }
  let set := if s.nvs.defaults then none else s.nvs.newest
  let new := match set with
    | some (k, c) => ((new.rwpApply c.recs).setRbit (nvsA 4) 0 (k == 1)).setReg (nvsA 8) c.seq
    | none => new.setRbit (nvsA 4) 28 true
  let new := new.setReg64 (sgeA 0x10) s.sage.leaseStored
  let new := { new with ring := { new.ring with node := new.fld (rngA 0) 3 0, segments := max 1 (new.fld (rngA 0) 12 8) } }
  { new with host := { new.host with bifAB := new.rbit (pciA 0 0) 3, bifCD := new.rbit (pciA 2 0) 3 } }

/-- Whether PERST_N of an active port with PERST_SCOPE 1 holds the module in reset (R327, R431). -/
def State.perstHolds (s : State) : Bool := (List.range 4).any (fun p => s.portActive p && s.rbit (pciA p 0) 7 && (s.port p).perst)

/-- INTERNAL_RESET_RELEASE (R6).
Log entry 152 (DESIGN CHOICE). -/
def execInternalResetRelease (s : State) : Host.Outcome State Fault Refusal :=
  if s.start.dark ∨ !s.start.held ∨ s.perstHolds then .next s else .next s.bootState

/-- PERST_N of a port is recognised as asserted (R327, R431): a module reset with PERST_SCOPE 1, else a port reset. An inactive
port's is ignored. -/
def execPerstNAssert (p : Fin 4) (s : State) : Host.Outcome State Fault Refusal :=
  let was := (s.port p).perst
  let s := s.setPort p { s.port p with perst := true }
  if was ∨ !s.portActive p then .next s
  else if s.rbit (pciA p 0) 7 then .next s.moduleReset
  else .next ((s.portReset p).rbUpdate p)

/-- PERST_N of a port is recognised as deasserted (R327): with PERST_SCOPE 1 it ends a module reset. -/
def execPerstNDeassert (p : Fin 4) (s : State) : Host.Outcome State Fault Refusal :=
  let s := s.setPort p { s.port p with perst := false }
  if s.portActive p ∧ s.rbit (pciA p 0) 7 ∧ s.start.held ∧ !s.start.dark ∧ !s.perstHolds then .next s.bootState
  else .next (s.rbUpdate p)

end Sys2Proof.Machine
end

