-- ==== Sys2Proof/Machine/Power.lean ====
section
/-!
DEFINITION. Power, cooling and field service (R409–R422), and the power input (R426–R429).
-/
namespace Sys2Proof.Machine

/-- The power governor as an initiator (R11). -/
def powerId : Nat := hubId 12
/-- A counter of the hub PWR_ page: 0 LIMITED_PERIODS, 1 FAST_TRIPS, 2 CLAMPS, 3 TRENDS, 4 SENSOR_FAULTS, 5 SHUTDOWNS,
6 LIMITER_TRIPS. -/
def pwrCount (n : Nat) : Nat := pwrA (0x20 + 4 * n)
/-- CAP_W. -/
def State.capW (s : State) : Nat := s.fld (pwrA 0) 10 0
/-- MARGIN in K. -/
def State.marginK (s : State) : Nat := s.fld (pwrA 4) 7 0
/-- Whether the module's rails are on and internal reset is released. -/
def State.alive (s : State) : Bool := !s.start.dark && !s.start.held
/-- The governor's rules give way to a clamp (R418). -/
def State.clamped (s : State) : Bool := s.power.clamp.isSome

/-! ## Throttles (R413) -/

/-- PWR_LEVEL of a die. -/
def levelA (d : Nat) : Nat := diePage d 5
/-- PWR_HBM_B of a stack. -/
def stackBA (k : Nat) : Nat := diePage (k / 2) 5 + 4 + 4 * (k % 2)
/-- Level of a die. -/
def State.level (s : State) (d : Nat) : Nat := s.fld (levelA d) 3 0
/-- B of a stack, in eighths. -/
def State.stackB (s : State) (k : Nat) : Nat := s.fld (stackBA k) 3 0
/-- Set a die's level; a die held at 15 stays there (R419). -/
def State.setLevel (s : State) (d v : Nat) : State :=
  let v := if s.power.hotHub || s.power.hotDies.contains d then 15 else min v 15
  (s.setFld (levelA d) 3 0 v).setFld (domA d 0xC) 3 0 v
/-- Set a stack's B. -/
def State.setStackB (s : State) (k v : Nat) : State :=
  let v := clampNat 2 8 v
  (s.setFld (stackBA k) 3 0 v).setFld (domA (4 + k) 0xC) 3 0 (8 - v)
/-- Raise every die level to at least `l`. -/
def State.levelsUp (s : State) (l : Nat) : State := (List.range 4).foldl (fun s d => s.setLevel d (max l (s.level d))) s
/-- Every stack at B = 2. -/
def State.stacksDown (s : State) : State := (List.range 8).foldl (fun s k => s.setStackB k 2) s
/-- FAST of every die. -/
def State.setFast (s : State) (b : Bool) : State := (List.range 4).foldl (fun s d => s.setRbit (levelA d) 4 b) s

/-! ## Faults and shutdown (R419, R420) -/

/-- A thermal or power fault: class F, SOURCE 0x30, SPACE 5. -/
def State.powerFault (s : State) (cause : Nat) : State := (s.setFld (pwrA 0x10) 7 0 cause).presentHub 0x30 10 powerId 5 0 0

/-- The fault that shuts the module down: the firmware stores a counter snapshot with REASON 1.
Log entry 175 (DEDUCED). -/
def State.shutDown (s : State) (cause : Nat) : State :=
  if s.power.shutdown.isSome then s
  else
    let s := (s.powerFault cause).bump (pwrCount 5)
    let s := { s with power := { s.power with shutdown := some s.cycle } }
    if s.fwRuns then s.leaseStore.snapshotStore 1 else s

/-- The rails are off: the module is dark (R330, R447) and holds no tenant (R1).
Log entry 176 (DEDUCED). -/
def State.goDark (s : State) : State :=
  let s := (s.ringClose 0).linksDown
  { s with start := { s.start with dark := true, held := true }, host := { s.host with released := false, mctp := false }
           tenants := [], job := {}, nvs := s.nvs.powerLost }.rbAll

/-- SHUTDOWN_RAILS_OFF (R420): 50 ms after the classification.
Log entry 175 (DEDUCED). -/
def execShutdownRailsOff (s : State) : Host.Outcome State Fault Refusal :=
  match s.power.shutdown with
  | some c => .next (if s.alive ∧ c + 55000000 ≤ s.cycle then s.goDark else s)
  | none => .next s

/-! ## Sensors (R409, R411) -/

/-- Sensors: 256 compute sites, 32 in stacks, 16 in the hub, 2 in the inlet. -/
def sensorCount : Nat := 306
/-- The domain of a sensor; none for the inlet. -/
def sensorDomain (i : Nat) : Option Nat :=
  if i < 256 then some (i / 64) else if i < 288 then some (4 + (i - 256) / 4) else if i < 304 then some 12 else none
/-- The register of a sensor. -/
def sensorA (i : Nat) : Nat :=
  if i < 256 then diePage (i / 64) 1 + 4 * (i % 64)
  else if i < 288 then
    let k := (i - 256) / 4
    diePage (k / 2) 1 + 0x100 + 0x10 * (k % 2) + 4 * ((i - 256) % 4)
  else if i < 304 then thmA (4 * (i - 288))
  else thmA (0x40 + 4 * (i - 304))
/-- T_lim of a domain in °C. -/
def tLim (k : Nat) : Int := if k < 4 then 105 else if k < 12 then 95 else 100

/-- Whether a reading lies outside −40 to 150 °C, in units of 1/64 °C. -/
def outOfRange (t : Int) : Bool := decide (t < -2560) || decide (9600 < t)

/-- What is kept of a sensor's sameness: a changed reading starts anew. -/
def sameNext (old : Nat × Nat × Nat) (changed : Bool) (now p : Nat) : Nat × Nat × Nat :=
  if changed then (now, p, p) else (old.1, min old.2.1 p, max old.2.2 p)

/-- Whether a reading has been the same for 10 s while its domain's power changed by more than 20 %.
Log entry 170 (DEDUCED). -/
def stuckSensor (x : Nat × Nat × Nat) (now : Nat) : Bool := decide (x.1 + 10000 ≤ now) && decide (6 * x.2.1 < 5 * x.2.2)

/-- Hottest sensor of a domain in 1/64 °C; T_lim where every sensor is excluded.
Log entry 171 (DEDUCED). -/
def State.domainT (s : State) (ts : List Int) (k : Nat) : Int :=
  let l := (List.range sensorCount).filterMap (fun i =>
    if sensorDomain i = some k && !s.power.excluded.contains i then some (ts.getD i 0) else none)
  match l with
  | [] => 64 * tLim k
  | t :: r => r.foldl max t

/-- T_in in 1/64 °C. -/
def State.inletT (s : State) (ts : List Int) : Int :=
  match [304, 305].filter (fun i => !s.power.excluded.contains i) with
  | [] => 64 * 45
  | i :: r => r.foldl (fun m j => max m (ts.getD j 0)) (ts.getD i 0)

/-- The last sample of every sensor. -/
def State.readings (s : State) : List Int := s.power.hist.headD []

/-- Take a sample of every sensor: registers, exclusion, the hottest reading of each domain.
Log entry 170 (DEDUCED). -/
def State.takeSensors (s : State) (ts : List Int) (ps : List Nat) (now : Nat) : State :=
  let old := s.readings
  let first := s.power.hist.isEmpty
  let same := (List.range sensorCount).map (fun i =>
    let p := match sensorDomain i with | some k => ps.getD k 0 | none => 0
    sameNext (s.power.same.getD i (now, p, p)) (first || ts.getD i 0 != old.getD i 0) now p)
  let ex := (List.range sensorCount).filter (fun i =>
    outOfRange (ts.getD i 0) || ((sensorDomain i).isSome && stuckSensor (same.getD i (now, 0, 0)) now))
  let new := ex.filter (fun i => !s.power.excluded.contains i)
  let s := (List.range sensorCount).foldl (fun s i => s.setFld (sensorA i) 15 0 (ofInt 16 (ts.getD i 0))) s
  let s := (s.bumpBy (pwrCount 4) new.length).setReg (thmA 0x50) ex.length
  let s := { s with power := { s.power with
    hist := (ts :: s.power.hist).take 101, same := same, excluded := ex
    pSum := (List.range 13).map (fun k => s.power.pSum.getD k 0 + ps.getD k 0), pCount := s.power.pCount + 1 } }
  (List.range 13).foldl (fun s k => s.setFld (domA k 8) 15 0 (ofInt 16 (s.domainT ts k))) s

/-- Rise of a sensor over the last 100 ms, in 1/64 K; 0 before 100 ms of samples.
Log entry 172 (DEDUCED). -/
def State.rise (s : State) (i : Nat) : Int :=
  match s.power.hist[100]? with
  | some old => if s.power.excluded.contains i then 0 else s.readings.getD i 0 - old.getD i 0
  | none => 0

/-- Sensors that rose by more than 0.2 K. -/
def State.rising (s : State) : Nat := ((List.range sensorCount).filter (fun i => decide (64 < 5 * s.rise i))).length
/-- Whether no sensor rose by more than 0.05 K. -/
def State.calm (s : State) : Bool := (List.range sensorCount).all (fun i => decide (20 * s.rise i ≤ 64))

/-! ## The clamp (R418) -/

/-- A clamp starts.
Log entry 173 (DEDUCED). -/
def State.clampStart (s : State) : State :=
  let s := { s with power := { s.power with clamp := some s.timeNs, clampF := false, quietFrom := none } }
  (((s.setRbit (pwrA 8) 31 true).bump (pwrCount 2)).levelsUp 12).stacksDown.setFast true

/-- A clamp is released. -/
def State.clampRelease (s : State) : State :=
  (({ s with power := { s.power with clamp := none, quietFrom := none } }.setRbit (pwrA 8) 31 false)).setFast false

/-- The 5 s of a clamp have passed: class F with CAUSE 1, once, unless its release condition was met by then (R418). -/
def State.clampFault (s : State) : State :=
  match s.power.clamp with
  | none => s
  | some t =>
    let met : Bool := match s.power.quietFrom with | some q => decide (q + 1000000000 ≤ t + 5000000000) | none => false
    if s.timeNs < t + 5000000000 ∨ s.power.clampF ∨ met then s
    else { s with power := { s.power with clampF := true } }.powerFault 1

/-- Whether the 5 s of a clamp lie behind the present time. -/
def State.clampPast (s : State) : Bool :=
  match s.power.clamp with
  | some t => decide (t + 5000000000 < s.timeNs)
  | none => false

/-- The stop test of a sample. -/
def State.stopTest (s : State) : State :=
  let s := if s.clampPast then s.clampFault else s
  let cool := s.rbit (thmA 0x48) 31
  let stop := !cool || decide (3 ≤ s.rising)
  let s := (s.setRbit (thmA 0x48) 30 stop).setFld (thmA 0x48) 8 0 s.rising
  let s := if stop && !s.clamped then s.clampStart else s
  if !s.clamped then s
  else if cool && s.calm then
    let from_ := s.power.quietFrom.getD s.timeNs
    let s := { s with power := { s.power with quietFrom := some from_ } }
    if from_ + 1000000000 ≤ s.timeNs then s.clampRelease else s
  else { s with power := { s.power with quietFrom := none } }

/-- The thermal faults of a sample (R419): dies, hub, stacks.
Log entry 171 (DEDUCED). -/
def State.thermalFaults (s : State) (ts : List Int) : State :=
  let s := (List.range 4).foldl (fun s d =>
    let t := s.domainT ts d
    if 64 * 105 ≤ t ∧ !s.power.hotDies.contains d then
      let s := { s with power := { s.power with hotDies := s.power.hotDies ++ [d] } }
      (s.powerFault 2).setLevel d 15
    else if t < 64 * 100 then { s with power := { s.power with hotDies := s.power.hotDies.filter (· != d) } }
    else s) s
  let t := s.domainT ts 12
  let s :=
    if 64 * 100 ≤ t ∧ !s.power.hotHub then ({ s with power := { s.power with hotHub := true } }.powerFault 3).levelsUp 15
    else if t < 64 * 95 then { s with power := { s.power with hotHub := false } }
    else s
  if (List.range 8).any (fun k => decide (64 * 100 ≤ s.domainT ts (4 + k))) then s.shutDown 4 else s

/-- SENSOR_SAMPLE (R409, R411, R418, R419): once in each millisecond of module time; the readings in 1/64 °C and the power of
each domain in mW. -/
def execSensorSample (temps : List (BitVec 16)) (powers : List Nat) (s : State) : Host.Outcome State Fault Refusal :=
  let now := s.timeNs / 1000000
  if !s.alive ∨ now ≤ s.power.lastSensor then .next s
  else
    let ts := (List.range sensorCount).map (fun i => (temps.getD i 0).toInt)
    let s := { s with power := { s.power with lastSensor := now } }
    let s := (s.setRbit (thmA 0x48) 31 s.power.coolPin).takeSensors ts powers now
    .next (s.stopTest.thermalFaults ts)

/-- COOL_OK_CHANGE (R431): a level that has held for 100 µs. -/
def execCoolOkChange (level : Bool) (s : State) : Host.Outcome State Fault Refusal := .next { s with power := { s.power with coolPin := level } }

/-- CLAMP_TIMEOUT (R418): 5 s after the clamp's start; a release condition met by then releases it. -/
def execClampTimeout (s : State) : Host.Outcome State Fault Refusal :=
  match s.power.clamp, s.power.quietFrom with
  | some t, some q =>
    .next (if t + 5000000000 ≤ s.timeNs ∧ !s.power.clampF ∧ q + 1000000000 ≤ t + 5000000000 then s.clampRelease else s.clampFault)
  | _, _ => .next s.clampFault

/-! ## The input (R410, R415, R416, R419, R426) -/

/-- Put a sample before the others, newest first. -/
def pushSample (p : Nat) : List (Nat × Nat) → List (Nat × Nat)
  | [] => [(p, 1)]
  | (q, n) :: l => if p = q then (q, n + 1) :: l else (p, 1) :: (q, n) :: l

/-- The newest `n` samples. -/
def takeSamples : Nat → List (Nat × Nat) → List (Nat × Nat)
  | _, [] => []
  | n, (p, m) :: l => if n = 0 then [] else if n ≤ m then [(p, n)] else (p, m) :: takeSamples (n - m) l

/-- Energy of the newest `n` samples, in mW µs.
Log entry 174 (DESIGN CHOICE). -/
def State.energy (s : State) (n : Nat) : Nat := ((takeSamples n s.power.input).map (fun x => x.1 * x.2)).foldl (· + ·) 0

/-- Whether the average input over the newest `n` µs exceeds `per` thousandths of CAP_W. -/
def State.overAvg (s : State) (n per : Nat) : Bool := decide (s.capW * per * n < s.energy n)

/-- A limiter hold begins, unless one is in force (R416). -/
def State.limiterHold (s : State) : State :=
  if s.power.hold.isSome then s
  else
    let s := { s with power := { s.power with hold := some s.timeNs } }
    (((s.setRbit (pwrA 8) 29 true).bump (pwrCount 6)).levelsUp 15).stacksDown

/-- Whether the limiter acts: 8 ms above CAP_W without a break, or a 1 s average above 0.995 × CAP_W. -/
def State.mustLimit (s : State) : Bool := decide (8000 ≤ s.power.overCap) || s.overAvg 1000000 995

/-- INPUT_SAMPLE (R410, R415, R416): once in each microsecond; the input voltage in units of 10 mV and the power in mW.
Log entry 174 (DESIGN CHOICE). -/
def execInputSample (volts milliwatts : Nat) (s : State) : Host.Outcome State Fault Refusal :=
  let now := s.timeNs / 1000
  if !s.alive ∨ now ≤ s.power.lastInput then .next s
  else
    let out := decide (volts < 3800) || decide (6200 < volts)
    let s := { s with power := { s.power with
      lastInput := now, input := takeSamples 1000000 (pushSample milliwatts s.power.input)
      overCap := if s.capW * 1000 < milliwatts then s.power.overCap + 1 else 0
      voltFrom := if out then some (s.power.voltFrom.getD s.timeNs) else none } }
    let s := (s.setFld (pwrA 0xC) 31 16 (min volts 0xFFFF)).setFld (pwrA 0xC) 15 0 (min (s.energy 10000 / 10000000) 0xFFFF)
    let s := if 2100000 < milliwatts then ((s.levelsUp 8).setFast true).bump (pwrCount 1) else s
    .next (if s.mustLimit then s.limiterHold else s)

/-- INPUT_VOLTAGE_FAULT (R419, R426): the input has been outside 38–62 V for 1 ms. -/
def execInputVoltageFault (s : State) : Host.Outcome State Fault Refusal :=
  match s.power.voltFrom with
  | some t => .next (if s.alive ∧ t + 1000000 ≤ s.timeNs then s.shutDown 5 else s)
  | none => .next s

/-- REGULATOR_FAULT (R419). -/
def execRegulatorFault (s : State) : Host.Outcome State Fault Refusal := .next (if s.alive then s.shutDown 6 else s)

/-- INPUT_DROPOUT (R429, R434): the input falls to a voltage, in units of 10 mV; the bulk feeds the rails, and below 30 V the
ring's bypass closes.
Log entry 176 (DEDUCED). -/
def execInputDropout (volts : Nat) (s : State) : Host.Outcome State Fault Refusal :=
  if !s.alive then .next s
  else
    let s := if volts < 3800 then { s with power := { s.power with voltFrom := some (s.power.voltFrom.getD s.timeNs) } } else s
    .next (if volts < 3000 then s.ringLeave 0 else s)

/-! ## The governor (R412, R414, R417) -/

/-- Mean power of a domain over the period that ends, in W.
Log entry 168 (DEDUCED). -/
def State.domainP (s : State) (k : Nat) : Rat := ((s.power.pSum.getD k 0 : Nat) : Rat) / ((1000 * max 1 s.power.pCount : Nat) : Rat)

/-- R̂ after a period.
Log entry 168 (DEDUCED). -/
def State.rNext (s : State) (k : Nat) (t tin : Int) (p : Rat) : Rat :=
  let r := s.rHat k
  if p < 10 then r else r + (((t - tin : Int) : Rat) / 64 / p - r) / 8

/-- P_allow in W: a free value where R̂ is not positive, of which the spec gives no quotient.
Log entry 169 (DESIGN CHOICE). -/
def State.pAllow (s : State) (k : Nat) (tin : Int) (r : Rat) : State × Rat :=
  if r ≤ 0 then
    let (s, v) := s.free 16
    (s, (v : Rat))
  else (s, (max 0 (64 * (tLim k - s.marginK) - tin) : Int) / 64 / r)

/-- Increments of a throttle that the rules demand: of its own domain, and for dies of the input.
Log entry 173 (DEDUCED). -/
def State.demand (s : State) (k : Nat) (t : Int) (p allow : Rat) : Nat :=
  let own := if 11 / 10 * allow < p then 2 else if allow < p ∨ 64 * (tLim k - s.marginK) < t then 1 else 0
  let cap := if 4 ≤ k then 0 else max (if s.overAvg 10000 1000 then 1 else 0) (if s.overAvg 1000000 980 then 2 else 0)
  let clamp := if k < 4 ∧ s.clamped ∧ s.overAvg 10000 300 then 1 else 0
  max own (max cap clamp)

/-- Whether a throttle without a demand may step back. -/
def State.mayStepBack (s : State) (p allow : Rat) : Bool :=
  decide (p < 9 / 10 * allow) && !s.overAvg 10000 950 && !s.overAvg 1000000 950 && s.power.hold.isNone && !s.clamped

/-- Move the throttle of a domain. -/
def State.throttle (s : State) (k : Nat) (t : Int) (p allow : Rat) : State :=
  let n := s.demand k t p allow
  let back := n = 0 && s.mayStepBack p allow
  if k < 4 then
    let l := s.level k
    let l := if back then l - 1 else l + n
    s.setLevel k (if s.clamped then max 12 l else l)
  else if k < 12 then
    let b := s.stackB (k - 4)
    let b := if back then b + 1 else b - n
    s.setStackB (k - 4) (if s.clamped then 2 else b)
  else s

/-- TREND of a domain (R417). -/
def State.trend (s : State) (k : Nat) (r : Rat) : State :=
  let base := s.fld (domA k 0) 31 16
  let lim : Rat := ((base * s.fld (pwrA 4) 15 8 : Nat) : Rat) / 1000000
  let up := if lim < r ∧ base ≠ 0 then tabGet 0 s.power.above k + 1 else 0
  let dn := if r < lim ∨ base = 0 then tabGet 0 s.power.below k + 1 else 0
  let s := { s with power := { s.power with above := tabSet 0 s.power.above k up, below := tabSet 0 s.power.below k dn } }
  if 6000 ≤ up ∧ !s.rbit (pwrA 8) k then ((s.setRbit (pwrA 8) k true).bump (pwrCount 3)).mgmtAttention
  else if 6000 ≤ dn then s.setRbit (pwrA 8) k false
  else s

/-- Periods over which the firmware takes a baseline: 3,600 s. -/
def basePeriods : Nat := 360000

/-- Sum R̂ for the baseline while the domain draws at least 10 W. -/
def State.baseline (s : State) (k : Nat) (p r : Rat) : State :=
  let n := tabGet 0 s.power.basePeriods k
  if p < 10 ∨ basePeriods ≤ n then s
  else
    let sum := (tabGet none s.power.baseSum k).getD 0
    { s with power := { s.power with basePeriods := tabSet 0 s.power.basePeriods k (n + 1)
                                     baseSum := tabSet none s.power.baseSum k (some (sum + r)) } }

/-- A period of one domain. -/
def State.governDomain (s : State) (k : Nat) : State :=
  let ts := s.readings
  let t := s.domainT ts k
  let tin := s.inletT ts
  let p := s.domainP k
  let r := s.rNext k t tin p
  let s := { s with power := { s.power with rEst := tabSet none s.power.rEst k (some r) } }
  let (s, allow) := s.pAllow k tin r
  let s := (s.setFld (domA k 4) 31 16 (ratField 16 allow)).setFld (domA k 4) 15 0 (ratField 16 p)
  ((s.trend k r).baseline k p r).throttle k t p allow

/-- A limiter hold ends with the first period that begins after it.
Log entry 174 (DESIGN CHOICE). -/
def State.holdEnd (s : State) (period : Nat) : State :=
  match s.power.hold with
  | some h => if h ≤ (period - 1) * 10000000 then { s with power := { s.power with hold := none } }.setRbit (pwrA 8) 29 false else s
  | none => s

/-- GOVERNOR_PERIOD (R414): once for each multiple of 10 ms of module time.
Log entry 168 (DEDUCED). -/
def execGovernorPeriod (s : State) : Host.Outcome State Fault Refusal :=
  let now := s.timeNs / 10000000
  if !s.alive ∨ now ≤ s.power.lastPeriod then .next s
  else
    let s := { s with power := { s.power with lastPeriod := now } }
    let s := s.holdEnd now
    let s := if s.clamped then s else s.setFast false
    let limited := s.overAvg 10000 1000 || s.overAvg 1000000 980
    let s := s.setRbit (pwrA 8) 30 limited
    let s := if limited then s.bump (pwrCount 0) else s
    let s := (List.range 13).foldl State.governDomain s
    .next { s with power := { s.power with pSum := [], pCount := 0 } }

/-- BASELINE_SET (R417). -/
def execBaselineSet (k : Fin 13) (s : State) : Host.Outcome State Fault Refusal :=
  if s.fwRuns ∧ s.fld (domA k 0) 31 16 = 0 ∧ basePeriods ≤ tabGet 0 s.power.basePeriods k then
    .next (s.setFld (domA k 0) 31 16 (ratField 16 ((tabGet none s.power.baseSum k).getD 0 / (basePeriods : Rat) * 10000)))
  else .next s

/-! ## MOD_PWR_EN (R427, R428) -/

/-- MOD_PWR_EN_RISE (R428): the input switch conducts and the rails come up; internal reset is released later (R363). -/
def execModPwrEnRise (s : State) : Host.Outcome State Fault Refusal :=
  if s.power.pwrEn then .next s
  else
    .next { s with power := { s.power with pwrEn := true }, start := { s.start with dark := false, held := true } }

/-- MOD_PWR_EN_FALL (R428): the module goes dark without an orderly shutdown. -/
def execModPwrEnFall (s : State) : Host.Outcome State Fault Refusal := .next ({ s with power := { s.power with pwrEn := false } }.goDark)

/-! ## Test and fence (R421, R422) -/

/-- MOD_FENCE_STATUS after an operation. -/
def State.fenceStatus (s : State) (u code : Nat) : State := (s.setFld (modA 0x304) 27 24 code).setFld (modA 0x304) 15 0 u

/-- Whether a unit is out of service without a fence: a slot that serves no logical slot.
Log entry 177 (DEDUCED). -/
def State.outOfService (s : State) (u : Nat) : Bool :=
  let d := u / 0x100 % 16
  let c := u / 0x10 % 16
  u / 0x1000 == 1 && (List.range 8).all (fun l => s.physSlot d c l != u % 16)

/-- Whether a unit is owned, so that its test may not run: a cluster by a tenant, a stack by a region that is ASSIGNED. -/
def State.unitOwned (s : State) (u : Nat) : Bool :=
  if u / 0x1000 = 3 then (s.cluOwner (u / 0x100 % 16) (u / 0x10 % 16)).isSome
  else if u / 0x1000 = 4 then s.mem.regions.any (fun r => decide (r.2.state = .assigned) && regionTier r.1 == u % 0x1000)
  else false

/-- Whether a unit is fenced. -/
def State.isFenced (s : State) (u : Nat) : Bool := s.sorrel.fenced.contains u || (u / 0x1000 == 4 && s.stackFenced (u % 0x1000))

/-- OP 1.
Log entry 177 (DEDUCED). -/
def State.unitTest (s : State) (u : Nat) : State :=
  if !unitOk u then s.fenceStatus u 5
  else if !s.isFenced u ∧ !s.outOfService u then s.fenceStatus u 1
  else if s.power.testing.isSome ∨ s.unitOwned u then s.fenceStatus u 4
  else ({ s with power := { s.power with testing := some u } }.fenceStatus u 0).setFld (modA 0x304) 31 28 1

/-- OP 2. -/
def State.unitFence (s : State) (u : Nat) : State := if unitOk u then (s.fenceUnit u).fenceStatus u 0 else s.fenceStatus u 5

/-- Units that a lift of a unit frees: of a cluster, its slots and cores too.
Log entry 177 (DEDUCED). -/
def unitParts (u : Nat) : List Nat :=
  let p := u % 0x1000
  if u / 0x1000 = 3 then u :: ((List.range 9).map (fun l => 0x1000 + p + l) ++ (List.range 2).map (fun k => 0x2000 + p + k)) else [u]

/-- A stack serves again: its regions that are not ASSIGNED are DIRTY.
Log entry 177 (DEDUCED). -/
def State.stackLift (s : State) (k : Nat) : State :=
  let s := (s.setRbit (modA 0x100) (8 + k) false).setRbit (modA 0x100) k true
  (s.mem.regions.filter (fun r => regionTier r.1 == k && !decide (r.2.state = .assigned))).foldl (fun s r => s.setRegion r.1 {}) s

/-- OP 3.
Log entry 177 (DEDUCED). -/
def State.fenceLift (s : State) (u : Nat) : State :=
  if !unitOk u then s.fenceStatus u 5
  else if s.power.testing = some u then s.fenceStatus u 4
  else if !s.isFenced u then s.fenceStatus u 1
  else if !s.sorrel.passed.contains u then s.fenceStatus u 2
  else if s.degraded 2 then s.fenceStatus u 3
  else
    let ps := unitParts u
    let s := { s with sorrel := { s.sorrel with fenced := s.sorrel.fenced.filter (fun x => !ps.contains x)
                                                passed := s.sorrel.passed.filter (fun x => !ps.contains x) } }
    let s := if u / 0x1000 = 4 then s.stackLift (u % 0x1000) else s
    s.fenceStatus u 0

/-- A write of MOD_FENCE. -/
def State.fenceWrite (s : State) (v : Nat) : State :=
  let u := bits v 15 0
  match bits v 17 16 with
  | 1 => s.unitTest u
  | 2 => s.unitFence u
  | 3 => s.fenceLift u
  | _ => s

/-- UNIT_TEST (R422). -/
def execUnitTest (ini unit : Nat) (s : State) : Host.Outcome State Fault Refusal := .next (s.guarded (isMgmt ini) ini (modA 0x300) (s.unitTest unit))

/-- UNIT_FENCE (R422). -/
def execUnitFence (ini unit : Nat) (s : State) : Host.Outcome State Fault Refusal := .next (s.guarded (isMgmt ini) ini (modA 0x300) (s.unitFence unit))

/-- FENCE_LIFT (R422). -/
def execFenceLift (ini unit : Nat) (s : State) : Host.Outcome State Fault Refusal := .next (s.guarded (isMgmt ini) ini (modA 0x300) (s.fenceLift unit))

/-- The memory that a test leaves with other contents: a slot's tile memory, a cluster's memories, a stack.
Log entry 178 (DESIGN CHOICE). -/
def unitMemory (u : Nat) : List (Nat × Nat) :=
  let d := u / 0x100 % 16
  let c := u / 0x10 % 16
  if u / 0x1000 = 1 then [(tileBase d c (u % 16), 0x200000)]
  else if u / 0x1000 = 3 then (List.range 9).map (fun l => (tileBase d c l, 0x200000)) ++ [(cluBase d c, 0x3000000)]
  else if u / 0x1000 = 4 then [(u % 8 * 0xC00000000, 0xC00000000)]
  else []

/-- UNIT_TEST_DONE (R421): passed or failed; a march leaves the memory it tested with contents that the spec does not give.
Log entry 178 (DESIGN CHOICE). -/
def execUnitTestDone (ok : Bool) (s : State) : Host.Outcome State Fault Refusal :=
  match s.power.testing with
  | none => .next s
  | some u =>
    let s := (unitMemory u).foldl (fun s r => let (s, b) := s.freeBytes r.2; (s.validCode r.1 r.2).rawWrite r.1 b) s
    let s := { s with power := { s.power with testing := none }
                      sorrel := { s.sorrel with passed := if ok && s.isFenced u then s.sorrel.passed ++ [u] else s.sorrel.passed } }
    .next (s.setFld (modA 0x304) 31 28 (if ok then 2 else 3))

end Sys2Proof.Machine
end

