-- ==== Sys2Proof/Machine/Hart.lean ====
section
/-!
DEFINITION. The hart of an application core (R137, R138, R148, R149): its floating-point arithmetic, its CSRs, the instructions
that act on them. What the spec names by RISC-V's name alone (registers, encodings of fields, trap entry) is as that text has it.
-/
namespace Sys2Proof.Machine

/-! ## Floating-point arithmetic (R149) -/

/-- The format of a scalar operand. -/
def hartFmt : HartFmt → Fmt
  | .half => fmtGet 3
  | .single => fp32
  | .double => fp64

/-- The rounding of a static mode or of frm: to nearest even, toward zero, down, up, to nearest with ties away; none for the
reserved modes. -/
def rmRnd : Nat → Option Rnd
  | 0 => some rne
  | 1 => some ⟨1, false, 0⟩
  | 2 => some ⟨3, false, 0⟩
  | 3 => some ⟨2, false, 0⟩
  | 4 => some ⟨4, false, (2 ^ 23 - 1) * 2 ^ 40⟩
  | _ => none

/-- fflags bits: NV, DZ. -/
def fflagNv : Nat := 16
/-- fflags bit DZ. -/
def fflagDz : Nat := 8

/-- Whether an encoding is a signaling NaN. -/
def Fmt.signaling (f : Fmt) (n : Nat) : Bool := f.decode n == .nan && !bit n (f.m - 1)

/-- The exact result rounded and encoded, with fflags: `fl` and what the rounding raises (OF, UF, NX). Subnormals stay, a NaN is
the canonical one. -/
def fpRound (f : Fmt) (r : Rnd) (v : FV) (fl : Nat) : Nat × Nat :=
  let x := roundToFp f r v
  let e := if x.flags = fOverflow then 5 else if x.flags = fUnderflow then 3 else if v.isFin && !FV.eq x.val v then 1 else 0
  (f.encode x.val, fl ||| e)

/-- A floating-point operation on encodings: the result's encoding and fflags. -/
def fpArith (f : Fmt) (r : Rnd) (op : FpOp) (a b c : Nat) : Nat × Nat :=
  let x := f.decode a
  let y := f.decode b
  let nv := fun (l : List Nat) (raised : Nat) => if l.any f.signaling || bit raised 3 then fflagNv else 0
  let two := fun (o : Op) => fpRound f r o.1 (nv [a, b] o.2)
  match op with
  | .add => two (FV.add r.mode x y)
  | .sub => two (FV.add r.mode x y.negate)
  | .mul => two (FV.mul x y)
  | .div =>
    let o := FV.div x y
    fpRound f r o.1 (nv [a, b] o.2 ||| (if y.isZero && x.isFin && !x.isZero then fflagDz else 0))
  | .sqrt => let o := FV.sqrt x; fpRound f r o.1 (nv [a] o.2)
  | .min => (f.encode (FV.minNum x y), nv [a, b] 0)
  | .max => (f.encode (FV.maxNum x y), nv [a, b] 0)
  | .fma np na =>
    let z := f.decode c
    let p := if np then x.negate else x
    let o := FV.fma r.mode p y (if na then z.negate else z)
    fpRound f r o.1 (nv [a, b, c] (o.2 ||| (FV.mul p y).2))

/-- Conversion to a signed or unsigned integer of `w` bits: out of range, the nearest bound and NV; a NaN as the upper bound. -/
def fpToInt (r : Rnd) (signed : Bool) (w : Nat) (v : FV) : Int × Nat :=
  let lo : Int := if signed then -(2 ^ (w - 1) : Nat) else 0
  let hi : Int := ((if signed then 2 ^ (w - 1) else 2 ^ w) : Nat) - 1
  match v with
  | .nan => (hi, fflagNv)
  | .inf neg => (if neg then lo else hi, fflagNv)
  | .fin neg q e =>
    let (n, inexact) := roundInt r neg q e 0
    let i : Int := if neg then -(n : Int) else n
    if i < lo then (lo, fflagNv) else if hi < i then (hi, fflagNv) else (i, if inexact then 1 else 0)

/-! ## Registers of the hart -/

/-- sstatus.FS or VS is not Off. -/
def AcState.fpOn (a : AcState) : Bool := bits (a.csrGet 0x100) 14 13 != 0
/-- The vector unit is on. -/
def AcState.vecOn (a : AcState) : Bool := bits (a.csrGet 0x100) 10 9 != 0

/-- A floating-point register in a format; a value that is not NaN-boxed is the canonical NaN. -/
def AcState.fGet (a : AcState) (t : HartFmt) (n : Nat) : Nat :=
  let v := tabGet 0 a.f n
  let w := (hartFmt t).width
  if v / 2 ^ w = 2 ^ (64 - w) - 1 then v % 2 ^ w else (hartFmt t).nanBits

/-- Write a floating-point register, NaN-boxed. -/
def AcState.fSet (a : AcState) (t : HartFmt) (n v : Nat) : AcState :=
  let w := (hartFmt t).width
  { a with f := tabSet 0 a.f n (v % 2 ^ w + (2 ^ 64 - 2 ^ w)) }

/-- Accrue fflags; the floating-point state is dirty. -/
def AcState.accrue (a : AcState) (fl : Nat) : AcState :=
  (a.csrSet 3 (a.csrGet 3 ||| fl)).csrSet 0x100 (a.csrGet 0x100 ||| 0x6000)

/-- The rounding that a static mode field asks for: 7 is frm. -/
def AcState.rnd (a : AcState) (rm : Nat) : Option Rnd := rmRnd (if rm = 7 then bits (a.csrGet 3) 7 5 else rm)

/-- A vector register, 512 bits (R137). -/
def AcState.vGet (a : AcState) (n : Nat) : Nat := tabGet 0 a.v n

/-- SEW of vtype. -/
def AcState.sew (a : AcState) : Nat := 8 * 2 ^ bits (a.csrGet 0xC21) 5 3

/-- Registers of a group under vtype. -/
def AcState.group (a : AcState) : Nat := if bits (a.csrGet 0xC21) 2 0 < 4 then 2 ^ bits (a.csrGet 0xC21) 2 0 else 1

/-- Element `i` of `w` bits of the group at register `n`. -/
def AcState.elem (a : AcState) (n w i : Nat) : Nat := a.vGet (n + i * w / 512) / 2 ^ (i * w % 512) % 2 ^ w

/-- Write an element; the vector state is dirty. -/
def AcState.elemSet (a : AcState) (n w i v : Nat) : AcState :=
  let r := n + i * w / 512
  let lo := i * w % 512
  ({ a with v := tabSet 0 a.v r (putBits (a.vGet r) (lo + w - 1) lo v) }).csrSet 0x100 (a.csrGet 0x100 ||| 0x600)

/-- Whether element `i` is active under the mask in v0. -/
def AcState.active (a : AcState) (masked : Bool) (i : Nat) : Bool := !masked || bit (a.vGet 0) i

/-- The element format that a vector floating-point instruction works in. -/
def AcState.vfmt (a : AcState) : Option HartFmt :=
  if !a.fpOn || !a.vecOn || bit (a.csrGet 0xC21) 63 then none
  else if a.sew = 32 then some .single else if a.sew = 64 then some .double else none

/-! ## Instructions. None: an illegal instruction -/

/-- A scalar operation. -/
def AcState.fpStep (a : AcState) (op : FpOp) (t : HartFmt) (rm rd rs1 rs2 rs3 : Nat) : Option AcState :=
  if !a.fpOn || t == .half then none
  else (a.rnd rm).map (fun r =>
    let v := fpArith (hartFmt t) r op (a.fGet t rs1) (a.fGet t rs2) (a.fGet t rs3)
    (a.fSet t rd v.1).accrue v.2)

/-- A conversion between formats. -/
def AcState.fcvtStep (a : AcState) (dst src : HartFmt) (rm rd rs1 : Nat) : Option AcState :=
  if !a.fpOn || dst == src then none
  else (a.rnd rm).map (fun r =>
    let b := a.fGet src rs1
    let v := fpRound (hartFmt dst) r ((hartFmt src).decode b) (if (hartFmt src).signaling b then fflagNv else 0)
    (a.fSet dst rd v.1).accrue v.2)

/-- A conversion to an integer register, a 32-bit result sign-extended. -/
def AcState.toIntStep (a : AcState) (src : HartFmt) (signed long : Bool) (rm rd rs1 : Nat) : Option AcState :=
  if !a.fpOn || src == .half then none
  else (a.rnd rm).map (fun r =>
    let w := if long then 64 else 32
    let v := fpToInt r signed w ((hartFmt src).decode (a.fGet src rs1))
    (a.xSet rd (ofInt 64 (toInt w (ofInt w v.1)))).accrue v.2)

/-- A conversion from an integer register. -/
def AcState.fromIntStep (a : AcState) (dst : HartFmt) (signed long : Bool) (rm rd rs1 : Nat) : Option AcState :=
  if !a.fpOn || dst == .half then none
  else (a.rnd rm).map (fun r =>
    let w := if long then 64 else 32
    let n := a.xGet rs1 % 2 ^ w
    let i : Int := if signed then toInt w n else n
    let v := fpRound (hartFmt dst) r (.fin (decide (i < 0)) i.natAbs 0) 0
    (a.fSet dst rd v.1).accrue v.2)

/-- A comparison. -/
def AcState.fcmpStep (a : AcState) (op : FpCmp) (t : HartFmt) (rd rs1 rs2 : Nat) : Option AcState :=
  if !a.fpOn || t == .half then none
  else
    let p := a.fGet t rs1
    let q := a.fGet t rs2
    let x := (hartFmt t).decode p
    let y := (hartFmt t).decode q
    let nan := x == .nan || y == .nan
    let res := match op with
      | .eq => FV.eq x y
      | .lt => FV.lt x y
      | .le => FV.lt x y || FV.eq x y
    let nv := (hartFmt t).signaling p || (hartFmt t).signaling q || (nan && op != .eq)
    some ((a.xSet rd (if res then 1 else 0)).accrue (if nv then fflagNv else 0))

/-- An elementwise vector operation: tail and inactive elements keep their values.
Log entry 203 (PRESUMED). -/
def AcState.vfpStep (a : AcState) (op : FpOp) (vd vs2 vs1 : Nat) (rs : Option (Fin 32)) (rev onto masked : Bool) :
    Option AcState :=
  match a.vfmt, a.rnd 7 with
  | some t, some r =>
    let g := a.group
    if vd % g ≠ 0 ∨ vs2 % g ≠ 0 ∨ (rs = none ∧ vs1 % g ≠ 0) ∨ (masked ∧ vd = 0) then none
    else
      let w := (hartFmt t).width
      let b := (List.range (a.csrGet 0xC20)).foldl (fun b i =>
        if i < a.csrGet 8 ∨ !a.active masked i then b
        else
          let p := a.elem vs2 w i
          let q := match rs with | some f => a.fGet t f | none => a.elem vs1 w i
          let z := a.elem vd w i
          let (p, z) := if onto then (p, z) else (z, p)
          let v := match op with
            | .fma _ _ => fpArith (hartFmt t) r op p q z
            | _ => if rev then fpArith (hartFmt t) r op q (a.elem vs2 w i) 0 else fpArith (hartFmt t) r op (a.elem vs2 w i) q 0
          (b.elemSet vd w i v.1).accrue v.2) a
      some (b.csrSet 8 0)
  | _, _ => none

/-- A vector sum: the scalar in element 0 of vs1, then the active elements of vs2 in order, each addition rounded. The unordered
forms return exactly the result of the ordered ones (R149). -/
def AcState.vfredStep (a : AcState) (widen : Bool) (vd vs2 vs1 : Nat) (masked : Bool) : Option AcState :=
  match a.vfmt, a.rnd 7 with
  | some t, some r =>
    if a.csrGet 8 ≠ 0 ∨ vs2 % a.group ≠ 0 ∨ (widen ∧ t = .double) then none
    else if a.csrGet 0xC20 = 0 then some a
    else
      let u : HartFmt := if widen then .double else t
      let w := (hartFmt u).width
      let v := (List.range (a.csrGet 0xC20)).foldl (fun (v : Nat × Nat) i =>
        if !a.active masked i then v
        else
          let e := a.elem vs2 (hartFmt t).width i
          let e' := if widen then fpRound (hartFmt u) r ((hartFmt t).decode e) (if (hartFmt t).signaling e then fflagNv else 0) else (e, 0)
          let x := fpArith (hartFmt u) r .add v.1 e'.1 0
          (x.1, v.2 ||| e'.2 ||| x.2)) (a.elem vs1 w 0, 0)
      some ((a.elemSet vd w 0 v.1).accrue v.2)
  | _, _ => none

/-- vsetvl and its kin: vl is the smaller of AVL (kept where none is given) and VLMAX; an unsupported vtype sets vill.
Log entry 203 (PRESUMED). -/
def AcState.vsetStep (a : AcState) (rd : Nat) (avl : Option Nat) (vtype : Nat) : Option AcState :=
  if !a.vecOn then none
  else
    let sew := bits vtype 5 3
    let mul := bits vtype 2 0
    let max := if mul < 4 then 64 * 2 ^ mul / 2 ^ sew else 64 / 2 ^ (8 - mul) / 2 ^ sew
    let bad := decide (255 < vtype) || decide (3 < sew) || mul == 4 || max == 0
    let vl := if bad then 0 else min (avl.getD (a.csrGet 0xC20)) max
    some ((((a.csrSet 0xC21 (if bad then 2 ^ 63 else vtype)).csrSet 0xC20 vl).csrSet 8 0).xSet rd vl)

/-! ## CSRs -/

/-- misa: RV64 with A, B, C, D, F, I, M, S, U and V; H reads 0 (R138). -/
def acMisa : Nat := 2 ^ 63 + 0x34112F

/-- Whether the mode may reach a CSR number's privilege level. -/
def privReaches (p : Priv) (n : Nat) : Bool :=
  match p with
  | .machine => true
  | .supervisor => decide (bits n 9 8 < 2)
  | .user => bits n 9 8 == 0

/-- A CSR as it reads. None: an illegal instruction, as for every hypervisor CSR (R138).
Log entry 203 (PRESUMED). -/
def State.csrRead (s : State) (x : AcCore) (n : Nat) : Option Nat :=
  let a := s.acGet x.ix
  let counter := fun (i v : Nat) => if a.mode = .user ∧ !bit (a.csrGet 0x106) i then none else some v
  if !privReaches a.mode n then none
  else if n = 1 ∨ n = 2 ∨ n = 3 then
    (if !a.fpOn then none else some (if n = 1 then a.csrGet 3 % 32 else if n = 2 then bits (a.csrGet 3) 7 5 else a.csrGet 3))
  else if n = 8 ∨ n = 9 ∨ n = 0xA ∨ n = 0xF ∨ n = 0xC20 ∨ n = 0xC21 ∨ n = 0xC22 then
    (if !a.vecOn then none
     else some (if n = 9 then a.csrGet 0xF % 2 else if n = 0xA then bits (a.csrGet 0xF) 2 1 else if n = 0xC22 then 64 else a.csrGet n))
  else if n = 0x100 then
    some (a.csrGet 0x100 + 2 * 2 ^ 32 +
      (if bits (a.csrGet 0x100) 14 13 = 3 ∨ bits (a.csrGet 0x100) 10 9 = 3 then 2 ^ 63 else 0))
  else if n = 0x144 then some (s.acSip x)
  else if n = 0x14D then some a.stimecmp
  else if [0x104, 0x105, 0x106, 0x10A, 0x140, 0x141, 0x142, 0x143, 0x180].contains n then some (a.csrGet n)
  else if n = 0xC00 then counter 0 (s.acCycles x)
  else if n = 0xC01 then counter 1 (s.timeNs % 2 ^ 64)
  else if n = 0xC02 then counter 2 (s.reg64 (x.reg 0x408))
  else if 0xC03 ≤ n ∧ n ≤ 0xC1F then counter (n - 0xC00) 0
  else if n = 0xDA0 then some 0
  else if n = 0x301 then some acMisa
  else none

/-- A write of a CSR that csrRead reaches: writable fields alone. None: a read-only CSR.
Log entry 203 (PRESUMED). -/
def AcState.csrWrite (a : AcState) (n v : Nat) : Option AcState :=
  let fp := fun (c : Nat) => (a.csrSet 3 c).csrSet 0x100 (a.csrGet 0x100 ||| 0x6000)
  let vec := fun (m c : Nat) => (a.csrSet m c).csrSet 0x100 (a.csrGet 0x100 ||| 0x600)
  if bits n 11 10 = 3 then none
  else some (
    if n = 1 then fp (putBits (a.csrGet 3) 4 0 v)
    else if n = 2 then fp (putBits (a.csrGet 3) 7 5 v)
    else if n = 3 then fp (v % 256)
    else if n = 8 then vec 8 (v % 512)
    else if n = 9 then vec 0xF (putBits (a.csrGet 0xF) 0 0 v)
    else if n = 0xA then vec 0xF (putBits (a.csrGet 0xF) 2 1 v)
    else if n = 0xF then vec 0xF (v % 8)
    else if n = 0x100 then a.csrSet n (v &&& 0xC6722)
    else if n = 0x104 then a.csrSet n (v &&& 0x222)
    else if n = 0x144 then a.csrSet n (v &&& 2)
    else if n = 0x105 then a.csrSet n (v / 4 * 4 + v % 2)
    else if n = 0x106 then a.csrSet n (v % 2 ^ 32)
    else if n = 0x10A then a.csrSet n (v &&& 0xF1)
    else if n = 0x141 then a.csrSet n (v / 2 * 2)
    else if n = 0x180 then (if v / 2 ^ 60 = 0 ∨ v / 2 ^ 60 = 8 then a.csrSet n v else a)
    else if n = 0x14D then { a with stimecmp := v }
    else if n = 0x140 ∨ n = 0x142 ∨ n = 0x143 then a.csrSet n v
    else a)

/-- A CSR instruction: the old value to rd, the combined value to the CSR. -/
def State.csrStep (s : State) (x : AcCore) (how : CsrHow) (n rd : Nat) (val : Option Nat) : Option AcState :=
  match s.csrRead x n, val with
  | none, _ => none
  | some old, none => some ((s.acGet x.ix).xSet rd old)
  | some old, some v =>
    let new := match how with
      | .write => v
      | .set => old ||| v
      | .clear => old &&& (2 ^ 64 - 1 - v)
    ((s.acGet x.ix).csrWrite n new).map (fun a => a.xSet rd old)

/-- SRET: mode, SIE and SPIE from sstatus, the pc from sepc; illegal in U-mode. -/
def AcState.sretStep (a : AcState) : Option AcState :=
  let st := a.csrGet 0x100
  if a.mode = .user then none
  else some { (a.csrSet 0x100 (putBits (putBits (putBits st 1 1 (bits st 5 5)) 5 5 1) 8 8 0)) with
    mode := if bit st 8 then .supervisor else .user, pc := a.csrGet 0x141 }

/-! ## Execution -/

/-- The hart after an instruction that completes. None: an illegal instruction.
Log entry 61 (DESIGN CHOICE). -/
def State.hartStep (s : State) (x : AcCore) (op : HartOp) : Option AcState :=
  let a := s.acGet x.ix
  let seq := fun (r : Option AcState) => r.map (fun b => { b with pc := (a.pc + 4) % 2 ^ 64 })
  match op with
  | .fp op t rm rd rs1 rs2 rs3 => seq (a.fpStep op t rm rd rs1 rs2 rs3)
  | .fcvt dst src rm rd rs1 => seq (a.fcvtStep dst src rm rd rs1)
  | .fcvtToInt src sg lg rm rd rs1 => seq (a.toIntStep src sg lg rm rd rs1)
  | .fcvtFromInt dst sg lg rm rd rs1 => seq (a.fromIntStep dst sg lg rm rd rs1)
  | .fcmp op t rd rs1 rs2 => seq (a.fcmpStep op t rd rs1 rs2)
  | .vfp op vd vs2 vs1 rs rev onto m => seq (a.vfpStep op vd vs2 vs1 rs rev onto m)
  | .vfred widen _ vd vs2 vs1 m => seq (a.vfredStep widen vd vs2 vs1 m)
  | .vset rd avl vt => seq (a.vsetStep rd avl vt)
  | .csr how n rd val => seq (s.csrStep x how n rd val)
  | .wfi => if a.mode = .user then none else seq (some a)
  | .sret => a.sretStep
  | .retire pc xs fs vs =>
    let a := xs.foldl (fun a e => a.xSet e.1 e.2) a
    let a := fs.foldl (fun (a : AcState) e => { a with f := tabSet 0 a.f e.1 (e.2 % 2 ^ 64) }) a
    let a := vs.foldl (fun (a : AcState) e => { a with v := tabSet 0 a.v e.1 (e.2 % 2 ^ 512) }) a
    some { a with pc := pc }
  | .ecall | .hyper | .trap _ _ => none

/-- An instruction of the hart: it completes and counts in AC_INSTRET, or traps. An environment call from S-mode that is none of
the three services is an exception that S-mode cannot take (R138, R150).
Log entries 61 (DESIGN CHOICE), 62 (DESIGN CHOICE). -/
def State.hartOp (s : State) (x : AcCore) (op : HartOp) : State :=
  match op, s.hartStep x op with
  | .trap cause tval, _ => s.acTrap x cause tval
  | .ecall, _ => if (s.acGet x.ix).mode = .user then s.acTrap x 8 0 else s.acStop x
  | _, none => s.acTrap x 2 0
  | op, some a =>
    let s := (s.acSet x.ix a).bump64By (x.reg 0x408) 1
    if op = .wfi ∧ s.acSip x &&& a.csrGet 0x104 = 0 then s.setRbit (x.reg 0x8) 0 true else s

end Sys2Proof.Machine
end

