-- ==== Sys2Proof/Machine/Start.lean ====
section
/-!
DEFINITION. Start-up (R362–R368): firmware verification, memory training, the standing configuration, the standing workload,
and the start of pipelines.
-/
namespace Sys2Proof.Machine

/-- Whether start-up proceeds: the module is neither dark nor held in reset, and no recovery responder runs. -/
def State.starting (s : State) : Bool := !s.start.dark && !s.start.held && !s.start.recovery

/-- Whether a start-up step has ended. -/
def State.stepDone? (s : State) (k : Nat) : Bool := s.start.ended.contains k

/-- A failure of start-up, by its FAILED bit (R365). -/
def State.startFailed (s : State) (b : Nat) : State := s.setRbit (modA 0x200) (16 + b) true

/-! ## Step 1: firmware (R362, R376) -/

/-- The active bank. -/
def State.activeBank (s : State) : Nat := s.fld (updA 8) 31 31
/-- State of a bank: 0 EMPTY, 1 WRITING, 2 STAGED, 3 TRIAL, 4 GOOD, 5 BAD, 6 STALE. -/
def State.bankState (s : State) (b : Nat) : Nat := s.fld (updA 8) (8 * b + 7) (8 * b)
/-- Set the state of a bank. -/
def State.setBank (s : State) (b v : Nat) : State := s.setFld (updA 8) (8 * b + 7) (8 * b) v
/-- The components of a bank.
Log entry 8 (DESIGN CHOICE). -/
def State.bank (s : State) (b : Nat) : List Comp := tabGet [] s.upd.banks b

/-- The bank that step 1 runs, the active one where it verifies: with the switch to the other bank recorded; none where no bank
verifies.
Log entry 153 (DEDUCED). -/
def State.chooseBank (s : State) (ok : Nat → Bool) : State × Option Nat :=
  let a := s.activeBank
  let b := 1 - a
  if (s.bankState a = 3 ∨ s.bankState a = 4) ∧ ok a then (s, some a)
  else
    let s := s.setBank a 5
    if s.bankState b = 4 ∧ ok b then
      let s := ((s.setFld (updA 8) 31 31 b).bump (updA 0x50)).startFailed 5
      (s.presentHub 0x19 10 (hubId 0) 5 0 0, some b)
    else (s, none)

/-- The newest counter snapshot whose CRC verifies. -/
def State.goodSnapshot (s : State) : Option (List Byte) :=
  s.nvs.snapshots.reverse.find? (fun b => crc32c (slice b 0x40 65472) == fieldLe b 0x28 4)

/-- A counter's value in a snapshot: the `n`-th entry with an address (RECOV_C and RECOV_U share one). -/
def snapshotValue (b : List Byte) (a n : Nat) : Nat :=
  let es := (List.range (fieldLe b 0x20 4)).filter (fun i => fieldLe b (0x1040 + 16 * i) 8 == a)
  match es[n]? with
  | some i => fieldLe b (0x1048 + 16 * i) 8
  | none => 0

/-- The lifetime counters are restored (R396). -/
def State.restoreCounters (s : State) : State :=
  match s.goodSnapshot with
  | none => s
  | some b =>
    let s := (s.setFld (srlA 0x38) 15 0 (snapshotValue b (srlA 0x38) 0)).setFld (srlA 0x38) 31 16 (snapshotValue b (srlA 0x38) 1)
    (s.setFld (srlA 0x3C) 15 0 (snapshotValue b (srlA 0x3C) 0)).setReg64 (srlA 0xA0) (snapshotValue b (srlA 0xA0) 0)

/-- UPD_VERSION of the components that run. -/
def State.showVersions (s : State) : State :=
  (List.range 7).foldl (fun s i => match s.upd.active[i]? with | some c => s.setReg (updA (0x100 + 4 * i)) c.version | none => s) s

/-- The firmware of a bank starts: management cores, Thyme, Sage, microcode.
Log entry 145 (DEDUCED). -/
def State.firmwareStart (s : State) (b : Nat) : State :=
  let trial := s.bankState b == 3
  let s := { s with
    upd := { s.upd with active := s.bank b, trialFrom := if trial then some s.cycle else none }
    host := { s.host with mctp := true } }
  let s := s.showVersions.restoreCounters
  let s := if trial then s.setFld (updA 0) 31 28 6
    else if s.bankState (1 - b) = 2 then
      let s := { s with upd := { s.upd with stagedId := s.upd.bankId, stagedKind := 0, stagedComps := s.upd.bankComps } }
      (s.setFld (updA 0) 31 28 3).setRegWords (updA 0x20) 4 s.upd.bankId
    else s
  let s := (s.wdogKick 0).wdogKick 1
  s.stepEnd 1

/-- FIRMWARE_VERIFY_DONE (R362, R333, R376): `ok0` and `ok1` say whether the banks verify, `identityOk` whether the derived
identity is the certified one.
Log entry 154 (DESIGN CHOICE). -/
def execFirmwareVerifyDone (ok0 ok1 identityOk : Bool) (s : State) : Host.Outcome State Fault Refusal :=
  if !s.starting ∨ s.stepDone? 1 then .next s
  else
    let s := s.setRbit (nvsA 4) 28 (s.rbit (nvsA 4) 28 || s.nvs.newest.isNone)
    let s := s.bump (sgeA 0x18)
    let s := if identityOk then s.setFld (sgeA 0) 31 28 1
      else ({ s with sage := { s.sage with identityBad := true } }.setFld (sgeA 0) 31 28 2).presentHub 0x20 10 sageId 5 0 0
    match s.chooseBank (fun b => if b = 0 then ok0 else ok1) with
    | (s, some b) => .next (s.firmwareStart b).rbAll
    | (s, none) =>
      .next (({ s with start := { s.start with recovery := true } }.setFld (modA 0x200) 31 28 15).rbAll)

/-! ## Step 2: memories (R24, R25, R362) -/

/-- Whether every stack is ready or fenced. -/
def State.hbmSettled (s : State) : Bool := (List.range 8).all (fun k => s.rbit (modA 0x100) k || s.stackFenced k)

/-- Step 2 ends once every tier has been trained or has failed, and NAND is ready.
Log entry 145 (DEDUCED). -/
def State.memStep (s : State) : State :=
  if s.stepDone? 1 && s.hbmSettled && (s.rbit (modA 0x100) 16 || s.rbit (modA 0x200) 16) && s.rbit (modA 0x100) 17 then s.stepEnd 2 else s

/-- HBM_TRAINING_DONE (R24, R25): the stack is ready, or fails training and is fenced.
Log entry 209 (DEDUCED). -/
def execHbmTrainingDone (k : Fin 8) (ok : Bool) (s : State) : Host.Outcome State Fault Refusal :=
  if !s.starting ∨ !s.stepDone? 1 ∨ s.rbit (modA 0x100) k ∨ s.stackFenced k then .next s
  else .next (if ok then (s.validCode (k * 0xC00000000) 0xC00000000).setRbit (modA 0x100) k true else s.fenceUnit (0x4000 + k)).memStep

/-- LPDDR5X has failed: the log regions are absent, and tenant 0 waits for no LPDDR5X region (R365).
Log entry 147 (DEDUCED). -/
def State.lpFailed (s : State) : State :=
  let s := { s with log := { s.log with regions := [] } }
  let x := s.tenant 0
  if x.state = .opening then (s.setTenant 0 { x with lp := 0 }).takeRegions 0 (x.regions + 1) else s

/-- LPDDR_TRAINING_DONE (R24, R365).
Log entry 209 (DEDUCED). -/
def execLpddrTrainingDone (ok : Bool) (s : State) : Host.Outcome State Fault Refusal :=
  if !s.starting ∨ !s.stepDone? 1 ∨ s.rbit (modA 0x100) 16 ∨ s.rbit (modA 0x200) 16 then .next s
  else .next (if ok then (s.validCode 0x10000000000 0x8000000000).setRbit (modA 0x100) 16 true else (s.startFailed 0).lpFailed).memStep

/-- NAND_READY (R363). -/
def execNandReady (s : State) : Host.Outcome State Fault Refusal :=
  if !s.starting ∨ !s.stepDone? 1 then .next s else .next (s.setRbit (modA 0x100) 17 true).memStep

/-! ## Step 3: the standing configuration (R364–R368) -/

/-- A section of a configuration: TYPE, COUNT, OFFSET, SIZE. -/
structure CfgSec where
  typ : Nat
  count : Nat
  off : Nat
  size : Nat
  deriving DecidableEq, Repr

/-- The section table. -/
def cfgTable (b : List Byte) : List CfgSec :=
  (List.range (fieldLe b 6 2)).map (fun i =>
    ⟨fieldLe b (0x100 + 16 * i) 2, fieldLe b (0x102 + 16 * i) 2, fieldLe b (0x108 + 16 * i) 4, fieldLe b (0x10C + 16 * i) 4⟩)

/-- The section of a type. -/
def cfgSec (b : List Byte) (t : Nat) : CfgSec := ((cfgTable b).find? (·.typ == t)).getD ⟨t, 0, 0, 0⟩

/-- Entry `i` of a section whose entries have `n` bytes. -/
def cfgEntry (b : List Byte) (x : CfgSec) (n i : Nat) : List Byte := slice b (x.off + n * i) n

/-- Whether all bytes of a range are 0. -/
def zeroIn (b : List Byte) (off n : Nat) : Bool := (slice b off n).all (· == 0)

/-- Flow entries of the FP1 section: `COUNT` entries of 72 and 24 bytes fill SIZE, flows first. -/
def cfgFlows (x : CfgSec) : Nat := (x.size - 24 * x.count) / 48

/-- Whether a section meets the table of R367.
Log entry 146 (DEDUCED). -/
def cfgSecOk (b : List Byte) (x : CfgSec) : Bool :=
  let each := fun n (p : List Byte → Bool) => x.size == n * x.count && (List.range x.count).all (fun i => p (cfgEntry b x n i))
  let inside := fun off size => decide (off + size ≤ fieldLe b 8 8)
  if x.typ = 1 then
    let a := (List.range 3).map (fun i => (fieldLe (cfgEntry b x 16 i) 0 4, fieldLe (cfgEntry b x 16 i) 4 4))
    x.count == 3 && each 16 (fun e => zeroIn e 8 8 && decide (fieldLe e 0 4 + fieldLe e 4 4 ≤ 536870912)) && !anyMeet a &&
    decide ((a.map (·.2)).foldl (· + ·) 0 ≤ 536870912)
  else if x.typ = 2 then x.count == 1 && x.size == 8
  else if x.typ = 3 then each 16 (fun e => inside (fieldLe e 0 8) (fieldLe e 8 8))
  else if x.typ = 4 then each 32 (fun e => zeroIn e 4 4 && zeroIn e 24 8)
  else if x.typ = 5 then each 9011 (fun _ => true)
  else if x.typ = 6 then each 256 (fun e => decide (fieldLe e 0xF0 1 < 2) && decide (fieldLe e 0xF1 1 < 128) && zeroIn e 0xF2 14)
  else if x.typ = 7 then
    each 136 (fun e => decide (fieldLe e 0 1 < 2) && decide (fieldLe e 1 1 < (if fieldLe e 0 1 = 0 then 128 else 64)) && zeroIn e 2 6)
  else if x.typ = 8 then
    let f := cfgFlows x
    decide (24 * x.count ≤ x.size) && (x.size - 24 * x.count) % 48 == 0 && decide (f ≤ x.count) &&
    (List.range f).all (fun i => decide (fieldLe (cfgEntry b x 72 i) 0 1 < 64) && zeroIn (cfgEntry b x 72 i) 1 7) &&
    (List.range (x.count - f)).all (fun i =>
      decide (fieldLe b (x.off + 72 * f + 24 * i) 1 < 16) && zeroIn b (x.off + 72 * f + 24 * i + 1) 7)
  else if x.typ = 9 then decide (16 ≤ x.size) && (x.size - 16) % 64 == 0 && zeroIn b (x.off + 12) 4
  else if x.typ = 10 then
    each 80 (fun e => (fieldLe e 0 1 == 1 && zeroIn e 1 15) || (fieldLe e 0 1 == 2 && decide (fieldLe e 1 1 < 32) && decide (fieldLe e 2 1 < 2) && zeroIn e 15 65))
  else false

/-- Whether a configuration meets R366 and the rest of R367. -/
def cfgOk (b : List Byte) : Bool :=
  let n := fieldLe b 6 2
  let tab := cfgTable b
  slice b 0 4 == ascii "YSC1" && fieldLe b 4 2 == 1 && decide (1 ≤ n) && decide (n ≤ 64) && decide (fieldLe b 8 8 ≤ 125829120) &&
  decide (fieldLe b 8 8 ≤ b.length) && zeroIn b 0x14 4 && zeroIn b 0x2A 6 && zeroIn b 0x60 160 &&
  (List.range n).all (fun i => zeroIn b (0x104 + 16 * i) 4) &&
  tab.all (fun x => x.off % 32 == 0 && decide (x.off + x.size ≤ fieldLe b 8 8) && cfgSecOk b x) &&
  !anyMeet ((0, 256 + 16 * n) :: tab.map (fun x => (x.off, x.size))) &&
  (List.range n).all (fun i => (List.range i).all (fun j => (tab.map (·.typ)).getD i 0 != (tab.map (·.typ)).getD j 0))

/-- The configuration copy `k` where step 3 accepts it; `tagsOk` says whether its decryption tags verify. -/
def State.cfgCopy (s : State) (k : Nat) (tagsOk : Bool) : Option (List Byte) :=
  let b := tabGet [] s.upd.copies k
  if tagsOk && decide (0 < b.length) && sha3_384 b == tabGet [] s.upd.sums k && cfgOk b then some b else none

/-- What step 3 takes from the configuration.
Log entry 146 (DEDUCED). -/
def State.cfgTake (s : State) (b : List Byte) : State :=
  let area := fun i => (fieldLe (cfgEntry b (cfgSec b 1) 16 i) 0 4, fieldLe (cfgEntry b (cfgSec b 1) 16 i) 4 4)
  let have1 := decide (0 < (cfgSec b 1).count)
  let cams := cfgSec b 6
  let s := s.setRegWords (sgeT 0 0x20) 12 (fieldLe b 0x30 48)
  { s with
    nandModel := if have1 then [area 0] else []
    nandScratch := if have1 then area 2 else (0, 0)
    log := { s.log with nandFirst := if have1 then (area 1).1 else 0, nandExtents := if have1 then (area 1).2 / 512 else 0 }
    sage := { s.sage with standing := b, policy0 := fieldLe b 0x28 2
                          storeKeys := tabSet 0 s.sage.storeKeys 0 (2 ^ 256 + fieldLe b 0x18 16) }
    video := { s.video with cams := (List.range cams.count).map (cfgEntry b cams 256)
                            ip4 := (Config.fp0Address b).1
                            ip6 := (Config.fp0Address b).2 } }

/-- CONFIG_READ_DONE (R364–R367): step 3 ends; `tags0` and `tags1` say whether the copies' decryption tags verify.
Log entry 154 (DESIGN CHOICE). -/
def execConfigReadDone (tags0 tags1 : Bool) (s : State) : Host.Outcome State Fault Refusal :=
  if !s.starting ∨ !s.stepDone? 1 ∨ s.stepDone? 3 then .next s
  else
    let a := s.fld (updA 8) 16 16
    let tags := fun k => if k = 0 then tags0 else tags1
    let s := match s.cfgCopy a (tags a) with
      | some b => s.cfgTake b
      | none =>
        let s := (s.startFailed 1).presentHub 0x18 10 (hubId 0) 5 0 0
        match s.cfgCopy (1 - a) (tags (1 - a)) with
        | some b => s.cfgTake b
        | none => s
    let s := { s with start := { s.start with step3At := s.cycle } }
    .next (((s.stepEnd 3).thyRestart).phaseStep).ringJoin

/-! ## Step 4: the standing workload (R362, R365) -/

/-- An image or package of the configuration that does not load. -/
def State.loadFailed (s : State) : State := (s.startFailed 2).presentHub 0x18 10 (hubId 0) 5 0 0

/-- Tenant 0 is activated from its stored entry. -/
def State.activate0 (s : State) : State :=
  let s := if s.rbit (modA 0x200) 16 then s.setFld (tenA 0 0xC) 18 0 0 else s
  let err := s.activateErr 0 true
  let s := s.activate 0 true
  if err = 0 then { s with start := { s.start with stage := 1 } }
  else
    let s := (s.startFailed 1).presentHub 0x18 10 tenancyId 5 0 0
    { s with start := { s.start with stage := 3 } }.stepEnd 4

/-- The crates and images of the configuration, once tenant 0's HBM regions are taken. -/
def State.loadStanding (s : State) : State :=
  let b := s.sage.standing
  let cr := cfgSec b 5
  let im := cfgSec b 3
  let wp := cfgSec b 4
  let s := (List.range cr.count).foldl (fun s i => (s.putCrate (cfgEntry b cr 9011 i)).1) s
  let s := (List.range im.count).foldl (fun s i =>
    let e := cfgEntry b im 16 i
    let (s, st, _, h) := s.imgLoad 0 (slice b (fieldLe e 0 8) (fieldLe e 8 8))
    let s := if st = 0 then s else s.loadFailed
    { s with start := { s.start with handles := s.start.handles ++ [if st = 0 then h else 0] } }) s
  let ps := (List.range wp.count).map (fun i =>
    let e := cfgEntry b wp 32 i
    (fieldLe e 0 4, fieldLe e 8 8, fieldLe e 16 8))
  { s with start := { s.start with stage := 2, packages := ps } }

/-- The next weight packages until one of them loads; step 4 ends when none is left. -/
def State.loadPackages (s : State) (bad : List Nat) : Nat → State
  | 0 => s
  | n + 1 =>
    if s.start.loading then s
    else
      match s.start.packages with
      | [] => { s with start := { s.start with stage := 3 } }.stepEnd 4
      | (first, size, off) :: l =>
        let s := { s with start := { s.start with packages := l } }
        match s.wStart none 0 1 first size off bad with
        | (s, .inl w) =>
          { s with start := { s.start with loading := true }, sage := { s.sage with loads := s.sage.loads ++ [w] } }
        | (s, .inr _) => State.loadPackages s.loadFailed bad n

/-- STANDING_LOAD (R362): step 4, as far as it can go: tenant 0's activation, its images once its HBM regions are taken, its
packages one after the other (each block by WEIGHT_BLOCK_LOAD). `bad` lists NAND blocks whose decode fails.
Log entry 145 (DEDUCED). -/
def execStandingLoad (bad : List Nat) (s : State) : Host.Outcome State Fault Refusal :=
  if !s.starting ∨ !s.stepDone? 3 ∨ !s.hbmSettled ∨ !s.rbit (modA 0x100) 17 ∨ s.start.stage = 3 then .next s
  else
    let s := if s.start.stage = 0 then s.activate0 else s
    let x := s.tenant 0
    let s := if s.start.stage = 1 ∧ x.hbm.foldl (· + ·) 0 ≤ x.taken then s.loadStanding else s
    .next (if s.start.stage = 2 then s.loadPackages bad (s.start.packages.length + 1) else s)

/-! ## Steps 5 and 6 (R365) -/

/-- JOIN_WAIT_EXPIRY (R365); a module that is not to join waits for nothing (R443).
Log entry 144 (DEDUCED). -/
def execJoinWaitExpiry (s : State) : Host.Outcome State Fault Refusal :=
  if !s.starting ∨ !s.stepDone? 3 ∨ s.stepDone? 5 then .next s
  else if !s.rbit (rngA 0) 31 then .next (s.stepEnd 5)
  else if s.cycle < s.start.step3At + s.fld (nvsA 0x10) 15 0 * cyclesPerSecond then .next s
  else .next ((s.startFailed 3).stepEnd 5)

/-- LOCK_WAIT_EXPIRY (R365): PHASE_BOUND flows start forced; those already enabled are forced at once.
Log entry 144 (DEDUCED). -/
def execLockWaitExpiry (s : State) : Host.Outcome State Fault Refusal :=
  if !s.starting ∨ !s.stepDone? 3 ∨ s.stepDone? 6 ∨ s.cycle < s.start.step3At + s.fld (nvsA 0x10) 31 16 * cyclesPerSecond then .next s
  else .next (((s.startFailed 4).forceFlows (fun f => s.flowEn f && s.flowBound f) 2).stepEnd 6)

/-! ## Step 7: pipelines (R362) -/

/-- The handle that a 1-based image index of the configuration stands for; 0 where the image failed or is not there (R367). -/
def State.cfgHandle (s : State) (i : Nat) : Nat := if i = 0 then 0 else s.start.handles.getD (i - 1) 0

/-- A byte list with two bytes replaced. -/
def put16 (b : List Byte) (off v : Nat) : List Byte := b.take off ++ natLe 2 v ++ b.drop (off + 2)

/-- The stream contexts of the configuration are opened. -/
def State.openStreams (s : State) (b : List Byte) : State :=
  let x := cfgSec b 7
  (List.range x.count).foldl (fun s i =>
    let e := cfgEntry b x 136 i
    let c := fieldLe e 1 1
    if fieldLe e 0 1 = 0 then (s.putDesc (vdecA c 0x100) (slice e 8 128)).decodeOpen c
    else (s.putDesc (vencA c 0x100) (slice e 8 128)).encodeOpen c) s

/-- The FP1 flows and receive filters of the configuration; flows that LOCK_WAIT leaves without phase start forced. -/
def State.openFp1 (s : State) (b : List Byte) : State :=
  let x := cfgSec b 8
  let n := cfgFlows x
  let s := (List.range n).foldl (fun s i =>
    let e := cfgEntry b x 72 i
    let f := fieldLe e 0 1
    let s := ((List.range 15).map (· + 1)).foldl (fun s w => s.flowDescWrite f w (fieldLe e (8 + 4 * w) 4)) s
    let s := s.flowDescWrite f 0 (fieldLe e 8 4)
    if s.rbit (modA 0x200) 20 && s.flowEn f && s.flowBound f then s.flowForce f 2 else s) s
  (List.range (x.count - n)).foldl (fun s i =>
    let o := x.off + 72 * n + 24 * i
    s.setRegWords (fptA (0x1400 + 0x10 * fieldLe b o 1)) 4 (fieldLe b (o + 8) 16)) s

/-- Where the firmware keeps the model descriptors of the configuration in hub memory.
Log entry 148 (DEDUCED). -/
def modelsOff : Nat := 0x1000000

/-- The completion ring and the model descriptors.
Log entry 148 (DEDUCED). -/
def State.openServing (s : State) (b : List Byte) : State :=
  let x := cfgSec b 9
  if x.size = 0 then s
  else
    let s := { s with serve := { s.serve with ring0 := (fieldLe b x.off 8, fieldLe b (x.off + 8) 4, 0) } }
    let ds := (List.range ((x.size - 16) / 64)).flatMap (fun i =>
      let d := slice b (x.off + 16 + 64 * i) 64
      put16 d 0 (s.cfgHandle (fieldLe d 0 2)))
    (s.hubWrite (hubId 0) modelsOff ds).setReg64 (rqtT 0 0) (hubBase + modelsOff)

/-- One entry of the start list; an entry that names an image that did not load is skipped (R365).
Log entry 146 (DEDUCED). -/
def State.startEntry (s : State) (e : List Byte) : State :=
  if fieldLe e 0 1 = 1 then
    let r := slice e 16 64
    let h := s.cfgHandle (fieldLe r 0 2)
    match cluList (fieldLe r 0x1C 4) with
    | k :: _ => if h = 0 then s else s.jobSubmit k 0 (put16 r 0 h)
    | [] => s
  else
    let k := fieldLe e 1 1
    let x : AcCore := ⟨k / 8, k % 8, fieldLe e 2 1⟩
    let h := s.cfgHandle (fieldLe e 3 2)
    if h = 0 then s
    else ((s.setReg (x.reg 0x10) (h * 65536 + fieldLe e 5 2)).setReg64 (x.reg 0x18) (fieldLe e 7 8 % 2 ^ 48)).acStart x

/-- The log regions of the configuration, as module addresses.
Log entry 148 (DEDUCED). -/
def State.logRegions (s : State) (b : List Byte) : List Nat :=
  let x := cfgSec b 2
  if x.count = 0 ∨ s.rbit (modA 0x200) 16 then []
  else
    let first := fieldLe b x.off 4
    (List.range (fieldLe b (x.off + 4) 4)).filterMap (fun i => s.devAddr 0 (0x200000 * (first + i)))

/-- Step 7. -/
def State.pipelines (s : State) : State :=
  let b := s.sage.standing
  let sl := cfgSec b 10
  let s := { s with log := { s.log with regions := s.logRegions b } }
  let s := ((s.openStreams b).openFp1 b).openServing b
  let s := (List.range sl.count).foldl (fun s i => s.startEntry (cfgEntry b sl 80 i)) s
  let s := s.logConfig (sha3_256 b) ((List.range 7).flatMap (fun i => natLe 4 (s.reg (updA (0x100 + 4 * i)))))
  (List.range 15).foldl (fun s t => if s.rbit (tenA (t + 1) 0) 29 then s.activate (t + 1) false else s) s

/-- PIPELINE_START (R362): steps 7 and 8, once steps 4, 5 and 6 have ended and tenant 0 holds all its regions. -/
def execPipelineStart (s : State) : Host.Outcome State Fault Refusal :=
  if !s.starting ∨ !s.stepDone? 4 ∨ !s.stepDone? 5 ∨ !s.stepDone? 6 ∨ s.stepDone? 7 ∨ (s.tenant 0).state = .opening then .next s
  else
    let s := s.pipelines.stepEnd 7
    .next (({ s with host := { s.host with released := true } }.rbAll).stepEnd 8)

/-! ## A bank in TRIAL (R376) -/

/-- Whether a bank in TRIAL is active. -/
def State.onTrial (s : State) : Bool := s.bankState s.activeBank == 3

/-- TRIAL_START_TIMEOUT (R376): the module resets itself into the other bank.
Log entry 153 (DEDUCED). -/
def execTrialStartTimeout (s : State) : Host.Outcome State Fault Refusal :=
  if !s.starting ∨ !s.onTrial ∨ s.stepDone? 3 ∨ s.cycle < 30 * cyclesPerSecond then .next s
  else .next (s.setBank s.activeBank 5).resetHold

/-- FIRMWARE_WATCHDOG_EXPIRY (R376).
Log entry 153 (DEDUCED). -/
def execFirmwareWatchdogExpiry (s : State) : Host.Outcome State Fault Refusal :=
  if !s.starting ∨ !s.onTrial then .next s else .next (s.setBank s.activeBank 5).resetHold

/-- TRIAL_GOOD (R376): after 600 s the bank is GOOD, the floors rise, and the other bank is STALE where it lies below one.
Log entry 153 (DEDUCED). -/
def execTrialGood (s : State) : Host.Outcome State Fault Refusal :=
  match s.upd.trialFrom with
  | none => .next s
  | some c =>
    if !s.starting ∨ !s.onTrial ∨ s.cycle < c + 600 * cyclesPerSecond then .next s
    else
      let a := s.activeBank
      let s := s.setBank a 4
      let floor := fun (s : State) i => s.reg (updA (0x120 + 4 * i))
      let svn := fun (cs : List Comp) i => (cs.getD i {}).svn
      let s := (List.range 7).foldl (fun s i => s.setReg (updA (0x120 + 4 * i)) (max (floor s i) (svn s.upd.active i))) s
      let s := if (List.range (s.bank (1 - a)).length).any (fun i => decide (svn (s.bank (1 - a)) i < floor s i)) then s.setBank (1 - a) 6 else s
      .next ({ s with upd := { s.upd with trialFrom := none } }.setFld (updA 0) 31 28 0)

end Sys2Proof.Machine
end

