-- ==== Sys2Proof/Machine/Update.lean ====
section
/-!
DEFINITION. Update packages and their activation (R372–R378).
-/
namespace Sys2Proof.Machine

/-! ## The package (R372–R374) -/

/-- The prefix, as far as it has arrived. -/
def State.pkPrefix (s : State) : List Byte := (List.range 4).flatMap (fun i => tabGet [] s.upd.units i)

/-- KIND of a prefix. -/
def pkKind (b : List Byte) : Nat := fieldLe b 8 1
/-- COMP_COUNT. -/
def pkComps (b : List Byte) : Nat := fieldLe b 9 1
/-- KEY_COUNT. -/
def pkKeys (b : List Byte) : Nat := fieldLe b 0xA 2
/-- BLOCK_COUNT. -/
def pkBlocks (b : List Byte) : Nat := fieldLe b 0xC 4
/-- PREFIX_UNITS. -/
def pkUnits (b : List Byte) : Nat := fieldLe b 0x10 4
/-- PACKAGE_ID as its bytes. -/
def pkId (b : List Byte) : List Byte := slice b 0x20 16
/-- Component entry `i`. -/
def pkComp (b : List Byte) (i : Nat) : List Byte := slice b (512 + 160 * i) 160
/-- The component entries. -/
def pkEntries (b : List Byte) : List (List Byte) := (List.range (pkComps b)).map (pkComp b)
/-- Key entry `i`. -/
def pkKey (b : List Byte) (i : Nat) : List Byte := slice b (512 + 160 * pkComps b + 1584 * i) 1584
/-- Digest entry of block `i`. -/
def pkDigest (b : List Byte) (i : Nat) : List Byte := slice b (512 + 160 * pkComps b + 1584 * pkKeys b + 48 * i) 48
/-- Offset of SIGNER_PK. -/
def pkSigner (b : List Byte) : Nat := 512 + 160 * pkComps b + 1584 * pkKeys b + 48 * pkBlocks b
/-- SIGNER_PK. -/
def pkPk (b : List Byte) : List Byte := slice b (pkSigner b) 2592

/-- Whether the header names a prefix of 1 to 4 units. -/
def pkUnitsOk (b : List Byte) : Bool := decide (1 ≤ pkUnits b) && decide (pkUnits b ≤ 4)

/-- Whether a component entry meets R373. -/
def pkCompOk (b e : List Byte) : Bool :=
  let ix := fieldLe e 0 1
  let op := fieldLe e 1 1
  (if pkKind b = 0 then decide (1 ≤ ix) && decide (ix ≤ 7) && decide (op ≤ 1) else ix == 8 && op == 0) &&
  zeroIn e 2 2 && zeroIn e 0x14 4 && zeroIn e 0x87 1 && zeroIn e 0x8F 17 &&
  decide (fieldLe e 0xC 4 + fieldLe e 0x10 4 ≤ pkBlocks b) && (op == 1 || zeroIn e 0x20 48) &&
  (op == 1 || decide (fieldLe e 0x18 8 ≤ 65536 * fieldLe e 0x10 4))

/-- Check 0x60. -/
def pkFormOk (b : List Byte) : Bool :=
  let last := pkSigner b + 2592 + 4627
  let ixs := (pkEntries b).map (fun e => fieldLe e 0 1)
  slice b 0 4 == ascii "YUP1" && fieldLe b 4 2 == 1 && fieldLe b 6 2 == 512 && decide (pkKind b ≤ 1) && decide (1 ≤ pkComps b) &&
  decide (pkComps b ≤ (if pkKind b = 0 then 7 else 1)) && decide (1 ≤ pkKeys b) && decide (pkKeys b ≤ 64) &&
  decide (1 ≤ pkBlocks b) && decide (pkBlocks b ≤ 2048) && pkUnitsOk b && zeroIn b 0x14 4 && zeroIn b 0x30 464 &&
  decide (last ≤ 65536 * pkUnits b) && (b.drop last).all (· == 0) && (pkEntries b).all (pkCompOk b) &&
  (List.range ixs.length).all (fun i => (List.range i).all (fun j => ixs.getD i 0 != ixs.getD j 0)) &&
  (List.range (pkKeys b)).all (fun i => zeroIn (pkKey b i) 8 8)

/-- Check 0x61: the package key. -/
def pkPackageKey (b : List Byte) : Option (List Byte) :=
  match ((List.range (pkKeys b)).map (pkKey b)).find? (fun k => fieldLe k 0 8 == serialNo) with
  | none => none
  | some k => (Config.kemDecap 0 (slice k 16 1568)).map (fun z => Config.hkdf z (ascii "yml update" ++ pkId b))

/-- Check 0x62.
Log entry 159 (DEDUCED). -/
def State.pkSignerOk (s : State) (b : List Byte) : Bool :=
  let d := sha3_384 (pkPk b)
  if pkKind b = 0 then Config.firmwareSigner d else s.upd.owner.isEmpty || s.upd.owner == d

/-- Check 0x63. -/
def pkSigned (b : List Byte) : Bool := Config.verify (pkPk b) (b.take (pkSigner b + 2592)) (slice b (pkSigner b + 2592) 4627)

/-- The installed bank: its seven components.
Log entry 8 (DESIGN CHOICE). -/
def State.installed (s : State) : List Comp := (List.range 7).map (fun i => (s.bank s.activeBank).getD i {})

/-- Check 0x64. -/
def State.pkSources (s : State) (b : List Byte) : Bool :=
  (pkEntries b).all (fun e => fieldLe e 1 1 != 1 || slice e 0x20 48 == slice (s.installed.getD (fieldLe e 0 1 - 1) {}).digest 0 48)

/-- Check 0x65. -/
def State.pkNewer (s : State) (b : List Byte) : Bool :=
  let copy := tabGet [] s.upd.copies (s.fld (updA 8) 16 16)
  (pkEntries b).all (fun e =>
    if fieldLe e 0 1 = 8 then copy.isEmpty || decide (fieldLe copy 0x10 4 < fieldLe e 4 4)
    else decide (s.reg (updA (0x120 + 4 * (fieldLe e 0 1 - 1))) ≤ fieldLe e 8 4))

/-- The component of an entry, with its image. -/
def pkTarget (e image : List Byte) : Comp :=
  { version := fieldLe e 4 4, svn := fieldLe e 8 4, digest := slice e 0x50 48, image := image
    reqMin := (slice e 0x80 7).map (·.toNat), reqMax := (slice e 0x88 7).map (·.toNat) }

/-- Major of a version. -/
def Comp.major (c : Comp) : Nat := c.version / 2 ^ 24

/-- Whether each component of a bank admits the majors of the others (R377). -/
def compatible (cs : List Comp) : Bool :=
  (List.range 7).all (fun i => (List.range 7).all (fun j =>
    let c := cs.getD i {}
    let m := (cs.getD j {}).major
    i == j || (decide (c.reqMin.getD j 0 ≤ m) && decide (m ≤ c.reqMax.getD j 255))))

/-- Components in the order of activation. -/
def activationOrder (ixs : List Nat) : List Nat := [7, 6, 5, 4, 3, 2, 1].filter ixs.contains

/-- Replace component `i`. -/
def setComp (cs : List Comp) (i : Nat) (c : Comp) : List Comp := cs.set (i - 1) c

/-- Check 0x66: every state on the way is compatible. -/
def State.pkCompat (s : State) (b : List Byte) : Bool :=
  let es := pkEntries b
  let order := activationOrder (es.map (fun e => fieldLe e 0 1))
  pkKind b == 1 ||
  (List.range (order.length + 1)).all (fun k =>
    compatible ((order.take k).foldl (fun cs i =>
      match es.find? (fun e => fieldLe e 0 1 == i) with
      | some e => setComp cs i (pkTarget e [])
      | none => cs) s.installed))

/-! ## Deltas (R374) -/

/-- Bytes of a block. -/
def blockBytes : Nat := 65536

/-- Overwrite bytes of a block. -/
def putAt (b : List Byte) (off : Nat) (d : List Byte) : List Byte := b.take off ++ d ++ b.drop (off + d.length)

/-- Apply the runs of a PATCH record to a block from a cursor on; `n` bounds the runs. -/
def patchRuns : Nat → List Byte → Nat → List Byte → Option (List Byte)
  | 0, runs, _, b => if runs.isEmpty then some b else none
  | n + 1, runs, cur, b =>
    if runs.isEmpty then some b
    else
      let at_ := cur + fieldLe runs 0 2
      let count := fieldLe runs 2 2
      if runs.length < 4 + count ∨ blockBytes < at_ + count then none
      else patchRuns n (runs.drop (4 + count)) (at_ + count) (putAt b at_ ((runs.drop 4).take count))

/-- Build `n` target blocks, of which `left` bytes remain, from a delta body; the answer is the image and the rest of the body. -/
def deltaBlocks (src : List Byte) : Nat → Nat → List Byte → Option (List Byte × List Byte)
  | 0, _, body => some ([], body)
  | n + 1, left, body =>
    let op := fieldLe body 0 1
    let k := fieldLe body 4 4
    let len := fieldLe body 8 4
    let want := min left blockBytes
    let rest := body.drop 12
    let inside := decide (k * blockBytes < src.length)
    let old := slice src (k * blockBytes) blockBytes
    let block : Option (List Byte) :=
      if body.length < 12 + len ∨ !zeroIn body 1 3 then none
      else if op = 0 ∧ inside ∧ len = 0 then some old
      else if op = 1 ∧ len = want then some (rest.take len)
      else if op = 2 ∧ inside then patchRuns len (rest.take len) 0 old
      else if op = 3 ∧ len = 0 then some (zeros blockBytes)
      else none
    match block with
    | none => none
    | some x =>
      match deltaBlocks src n (left - want) (rest.drop len) with
      | none => none
      | some (y, r) => some (x.take want ++ y, r)

/-- The image that a component's body gives; none where it is malformed or its digest differs (check 0x6A). -/
def compImage (src e body : List Byte) : Option (List Byte) :=
  let n := fieldLe e 0x18 8
  let r := if fieldLe e 1 1 = 0 then some (body.take n, body.drop n) else deltaBlocks src (ceilDiv n blockBytes) n body
  match r with
  | none => none
  | some (x, rest) => if x.length = n && rest.all (· == 0) && sha3_384 x == slice e 0x50 48 then some x else none

/-! ## Receipt (R375) -/

/-- UPD_STATE.STATE. -/
def State.updState (s : State) : Nat := s.fld (updA 0) 31 28
/-- Set UPD_STATE.STATE. -/
def State.setUpd (s : State) (v : Nat) : State := s.setFld (updA 0) 31 28 v
/-- Record a failure code in UPD_STATE.ERR. -/
def State.updErr (s : State) (code : Nat) : State := s.setFld (updA 0) 27 20 code

/-- Whether the update protocol answers on a port: its link up, the MCTP endpoint or the recovery responder serving it. -/
def State.updUp (s : State) (p : Nat) : Bool := s.mctpUp p || (s.start.recovery && p == 0 && s.rbit (pciA p 4) 30)

/-- Run an operation of the update protocol and answer with its code; a failure code stays in ERR. -/
def State.updOp (s : State) (p : Nat) (name : String) (f : State → State × Nat) : State :=
  if !s.updUp p then s
  else
    let (s, code) := f s
    let s := if code = 0 then s else s.updErr code
    s.spdmReply p name (natLe 1 code)

/-- Discard the package that is being received; one staged before it stands again.
Log entry 155 (DEDUCED). -/
def State.updDrop (s : State) : State :=
  let s := { s with upd := { s.upd with units := [], key := [], newBank := [], newCopy := [] } }
  let s := (s.setReg (updA 0x18) 0).setRegWords (updA 0x20) 4 s.upd.stagedId
  s.setUpd (if s.upd.stagedComps.isEmpty then 0 else 3)

/-- The first of the checks 0x60 to 0x66 that fails; 0 with the package key where all pass. -/
def State.prefixChecks (s : State) (b : List Byte) : State × Nat × List Byte :=
  if !pkFormOk b then (s, 0x60, [])
  else if s.start.recovery ∧ (pkKind b ≠ 0 ∨ (pkEntries b).any (fun e => fieldLe e 1 1 != 0)) then (s, 0x6B, [])
  else
    match pkPackageKey b with
    | none => (s, 0x61, [])
    | some key =>
      if !s.pkSignerOk b then (s, 0x62, [])
      else if !pkSigned b then (s.bump (sgeA 0x84), 0x63, [])
      else if !s.pkSources b then (s, 0x64, [])
      else if !s.pkNewer b then (s, 0x65, [])
      else if !s.pkCompat b then (s, 0x66, [])
      else (s, 0, key)

/-- Store a unit. -/
def State.unitStore (s : State) (i : Nat) (d : List Byte) : State :=
  let had := !(tabGet [] s.upd.units i).isEmpty
  let s := { s with upd := { s.upd with units := tabSet [] s.upd.units i d } }
  if had then s else s.setFld (updA 0x18) 31 16 (s.fld (updA 0x18) 31 16 + 1)

/-- A unit of the prefix; the last one brings the checks. -/
def State.putPrefix (s : State) (i : Nat) (d : List Byte) : State × Nat :=
  let s := s.unitStore i d
  let b := s.pkPrefix
  if (tabGet [] s.upd.units 0).isEmpty then (s, 0)
  else if !pkUnitsOk b then (s.updDrop, 0x60)
  else
    let extra := s.upd.units.filter (fun e => decide (pkUnits b ≤ e.1))
    let s := { s with upd := { s.upd with units := s.upd.units.filter (fun e => decide (e.1 < pkUnits b)) } }
    let s := s.setFld (updA 0x18) 31 16 (s.fld (updA 0x18) 31 16 - extra.length)
    let s := (s.setFld (updA 0x18) 15 0 (pkUnits b + pkBlocks b)).setRegWords (updA 0x20) 4 (leNat (pkId b))
    if (List.range (pkUnits b)).any (fun j => (tabGet [] s.upd.units j).isEmpty) then (s, 0)
    else
      match s.prefixChecks s.pkPrefix with
      | (s, 0, key) => ({ s with upd := { s.upd with key := key } }, 0)
      | (s, code, _) => (s.updDrop, code)

/-- A PUT.
Log entry 155 (DEDUCED). -/
def State.updPut (s : State) (i : Nat) (d : List Byte) : State × Nat :=
  if s.updState ≠ 0 ∧ s.updState ≠ 1 ∧ s.updState ≠ 3 then (s, 0x6B)
  else if d.length ≠ blockBytes then (s, 0x60)
  else
    let s := if s.updState = 1 then s else (s.setUpd 1).setReg (updA 0x18) 0
    let b := s.pkPrefix
    if s.upd.key.isEmpty then
      let bound := if (tabGet [] s.upd.units 0).isEmpty then 4 else pkUnits b
      if i < bound then s.putPrefix i d else (s, 0x6B)
    else if pkUnits b + pkBlocks b ≤ i then (s, 0x60)
    else if !(tabGet [] s.upd.units i).isEmpty then (s, 0)
    else if sha3_256 d ≠ slice (pkDigest b (i - pkUnits b)) 0 32 then (s.bump (updA 0x44), 0x67)
    else (s.unitStore i d, 0)

/-- UPDATE_PUT (R375). -/
def execUpdatePut (p : Fin 5) (index : Nat) (data : List Byte) (s : State) : Host.Outcome State Fault Refusal :=
  .next (s.updOp p "UPDATE_PUT" (fun s => s.updPut index data))

/-! ## END and staging (R375) -/

/-- Block `i` decrypted. -/
def State.pkPlain (s : State) (b : List Byte) (i : Nat) : Option (List Byte) :=
  Config.gcmOpen s.upd.key (natLe 8 i ++ zeros 4) (pkId b)
    (tabGet [] s.upd.units (pkUnits b + i) ++ slice (pkDigest b i) 32 16)

/-- The body of a component. -/
def State.pkBody (s : State) (b e : List Byte) : List Byte :=
  (List.range (fieldLe e 0x10 4)).flatMap (fun j => (s.pkPlain b (fieldLe e 0xC 4 + j)).getD [])

/-- The components that a package makes, by index; none where check 0x6A fails.
Log entry 155 (DEDUCED). -/
def State.pkImages (s : State) (b : List Byte) : List (List Byte) → Option (List (Nat × Comp))
  | [] => some []
  | e :: es =>
    match compImage (s.installed.getD (fieldLe e 0 1 - 1) {}).image e (s.pkBody b e), State.pkImages s b es with
    | some x, some l => some ((fieldLe e 0 1, pkTarget e x) :: l)
    | _, _ => none

/-- END's checks and the start of the write.
Log entry 155 (DEDUCED). -/
def State.updEnd (s : State) : State × Nat :=
  let b := s.pkPrefix
  let fail := fun (s : State) (code : Nat) => (s.updDrop, code)
  if s.updState ≠ 1 ∨ s.upd.key.isEmpty then (s, 0x6B)
  else if !pkSigned b then fail (s.bump (sgeA 0x84)) 0x63
  else if (List.range (pkBlocks b)).any (fun i => (tabGet [] s.upd.units (pkUnits b + i)).isEmpty) then fail s 0x68
  else if (List.range (pkBlocks b)).any (fun i => (s.pkPlain b i).isNone) then fail s 0x69
  else
    match s.pkImages b (pkEntries b) with
    | none => fail s 0x6A
    | some l =>
      let s := s.setUpd 2
      let s := { s with upd := { s.upd with stagedComps := [] } }
      if pkKind b = 0 then
        let s := s.setBank (1 - s.activeBank) 1
        ({ s with upd := { s.upd with newBank := l.foldl (fun cs e => setComp cs e.1 e.2) s.installed } }, 0)
      else ({ s with upd := { s.upd with newCopy := (l.head?.map (·.2.image)).getD [] } }, 0)

/-- UPDATE_END (R375). -/
def execUpdateEnd (p : Fin 5) (s : State) : Host.Outcome State Fault Refusal := .next (s.updOp p "UPDATE_END" State.updEnd)

/-- What staging leaves: the bank or the copy, and the package's name.
Log entry 156 (DEDUCED). -/
def State.stage (s : State) : State :=
  let b := s.pkPrefix
  let ixs := (pkEntries b).map (fun e => fieldLe e 0 1)
  let id := leNat (pkId b)
  let u := { s.upd with stagedId := id, stagedKind := pkKind b, stagedComps := ixs, units := [], key := [], newBank := [], newCopy := [] }
  if pkKind b = 0 then
    let k := 1 - s.activeBank
    { s with upd := { u with banks := tabSet [] u.banks k s.upd.newBank, bankId := id, bankComps := ixs } }.setBank k 2
  else
    let k := 1 - s.fld (updA 8) 16 16
    { s with upd := { u with
      copies := tabSet [] u.copies k s.upd.newCopy
      sums := tabSet [] u.sums k (slice (pkComp b 0) 0x50 48)
      owner := if u.owner.isEmpty then sha3_384 (pkPk b) else u.owner } }

/-- STAGING_DONE (R375): `ok` is false where the NOR program or its read-back failed. -/
def execStagingDone (ok : Bool) (s : State) : Host.Outcome State Fault Refusal :=
  if s.updState ≠ 2 then .next s
  else if ok then .next ((s.stage.setUpd 3).bump (updA 0x40))
  else
    let s := if pkKind s.pkPrefix = 0 then s.setBank (1 - s.activeBank) 5 else s
    .next (s.updDrop.updErr 0x6C)

/-! ## ARM, DISARM, ABORT, STATUS (R375, R378) -/

/-- Phase per cycle of the arithmetic clock, in units of 2^-32 count. -/
def State.phaseRate (s : State) : Int := if s.thySel = 0 ∨ s.thySel = 4 then 2 ^ 32 * 10 / 11 else velInc s.thyVel

/-- Distance from the phase to a point (cycle in the high word, count in the low one), in units of 2^-32 count. -/
def State.phaseAhead (s : State) (at_ : Nat) : Int :=
  let (c, n, f) := s.thyPhase
  let dc := toInt 32 ((at_ / 2 ^ 32 + 2 ^ 32 - c) % 2 ^ 32)
  (dc * (s.thyCpc : Int) + (at_ % 2 ^ 32 : Nat) - (n : Int)) * 2 ^ 32 - (f : Int)

/-- Arm a point that has been accepted: 0x6D where no Thyme entry is free for it, else 0. -/
def State.armSet (s : State) (kind ticket at_ : Nat) : State × Nat :=
  let done := fun (s : State) (entry : Nat) =>
    let s := { s with upd := { s.upd with arm := some ⟨kind, ticket, at_, entry⟩ } }
    (((s.setUpd 4).setReg (updA 0xC) ticket).setReg64 (updA 0x10) at_, 0)
  if kind = 0 then done s 0
  else
    match (List.range 4096).find? (fun i => !(s.evt i).en && (s.evt i).owner == 0) with
    | none => (s, 0x6D)
    | some i => done (s.setEvt i { ctrl := 2 ^ 31 + 5 * 2 ^ 27, matchCount := at_ % 2 ^ 32, matchCycle := at_ / 2 ^ 32, arg := ticket }) i

/-- Whether a point lies at least 100 ms ahead, a phase at its present velocity.
Log entry 157 (DEDUCED). -/
def State.armAhead (s : State) (kind at_ : Nat) : Bool :=
  if kind = 0 then decide (s.timeNs + 100000000 ≤ at_)
  else decide (0 ≤ s.phaseAhead at_) && decide (s.phaseRate * 110000000 ≤ s.phaseAhead at_)

/-- ARM's checks: the code of its refusal, or 0.
Log entry 157 (DEDUCED). -/
def State.armPoint (s : State) (kind ticket at_ : Nat) : State × Nat :=
  if s.updState ≠ 3 then (s, 0x6B)
  else if !s.armAhead kind at_ then (s, 0x6D)
  else s.armSet kind ticket at_

/-- ARM, and with SHARE the activation frame (R378, R438). -/
def State.updArm (s : State) (ticket kind share at_ : Nat) : State × Nat :=
  match s.armPoint kind ticket at_ with
  | (s, 0) =>
    let s := if share = 0 then s else s.ringSend 0x06 0xFF (natLe 16 s.upd.stagedId ++ natLe 4 ticket ++ natLe 1 kind ++ zeros 3 ++ natLe 8 at_)
    (s, 0)
  | (s, code) => (s, code)

/-- UPDATE_ARM (R378). -/
def execUpdateArm (p : Fin 5) (ticket : Word) (kind : Fin 2) (share : Bool) (at_ : BitVec 64) (s : State) :
    Host.Outcome State Fault Refusal :=
  .next (s.updOp p "UPDATE_ARM" (fun s => s.updArm ticket.toNat kind (if share then 1 else 0) at_.toNat))

/-- Whether the armed point has been reached. -/
def State.armReached (s : State) : Bool :=
  match s.upd.arm with
  | none => false
  | some a => if a.kind = 0 then decide (a.point ≤ s.timeNs) else s.evtDue (s.evt a.entry)

/-- The arm is gone: its Thyme entry is free again.
Log entry 157 (DEDUCED). -/
def State.disarm (s : State) : State :=
  let s := match s.upd.arm with
    | some a => if a.kind = 1 then s.setEvt a.entry {} else s
    | none => s
  ({ s with upd := { s.upd with arm := none } }.setReg (updA 0xC) 0).setReg64 (updA 0x10) 0

/-- DISARM: too late in the cycle of the point itself. -/
def State.updDisarm (s : State) : State × Nat :=
  if s.updState ≠ 4 ∨ s.armReached then (s, 0x6B) else (s.disarm.setUpd 3, 0)

/-- ABORT: a package that is not yet staged.
Log entry 156 (DEDUCED). -/
def State.updAbort (s : State) : State × Nat :=
  if s.updState = 1 then (s.updDrop, 0)
  else if s.updState = 2 then
    ((if pkKind s.pkPrefix = 0 then s.setBank (1 - s.activeBank) 5 else s).updDrop, 0)
  else (s, 0x6B)

/-- An operation of UPD_CTRL: as of the protocol, without an answer. -/
def State.updReg (s : State) (f : State → State × Nat) : State :=
  match f s with
  | (s, 0) => s
  | (s, code) => s.updErr code

/-- UPDATE_DISARM (R378). -/
def execUpdateDisarm (src : UpdSrc) (s : State) : Host.Outcome State Fault Refusal :=
  match src with
  | .port p => .next (s.updOp p "UPDATE_DISARM" State.updDisarm)
  | .reg ini => .next (s.guarded (isMgmt ini) ini (updA 4) (s.updReg State.updDisarm))

/-- UPDATE_ABORT (R375). -/
def execUpdateAbort (src : UpdSrc) (s : State) : Host.Outcome State Fault Refusal :=
  match src with
  | .port p => .next (s.updOp p "UPDATE_ABORT" State.updAbort)
  | .reg ini => .next (s.guarded (isMgmt ini) ini (updA 4) (s.updReg State.updAbort))

/-- UPDATE_STATUS (R375). -/
def execUpdateStatus (p : Fin 5) (s : State) : Host.Outcome State Fault Refusal :=
  .next (if s.updUp p then s.spdmReply p "UPDATE_STATUS" (natLe 1 0 ++ natLe 4 (s.reg (updA 0)) ++ natLe 4 (s.reg (updA 8)) ++ natLe 4 (s.reg (updA 0x18)))
    else s)

/-! ## Activation (R377, R378) -/

/-- The component that switches next: its STEP, the start of its limit, for microcode the first job that waits for it. -/
def State.stepHead (s : State) : State :=
  let h := s.upd.todo.headD 0
  { s with upd := { s.upd with since := s.cycle, hold := if h = 5 then some s.job.nextNum else none } }.setFld (updA 0) 19 16 h

/-- Activation of the staged package begins: firmware component by component; a configuration by a module reset. -/
def State.activateNow (s : State) : State :=
  let ixs := s.upd.stagedComps
  let kind := s.upd.stagedKind
  let s := s.disarm.bump (updA 0x48)
  let s := { s with upd := { s.upd with stagedComps := [] } }
  if kind = 1 then
    ((s.setFld (updA 8) 16 16 (1 - s.fld (updA 8) 16 16)).setUpd 0).moduleReset
  else { s with upd := { s.upd with todo := activationOrder ixs, switched := [] } }.stepHead.setUpd 5

/-- ACTIVATION_POINT (R378): the first cycle whose module time is at or after AT. -/
def execActivationPoint (s : State) : Host.Outcome State Fault Refusal :=
  match s.upd.arm with
  | some a => .next (if s.updState = 4 ∧ a.kind = 0 ∧ a.point ≤ s.timeNs then s.activateNow else s)
  | none => .next s

/-- EVENT_ACTIVATE (R291, R378). -/
def execEventActivate (i : Fin 4096) (s : State) : Host.Outcome State Fault Refusal :=
  match s.thyTake i 5 with
  | (s, none) => .next s
  | (s, some x) =>
    let s := s.thyFired x false
    match s.upd.arm with
    | some a => .next (if s.updState = 4 ∧ a.kind = 1 ∧ a.ticket = x.e.arg then s.activateNow else s)
    | none => .next s

/-- A component runs another image; SPDM sessions end with a restart of Sage. -/
def State.runComp (s : State) (i : Nat) (c : Comp) : State :=
  let cs := (List.range 7).map (fun j => s.upd.active.getD j {})
  let s := { s with upd := { s.upd with active := setComp cs i c } }.setReg (updA (0x100 + 4 * (i - 1))) c.version
  if i = 1 then { s with sage := { s.sage with sessions := [], chunksIn := [], chunksOut := [] } } else s

/-- The switched components return to their old images in reverse order, and the new bank is BAD. -/
def State.rollback (s : State) : State :=
  let s := s.upd.switched.reverse.foldl (fun s e => s.runComp e.1 e.2) s
  let s := { s with upd := { s.upd with todo := [], switched := [], hold := none } }
  ((((s.setBank (1 - s.activeBank) 5).bump (updA 0x4C)).updErr 0x6E).setFld (updA 0) 19 16 0).setUpd 0

/-- The last component has switched: the new bank is active, in TRIAL. -/
def State.activated (s : State) : State :=
  let k := 1 - s.activeBank
  let s := ((s.setBank k 3).setFld (updA 8) 31 31 k).setUpd 6
  let s := { s with upd := { s.upd with switched := [], hold := none, trialFrom := some s.cycle } }.setFld (updA 0) 19 16 0
  s.logConfig (sha3_256 s.sage.standing) ((List.range 7).flatMap (fun i => natLe 4 (s.reg (updA (0x100 + 4 * i)))))

/-- Whether a component may switch now: microcode waits for the jobs in flight.
Log entry 158 (DEDUCED). -/
def State.maySwitch (s : State) (i : Nat) : Bool := i != 5 || !s.job.jobs.any (fun j => s.jobRuns j)

/-- COMPONENT_SWITCH (R377): the next component switches; `ok` is the result of its own check.
Log entry 158 (DEDUCED). -/
def execComponentSwitch (ok : Bool) (s : State) : Host.Outcome State Fault Refusal :=
  match s.upd.todo with
  | [] => .next s
  | i :: rest =>
    if s.updState ≠ 5 ∨ !s.maySwitch i then .next s
    else
      let old := s.upd.active.getD (i - 1) {}
      let s := s.runComp i ((s.bank (1 - s.activeBank)).getD (i - 1) {})
      let s := { s with upd := { s.upd with todo := rest, switched := s.upd.switched ++ [(i, old)] } }
      if !ok then .next s.rollback
      else if rest.isEmpty then .next s.activated
      else .next s.stepHead

/-- Limit of a component in cycles (R377); component 4 switches per context within one GOP, which is no time.
Log entry 158 (DEDUCED). -/
def State.switchLimit (s : State) (i : Nat) : Option Nat :=
  if i = 7 then some 0
  else if i = 6 then some (22000 * ((List.range 64).filter (fun x => s.acState ⟨x / 16, x / 2 % 8, x % 2⟩ == 2)).length)
  else if i = 5 then some (10 * cyclesPerSecond)
  else if i = 3 then some 55000
  else if i = 2 then some 5500000
  else if i = 1 then some 220000000
  else none

/-- ACTIVATION_LIMIT_EXPIRY (R377). -/
def execActivationLimitExpiry (s : State) : Host.Outcome State Fault Refusal :=
  match s.upd.todo with
  | [] => .next s
  | i :: _ =>
    match s.switchLimit i with
    | some n => .next (if s.updState = 5 ∧ s.upd.since + n < s.cycle then s.rollback else s)
    | none => .next s

end Sys2Proof.Machine
end

