-- ==== Sys2Proof/Machine/Ring.lean ====
section
/-!
DEFINITION. The Barow ring (R162, R285, R399, R433–R446): frames, joining and hop keys, time, status, the ring service.
-/
namespace Sys2Proof.Machine

/-- A counter of the RNG_ page: 0 FRAMES_RX, 1 FRAMES_TX, 2 TAG_FAILS, 3 DROPPED, 4 REFORMS, 5 JOINS, 6 REKEYS, 7 MGMT_REFUSED,
8 DUP_NODE. -/
def rngCount (n : Nat) : Nat := rngA (0x20 + 4 * n)

/-- Send a frame as it stands while the bypass is open.
Log entry 179 (DESIGN CHOICE). -/
def State.ringOut (s : State) (typ dst src hops : Nat) (payload : List Byte) : State := s.ringCount.send (.ring typ dst src hops payload)

/-! ## JOIN messages (R440) -/

/-- The fragments of a JOIN message. -/
def joinFrames (msg : Nat) (content : List Byte) : List (List Byte) :=
  let n := ceilDiv content.length 1020
  (List.range n).map (fun i => natLe 1 msg ++ natLe 1 i ++ natLe 1 n ++ zeros 1 ++ (content.drop (1020 * i)).take 1020)

/-- Send a JOIN message. -/
def State.joinSend (s : State) (msg dst : Nat) (content : List Byte) : State :=
  (joinFrames msg content).foldl (fun s b => s.ringOut 9 dst s.ring.node 0 b) s

/-- HELLO to the upstream node `u`: a fresh nonce and a fresh encapsulation key. -/
def State.helloSend (s : State) (u : Nat) : State :=
  let (s, v) := s.free 256
  let (s, k) := s.newKey
  let nonce := natLe 32 v
  let body := nonce ++ natLe 2 Config.deviceCert.length ++ Config.deviceCert ++ slice (Config.kemPublic k) 0 1568
  { s with ring := { s.ring with hello := some (u, nonce, k) } }.joinSend 1 u (body ++ Config.sign 0 body)

/-- The parts of a JOIN message: nonce, certificate, key or ciphertext, the signed content, the signature. -/
structure JoinMsg where
  nonce : List Byte
  cert : List Byte
  key : List Byte
  body : List Byte
  sig : List Byte
  deriving DecidableEq, Repr

/-- Take a JOIN message apart. -/
def joinParts (b : List Byte) : JoinMsg :=
  let n := fieldLe b 32 2
  ⟨slice b 0 32, slice b 34 n, slice b (34 + n) 1568, b.take (34 + n + 1568), b.drop (34 + n + 1568)⟩

/-- Whether a certificate is accepted: it chains to the root, its digest is in the peer list; with the key it certifies. -/
def State.peerKey (s : State) (cert : List Byte) : Option (List Byte) :=
  let d := leNat (sha3_384 cert)
  if d ≠ 0 ∧ (List.range 16).any (fun n => s.regWords (rngA (0x1000 + 0x40 * n)) 12 == d) then Config.certKey cert else none

/-- The hop key of a link from the shared secret and both nonces. -/
def hopKey (z un dn : List Byte) : List Byte := Config.hkdf z (ascii "yml ring" ++ un ++ dn)

/-- Both links are keyed: the module is a member (R441, R442). -/
def State.ringKeyed (s : State) : State :=
  if s.ringState = 1 ∧ s.ring.up.isSome ∧ s.ring.down.isSome then
    let s := (s.setRing 2).bump (rngCount 5)
    if s.start.ended.contains 3 then s.stepEnd 5 else s
  else if s.ringState = 3 ∧ s.ring.up.isSome then (s.setRing 2).bump (rngCount 4)
  else s

/-- A HELLO for this node: with an accepted certificate and signature it is answered with SHARE, and the downstream link is
keyed.
Log entry 182 (DEDUCED). -/
def State.helloTake (s : State) (src : Nat) (content : List Byte) : State :=
  let m := joinParts content
  match s.peerKey m.cert with
  | none => s.bump (rngCount 3)
  | some pk =>
    if !Config.verify pk m.body m.sig then s.bump (rngCount 3)
    else
      let (s, v) := s.free 256
      let (s, r) := s.newKey
      let un := natLe 32 v
      let (z, ct) := Config.kemEncap m.key r
      let body := un ++ natLe 2 Config.deviceCert.length ++ Config.deviceCert ++ slice ct 0 1568
      let s := s.joinSend 2 src (body ++ Config.sign 0 (m.nonce ++ body))
      let again := s.ring.down.any (fun k => k.node == src)
      let new := s.ring.down.isSome && !again && s.ringState == 2
      let s := { s with ring := { s.ring with down := some ⟨src, hopKey z un m.nonce, s.timeNs, 0⟩, phase := !s.ring.phase } }
      let s := s.setFld (rngA 4) 15 12 src
      let s := if again then s.bump (rngCount 6) else if new then s.bump (rngCount 4) else s
      s.ringKeyed

/-- A SHARE for this node: the answer to its HELLO keys the upstream link.
Log entry 182 (DEDUCED). -/
def State.shareTake (s : State) (src : Nat) (content : List Byte) : State :=
  let m := joinParts content
  match s.ring.hello, s.peerKey m.cert with
  | some (u, dn, k), some pk =>
    if u ≠ src ∨ !Config.verify pk (dn ++ m.body) m.sig then s.bump (rngCount 3)
    else
      match Config.kemDecap k m.key with
      | none => s.bump (rngCount 3)
      | some z =>
        let again := s.ring.up.any (fun k => k.node == src) && s.ringState == 2
        let s := { s with ring := { s.ring with up := some ⟨src, hopKey z m.nonce dn, s.timeNs, 0⟩, hello := none, fails := 0 } }
        let s := s.setFld (rngA 4) 19 16 src
        let s := if again then s.bump (rngCount 6) else s
        s.ringKeyed
  | _, _ => s.bump (rngCount 3)

/-! ## Receipt (R437, R442) -/

/-- The node starts to re-form the ring: its upstream link is no longer keyed.
Log entry 183 (DEDUCED). -/
def State.ringReform (s : State) : State :=
  let s := { s with ring := { s.ring with up := none, hello := none, fails := 0 } }
  ((s.setRing 3).setFld (rngA 4) 19 16 0).thyHoldover 5

/-- HOP_FROM of an arriving frame names the upstream neighbour; a node whose upstream link is not keyed sends it a HELLO.
Log entry 182 (DEDUCED). -/
def State.heard (s : State) (u : Nat) : State :=
  let s := { s with ring := { s.ring with lastFrom := some u } }
  if (s.ringState = 1 ∨ s.ringState = 3) ∧ s.ring.up.isNone ∧ !s.ring.hello.any (fun h => h.1 == u) then s.helloSend u else s

/-- A frame that fails: the fourth in a row from a new upstream node starts the re-forming (R442). -/
def State.ringFail (s : State) (f : RingFrame) (n : Nat) : State :=
  let s := s.bumpBy (rngCount 2) n
  if s.ringState = 2 ∧ !s.ring.up.any (fun k => k.node == f.hopFrom.val) then
    let s := { s with ring := { s.ring with fails := s.ring.fails + n } }
    if 4 ≤ s.ring.fails then s.ringReform.heard f.hopFrom else s
  else { s with ring := { s.ring with fails := 0 } }

/-- The node meets a duplicate (R437).
Log entry 180 (DEDUCED). -/
def State.ringDuplicate (s : State) : State := (s.bump (rngCount 8)).ringLeave 4

/-- Replace a little-endian field of a payload. -/
def putLe (b : List Byte) (off n v : Nat) : List Byte := b.take off ++ natLe n v ++ b.drop (off + n)

/-- Place of CORR in a payload, and of SEGS where it has one (R438). -/
def corrAt (typ : Nat) : Option (Nat × Option Nat) :=
  if typ = 1 then some (8, some 16) else if typ = 2 then some (32, some 40) else if typ = 10 then some (8, none) else none

/-- Slot segments of the hop by which a frame arrived. -/
def State.hopSegs (s : State) (f : RingFrame) : Nat := (s.ring.node + s.ring.segments - f.hopFrom % s.ring.segments) % s.ring.segments

/-- A payload as it arrives: SEGS counts the last hop (R439).
Log entry 181 (DEDUCED). -/
def State.arrived (s : State) (typ : Nat) (f : RingFrame) : List Byte :=
  match corrAt typ with
  | some (_, some g) => putLe f.payload g 2 (fieldLe f.payload g 2 + s.hopSegs f)
  | _ => f.payload

/-- A payload as it is forwarded: CORR takes the residence in ps.
Log entry 181 (DEDUCED). -/
def forwarded (typ : Nat) (b : List Byte) (residence : Nat) : List Byte :=
  match corrAt typ with
  | some (c, _) => putLe b c 8 (fieldLe b c 8 + residence * 10000 / 11)
  | none => b

/-- Whether a frame is addressed to this node. -/
def State.forMe (s : State) (f : RingFrame) : Bool := f.dst.val == s.ring.node || f.dst.val == 0xFF

/-- Whether a frame goes on to the next node: not this node's own, not a unicast to it, HOPS below 16. -/
def State.goesOn (s : State) (f : RingFrame) : Bool := f.src.val != s.ring.node && f.dst.val != s.ring.node && decide (f.hops.val + 1 < 16)

/-- Receive a frame of a type: `take` consumes one for this node, `own` one of its own that has gone around.
Log entries 179 (DESIGN CHOICE), 180 (DEDUCED). -/
def State.ringRx (s : State) (typ : Nat) (f : RingFrame) (take own : State → List Byte → State) : State :=
  if s.ringState = 0 ∨ s.ringState = 4 then { s with ring := { s.ring with lastFrom := some f.hopFrom } }
  else if s.ringState = 1 then
    ((s.bump (rngCount 0)).ringOut typ f.dst f.src f.hops f.payload).heard f.hopFrom
  else
    let s := (s.bump (rngCount 0)).heard f.hopFrom
    if !f.auth ∨ !s.ring.up.any (fun k => k.node == f.hopFrom.val) then s.ringFail f 1
    else
      let s := { s with ring := { s.ring with fails := 0, up := s.ring.up.map (fun k => { k with frames := k.frames + 1 }) } }
      let b := s.arrived typ f
      if f.src.val = s.ring.node then (if s.ring.txSeq ≤ f.hopSeq then s.ringDuplicate else own s b)
      else
        let s := if s.goesOn f then s.ringOut typ f.dst f.src (f.hops + 1).val (forwarded typ b f.residence) else s
        if s.forMe f then take s b else s

/-- Receive a frame whose return to its sender has no effect. -/
def State.ringTake (s : State) (typ : Nat) (f : RingFrame) (take : State → List Byte → State) : State := s.ringRx typ f take (fun s _ => s)

/-- Receive a JOIN message. -/
def State.joinRx (s : State) (msg : Nat) (f : RingFrame) (take : State → State) : State :=
  let fs := joinFrames msg f.payload
  if s.ringState = 0 ∨ s.ringState = 4 then { s with ring := { s.ring with lastFrom := some f.hopFrom } }
  else
    let s := (s.bumpBy (rngCount 0) fs.length).heard f.hopFrom
    if !f.auth then s.ringFail f fs.length
    else if f.src.val = s.ring.node then (if s.ring.txSeq ≤ f.hopSeq then s.ringDuplicate else s)
    else
      let hops := if s.ringState = 1 then f.hops.val else f.hops.val + 1
      let s := if s.goesOn f then fs.foldl (fun s b => s.ringOut 9 f.dst f.src hops b) s else s
      if s.forMe f then take s else s

/-- HELLO (R440). -/
def execHello (f : RingFrame) (s : State) : Host.Outcome State Fault Refusal := .next (s.joinRx 1 f (fun s => s.helloTake f.src f.payload))

/-- SHARE (R440). -/
def execShare (f : RingFrame) (s : State) : Host.Outcome State Fault Refusal := .next (s.joinRx 2 f (fun s => s.shareTake f.src f.payload))

/-! ## Time and phase (R285, R439, R444) -/

/-- RNG_LOOP. -/
def State.ringLoop (s : State) : Nat := s.reg (rngA 0x10)

/-- Delay of a path in ps: CORR, and the share of the loop delay (units of 1/16 ns) that `segs` of `all` segments have. -/
def pathPs (corr segs loop all : Nat) : Nat := corr + segs * loop * 1000 / (16 * max 1 all)

/-- Module time in ps. -/
def State.timePs (s : State) : Nat := s.timeNs * 1000 + s.timeRem * 1000 / 110000

/-- A TIME frame: LOOP, TAI_VALID, the offset; with TIME_FROM_RING and TAI_VALID it steers module time.
Log entry 181 (DEDUCED). -/
def State.timeTake (s : State) (b : List Byte) : State :=
  let valid := fieldLe b 18 1 % 2 == 1
  let loop := fieldLe b 20 4
  let master := fieldLe b 0 8 * 1000 + pathPs (fieldLe b 8 8) (fieldLe b 16 2) loop (fieldLe b 24 1)
  let off : Int := (s.timePs : Int) - (master : Int)
  let s := (s.setReg (rngA 0x10) loop).setReg64 (rngA 8) (ofInt 64 (off / 1000))
  let s := { s with ring := { s.ring with lastTime := s.cycle } }.setRbit (rngA 4) 25 valid
  if valid ∧ s.rbit (rngA 0) 29 then
    let s := s.asMessage off (master / 1000) 10000
    (s.setRbit (rngA 4) 26 (decide (16 ≤ s.thy.syncRun))).leaseTai
  else s

/-- TIME_FRAME (R444). -/
def execTimeFrame (f : RingFrame) (s : State) : Host.Outcome State Fault Refusal := .next (s.ringTake 1 f State.timeTake)

/-- A PHASE frame on a module with SEL 5: the phase at arrival is the one sent, moved on by v over the calibrated delay.
Log entry 183 (DEDUCED). -/
def State.phaseTake (s : State) (b : List Byte) : State :=
  if s.thySel ≠ 5 ∨ !s.thyOn then s
  else
    let s := s.thyResume
    let v := fieldLe b 16 8
    let delay := pathPs (fieldLe b 32 8) (fieldLe b 40 2) s.ringLoop s.ring.segments
    let at_ : Int := (((fieldLe b 0 4 * s.thyCpc + fieldLe b 4 4) * 2 ^ 32 + fieldLe b 8 4 : Nat) : Int) + velAdvance v delay
    let (c, n, fr) := phaseOf s.thyCpc at_
    let frames := if s.ringLoop = 0 then 0 else s.thy.ringFrames + 1
    let s := { s with thy := { s.thy with ringBase := (c, n, fr, s.timeNs), ringFrames := frames, lastInput := s.cycle } }
    (s.setReg64 (thyA 0x30) v).setLock (if 16 ≤ frames then 2 else 1)

/-- PHASE_FRAME (R285). -/
def execPhaseFrame (f : RingFrame) (s : State) : Host.Outcome State Fault Refusal := .next (s.ringTake 2 f State.phaseTake)

/-- A CAL frame that has returned to the time master gives it the loop delay.
Log entry 181 (DEDUCED). -/
def State.calTake (s : State) (b : List Byte) : State :=
  if !s.rbit (rngA 0) 30 then s
  else
    let ps : Int := (s.timePs : Int) - (fieldLe b 0 8 * 1000 + fieldLe b 8 8 : Nat)
    s.setReg (rngA 0x10) (ps.toNat * 16 / 1000)

/-- CAL_FRAME (R444). -/
def execCalFrame (f : RingFrame) (s : State) : Host.Outcome State Fault Refusal := .next (s.ringRx 10 f (fun s _ => s) State.calTake)

/-- TIME_LOCK_LAPSE (R444): 100 ms without a TIME frame. -/
def execTimeLockLapse (s : State) : Host.Outcome State Fault Refusal :=
  .next (if s.rbit (rngA 4) 26 ∧ s.ring.lastTime + 110000000 ≤ s.cycle then s.setRbit (rngA 4) 26 false else s)

/-- Whether the node sends a periodic frame: a member, once in each period. -/
def State.sendDue (s : State) (period last : Nat) : Bool := s.ringState == 2 && decide (last < s.timeNs / period)

/-- TIME_FRAME_SEND (R438).
Log entry 183 (DEDUCED). -/
def execTimeFrameSend (s : State) : Host.Outcome State Fault Refusal :=
  if s.rbit (rngA 0) 30 ∧ s.sendDue 1000000 s.ring.sentTime then
    let s := { s with ring := { s.ring with sentTime := s.timeNs / 1000000 } }
    let tai := s.asState == 2
    .next (s.ringSend 1 0xFF (natLe 8 s.timeNs ++ zeros 10 ++ natLe 1 (if tai then 1 else 0) ++ zeros 1 ++ natLe 4 s.ringLoop ++
      natLe 1 s.ring.segments ++ zeros 7))
  else .next s

/-- PHASE_FRAME_SEND (R285, R438): the Thyme ring master, whose SEL is not 5. -/
def execPhaseFrameSend (s : State) : Host.Outcome State Fault Refusal :=
  if s.rbit (thyA 0x14) 1 ∧ s.thySel ≠ 5 ∧ s.sendDue 50000 s.ring.sentPhase then
    let s := { s with ring := { s.ring with sentPhase := s.timeNs / 50000 } }
    let (c, n, f) := s.thyPhase
    .next (s.ringSend 2 0xFF (natLe 4 c ++ natLe 4 n ++ natLe 4 f ++ zeros 4 ++ natLe 8 s.phaseVel ++ natLe 8 s.timeNs ++ zeros 10 ++
      natLe 1 s.thyLock ++ zeros 5))
  else .next s

/-- CAL_FRAME_SEND (R438). -/
def execCalFrameSend (s : State) : Host.Outcome State Fault Refusal :=
  if s.rbit (rngA 0) 30 ∧ s.sendDue 1000000000 s.ring.sentCal then
    let s := { s with ring := { s.ring with sentCal := s.timeNs / 1000000000 } }
    .next (s.ringSend 10 0xFF (natLe 8 s.timeNs ++ zeros 8))
  else .next s

/-! ## Barriers, snapshots, activation, status (R162, R163, R378, R399, R445) -/

/-- A report of a member to the ring master of its context. -/
def State.reportTake (s : State) (src : Nat) (b : List Byte) : State :=
  let c := fieldLe b 0 1 % 32
  if s.barState c ≠ 1 ∨ s.ringMaster c ≠ some s.ring.node then s
  else
    let x := s.bar c
    (s.setBar c { x with reports := x.reports ++ [(fieldLe b 4 4, src)] }).ringDecide c

/-- BARRIER_REPORT_FRAME (R162). -/
def execBarrierReportFrame (f : RingFrame) (s : State) : Host.Outcome State Fault Refusal :=
  .next (s.ringTake 3 f (fun s b => s.reportTake f.src b))

/-- A release time from the ring master; after it the release commits at once, and LATE sets.
Log entry 184 (DEDUCED). -/
def State.releaseTake (s : State) (b : List Byte) : State :=
  let c := fieldLe b 0 1 % 32
  let t := fieldLe b 8 8
  if s.barState c ≠ 1 ∨ !s.rbit (ctxA c 0) 30 ∨ fieldLe b 4 4 ≠ s.barGen c then s
  else if t < s.timeNs then ((s.setRbit (ctxA c 0x18) 29 true).bump (barA 0x14)).barRelease c
  else s.setBar c { s.bar c with ringAt := some t }

/-- BARRIER_RELEASE_FRAME (R162, R163). -/
def execBarrierReleaseFrame (f : RingFrame) (s : State) : Host.Outcome State Fault Refusal := .next (s.ringTake 4 f State.releaseTake)

/-- SNAPSHOT_FRAME (R399, R438). -/
def execSnapshotFrame (f : RingFrame) (s : State) : Host.Outcome State Fault Refusal :=
  .next (s.ringTake 5 f (fun s b =>
    if s.rbit (dilA 0) 31 && s.rbit (dilA 0) 30 then s.addTrigger ⟨4, fieldLe b 8 4, 0xFFFFFFFF, true, fieldLe b 0 8⟩ else s))

/-- An activation frame arms the same point where the same package is staged. -/
def State.activateTake (s : State) (b : List Byte) : State :=
  if s.updState = 3 ∧ fieldLe b 0 16 = s.upd.stagedId then
    match s.armSet (fieldLe b 20 1) (fieldLe b 16 4) (fieldLe b 24 8) with
    | (s, 0) => s
    | (s, code) => s.updErr code
  else s.bump (updA 0x54)

/-- ACTIVATE_FRAME (R378). -/
def execActivateFrame (f : RingFrame) (s : State) : Host.Outcome State Fault Refusal := .next (s.ringTake 6 f State.activateTake)

/-- STATUS_FRAME (R445): another module's status, which this one only passes on. -/
def execStatusFrame (f : RingFrame) (s : State) : Host.Outcome State Fault Refusal := .next (s.ringTake 7 f (fun s _ => s))

/-- The status of this module. -/
def State.statusBytes (s : State) : List Byte :=
  let deg := s.srlState % 8 + (if s.faultN then 0 else 8) + (if s.rbit (pwrA 8) 31 then 16 else 0)
  natLe 8 serialNo ++ natLe 4 (s.reg (sgeA 0x18)) ++ natLe 1 (s.fld (modA 0x200) 31 28) ++ natLe 1 deg ++
  natLe 2 (s.fld (pwrA 0xC) 15 0) ++ zeros 16 ++
  (List.range 8).flatMap (fun p => natLe 8 (s.reg64 (paceA p 0)) ++ natLe 8 (s.reg64 (paceA p 8)) ++ natLe 4 (s.reg (paceA p 0x10)) ++ zeros 4)

/-- STATUS_FRAME_SEND (R438, R445). -/
def execStatusFrameSend (s : State) : Host.Outcome State Fault Refusal :=
  if s.sendDue 10000000 s.ring.sentStatus then
    .next ({ s with ring := { s.ring with sentStatus := s.timeNs / 10000000 } }.ringSend 7 0xFF s.statusBytes)
  else .next s

/-! ## Joining and leaving (R434, R440–R443) -/

/-- RETIMER_LOCK (R434, R441): lock on RING_IN for 1 ms. -/
def execRetimerLock (s : State) : Host.Outcome State Fault Refusal :=
  if s.start.dark ∨ s.start.held then .next s else .next (s.setRbit (rngA 4) 27 true).ringJoin

/-- RETIMER_LOCK_LOSS (R442). -/
def execRetimerLockLoss (s : State) : Host.Outcome State Fault Refusal :=
  let s := s.setRbit (rngA 4) 27 false
  .next (if s.ringState = 2 then s.ringReform else s)

/-- JOIN_TIMEOUT (R441): 200 ms after the bypass opened; the next attempt begins 1 s later.
Log entry 182 (DEDUCED). -/
def execJoinTimeout (s : State) : Host.Outcome State Fault Refusal :=
  if s.ringState = 1 ∧ s.ring.openedAt + 220000000 ≤ s.cycle then
    .next { s.ringClose 0 with ring := { (s.ringClose 0).ring with waitUntil := s.cycle + cyclesPerSecond } }
  else .next s

/-- A write of RNG_CTRL: EN makes the module leave or join; a write of NODE ends STATE 4 (R437, R443).
Log entry 182 (DEDUCED). -/
def State.rngCtrlWrite (s : State) (v : Nat) : State :=
  let w := putBits (putBits (putBits (putBits 0 31 29 (bits v 31 29)) 19 16 (bits v 19 16)) 12 8 (clampNat 2 16 (bits v 12 8))) 3 0 (bits v 3 0)
  let s := s.setReg (rngA 0) w
  if !bit v 31 then (if s.ringState = 0 ∨ s.ringState = 4 then s.setRing 0 else s.ringLeave 0)
  else if s.ringState = 4 then (s.setRing 0).ringJoin
  else s.ringJoin

/-- RING_EN_WRITE (R443, R451). -/
def execRingEnWrite (ini : Nat) (value : Word) (s : State) : Host.Outcome State Fault Refusal :=
  .next (s.guarded (isMgmt ini) ini (rngA 0) (s.rngCtrlWrite value.toNat))

/-- HOP_REKEY (R342): after 2^31 frames or 24 h under the key of the upstream link, its downstream node starts the exchange anew. -/
def execHopRekey (s : State) : Host.Outcome State Fault Refusal :=
  match s.ring.up with
  | some k =>
    .next (if s.ringState = 2 ∧ s.ring.hello.isNone ∧ (2 ^ 31 ≤ k.frames ∨ k.since + 86400000000000 ≤ s.timeNs) then s.helloSend k.node else s)
  | none => .next s

/-! ## The ring service (R446) -/

/-- A request of the ring service: from the controller's node alone.
Log entry 185 (DEDUCED). -/
def State.ringService (s : State) (src : Nat) (name : String) (f : State → State × Nat × List Byte) : State :=
  if s.ringState ≠ 2 ∨ !s.host.mctp then s
  else
    let s := s.bump (rngCount 0)
    if src ≠ s.fld (rngA 0) 19 16 then s.bump (rngCount 7)
    else
      let (s, code, data) := f s
      s.ringCount.send (.reply name 4 (natLe 1 code ++ data))

/-- Records of the store from a SEQ on, oldest first.
Log entry 185 (DEDUCED). -/
def State.storeFrom (s : State) (seq n : Nat) : List (List Byte) :=
  let k := s.sorrel.stored
  let m := min k 4096
  (((List.range m).map (fun i => s.hubRead (hubId 0) (0x480000 + (k - m + i) % 4096 * 64) 64)).filter (fun r => decide (seq ≤ fieldLe r 0 4))).take n

/-- READ_STORE. -/
def execReadStore (src : Fin 16) (first : Word) (count : BitVec 16) (s : State) : Host.Outcome State Fault Refusal :=
  .next (s.ringService src "READ_STORE" (fun s =>
    let n := count.toNat
    let l := s.storeFrom first.toNat n
    let s := s.unitRead (hubId 0) (hubBase + 0x480000) (64 * min s.sorrel.stored 4096)
    if n = 0 ∨ 16 < n then (s, 1, []) else if l.isEmpty then (s, 2, []) else (s, 0, l.flatten)))

/-- READ_SNAPSHOT.
Log entry 185 (DEDUCED). -/
def execReadSnapshot (src : Fin 16) (slot : BitVec 8) (off : Word) (len : BitVec 16) (s : State) : Host.Outcome State Fault Refusal :=
  .next (s.ringService src "READ_SNAPSHOT" (fun s =>
    let base := 0x4C0000 + slot.toNat * 0x100000
    if 4 ≤ slot.toNat ∨ 1000 < len.toNat ∨ 0x100000 < off.toNat + len.toNat then (s, 1, [])
    else if s.hubRead (hubId 0) base 4 ≠ ascii "YDS1" then (s, 2, [])
    else
      (s.unitReads (hubId 0) [(hubBase + base, 4), (hubBase + base + off.toNat, len.toNat)], 0,
        s.hubRead (hubId 0) (base + off.toNat) len.toNat)))

/-- READ_CHECKPOINT.
Log entry 185 (DEDUCED). -/
def execReadCheckpoint (src : Fin 16) (pipe buf : BitVec 8) (off : BitVec 64) (len : BitVec 16) (s : State) :
    Host.Outcome State Fault Refusal :=
  .next (s.ringService src "READ_CHECKPOINT" (fun s =>
    let size := s.reg (dilA 0x48)
    let base := s.reg64 (dilA 0x40) % 2 ^ 48 + (pipe.toNat * 2 + buf.toNat) * size
    if 8 ≤ pipe.toNat ∨ 2 ≤ buf.toNat ∨ 1000 < len.toNat ∨ size < off.toNat + len.toNat then (s, 1, [])
    else
      match s.devRead hubDmaId 0 base 4 with
      | (s, some m) =>
        if m ≠ ascii "YCP1" then (s, 2, [])
        else
          match s.devRead hubDmaId 0 (base + off.toNat) len.toNat with
          | (s, some b) => (s, 0, b)
          | (s, none) => (s, 2, [])
      | (s, none) => (s, 2, [])))

/-- READ_COUNTERS. -/
def execReadCounters (src : Fin 16) (off : Word) (len : BitVec 16) (s : State) : Host.Outcome State Fault Refusal :=
  .next (s.ringService src "READ_COUNTERS" (fun s =>
    if 1000 < len.toNat ∨ 65536 < off.toNat + len.toNat then (s, 1, [])
    else
      match s.nvs.snapshots.getLast? with
      | none => (s, 2, [])
      | some b => (s, 0, slice b off.toNat len.toNat)))

/-- FORCE_ALL: every enabled flow is forced with REASON 4; the answer follows. -/
def execForceAll (src : Fin 16) (s : State) : Host.Outcome State Fault Refusal :=
  .next (s.ringService src "FORCE_ALL" (fun s => (s.forceFlows s.flowEn 4, 0, [])))

end Sys2Proof.Machine
end

