-- ==== Sys2Proof/Machine/Tile.lean ====
section
/-!
DEFINITION. The commands of the tile cores (R75–R110, R131): launch, kernels, command descriptors, completion, abort, halo.
-/
namespace Sys2Proof.Machine

/-- The descriptor of a row, as 48 words with the row's OPCODE. -/
def withOp (op : Nat) (desc : List Word) : List Nat :=
  let ws := (List.range 48).map (fun i => (desc.getD i 0).toNat)
  ws.set 0 (putBits (dw ws 0) 31 24 op)

/-- The descriptor of a vector operation's row. -/
def withVop (v : Nat) (desc : List Word) : List Nat :=
  let ws := withOp 0x20 desc
  ws.set 4 (putBits (dw ws 4) 31 24 v)

/-- The opcodes of R89. -/
def knownOp (op : Nat) : Bool := [0x01, 0x02, 0x10, 0x11, 0x12, 0x18, 0x20, 0x30].contains op

/-- The source of a staging window (R79, R109): 0 management, 1 the cluster's work distributor, 2 and 3 its application
cores. -/
def windowOwner (ini d c win : Nat) : Bool :=
  match win with
  | 0 => isMgmt ini
  | 1 => ini == mkId d c 12 0
  | w => ini == acId d c (w - 2)

/-- The write of a staging window's last word (R79). -/
def State.pushWindow (s : State) (ini : Nat) (x : Core3) (win value : Nat) : State :=
  let a := x.reg (0x100 + 0x20 * win)
  s.guarded (windowOwner ini x.d x.c win) ini (a + 0x1C)
    (let s := s.setReg (a + 0x1C) value
     s.launchPush x { data := natLe 32 (s.regWords a 8), source := win })

/-- LAUNCH_RECORD_PUSH (R79). -/
def execLaunchRecordPush (ini : Nat) (d : Fin 4) (c : Fin 8) (sl : Fin 9) (win : Fin 4) (value : Word) (s : State) :
    Host.Outcome State Fault Refusal :=
  .next (s.pushWindow ini ⟨d, c, sl⟩ win value.toNat)

/-- KERNEL_START (R80). -/
def execKernelStart (d : Fin 4) (c : Fin 8) (sl : Fin 9) (s : State) : Host.Outcome State Fault Refusal :=
  .next (s.kernelStart ⟨d, c, sl⟩)

/-- CODE_FETCH_DONE (R80).
Log entry 56 (DESIGN CHOICE). -/
def execCodeFetchDone (d : Fin 4) (c : Fin 8) (sl : Fin 9) (s : State) : Host.Outcome State Fault Refusal :=
  .next (s.codeFetched ⟨d, c, sl⟩)

/-- The kernel ends: its program has ended, or a command failed, and nothing issued is outstanding (R107), a NOP or SYNC that
the sequencer stalls on included.
Log entry 47 (DEDUCED). -/
def State.kernelEnd (s : State) (x : Core3) : State :=
  let t := s.tileGet x
  match t.kernel with
  | some k =>
    if k.fetching || k.aborting || !t.cmds.isEmpty || t.stall.isSome then s
    else s.endKernel x (if k.err.isSome then 2 else 0)
  | none => s

/-- KERNEL_END (R107). -/
def execKernelEnd (d : Fin 4) (c : Fin 8) (sl : Fin 9) (s : State) : Host.Outcome State Fault Refusal :=
  .next (s.kernelEnd ⟨d, c, sl⟩)

/-- COMMAND_COMPLETE (R77). -/
def execCommandComplete (d : Fin 4) (c : Fin 8) (sl : Fin 9) (queue : Fin 4) (s : State) : Host.Outcome State Fault Refusal :=
  .next (s.cmdComplete ⟨d, c, sl⟩ queue)

/-- NOP (R89). A descriptor whose OPCODE R89 does not list, or a VOP whose VOPC R98 does not list, keeps it and fails the
check of R90. -/
def execNop (d : Fin 4) (c : Fin 8) (sl : Fin 9) (desc : List Word) (s : State) : Host.Outcome State Fault Refusal :=
  let raw := withOp ((desc.getD 0 0).toNat / 2 ^ 24) desc
  let bad := !knownOp (opcode raw) || (opcode raw == 0x20 && !vopKnown (vCode raw))
  .next (s.issue ⟨d, c, sl⟩ (if bad then raw else withOp 0x01 desc) [])

/-- SYNC with MODE 0: wait (R89). -/
def execSyncWait (d : Fin 4) (c : Fin 8) (sl : Fin 9) (desc : List Word) (s : State) : Host.Outcome State Fault Refusal :=
  let ws := withOp 0x02 desc
  .next (s.issue ⟨d, c, sl⟩ (ws.set 4 (putBit (dw ws 4) 31 false)) [])

/-- SYNC with MODE 1: signal (R89). -/
def execSyncSignal (d : Fin 4) (c : Fin 8) (sl : Fin 9) (desc : List Word) (s : State) : Host.Outcome State Fault Refusal :=
  let ws := withOp 0x02 desc
  .next (s.issue ⟨d, c, sl⟩ (ws.set 4 (putBit (dw ws 4) 31 true)) [])

/-- MMA (R93). -/
def execMma (d : Fin 4) (c : Fin 8) (sl : Fin 9) (desc : List Word) (s : State) : Host.Outcome State Fault Refusal :=
  .next (s.issue ⟨d, c, sl⟩ (withOp 0x10 desc) [])

/-- CONV (R119). -/
def execConv (d : Fin 4) (c : Fin 8) (sl : Fin 9) (desc : List Word) (s : State) : Host.Outcome State Fault Refusal :=
  .next (s.issue ⟨d, c, sl⟩ (withOp 0x11 desc) [])

/-- ATTN (R196). -/
def execAttn (d : Fin 4) (c : Fin 8) (sl : Fin 9) (desc : List Word) (s : State) : Host.Outcome State Fault Refusal :=
  .next (s.issue ⟨d, c, sl⟩ (withOp 0x12 desc) [])

/-- XRD (R96). -/
def execXrd (d : Fin 4) (c : Fin 8) (sl : Fin 9) (desc : List Word) (s : State) : Host.Outcome State Fault Refusal :=
  .next (s.issue ⟨d, c, sl⟩ (withOp 0x18 desc) [])

/-- DMA (R103). -/
def execDma (d : Fin 4) (c : Fin 8) (sl : Fin 9) (desc : List Word) (upsets : List Upset) (badBlocks : List Nat) (s : State) :
    Host.Outcome State Fault Refusal :=
  .next ((s.upset upsets).issue ⟨d, c, sl⟩ (withOp 0x30 desc) badBlocks)

/-- MOV: vector operation 0x00, copies elements (R98). -/
def execMov (d : Fin 4) (c : Fin 8) (sl : Fin 9) (desc : List Word) (s : State) : Host.Outcome State Fault Refusal :=
  .next (s.issue ⟨d, c, sl⟩ (withVop 0x00 desc) [])

/-- CVT: vector operation 0x01, converts elements between formats (R98). -/
def execCvt (d : Fin 4) (c : Fin 8) (sl : Fin 9) (desc : List Word) (s : State) : Host.Outcome State Fault Refusal :=
  .next (s.issue ⟨d, c, sl⟩ (withVop 0x01 desc) [])

/-- MXQ: vector operation 0x02, makes MX blocks and their scales (R98). -/
def execMxq (d : Fin 4) (c : Fin 8) (sl : Fin 9) (desc : List Word) (s : State) : Host.Outcome State Fault Refusal :=
  .next (s.issue ⟨d, c, sl⟩ (withVop 0x02 desc) [])

/-- MXD: vector operation 0x03, widens MX elements (R98). -/
def execMxd (d : Fin 4) (c : Fin 8) (sl : Fin 9) (desc : List Word) (s : State) : Host.Outcome State Fault Refusal :=
  .next (s.issue ⟨d, c, sl⟩ (withVop 0x03 desc) [])

/-- ADD: vector operation 0x08, adds (R98). -/
def execAdd (d : Fin 4) (c : Fin 8) (sl : Fin 9) (desc : List Word) (s : State) : Host.Outcome State Fault Refusal :=
  .next (s.issue ⟨d, c, sl⟩ (withVop 0x08 desc) [])

/-- SUB: vector operation 0x09, subtracts (R98). -/
def execSub (d : Fin 4) (c : Fin 8) (sl : Fin 9) (desc : List Word) (s : State) : Host.Outcome State Fault Refusal :=
  .next (s.issue ⟨d, c, sl⟩ (withVop 0x09 desc) [])

/-- MUL: vector operation 0x0A, multiplies (R98). -/
def execMul (d : Fin 4) (c : Fin 8) (sl : Fin 9) (desc : List Word) (s : State) : Host.Outcome State Fault Refusal :=
  .next (s.issue ⟨d, c, sl⟩ (withVop 0x0A desc) [])

/-- DIV: vector operation 0x0B, divides (R98). -/
def execDiv (d : Fin 4) (c : Fin 8) (sl : Fin 9) (desc : List Word) (s : State) : Host.Outcome State Fault Refusal :=
  .next (s.issue ⟨d, c, sl⟩ (withVop 0x0B desc) [])

/-- FMA: vector operation 0x0C, fused multiply-add (R98). -/
def execFma (d : Fin 4) (c : Fin 8) (sl : Fin 9) (desc : List Word) (s : State) : Host.Outcome State Fault Refusal :=
  .next (s.issue ⟨d, c, sl⟩ (withVop 0x0C desc) [])

/-- MIN: vector operation 0x0D, minimumNumber (R98). -/
def execMin (d : Fin 4) (c : Fin 8) (sl : Fin 9) (desc : List Word) (s : State) : Host.Outcome State Fault Refusal :=
  .next (s.issue ⟨d, c, sl⟩ (withVop 0x0D desc) [])

/-- MAX: vector operation 0x0E, maximumNumber (R98). -/
def execMax (d : Fin 4) (c : Fin 8) (sl : Fin 9) (desc : List Word) (s : State) : Host.Outcome State Fault Refusal :=
  .next (s.issue ⟨d, c, sl⟩ (withVop 0x0E desc) [])

/-- ABS: vector operation 0x0F, absolute values (R98). -/
def execAbs (d : Fin 4) (c : Fin 8) (sl : Fin 9) (desc : List Word) (s : State) : Host.Outcome State Fault Refusal :=
  .next (s.issue ⟨d, c, sl⟩ (withVop 0x0F desc) [])

/-- NEG: vector operation 0x10, negates (R98). -/
def execNeg (d : Fin 4) (c : Fin 8) (sl : Fin 9) (desc : List Word) (s : State) : Host.Outcome State Fault Refusal :=
  .next (s.issue ⟨d, c, sl⟩ (withVop 0x10 desc) [])

/-- SQRT: vector operation 0x11, square roots (R98). -/
def execSqrt (d : Fin 4) (c : Fin 8) (sl : Fin 9) (desc : List Word) (s : State) : Host.Outcome State Fault Refusal :=
  .next (s.issue ⟨d, c, sl⟩ (withVop 0x11 desc) [])

/-- RECIP: vector operation 0x12, reciprocals (R98). -/
def execRecip (d : Fin 4) (c : Fin 8) (sl : Fin 9) (desc : List Word) (s : State) : Host.Outcome State Fault Refusal :=
  .next (s.issue ⟨d, c, sl⟩ (withVop 0x12 desc) [])

/-- RSQRT: vector operation 0x13, reciprocal square roots (R98). -/
def execRsqrt (d : Fin 4) (c : Fin 8) (sl : Fin 9) (desc : List Word) (s : State) : Host.Outcome State Fault Refusal :=
  .next (s.issue ⟨d, c, sl⟩ (withVop 0x13 desc) [])

/-- EXP: vector operation 0x18, exponential (R98). -/
def execExp (d : Fin 4) (c : Fin 8) (sl : Fin 9) (desc : List Word) (s : State) : Host.Outcome State Fault Refusal :=
  .next (s.issue ⟨d, c, sl⟩ (withVop 0x18 desc) [])

/-- EXP2: vector operation 0x19, base-2 exponential (R98). -/
def execExp2 (d : Fin 4) (c : Fin 8) (sl : Fin 9) (desc : List Word) (s : State) : Host.Outcome State Fault Refusal :=
  .next (s.issue ⟨d, c, sl⟩ (withVop 0x19 desc) [])

/-- LOG: vector operation 0x1A, natural logarithm (R98). -/
def execLog (d : Fin 4) (c : Fin 8) (sl : Fin 9) (desc : List Word) (s : State) : Host.Outcome State Fault Refusal :=
  .next (s.issue ⟨d, c, sl⟩ (withVop 0x1A desc) [])

/-- LOG2: vector operation 0x1B, base-2 logarithm (R98). -/
def execLog2 (d : Fin 4) (c : Fin 8) (sl : Fin 9) (desc : List Word) (s : State) : Host.Outcome State Fault Refusal :=
  .next (s.issue ⟨d, c, sl⟩ (withVop 0x1B desc) [])

/-- EXPM1: vector operation 0x1C, exp(x) − 1 (R98). -/
def execExpm1 (d : Fin 4) (c : Fin 8) (sl : Fin 9) (desc : List Word) (s : State) : Host.Outcome State Fault Refusal :=
  .next (s.issue ⟨d, c, sl⟩ (withVop 0x1C desc) [])

/-- LOG1P: vector operation 0x1D, log(1 + x) (R98). -/
def execLog1p (d : Fin 4) (c : Fin 8) (sl : Fin 9) (desc : List Word) (s : State) : Host.Outcome State Fault Refusal :=
  .next (s.issue ⟨d, c, sl⟩ (withVop 0x1D desc) [])

/-- SIN: vector operation 0x1E, sine (R98). -/
def execSin (d : Fin 4) (c : Fin 8) (sl : Fin 9) (desc : List Word) (s : State) : Host.Outcome State Fault Refusal :=
  .next (s.issue ⟨d, c, sl⟩ (withVop 0x1E desc) [])

/-- COS: vector operation 0x1F, cosine (R98). -/
def execCos (d : Fin 4) (c : Fin 8) (sl : Fin 9) (desc : List Word) (s : State) : Host.Outcome State Fault Refusal :=
  .next (s.issue ⟨d, c, sl⟩ (withVop 0x1F desc) [])

/-- TANH: vector operation 0x20, hyperbolic tangent (R98). -/
def execTanh (d : Fin 4) (c : Fin 8) (sl : Fin 9) (desc : List Word) (s : State) : Host.Outcome State Fault Refusal :=
  .next (s.issue ⟨d, c, sl⟩ (withVop 0x20 desc) [])

/-- SIGMOID: vector operation 0x21, sigmoid (R98). -/
def execSigmoid (d : Fin 4) (c : Fin 8) (sl : Fin 9) (desc : List Word) (s : State) : Host.Outcome State Fault Refusal :=
  .next (s.issue ⟨d, c, sl⟩ (withVop 0x21 desc) [])

/-- ERF: vector operation 0x22, error function (R98). -/
def execErf (d : Fin 4) (c : Fin 8) (sl : Fin 9) (desc : List Word) (s : State) : Host.Outcome State Fault Refusal :=
  .next (s.issue ⟨d, c, sl⟩ (withVop 0x22 desc) [])

/-- GELU: vector operation 0x23, GELU (R98). -/
def execGelu (d : Fin 4) (c : Fin 8) (sl : Fin 9) (desc : List Word) (s : State) : Host.Outcome State Fault Refusal :=
  .next (s.issue ⟨d, c, sl⟩ (withVop 0x23 desc) [])

/-- CMP: vector operation 0x28, compares by a predicate (R98). -/
def execCmp (d : Fin 4) (c : Fin 8) (sl : Fin 9) (desc : List Word) (s : State) : Host.Outcome State Fault Refusal :=
  .next (s.issue ⟨d, c, sl⟩ (withVop 0x28 desc) [])

/-- SEL: vector operation 0x29, selects by a condition (R98). -/
def execSel (d : Fin 4) (c : Fin 8) (sl : Fin 9) (desc : List Word) (s : State) : Host.Outcome State Fault Refusal :=
  .next (s.issue ⟨d, c, sl⟩ (withVop 0x29 desc) [])

/-- RSUM: vector operation 0x30, row sums (R99). -/
def execRsum (d : Fin 4) (c : Fin 8) (sl : Fin 9) (desc : List Word) (s : State) : Host.Outcome State Fault Refusal :=
  .next (s.issue ⟨d, c, sl⟩ (withVop 0x30 desc) [])

/-- RMAX: vector operation 0x31, row maxima (R98). -/
def execRmax (d : Fin 4) (c : Fin 8) (sl : Fin 9) (desc : List Word) (s : State) : Host.Outcome State Fault Refusal :=
  .next (s.issue ⟨d, c, sl⟩ (withVop 0x31 desc) [])

/-- RMIN: vector operation 0x32, row minima (R98). -/
def execRmin (d : Fin 4) (c : Fin 8) (sl : Fin 9) (desc : List Word) (s : State) : Host.Outcome State Fault Refusal :=
  .next (s.issue ⟨d, c, sl⟩ (withVop 0x32 desc) [])

/-- RDOT: vector operation 0x33, row dot products (R98). -/
def execRdot (d : Fin 4) (c : Fin 8) (sl : Fin 9) (desc : List Word) (s : State) : Host.Outcome State Fault Refusal :=
  .next (s.issue ⟨d, c, sl⟩ (withVop 0x33 desc) [])

/-- SMAX: vector operation 0x38, row softmax (R100). -/
def execSmax (d : Fin 4) (c : Fin 8) (sl : Fin 9) (desc : List Word) (s : State) : Host.Outcome State Fault Refusal :=
  .next (s.issue ⟨d, c, sl⟩ (withVop 0x38 desc) [])

/-- RMSN: vector operation 0x39, row RMS normalisation (R100). -/
def execRmsn (d : Fin 4) (c : Fin 8) (sl : Fin 9) (desc : List Word) (s : State) : Host.Outcome State Fault Refusal :=
  .next (s.issue ⟨d, c, sl⟩ (withVop 0x39 desc) [])

/-- LNRM: vector operation 0x3A, row layer normalisation (R100). -/
def execLnrm (d : Fin 4) (c : Fin 8) (sl : Fin 9) (desc : List Word) (s : State) : Host.Outcome State Fault Refusal :=
  .next (s.issue ⟨d, c, sl⟩ (withVop 0x3A desc) [])

/-- IADD: vector operation 0x40, adds INT32 (R98). -/
def execIadd (d : Fin 4) (c : Fin 8) (sl : Fin 9) (desc : List Word) (s : State) : Host.Outcome State Fault Refusal :=
  .next (s.issue ⟨d, c, sl⟩ (withVop 0x40 desc) [])

/-- ISUB: vector operation 0x41, subtracts INT32 (R98). -/
def execIsub (d : Fin 4) (c : Fin 8) (sl : Fin 9) (desc : List Word) (s : State) : Host.Outcome State Fault Refusal :=
  .next (s.issue ⟨d, c, sl⟩ (withVop 0x41 desc) [])

/-- IMUL: vector operation 0x42, multiplies INT32 (R98). -/
def execImul (d : Fin 4) (c : Fin 8) (sl : Fin 9) (desc : List Word) (s : State) : Host.Outcome State Fault Refusal :=
  .next (s.issue ⟨d, c, sl⟩ (withVop 0x42 desc) [])

/-- ISHR: vector operation 0x43, shifts INT32 right with rounding (R98). -/
def execIshr (d : Fin 4) (c : Fin 8) (sl : Fin 9) (desc : List Word) (s : State) : Host.Outcome State Fault Refusal :=
  .next (s.issue ⟨d, c, sl⟩ (withVop 0x43 desc) [])

/-- GATH: vector operation 0x48, gathers through indices (R101). -/
def execGath (d : Fin 4) (c : Fin 8) (sl : Fin 9) (desc : List Word) (s : State) : Host.Outcome State Fault Refusal :=
  .next (s.issue ⟨d, c, sl⟩ (withVop 0x48 desc) [])

/-- SCAT: vector operation 0x49, scatters through indices (R101). -/
def execScat (d : Fin 4) (c : Fin 8) (sl : Fin 9) (desc : List Word) (s : State) : Host.Outcome State Fault Refusal :=
  .next (s.issue ⟨d, c, sl⟩ (withVop 0x49 desc) [])

/-- SCADD: vector operation 0x4A, scatter-adds (R101). -/
def execScadd (d : Fin 4) (c : Fin 8) (sl : Fin 9) (desc : List Word) (s : State) : Host.Outcome State Fault Refusal :=
  .next (s.issue ⟨d, c, sl⟩ (withVop 0x4A desc) [])

/-- A write of TC_CTRL.HALT (R108). -/
def execTcHalt (ini : Nat) (d : Fin 4) (c : Fin 8) (sl : Fin 9) (halt : Bool) (s : State) : Host.Outcome State Fault Refusal :=
  let a := tcA d c sl 0x4
  .next (s.guarded (isMgmt ini) ini a (s.setRbit a 0 halt))

/-- ABORT of the running kernel (R108): in the cycle in which its last command completes, the kernel ends as it would and
ABORT_LATE is set. -/
def State.tcAbort (s : State) (x : Core3) (tie : Bool) : State :=
  let t := s.tileGet x
  match t.kernel with
  | none => s
  | some k =>
    if tie && t.cmds.isEmpty && t.stall.isNone && !k.fetching && !k.aborting then
      (s.setRbit (x.reg 0x8) 27 true).endKernel x (if k.err.isSome then 2 else 0)
    else s.abortSlot x

/-- A write of TC_CTRL.ABORT (R108). -/
def execTcAbort (ini : Nat) (d : Fin 4) (c : Fin 8) (sl : Fin 9) (tie : Bool) (s : State) : Host.Outcome State Fault Refusal :=
  .next (s.guarded (isMgmt ini) ini (tcA d c sl 0x4) (s.tcAbort ⟨d, c, sl⟩ tie))

/-- A write of ABORT with FLUSH (R108). -/
def execTcFlush (ini : Nat) (d : Fin 4) (c : Fin 8) (sl : Fin 9) (tie : Bool) (s : State) : Host.Outcome State Fault Refusal :=
  .next (s.guarded (isMgmt ini) ini (tcA d c sl 0x4) ((s.flushQueue ⟨d, c, sl⟩).tcAbort ⟨d, c, sl⟩ tie))

/-- ABORT_COMPLETE (R108). -/
def execAbortComplete (d : Fin 4) (c : Fin 8) (sl : Fin 9) (s : State) : Host.Outcome State Fault Refusal :=
  .next (s.abortDone ⟨d, c, sl⟩)

/-- HALO_DEADLINE_EXPIRY (R131 step 4): the first halo wait of the slot whose deadline cycle has passed. One that has not
reached its block registers first, where a value at the threshold meets it (R155). -/
def execHaloDeadlineExpiry (d : Fin 4) (c : Fin 8) (sl : Fin 9) (s : State) : Host.Outcome State Fault Refusal :=
  let x : Core3 := ⟨d, c, sl⟩
  let late := fun (w : Waiter) =>
    (match w.who with | .halo k _ => k == x.ix | _ => false) && (match w.deadline with | some e => decide (e < s.cycle) | none => false)
  match (s.sync.waiters ++ s.sync.arriving).find? late with
  | some w =>
    match w.who with
    | .halo _ n =>
      let early := s.sync.arriving.contains w && decide (w.thr ≤ s.obj w.obj)
      let s := s.cancelWaits (fun v => decide (v.who = .halo x.ix n))
      .next (if early then s.haloMet x n else s.haloLate x n)
    | _ => .next s
  | none => .next s

/-- HALO_MAILBOX_COPY_DONE (R131 steps 2 and 3). -/
def execHaloMailboxCopyDone (d : Fin 4) (c : Fin 8) (sl : Fin 9) (s : State) : Host.Outcome State Fault Refusal :=
  .next (s.haloMailDone ⟨d, c, sl⟩)

/-- HALO_ALT_COPY_DONE (R131 step 4). -/
def execHaloAltCopyDone (d : Fin 4) (c : Fin 8) (sl : Fin 9) (s : State) : Host.Outcome State Fault Refusal :=
  .next (s.haloAltDone ⟨d, c, sl⟩)

end Sys2Proof.Machine
end

