-- ==== Sys2Proof/Machine/RegWrite.lean ====
section
/-!
DEFINITION. Register accesses as a whole (R7, R8, R10): rights, the access codes, and for every word with behaviour of its own
the operation that a write starts; loads and stores of the application cores (R139–R143); DISCARD (R371).
-/
namespace Sys2Proof.Machine

/-! ## Rights (R79, R109, R167, R310, R332, R359) -/

/-- The debug access port's initiator ID (R11). -/
def dapId : Nat := 0xFC00

/-- Writers of management's fields: management cores, management functions, and the debug access port, which R359 admits
under DEBUG_CONTROL.
Log entry 187 (DEDUCED). -/
def mgmtLike (ini : Nat) : Bool := isMgmt ini || ini == dapId

/-- The die that holds a register page; 4 for the hub. -/
def regDie (a : Nat) : Nat := if a < 0x0C0000000000 ∨ 0x0C0004000000 ≤ a then 4 else (a - 0x0C0000000000) / 0x1000000

/-- Whether a fenced link cuts an initiator off from a register page (R23, R391).
Log entry 23 (DEDUCED). -/
def State.regCut (s : State) (ini a : Nat) : Bool :=
  let d := if idDie ini < 4 then idDie ini else 4
  (routeLinks d (regDie a) a).any (fun l => s.sorrel.fenced.contains (0x5000 + l))

/-- The cluster of a register page of a compute die, and the page's number in it. -/
def pageOf (a : Nat) : Nat × Nat × Nat :=
  let r := a - 0x0C0000000000
  (r / 0x1000000, r % 0x1000000 / 0x100000, r % 0x100000 / 0x10000)

/-- The DROP bits that an initiator may clear beside management: its own (R109). -/
def ownDrop (ini d c : Nat) : Nat :=
  if ini = mkId d c 12 0 then 2 ^ 29 else if ini = acId d c 0 then 2 ^ 30 else if ini = acId d c 1 then 2 ^ 31 else 0

/-- The right of the register that holds an offset; an offset without a register has its page's. -/
def rightAt (b : Blk) (off : Nat) : Right :=
  match findReg (blkRegs b) off with
  | some (r, _, _) => r.right
  | none => if b = .fn then .bar0 else .mgmt

/-- Whether an initiator may write value `v` to a register word. -/
def State.regRight (s : State) (ini : Nat) (b : Blk) (a off v : Nat) : Bool :=
  let (d, c, p) := pageOf a
  match rightAt b off with
  | .mgmt =>
    mgmtLike ini ||
    (b == .tc && off == 0x20 && ownDrop ini d c != 0 && v &&& (0xF0000000 - ownDrop ini d c) == 0)
  | .hart => ini == acId d c (p - 9)
  | .window => windowOwner ini d c ((off - 0x100) / 0x20)
  | .bar0 =>
    let t := (a - 0x1000000000000) / 0x10000
    idDie ini == 7 && t != 0 && idUnit ini == t && s.onPort (idClu ini) t

/-! ## The access codes (R8) -/

/-- A word after a write under its access codes: RW and RWP fields take the value, RW1C bits written 1 clear. -/
def RegSpec.merge (r : RegSpec) (w old v : Nat) : Nat :=
  let rw := r.maskOf w (fun x => x == .rw || x == .rwp)
  let one := r.maskOf w (· == .rw1c)
  ((old &&& (0xFFFFFFFF - rw)) ||| (v &&& rw)) &&& (0xFFFFFFFF - (v &&& one))

/-- A field of a word held within a range. -/
def clampFld (v hi lo least most : Nat) : Nat := putBits v hi lo (clampNat least most (bits v hi lo))

/-- The fields that a write outside their range holds at the nearer limit.
Log entry 18 (DEDUCED). -/
def clampWord (a v : Nat) : Nat :=
  if a = modA 0x114 then clampFld v 31 0 60 86400
  else if a = modA 0x118 ∨ a = modA 0x11C then clampFld v 31 0 3600 604800
  else if a = barA 0x10 then clampFld v 31 0 2000 1000000
  else if a = kvpA 8 then clampFld v 4 0 1 20
  else if a = rqtA 0 then clampFld v 31 16 100 65535
  else if a = srlA 4 then clampFld v 31 0 1 3600
  else if a = dilA 4 then (if v = 0 then 0 else clampFld v 31 0 10 86400000)
  else if a = pwrA 0 then clampFld v 10 0 400 1600
  else if a = pwrA 4 then clampFld (clampFld v 15 8 105 200) 7 0 2 15
  else if a = nvsA 0x10 then clampFld (clampFld v 31 16 1 3600) 15 0 1 600
  else if a = nvsA 0x14 then clampFld v 31 0 60 86400
  else v

/-- A write of a word whose fields have no behaviour of their own.
Log entries 14 (DEDUCED), 18 (DEDUCED). -/
def State.putWord (s : State) (a v : Nat) : State :=
  match regAt a with
  | some (r, _, w) => s.setReg a (clampWord a (r.merge w (s.reg a) v))
  | none => s

/-! ## Words with behaviour of their own -/

/-- A tile-core page (R74, R79, R108).
Log entry 16 (DESIGN CHOICE). -/
def State.tcWordWrite (s : State) (ini : Nat) (x : Core3) (off v : Nat) : State :=
  let a := x.reg off
  if off = 0x4 then
    let s := s.setRbit a 0 (bit v 0)
    if bit v 1 then (if bit v 2 then s.flushQueue x else s).tcAbort x false else s
  else if 0x100 ≤ off ∧ off < 0x180 then
    if off % 0x20 = 0x1C then s.pushWindow ini x ((off - 0x100) / 0x20) v else s.setReg a v
  else if off = 0x300 then s.putWord a (v &&& (0xFFFFFFFF - s.flagsNow x))
  else s.putWord a v

/-- An application core's page (R146–R150).
Log entry 16 (DESIGN CHOICE). -/
def State.acWordWrite (s : State) (x : AcCore) (off v : Nat) : State :=
  let a := x.reg off
  if off = 0x4 then
    let s := s.acHalt x (bit v 1)
    let s := if bit v 0 then s.acStart x else s
    if bit v 2 then s.acReset x else s
  else if off = 0x104 then s.acSignal x v
  else if 0x110 ≤ off ∧ off < 0x150 ∧ off % 16 = 0 ∧ bit v 31 then s.acArm x ((off - 0x110) / 16) v
  else if off = 0x214 then s.acMsgIn x v
  else if off = 0x21C then s.acMsgOut x v
  else s.putWord a v

/-- A field-port word: flow descriptors and commands, and the gate-control list (R296, R300, R302, R453).
Log entry 16 (DESIGN CHOICE). -/
def State.fptWordWrite (s : State) (off v : Nat) : State :=
  let a := fptA off
  if 0x2000 ≤ off ∧ off < 0x3000 then s.flowDescWrite ((off - 0x2000) / 0x40) (off % 0x40 / 4) v
  else if 0x3000 ≤ off ∧ off < 0x3400 ∧ off % 16 = 0 then
    let f := (off - 0x3000) / 16
    let s := if bit v 0 then s.flowUnforce f else s
    if bit v 1 then s.flowForce f 4 else s
  else if off = 0x1030 then
    let s := s.setFld a 6 0 (clampNat 1 64 (bits v 6 0))
    if bit v 31 then s.gclChange else s
  else s.putWord a v

/-- THY_CTRL: clearing EN keeps the phase as it stands; setting it restarts acquisition (R286).
Log entry 110 (DEDUCED). -/
def State.thyCtrlWrite (s : State) (v : Nat) : State :=
  let a := thyA 0x14
  if s.thyOn && !bit v 0 then s.thyFreeze.putWord a v
  else if !s.thyOn && bit v 0 then
    let (c, n, f) := s.thyPhase
    let s := s.putWord a v
    ({ s with thy := { s.thy with ringBase := (c, n, f, s.timeNs) } }).thyRestart
  else s.putWord a v

/-- A Thyme word (R281, R304). -/
def State.thyWordWrite (s : State) (off v : Nat) : State :=
  if off = 0 then s.thySrcWrite v
  else if off = 0x14 then s.thyCtrlWrite v
  else if off = 0x100 then s.evtIndexWrite v
  else if off = 0x104 then (if bit v 0 then s.evtCommit else s)
  else s.putWord (thyA off) v

/-- MOD_TENANT CTRL: PORT, KIND and FUNC of a tenant that is not CLOSED stay, with ERR 6 where the write would change them;
then ACTIVATE and TEARDOWN (R312, R328, R332, R341).
Log entries 16 (DESIGN CHOICE), 17 (DEDUCED). -/
def State.tenantCtrlWrite (s : State) (t v : Nat) : State :=
  let a := tenA t 0
  let old := s.reg a
  let part := 0xF8F
  let new := (old &&& (0xFFFFFFFF - 0x20000F8F)) ||| (v &&& 0x20000F8F)
  let free := decide (t = 0) || decide ((s.tenant t).state = .closed)
  let s :=
    if (new ^^^ old) &&& part = 0 then s.setReg a new
    else if free then (s.setReg a new).tdiError t
    else (s.setReg a ((new &&& (0xFFFFFFFF - part)) ||| (old &&& part))).setFld (tenA t 8) 27 20 6
  let s := if bit v 31 then s.activate t false else s
  if bit v 30 then (if t = 0 then s.setFld (tenA t 8) 27 20 5 else s.teardown t) else s

/-- Another partition field of a tenant (R332, R341).
Log entry 17 (DEDUCED). -/
def State.tenantWordWrite (s : State) (t o v : Nat) : State :=
  let a := tenA t o
  if !(decide (t = 0) || decide ((s.tenant t).state = .closed)) then s.setFld (tenA t 8) 27 20 6
  else
    let n := s.putWord a v
    if n.reg a = s.reg a then n else n.tdiError t

/-- A word of the module-wide page (R332, R422). -/
def State.modWordWrite (s : State) (off v : Nat) : State :=
  if off = 0x300 then s.fenceWrite v
  else if 0x1000 ≤ off ∧ off < 0x1400 then
    let t := (off - 0x1000) / 0x40
    let o := off % 0x40
    if o = 0 then s.tenantCtrlWrite t v
    else if o = 4 ∨ (0xC ≤ o ∧ o ≤ 0x24) then s.tenantWordWrite t o v
    else s
  else s.putWord (modA off) v

/-- A Sage word (R344, R358–R360).
Log entry 16 (DESIGN CHOICE). -/
def State.sgeWordWrite (s : State) (off v : Nat) : State :=
  let a := sgeA off
  if off = 0x20 then
    let s := s.setFld a 3 0 v
    let s := if bit v 31 then s.consentCtrl else s
    let s := if bit v 30 then s.endConsent (bits v 3 0) else s
    if bit v 29 then s.nonceCtrl else s
  else if 0x1000 ≤ off ∧ off < 0x1800 then
    let t := (off - 0x1000) / 0x80
    let o := off % 0x80
    if o = 0 then (if bit v 31 then (s.rotate t).1 else s)
    else
      let st := (s.tenant t).state
      if t = 0 ∨ (s.tdi t).isLocked ∨ (st ≠ .closed ∧ st ≠ .opening) then s else s.putWord a v
  else s.putWord a v

/-- A serving word: MODEL_COUNT and the slot fields only while the tenant has no live request (R216, R248). -/
def State.rqtWordWrite (s : State) (off v : Nat) : State :=
  let t := (off - 0x100) / 0x80
  let o := off % 0x80
  if off < 0x100 ∨ 0x900 ≤ off then s.putWord (rqtA off) v
  else if o = 8 then s.modelCount t v
  else if 0x10 ≤ o ∧ o < 0x2C ∧ !(s.liveOf t).isEmpty then s.setRbit (rqtA 4) 31 true
  else s.putWord (rqtA off) v

/-- A Lovage word: the pool fields only while the tenant has no live request (R248).
Log entry 202 (DEDUCED). -/
def State.lovWordWrite (s : State) (off v : Nat) : State :=
  let t := (off - 0x100) / 0x80
  if 0x100 ≤ off ∧ off < 0x900 ∧ off % 0x80 < 0x24 ∧ !(s.liveOf t).isEmpty then s.setRbit (rqtA 4) 31 true
  else if 0x100 ≤ off ∧ off < 0x900 ∧ off % 0x80 = 8 then
    let others := ((List.range 16).map (fun u => if u = t then 0 else s.nodeCount u)).sum
    s.setReg (lovT t 8) (min v (4194304 - others))
  else s.putWord (lovA off) v

/-- DIL_TIMER: the period counts from the write (R399).
Log entry 166 (DEDUCED). -/
def State.dilTimerWrite (s : State) (v : Nat) : State :=
  let s := s.putWord (dilA 4) v
  { s with dill := { s.dill with timerFrom := s.timeNs } }

/-! ## DISCARD (R371) -/

/-- One word of RWP fields returns to `n`, with the effect that a write of it has; the other fields keep their values.
Log entry 150 (DEDUCED). -/
def State.rwpReturn (s : State) (a n : Nat) : State :=
  if n = s.reg a then s
  else if a = thyA 0 then s.thySrcWrite n
  else if a = thyA 0x14 then s.thyCtrlWrite n
  else if a = rngA 0 then s.rngCtrlWrite n
  else if a = dilA 4 then s.dilTimerWrite n
  else if modA 0x1000 ≤ a ∧ a < modA 0x1400 then
    let t := (a - modA 0x1000) / 0x40
    let m := if a = tenA t 0 then 0xF8F else 0xFFFFFFFF
    let changes := (n ^^^ s.reg a) &&& m != 0
    let s := s.setReg a n
    if changes then s.tdiError t else s
  else s.setReg a n

/-- Every RWP field returns to the newer copy; to its default where no copy is valid.
Log entry 150 (DEDUCED). -/
def State.nvsDiscard (s : State) : State :=
  let recs := match s.nvs.newest with | some (_, c) => c.recs | none => []
  rwpWords.foldl (fun s w => s.rwpReturn w.1 ((s.reg w.1 &&& (0xFFFFFFFF - w.2)) + rwpValue recs w)) s

/-- NVS_DISCARD (R371). -/
def execNvsDiscard (ini : Nat) (s : State) : Host.Outcome State Fault Refusal :=
  .next (s.guarded (isMgmt ini) ini (nvsA 0) s.nvsDiscard)

/-- NVS_CTRL.
Log entry 16 (DESIGN CHOICE). -/
def State.nvsCtrlWrite (s : State) (v : Nat) : State :=
  let s := if bit v 31 then s.nvsStore else s
  let s := if bit v 30 then s.nvsDiscard else s
  if bit v 29 then { s with nvs := { s.nvs with defaults := true } }.setRbit (nvsA 4) 27 true else s

/-! ## Function registers (R316, R317, R328) -/

/-- A BAR0 word of a tenant's function; in teardown every write but of FN_ATTN is discarded.
Log entry 19 (DEDUCED). -/
def State.fnWordWrite (s : State) (t off v : Nat) : State :=
  let a := fnA t off
  let st := (s.tenant t).state
  if (st = .scrubbing ∨ st = .stuck) ∧ off ≠ 0x20 then s
  else if 0x100 ≤ off ∧ off < 0x900 then
    let q := (off - 0x100) / 0x20
    if off % 0x20 = 0xC then s.queueCtl t q true (v &&& 0x803F0000)
    else if s.rbit (sqA t q 0xC) 31 then s else s.putWord a v
  else if 0x900 ≤ off ∧ off < 0x1100 then
    let q := (off - 0x900) / 0x20
    if off % 0x20 = 0xC then s.queueCtl t q false (v &&& 0xC000003F)
    else if s.rbit (cqA t q 0xC) 31 then s else s.putWord a v
  else if 0x2000 ≤ off ∧ off < 0x2200 then
    let q := (off - 0x2000) / 8
    if off % 8 = 0 then s.sqDoorbell t q v else s.cqDoorbell t q v
  else s.putWord a v

/-! ## One word -/

/-- The effect of a permitted write of a register word.
Log entry 20 (DEDUCED). -/
def State.wordEffect (s : State) (ini : Nat) (b : Blk) (a off v : Nat) : State :=
  let (d, c, p) := pageOf a
  match b with
  | .tc => s.tcWordWrite ini ⟨d, c, p⟩ off v
  | .ac => s.acWordWrite ⟨d, c, p - 9⟩ off v
  | .cl => if off = 0x40 then s.slotMapWrite d c v else s.putWord a v
  | .sync => if off < 0x8000 then s.arriveOp ⟨mkObj d c (off / 4), v, ini, true, 0⟩ else s.putWord a v
  | .mod => s.modWordWrite off v
  | .pci =>
    if off = 0 ∧ (bits v 2 0 < 4 ∨ 6 < bits v 2 0) then s.putWord a (putBits v 2 0 (s.fld a 2 0)) else s.putWord a v
  | .fpt => s.fptWordWrite off v
  | .bar => if 0x1000 ≤ off ∧ off < 0x1400 ∧ off % 0x20 = 0 then s.barCtrlWrite ((off - 0x1000) / 0x20) v else s.putWord a v
  | .thy => s.thyWordWrite off v
  | .sge => s.sgeWordWrite off v
  | .lov => s.lovWordWrite off v
  | .rqt => s.rqtWordWrite off v
  | .srlA => if off = 0x10 then s.wdogWrite ini v else s.putWord a v
  | .srlB => if off = 0xC0 then s.ackWrite ini v else s.putWord a v
  | .dil => if off = 4 then s.dilTimerWrite v else if off = 8 then s.dillTrigger 3 (v % 65536) 0xFFFFFFFF else s.putWord a v
  | .nvs => if off = 0 then s.nvsCtrlWrite v else s.putWord a v
  | .upd =>
    if off = 4 then
      let s := if bit v 0 then s.updReg State.updDisarm else s
      if bit v 1 then s.updReg State.updAbort else s
    else s.putWord a v
  | .rng => if off = 0 then s.rngCtrlWrite v else s.putWord a v
  | .vdec =>
    let x := ((a - hubPage 0x21) / 0x1000)
    if off = 0 then
      let s := if bit v 0 then s.decodeOpen x else s
      if bit v 1 then s.decodeClose x else s
    else if s.dstate x = 0 then s.putWord a v else s
  | .venc =>
    let e := ((a - hubPage 0x29) / 0x1000)
    if off = 0 then
      let s := if bit v 0 then s.encodeOpen e else s
      if bit v 1 then s.encodeClose e else s
    else if s.fld (vencA e 4) 31 28 = 0 then s.putWord a v else s
  | .fn => s.fnWordWrite ((a - 0x1000000000000) / 0x10000) off v
  | _ => s.putWord a v

/-- A write of one aligned register word (R7, R8, R10, R109). -/
def State.wordWrite (s : State) (ini a v : Nat) : State :=
  match regBlock a with
  | none => s.accessError 0x07 6 ini a
  | some (b, off) =>
    let (d, c, _) := pageOf a
    if s.consentBar ini a || s.regCut ini a then s.answer .err
    else if b = .cl ∧ 0x200 ≤ off ∧ off < 0x300 then s.jobWindowWrite ini (8 * d + c) ((off - 0x200) / 0x40) (off % 0x40 / 4) v
    else if s.regRight ini b a off v then (s.answer (.ok 0)).wordEffect ini b a off v
    else s.accessError 0x08 6 ini a

/-! ## Accesses of any size (R7) -/

/-- A write of `n` ascending words; an error of any word is the access's.
Log entry 15 (DEDUCED). -/
def State.wordsWrite (s : State) (ini a v : Nat) : Nat → State
  | 0 => s.answer (.ok 0)
  | n + 1 =>
    let s := s.wordWrite ini a (v % 2 ^ 32)
    if s.resp = .err then (State.wordsWrite s ini (a + 4) (v / 2 ^ 32) n).answer .err
    else State.wordsWrite s ini (a + 4) (v / 2 ^ 32) n

/-- Whether R7 admits an access: whole words, aligned to its own size.
Log entry 15 (DEDUCED). -/
def wholeWords (a n : Nat) : Bool := decide (0 < n) && n % 4 == 0 && a % n == 0

/-- The application core of an initiator ID. -/
def acOfId (ini : Nat) : Option AcCore :=
  if idDie ini < 4 ∧ (idUnit ini = 9 ∨ idUnit ini = 10) then some ⟨idDie ini, idClu ini, idUnit ini - 9⟩ else none

/-- A write of `n` bytes at an address: register words, or memory. -/
def State.busWrite (s : State) (ini a n v : Nat) : State :=
  match s.place a, regBlock a with
  | .unassigned, none => s.accessError 0x07 6 ini a
  | .regPage, _ | .unassigned, _ => if wholeWords a n then s.wordsWrite ini a v (n / 4) else s.accessError 0x07 6 ini a
  | _, _ =>
    let (s, ok) := s.memWrite ini a (natLe n v)
    s.answer (if ok then .ok 0 else .err)

/-- A register write by any initiator; an application core reaches the pages of R140 alone, and an access of it that ends with
an error status sets ACC_ERR, and both stops raise a store access fault (R140, R143, R148). -/
def State.regWrite (s : State) (ini a n v : Nat) : State :=
  match acOfId ini with
  | none => s.busWrite ini a n v
  | some x =>
    if s.acRange x true a n = .outside then (s.answer .err).acTrap x 7 a
    else
      let s := s.busWrite ini a n v
      if s.resp = .err then (s.acIrq x 5).acTrap x 7 a else s

/-- REGISTER_WRITE (R7, R8). -/
def execRegisterWrite (ini addr size value : Nat) (s : State) : Host.Outcome State Fault Refusal :=
  .next (s.regWrite ini addr size value)

/-! ## Register reads -/

/-- Whether word `w` of a register is the low word of a 64-bit quantity: of the register itself, or of a field of it (R7). -/
def RegSpec.lowWord (r : RegSpec) (w : Nat) : Bool :=
  (r.width == 64 && w == 0) || r.fields.any (fun f => f.lo / 32 == w && f.hi / 32 == w + 1)

/-- A read of an assigned register word: the low word of a 64-bit quantity latches the high word (R7), THY_PHASE's also
THY_FINE (R304).
Log entry 13 (DEDUCED). -/
def State.wordRead (s : State) (a : Nat) : State × Nat :=
  match tabGet none s.latch a with
  | some v => ({ s with latch := tabSet none s.latch a none }, v.toNat)
  | none =>
    let lat := fun (s : State) (x v : Nat) => { s with latch := tabSet none s.latch x (some (BitVec.ofNat 32 v)) }
    match regAt a with
    | some (r, _, w) =>
      if r.lowWord w then
        let t := lat s (a + 4) (s.readWord (a + 4))
        (if a = thyA 0x20 then lat t (thyA 0x28) (s.readWord (thyA 0x28)) else t, s.readWord a)
      else (s, s.readWord a)
    | none => (s, 0)

/-- A read of one aligned register word by an initiator. None: an error status. -/
def State.regRead (s : State) (ini a : Nat) : State × Option Nat :=
  if (regBlock a).isNone then (s.accessError 0x07 6 ini a, none)
  else if s.consentBar ini a || s.profileBar ini a || s.regCut ini a then (s.answer .err, none)
  else
    let (s, v) := s.wordRead a
    (s.answer (.ok v), some v)

/-- A read of `n` ascending words, as bytes.
Log entry 15 (DEDUCED). -/
def State.wordsRead (s : State) (ini a : Nat) : Nat → State × Option (List Byte)
  | 0 => (s, some [])
  | n + 1 =>
    match s.regRead ini a with
    | (s, none) => (s, none)
    | (s, some v) =>
      let (s, b) := State.wordsRead s ini (a + 4) n
      (s, b.map (natLe 4 v ++ ·))

/-! ## Application cores (R139–R143) -/

/-- The answer of a load or a fetch: its data, or an error status with ACC_ERR and the access fault `cause` (R140, R143).
Log entry 60 (DEDUCED). -/
def State.acAnswer (s : State) (x : AcCore) (cause a : Nat) (r : Option (List Byte)) : State :=
  match r with
  | some b => s.answer (.bytes b)
  | none => ((s.answer .err).acIrq x 5).acTrap x cause a

/-- A load of `n` bytes. -/
def State.acLoad (s : State) (x : AcCore) (a n : Nat) : State :=
  match s.acRange x false a n with
  | .cached =>
    let (s, b) := s.acLoadCached x a n
    s.acAnswer x 5 a b
  | .page =>
    if wholeWords a n then
      let (s, b) := s.wordsRead x.id a (n / 4)
      s.acAnswer x 5 a b
    else ((s.accessError 0x07 6 x.id a).acIrq x 5).acTrap x 5 a
  | .outside => (s.answer .err).acTrap x 5 a
  | _ =>
    let (s, b) := s.memRead x.id a n
    s.acAnswer x 5 a b

/-- A store. -/
def State.acStore (s : State) (x : AcCore) (a : Nat) (data : List Byte) : State :=
  let done := fun (s : State) (ok : Bool) => if ok then s.answer (.ok 0) else ((s.answer .err).acIrq x 5).acTrap x 7 a
  match s.acRange x true a data.length with
  | .cached =>
    let (s, ok) := s.acStoreCached x a data
    done s ok
  | .page | .outside => s.regWrite x.id a data.length (leNat data)
  | _ =>
    let (s, ok) := s.memWrite x.id a data
    done s ok

/-- An instruction fetch: the hart is at `a`; outside the type-9 text an instruction access fault (R139). -/
def State.acFetch (s : State) (x : AcCore) (a n : Nat) : State :=
  let s := s.acSet x.ix { s.acGet x.ix with pc := a }
  if s.acTextOk x a n then
    let (s, b) := s.acLoadCached x a n
    s.acAnswer x 1 a b
  else (s.answer .err).acTrap x 1 a

/-- Whether the hart does what a command says: while it executes; in BOOT the firmware's CSR instructions, in M-mode (R138).
Log entry 60 (DEDUCED). -/
def State.acActs (s : State) (x : AcCore) (acc : AcAccess) : Bool :=
  s.acRuns x || (s.acState x == 1 && !(s.acGet x.ix).resetting && match acc with | .hart (.csr _ _ _ _) => true | _ => false)

/-- AC_LOAD_STORE (R140): a core whose hart executes.
Log entries 58 (DESIGN CHOICE), 60 (DEDUCED). -/
def execAcLoadStore (d : Fin 4) (c : Fin 8) (k : Fin 2) (acc : AcAccess) (s : State) : Host.Outcome State Fault Refusal :=
  let x : AcCore := ⟨d, c, k⟩
  if !s.acActs x acc then .next s
  else
    match acc with
    | .load a n us ev => .next (((s.upset us).acEvict x ev).acLoad x a n)
    | .store a b us ev => .next (((s.upset us).acEvict x ev).acStore x a b)
    | .fetch a n us => .next ((s.upset us).acFetch x a n)
    | .hart op => .next (s.hartOp x op)

end Sys2Proof.Machine
end

