-- ==== Sys2Proof/Machine/Tap.lean ====
section
/-!
DEFINITION. The debug pins: the TAP's instructions and the debug access port (R359, R448, R449).
-/
namespace Sys2Proof.Machine

/-! ## Pins and boundary scan (R448) -/

/-- The level of RB_N of a port by the module's own logic (R323): low while PCI_STATUS.RB is 1. -/
def State.rbLevel (s : State) (p : Nat) : Bool := !s.rbit (pciA p 4) 31

/-- The level of RB_N of a port at the pin: while EXTEST is loaded it follows its scan cell. -/
def State.rbPin (s : State) (p : Nat) : Bool := if s.tap.instr = 0 then bit s.tap.cells p else s.rbLevel p

/-- The level of FAULT_N at the pin (R390). -/
def State.faultPin (s : State) : Bool := if s.tap.instr = 0 then bit s.tap.cells 8 else s.faultN

/-- What the boundary-scan register captures: bit i is contact G(10 + i); the contacts from G21 on have levels that the spec
does not give.
Log entry 186 (DESIGN CHOICE). -/
def State.capture (s : State) : State × Nat :=
  let (t, v) := s.free 7
  let b := fun (x : Bool) (i : Nat) => if x then 2 ^ i else 0
  let rb := (List.range 4).foldl (fun m p => m + b (s.rbPin p) p) 0
  let perst := (List.range 4).foldl (fun m p => m + b (!(s.port p).perst) (4 + p)) 0
  (t, rb + perst + b s.faultPin 8 + b s.power.coolPin 9 + b s.power.pwrEn 10 + v * 2 ^ 11)

/-- The TAP is in service from the release of internal reset (R447).
Log entry 188 (DEDUCED). -/
def State.tapOn (s : State) : Bool := !s.start.held && !s.start.dark

/-- Load an instruction. -/
def State.tapLoad (s : State) (n : Nat) : State := { s with tap := { s.tap with instr := n } }

/-- A boundary-scan instruction with code `n` and the cells shifted in; without its consents it loads as BYPASS and sets
DAP_STATUS bit 30. -/
def State.tapScan (s : State) (n cells : Nat) : State :=
  if !s.tapOn then s
  else if s.scanAllowed then
    let (s, v) := s.capture
    ({ s with tap := { s.tap with instr := n, cells := cells } }).answer (.ok v)
  else ({ s with tap := { s.tap with instr := 0xFF, refused := true } }).answer (.ok 0)

/-- EXTEST (R448). -/
def execExtest (cells : BitVec 18) (s : State) : Host.Outcome State Fault Refusal := .next (s.tapScan 0 cells.toNat)

/-- SAMPLE/PRELOAD (R448). -/
def execSamplePreload (cells : BitVec 18) (s : State) : Host.Outcome State Fault Refusal := .next (s.tapScan 2 cells.toNat)

/-- The identification: its stepping and JEP106 code are not in the spec. -/
def idcode : Nat := Config.idStepping.toNat * 2 ^ 28 + 0x4816 * 2 ^ 12 + Config.jep106.toNat * 2 + 1

/-- IDCODE (R448). -/
def execIdcode (s : State) : Host.Outcome State Fault Refusal :=
  .next (if s.tapOn then (s.tapLoad 1).answer (.ok idcode) else s)

/-- BYPASS (R448). -/
def execBypass (s : State) : Host.Outcome State Fault Refusal :=
  .next (if s.tapOn then (s.tapLoad 0xFF).answer (.ok 0) else s)

/-! ## The debug access port (R359, R449) -/

/-- Whether the consents allow a debug read (`b` 0) or write (`b` 1) of an assigned address: pages of a cluster and of the hub
die.
Log entry 187 (DEDUCED). -/
def State.dapAllowed (s : State) (a b : Nat) : Bool :=
  let (d, c, _) := pageOf a
  match regBlock a with
  | some (.tc, _) | some (.ac, _) | some (.cl, _) | some (.sync, _) => s.clusterDebug (8 * d + c) b
  | some (.fn, _) | none => false
  | some _ => decide (0x0C0004000000 ≤ a) && s.hubDebug b

/-- The consents of a cluster's owner under which a unit of it may be halted keep the register address of a unit that the port
halts, and lose that of one it lets run (R360). -/
def State.noteHalt (s : State) (a v : Nat) : State :=
  let (d, c, _) := pageOf a
  let on := match regBlock a with
    | some (.tc, 4) => some (bit v 0)
    | some (.ac, 4) => some (bit v 1)
    | _ => none
  match on, s.cluOwner d c with
  | some h, some t =>
    { s with sage := { s.sage with consents := s.sage.consents.map (fun e =>
      (e.1, e.2.map (fun x =>
        if x.tenant = t ∧ bit x.scope 1 ∧ bit x.clusters (8 * d + c) then
          { x with halted := x.halted.filter (· != a) ++ (if h then [a] else []) }
        else x))) } }
  | _, _ => s

/-- The result of a debug access: acknowledgement 0 OK or 2 ERROR, the data of a read; the address advances. -/
def State.dapResult (s : State) (ok : Bool) (data : Nat) : State :=
  { s with tap := { s.tap with ack := if ok then 0 else 2, data := data, refused := !ok, addr := (s.tap.addr + 4) % 2 ^ 48 } }

/-- One debug access.
Log entry 187 (DEDUCED). -/
def State.dapAccess (s : State) (write : Bool) (v : Nat) : State :=
  let a := s.tap.addr
  if s.place a = .unassigned ∨ a % 4 ≠ 0 then (s.accessError 0x07 6 dapId a).dapResult false s.tap.data
  else if !s.dapAllowed a (if write then 1 else 0) then s.dapResult false s.tap.data
  else if write then
    let s := s.wordWrite dapId a v
    let ok := decide (s.resp ≠ .err)
    (if ok then s.noteHalt a v else s).dapResult ok s.tap.data
  else
    match s.regRead dapId a with
    | (s, some x) => s.dapResult true x
    | (s, none) => s.dapResult false s.tap.data

/-- DAP_ADDR (R448): what the shift delivers is not in the spec.
Log entry 186 (DESIGN CHOICE). -/
def execDapAddr (addr : BitVec 48) (s : State) : Host.Outcome State Fault Refusal :=
  if !s.tapOn then .next s
  else
    let (s, v) := s.free 48
    .next ({ s with tap := { s.tap with instr := 0x10, addr := addr.toNat } }.answer (.ok v))

/-- DAP_DATA (R449): operation 1 reads, 2 writes; the shift delivers the result of the operation before.
Log entry 187 (DEDUCED). -/
def execDapData (op : Fin 4) (data : Word) (s : State) : Host.Outcome State Fault Refusal :=
  if !s.tapOn then .next s
  else
    let out := s.tap.ack * 2 ^ 32 + s.tap.data
    let s := s.tapLoad 0x11
    let s := if op.val = 1 then s.dapAccess false 0
      else if op.val = 2 then s.dapAccess true data.toNat
      else { s with tap := { s.tap with ack := 0 } }
    .next (s.answer (.ok out))

/-- DAP_STATUS (R448). -/
def execDapStatus (s : State) : Host.Outcome State Fault Refusal :=
  if !s.tapOn then .next s
  else
    let v := (if s.consentList.isEmpty then 0 else 2 ^ 31) + (if s.tap.refused then 2 ^ 30 else 0)
    .next ((s.tapLoad 0x12).answer (.ok v))

end Sys2Proof.Machine
end

