-- ==== Sys2Proof/Machine/Dispatch.lean ====
section
/-!
DEFINITION. One arm per command: a direct call of the command's meaning.
-/
namespace Sys2Proof.Machine

/-- What a command does to everything but the queue. -/
def exec (i : Instr) (s : State) : Host.Outcome State Fault Refusal :=
  match i with
  | .registerWrite ini addr size value => Sys2Proof.Machine.execRegisterWrite ini addr size value s
  | .acLoadStore d c k acc => Sys2Proof.Machine.execAcLoadStore d c k acc s
  | .targetedScrub addr miscorrect => Sys2Proof.Machine.execTargetedScrub addr miscorrect s
  | .correctionWriteback addr => Sys2Proof.Machine.execCorrectionWriteback addr s
  | .patrolScrubPassStart tier => Sys2Proof.Machine.execPatrolScrubPassStart tier s
  | .patrolScrubRead tier upset => Sys2Proof.Machine.execPatrolScrubRead tier upset s
  | .linkFlitError link far retries recovered => Sys2Proof.Machine.execLinkFlitError link far retries recovered s
  | .hbmTrainingDone k ok => Sys2Proof.Machine.execHbmTrainingDone k ok s
  | .lpddrTrainingDone ok => Sys2Proof.Machine.execLpddrTrainingDone ok s
  | .clSlotMapWrite ini d c value => Sys2Proof.Machine.execClSlotMapWrite ini d c value s
  | .regionZeroed r => Sys2Proof.Machine.execRegionZeroed r s
  | .internalResetRelease => Sys2Proof.Machine.execInternalResetRelease s
  | .launchRecordPush ini d c sl win value => Sys2Proof.Machine.execLaunchRecordPush ini d c sl win value s
  | .kernelStart d c sl => Sys2Proof.Machine.execKernelStart d c sl s
  | .codeFetchDone d c sl => Sys2Proof.Machine.execCodeFetchDone d c sl s
  | .kernelEnd d c sl => Sys2Proof.Machine.execKernelEnd d c sl s
  | .commandComplete d c sl queue => Sys2Proof.Machine.execCommandComplete d c sl queue s
  | .nop d c sl desc => Sys2Proof.Machine.execNop d c sl desc s
  | .syncWait d c sl desc => Sys2Proof.Machine.execSyncWait d c sl desc s
  | .syncSignal d c sl desc => Sys2Proof.Machine.execSyncSignal d c sl desc s
  | .mma d c sl desc => Sys2Proof.Machine.execMma d c sl desc s
  | .conv d c sl desc => Sys2Proof.Machine.execConv d c sl desc s
  | .attn d c sl desc => Sys2Proof.Machine.execAttn d c sl desc s
  | .xrd d c sl desc => Sys2Proof.Machine.execXrd d c sl desc s
  | .dma d c sl desc upsets badBlocks => Sys2Proof.Machine.execDma d c sl desc upsets badBlocks s
  | .mov d c sl desc => Sys2Proof.Machine.execMov d c sl desc s
  | .cvt d c sl desc => Sys2Proof.Machine.execCvt d c sl desc s
  | .mxq d c sl desc => Sys2Proof.Machine.execMxq d c sl desc s
  | .mxd d c sl desc => Sys2Proof.Machine.execMxd d c sl desc s
  | .add d c sl desc => Sys2Proof.Machine.execAdd d c sl desc s
  | .sub d c sl desc => Sys2Proof.Machine.execSub d c sl desc s
  | .mul d c sl desc => Sys2Proof.Machine.execMul d c sl desc s
  | .div d c sl desc => Sys2Proof.Machine.execDiv d c sl desc s
  | .fma d c sl desc => Sys2Proof.Machine.execFma d c sl desc s
  | .min d c sl desc => Sys2Proof.Machine.execMin d c sl desc s
  | .max d c sl desc => Sys2Proof.Machine.execMax d c sl desc s
  | .abs d c sl desc => Sys2Proof.Machine.execAbs d c sl desc s
  | .neg d c sl desc => Sys2Proof.Machine.execNeg d c sl desc s
  | .sqrt d c sl desc => Sys2Proof.Machine.execSqrt d c sl desc s
  | .recip d c sl desc => Sys2Proof.Machine.execRecip d c sl desc s
  | .rsqrt d c sl desc => Sys2Proof.Machine.execRsqrt d c sl desc s
  | .exp d c sl desc => Sys2Proof.Machine.execExp d c sl desc s
  | .exp2 d c sl desc => Sys2Proof.Machine.execExp2 d c sl desc s
  | .log d c sl desc => Sys2Proof.Machine.execLog d c sl desc s
  | .log2 d c sl desc => Sys2Proof.Machine.execLog2 d c sl desc s
  | .expm1 d c sl desc => Sys2Proof.Machine.execExpm1 d c sl desc s
  | .log1p d c sl desc => Sys2Proof.Machine.execLog1p d c sl desc s
  | .sin d c sl desc => Sys2Proof.Machine.execSin d c sl desc s
  | .cos d c sl desc => Sys2Proof.Machine.execCos d c sl desc s
  | .tanh d c sl desc => Sys2Proof.Machine.execTanh d c sl desc s
  | .sigmoid d c sl desc => Sys2Proof.Machine.execSigmoid d c sl desc s
  | .erf d c sl desc => Sys2Proof.Machine.execErf d c sl desc s
  | .gelu d c sl desc => Sys2Proof.Machine.execGelu d c sl desc s
  | .cmp d c sl desc => Sys2Proof.Machine.execCmp d c sl desc s
  | .sel d c sl desc => Sys2Proof.Machine.execSel d c sl desc s
  | .rsum d c sl desc => Sys2Proof.Machine.execRsum d c sl desc s
  | .rmax d c sl desc => Sys2Proof.Machine.execRmax d c sl desc s
  | .rmin d c sl desc => Sys2Proof.Machine.execRmin d c sl desc s
  | .rdot d c sl desc => Sys2Proof.Machine.execRdot d c sl desc s
  | .smax d c sl desc => Sys2Proof.Machine.execSmax d c sl desc s
  | .rmsn d c sl desc => Sys2Proof.Machine.execRmsn d c sl desc s
  | .lnrm d c sl desc => Sys2Proof.Machine.execLnrm d c sl desc s
  | .iadd d c sl desc => Sys2Proof.Machine.execIadd d c sl desc s
  | .isub d c sl desc => Sys2Proof.Machine.execIsub d c sl desc s
  | .imul d c sl desc => Sys2Proof.Machine.execImul d c sl desc s
  | .ishr d c sl desc => Sys2Proof.Machine.execIshr d c sl desc s
  | .gath d c sl desc => Sys2Proof.Machine.execGath d c sl desc s
  | .scat d c sl desc => Sys2Proof.Machine.execScat d c sl desc s
  | .scadd d c sl desc => Sys2Proof.Machine.execScadd d c sl desc s
  | .tcHalt ini d c sl halt => Sys2Proof.Machine.execTcHalt ini d c sl halt s
  | .tcAbort ini d c sl tie => Sys2Proof.Machine.execTcAbort ini d c sl tie s
  | .tcFlush ini d c sl tie => Sys2Proof.Machine.execTcFlush ini d c sl tie s
  | .abortComplete d c sl => Sys2Proof.Machine.execAbortComplete d c sl s
  | .haloDeadlineExpiry d c sl => Sys2Proof.Machine.execHaloDeadlineExpiry d c sl s
  | .haloMailboxCopyDone d c sl => Sys2Proof.Machine.execHaloMailboxCopyDone d c sl s
  | .haloAltCopyDone d c sl => Sys2Proof.Machine.execHaloAltCopyDone d c sl s
  | .acStart ini d c k => Sys2Proof.Machine.execAcStart ini d c k s
  | .acBootDone d c k => Sys2Proof.Machine.execAcBootDone d c k s
  | .acHalt ini d c k halt => Sys2Proof.Machine.execAcHalt ini d c k halt s
  | .acReset ini d c k => Sys2Proof.Machine.execAcReset ini d c k s
  | .acResetDone d c k => Sys2Proof.Machine.execAcResetDone d c k s
  | .acSigObjWrite d c k value => Sys2Proof.Machine.execAcSigObjWrite d c k value s
  | .acWaitArm d c k slot value => Sys2Proof.Machine.execAcWaitArm d c k slot value s
  | .acMsgInWrite ini d c k value => Sys2Proof.Machine.execAcMsgInWrite ini d c k value s
  | .acMsgOutWrite d c k value => Sys2Proof.Machine.execAcMsgOutWrite d c k value s
  | .acInterrupt d c k => Sys2Proof.Machine.execAcInterrupt d c k s
  | .stimecmpExpiry d c k => Sys2Proof.Machine.execStimecmpExpiry d c k s
  | .haltSelf d c k => Sys2Proof.Machine.execHaltSelf d c k s
  | .readOwnIdentity d c k => Sys2Proof.Machine.execReadOwnIdentity d c k s
  | .reportFatal d c k code => Sys2Proof.Machine.execReportFatal d c k code s
  | .cboClean d c k addr => Sys2Proof.Machine.execCboClean d c k addr s
  | .cboFlush d c k addr => Sys2Proof.Machine.execCboFlush d c k addr s
  | .cboInval d c k addr => Sys2Proof.Machine.execCboInval d c k addr s
  | .signalCommit i0 => Sys2Proof.Machine.execSignalCommit i0 s
  | .waitRegister i0 => Sys2Proof.Machine.execWaitRegister i0 s
  | .waitTimeout i0 => Sys2Proof.Machine.execWaitTimeout i0 s
  | .syncValueWrite ini d c n value => Sys2Proof.Machine.execSyncValueWrite ini d c n value s
  | .barrierContextEnable ini b value => Sys2Proof.Machine.execBarrierContextEnable ini b value s
  | .barrierReleaseCommit b => Sys2Proof.Machine.execBarrierReleaseCommit b s
  | .ringBarrierReleaseCommit b => Sys2Proof.Machine.execRingBarrierReleaseCommit b s
  | .barrierContextTimeout b => Sys2Proof.Machine.execBarrierContextTimeout b s
  | .jobSubmit ini d c win value => Sys2Proof.Machine.execJobSubmit ini d c win value s
  | .jobWindowClaimLapse d c => Sys2Proof.Machine.execJobWindowClaimLapse d c s
  | .tilePush d c l => Sys2Proof.Machine.execTilePush d c l s
  | .tileClaim d c => Sys2Proof.Machine.execTileClaim d c s
  | .jobEnd d c step => Sys2Proof.Machine.execJobEnd d c step s
  | .phaseSample logFull => Sys2Proof.Machine.execPhaseSample logFull s
  | .logSegmentCopy => Sys2Proof.Machine.execLogSegmentCopy s
  | .logGapRecord => Sys2Proof.Machine.execLogGapRecord s
  | .replayStart ini pipeline first last segs => Sys2Proof.Machine.execReplayStart ini pipeline first last segs s
  | .summaryDone t m summAddr => Sys2Proof.Machine.execSummaryDone t m summAddr s
  | .pageMoveDone k => Sys2Proof.Machine.execPageMoveDone k s
  | .prefetchMoveStart t m => Sys2Proof.Machine.execPrefetchMoveStart t m s
  | .rqtModelCountWrite ini t value => Sys2Proof.Machine.execRqtModelCountWrite ini t value s
  | .submit src => Sys2Proof.Machine.execSubmit src s
  | .cancel src => Sys2Proof.Machine.execCancel src s
  | .pause src => Sys2Proof.Machine.execPause src s
  | .resume src => Sys2Proof.Machine.execResume src s
  | .stepBoundary t m retrieve => Sys2Proof.Machine.execStepBoundary t m retrieve s
  | .emptyBoundary t m retrieve => Sys2Proof.Machine.execEmptyBoundary t m retrieve s
  | .lookupStart => Sys2Proof.Machine.execLookupStart s
  | .lookupEnd k => Sys2Proof.Machine.execLookupEnd k s
  | .udpDatagramRx x logFull => Sys2Proof.Machine.execUdpDatagramRx x logFull s
  | .auReorderTimeout c => Sys2Proof.Machine.execAuReorderTimeout c s
  | .rtcpReceiverReport c => Sys2Proof.Machine.execRtcpReceiverReport c s
  | .rtspResponse c r => Sys2Proof.Machine.execRtspResponse c r s
  | .rtspKeepalive c => Sys2Proof.Machine.execRtspKeepalive c s
  | .rtspSessionLost c => Sys2Proof.Machine.execRtspSessionLost c s
  | .rtspRetry c => Sys2Proof.Machine.execRtspRetry c s
  | .streamSilence c => Sys2Proof.Machine.execStreamSilence c s
  | .decodeOpen ini c => Sys2Proof.Machine.execDecodeOpen ini c s
  | .decodeClose ini c => Sys2Proof.Machine.execDecodeClose ini c s
  | .contextClosed encode c => Sys2Proof.Machine.execContextClosed encode c s
  | .headersParsed c => Sys2Proof.Machine.execHeadersParsed c s
  | .decoderStart => Sys2Proof.Machine.execDecoderStart s
  | .decodeDone i0 => Sys2Proof.Machine.execDecodeDone i0 s
  | .preprocessStart => Sys2Proof.Machine.execPreprocessStart s
  | .viewWritten i0 => Sys2Proof.Machine.execViewWritten i0 s
  | .pictureRecordWrite i0 => Sys2Proof.Machine.execPictureRecordWrite i0 s
  | .encodeOpen ini e => Sys2Proof.Machine.execEncodeOpen ini e s
  | .encodeClose ini e => Sys2Proof.Machine.execEncodeClose ini e s
  | .encodeStart => Sys2Proof.Machine.execEncodeStart s
  | .encodeDone i0 => Sys2Proof.Machine.execEncodeDone i0 s
  | .phaseCountEdge a b z held => Sys2Proof.Machine.execPhaseCountEdge a b z held s
  | .zEdge held => Sys2Proof.Machine.execZEdge held s
  | .synthCount => Sys2Proof.Machine.execSynthCount s
  | .phaseLoss => Sys2Proof.Machine.execPhaseLoss s
  | .asSyncMessage offsetNs tai => Sys2Proof.Machine.execAsSyncMessage offsetNs tai s
  | .phaseFrame f => Sys2Proof.Machine.execPhaseFrame f s
  | .eventSignal i0 => Sys2Proof.Machine.execEventSignal i0 s
  | .eventIngest i0 => Sys2Proof.Machine.execEventIngest i0 s
  | .eventDeadline i0 => Sys2Proof.Machine.execEventDeadline i0 s
  | .eventRelease i0 => Sys2Proof.Machine.execEventRelease i0 s
  | .eventSnapshot i0 => Sys2Proof.Machine.execEventSnapshot i0 s
  | .eventActivate i0 => Sys2Proof.Machine.execEventActivate i0 s
  | .thySrcWrite ini value => Sys2Proof.Machine.execThySrcWrite ini value s
  | .thyEvtIndexWrite ini value => Sys2Proof.Machine.execThyEvtIndexWrite ini value s
  | .thyEvtCommit ini value => Sys2Proof.Machine.execThyEvtCommit ini value s
  | .flowDescWrite ini f w value => Sys2Proof.Machine.execFlowDescWrite ini f w value s
  | .flowForce ini f => Sys2Proof.Machine.execFlowForce ini f s
  | .flowUnforce ini f => Sys2Proof.Machine.execFlowUnforce ini f s
  | .safePeriodExpiry f => Sys2Proof.Machine.execSafePeriodExpiry f s
  | .frameTxStart => Sys2Proof.Machine.execFrameTxStart s
  | .frameTxEnd => Sys2Proof.Machine.execFrameTxEnd s
  | .fp1RxFrame frame logFull => Sys2Proof.Machine.execFp1RxFrame frame logFull s
  | .gclChange ini value => Sys2Proof.Machine.execGclChange ini value s
  | .gclBaseTime => Sys2Proof.Machine.execGclBaseTime s
  | .pcieLinkUp p speed width flit => Sys2Proof.Machine.execPcieLinkUp p speed width flit s
  | .pcieLinkDown p => Sys2Proof.Machine.execPcieLinkDown p s
  | .linkDownTimeout p => Sys2Proof.Machine.execLinkDownTimeout p s
  | .perstNAssert p => Sys2Proof.Machine.execPerstNAssert p s
  | .perstNDeassert p => Sys2Proof.Machine.execPerstNDeassert p s
  | .hotReset p => Sys2Proof.Machine.execHotReset p s
  | .tenantActivate ini t => Sys2Proof.Machine.execTenantActivate ini t s
  | .tenantTeardown ini t => Sys2Proof.Machine.execTenantTeardown ini t s
  | .scrubEnd t stuck => Sys2Proof.Machine.execScrubEnd t stuck s
  | .bar2Access p t off acc => Sys2Proof.Machine.execBar2Access p t off acc s
  | .sqDoorbell t q value => Sys2Proof.Machine.execSqDoorbell t q value s
  | .cqDoorbell t q value => Sys2Proof.Machine.execCqDoorbell t q value s
  | .hostNop p => Sys2Proof.Machine.execHostNop p s
  | .loadImage p => Sys2Proof.Machine.execLoadImage p s
  | .unloadImage p => Sys2Proof.Machine.execUnloadImage p s
  | .loadWeights p badBlocks => Sys2Proof.Machine.execLoadWeights p badBlocks s
  | .unloadWeights p => Sys2Proof.Machine.execUnloadWeights p s
  | .weightBlockLoad i0 badBlocks => Sys2Proof.Machine.execWeightBlockLoad i0 badBlocks s
  | .job p => Sys2Proof.Machine.execJob p s
  | .copyIn p => Sys2Proof.Machine.execCopyIn p s
  | .copyOut p => Sys2Proof.Machine.execCopyOut p s
  | .streamOpen p => Sys2Proof.Machine.execStreamOpen p s
  | .streamClose p => Sys2Proof.Machine.execStreamClose p s
  | .partitionInfo p => Sys2Proof.Machine.execPartitionInfo p s
  | .hostCommandComplete t i0 => Sys2Proof.Machine.execHostCommandComplete t i0 s
  | .heldCompletionPost t => Sys2Proof.Machine.execHeldCompletionPost t s
  | .flr t => Sys2Proof.Machine.execFlr t s
  | .managementFlr p => Sys2Proof.Machine.execManagementFlr p s
  | .vfEnableClear p => Sys2Proof.Machine.execVfEnableClear p s
  | .moduleReset ini => Sys2Proof.Machine.execModuleReset ini s
  | .configWrite p t w => Sys2Proof.Machine.execConfigWrite p t w s
  | .tdispGetVersion p sid => Sys2Proof.Machine.execTdispGetVersion p sid s
  | .tdispGetCapabilities p sid => Sys2Proof.Machine.execTdispGetCapabilities p sid s
  | .lockInterface p sid t => Sys2Proof.Machine.execLockInterface p sid t s
  | .getDeviceInterfaceReport p sid t => Sys2Proof.Machine.execGetDeviceInterfaceReport p sid t s
  | .getDeviceInterfaceState p sid t => Sys2Proof.Machine.execGetDeviceInterfaceState p sid t s
  | .startInterface p sid t => Sys2Proof.Machine.execStartInterface p sid t s
  | .stopInterface p sid t => Sys2Proof.Machine.execStopInterface p sid t s
  | .ideKeyProg p sid stream t set dir sub keyIv => Sys2Proof.Machine.execIdeKeyProg p sid stream t set dir sub keyIv s
  | .spdmGetVersion p => Sys2Proof.Machine.execSpdmGetVersion p s
  | .spdmGetCapabilities p => Sys2Proof.Machine.execSpdmGetCapabilities p s
  | .negotiateAlgorithms p => Sys2Proof.Machine.execNegotiateAlgorithms p s
  | .getDigests p => Sys2Proof.Machine.execGetDigests p s
  | .getCertificate p slot off len => Sys2Proof.Machine.execGetCertificate p slot off len s
  | .challenge p slot nonce => Sys2Proof.Machine.execChallenge p slot nonce s
  | .getMeasurements p index signed nonce => Sys2Proof.Machine.execGetMeasurements p index signed nonce s
  | .keyExchange p share => Sys2Proof.Machine.execKeyExchange p share s
  | .finish p sid ok => Sys2Proof.Machine.execFinish p sid ok s
  | .heartbeat p sid => Sys2Proof.Machine.execHeartbeat p sid s
  | .keyUpdate p sid => Sys2Proof.Machine.execKeyUpdate p sid s
  | .endSession p sid => Sys2Proof.Machine.execEndSession p sid s
  | .chunkSend p sid chunk last => Sys2Proof.Machine.execChunkSend p sid chunk last s
  | .chunkGet p => Sys2Proof.Machine.execChunkGet p s
  | .spdmSessionTimeout p sid => Sys2Proof.Machine.execSpdmSessionTimeout p sid s
  | .getReport p sid t nonce => Sys2Proof.Machine.execGetReport p sid t nonce s
  | .getNonce p => Sys2Proof.Machine.execGetNonce p s
  | .putCrate p sid record => Sys2Proof.Machine.execPutCrate p sid record s
  | .rotate src t => Sys2Proof.Machine.execRotate src t s
  | .setConsentKey p sid t key => Sys2Proof.Machine.execSetConsentKey p sid t key s
  | .rotationSweepUnit t tier => Sys2Proof.Machine.execRotationSweepUnit t tier s
  | .oldKeyDestroy t => Sys2Proof.Machine.execOldKeyDestroy t s
  | .leaseClockStore => Sys2Proof.Machine.execLeaseClockStore s
  | .consentSubmit ini => Sys2Proof.Machine.execConsentSubmit ini s
  | .consentRevoke ini index => Sys2Proof.Machine.execConsentRevoke ini index s
  | .newNonce ini => Sys2Proof.Machine.execNewNonce ini s
  | .consentExpiry index => Sys2Proof.Machine.execConsentExpiry index s
  | .nonceExpiry => Sys2Proof.Machine.execNonceExpiry s
  | .entropyHealthFailure => Sys2Proof.Machine.execEntropyHealthFailure s
  | .hopRekey => Sys2Proof.Machine.execHopRekey s
  | .modPwrEnRise => Sys2Proof.Machine.execModPwrEnRise s
  | .modPwrEnFall => Sys2Proof.Machine.execModPwrEnFall s
  | .firmwareVerifyDone ok0 ok1 identityOk => Sys2Proof.Machine.execFirmwareVerifyDone ok0 ok1 identityOk s
  | .configReadDone tags0 tags1 => Sys2Proof.Machine.execConfigReadDone tags0 tags1 s
  | .standingLoad bad => Sys2Proof.Machine.execStandingLoad bad s
  | .joinWaitExpiry => Sys2Proof.Machine.execJoinWaitExpiry s
  | .lockWaitExpiry => Sys2Proof.Machine.execLockWaitExpiry s
  | .pipelineStart => Sys2Proof.Machine.execPipelineStart s
  | .trialStartTimeout => Sys2Proof.Machine.execTrialStartTimeout s
  | .firmwareWatchdogExpiry => Sys2Proof.Machine.execFirmwareWatchdogExpiry s
  | .trialGood => Sys2Proof.Machine.execTrialGood s
  | .nvsStore ini => Sys2Proof.Machine.execNvsStore ini s
  | .nvsStoreDone ok => Sys2Proof.Machine.execNvsStoreDone ok s
  | .nvsDiscard ini => Sys2Proof.Machine.execNvsDiscard ini s
  | .nvsDefaults ini => Sys2Proof.Machine.execNvsDefaults ini s
  | .counterSnapshot => Sys2Proof.Machine.execCounterSnapshot s
  | .updatePut p index data => Sys2Proof.Machine.execUpdatePut p index data s
  | .updateEnd p => Sys2Proof.Machine.execUpdateEnd p s
  | .stagingDone ok => Sys2Proof.Machine.execStagingDone ok s
  | .updateArm p ticket kind share at_ => Sys2Proof.Machine.execUpdateArm p ticket kind share at_ s
  | .updateDisarm src => Sys2Proof.Machine.execUpdateDisarm src s
  | .updateAbort src => Sys2Proof.Machine.execUpdateAbort src s
  | .updateStatus p => Sys2Proof.Machine.execUpdateStatus p s
  | .activationPoint => Sys2Proof.Machine.execActivationPoint s
  | .componentSwitch ok => Sys2Proof.Machine.execComponentSwitch ok s
  | .activationLimitExpiry => Sys2Proof.Machine.execActivationLimitExpiry s
  | .errorClassify => Sys2Proof.Machine.execErrorClassify s
  | .faultNPulseEnd => Sys2Proof.Machine.execFaultNPulseEnd s
  | .srlAckWrite ini value => Sys2Proof.Machine.execSrlAckWrite ini value s
  | .srlWdogKick ini value => Sys2Proof.Machine.execSrlWdogKick ini value s
  | .mgmtWatchdogExpiry k => Sys2Proof.Machine.execMgmtWatchdogExpiry k s
  | .stormWindowStart => Sys2Proof.Machine.execStormWindowStart s
  | .degradedExit cls => Sys2Proof.Machine.execDegradedExit cls s
  | .dilTriggerWrite ini value => Sys2Proof.Machine.execDilTriggerWrite ini value s
  | .dilTimerExpiry => Sys2Proof.Machine.execDilTimerExpiry s
  | .snapshotLatch => Sys2Proof.Machine.execSnapshotLatch s
  | .snapshotCopyDone => Sys2Proof.Machine.execSnapshotCopyDone s
  | .checkpointDone => Sys2Proof.Machine.execCheckpointDone s
  | .sensorSample temps powers => Sys2Proof.Machine.execSensorSample temps powers s
  | .inputSample volts milliwatts => Sys2Proof.Machine.execInputSample volts milliwatts s
  | .governorPeriod => Sys2Proof.Machine.execGovernorPeriod s
  | .baselineSet k => Sys2Proof.Machine.execBaselineSet k s
  | .clampTimeout => Sys2Proof.Machine.execClampTimeout s
  | .inputVoltageFault => Sys2Proof.Machine.execInputVoltageFault s
  | .regulatorFault => Sys2Proof.Machine.execRegulatorFault s
  | .shutdownRailsOff => Sys2Proof.Machine.execShutdownRailsOff s
  | .coolOkChange level => Sys2Proof.Machine.execCoolOkChange level s
  | .unitTest ini unit => Sys2Proof.Machine.execUnitTest ini unit s
  | .unitFence ini unit => Sys2Proof.Machine.execUnitFence ini unit s
  | .fenceLift ini unit => Sys2Proof.Machine.execFenceLift ini unit s
  | .unitTestDone ok => Sys2Proof.Machine.execUnitTestDone ok s
  | .timeFrame f => Sys2Proof.Machine.execTimeFrame f s
  | .calFrame f => Sys2Proof.Machine.execCalFrame f s
  | .barrierReportFrame f => Sys2Proof.Machine.execBarrierReportFrame f s
  | .barrierReleaseFrame f => Sys2Proof.Machine.execBarrierReleaseFrame f s
  | .snapshotFrame f => Sys2Proof.Machine.execSnapshotFrame f s
  | .activateFrame f => Sys2Proof.Machine.execActivateFrame f s
  | .statusFrame f => Sys2Proof.Machine.execStatusFrame f s
  | .hello f => Sys2Proof.Machine.execHello f s
  | .share f => Sys2Proof.Machine.execShare f s
  | .readStore src first count => Sys2Proof.Machine.execReadStore src first count s
  | .readSnapshot src slot off len => Sys2Proof.Machine.execReadSnapshot src slot off len s
  | .readCheckpoint src pipe buf off len => Sys2Proof.Machine.execReadCheckpoint src pipe buf off len s
  | .readCounters src off len => Sys2Proof.Machine.execReadCounters src off len s
  | .forceAll src => Sys2Proof.Machine.execForceAll src s
  | .timeFrameSend => Sys2Proof.Machine.execTimeFrameSend s
  | .phaseFrameSend => Sys2Proof.Machine.execPhaseFrameSend s
  | .statusFrameSend => Sys2Proof.Machine.execStatusFrameSend s
  | .calFrameSend => Sys2Proof.Machine.execCalFrameSend s
  | .retimerLock => Sys2Proof.Machine.execRetimerLock s
  | .retimerLockLoss => Sys2Proof.Machine.execRetimerLockLoss s
  | .joinTimeout => Sys2Proof.Machine.execJoinTimeout s
  | .timeLockLapse => Sys2Proof.Machine.execTimeLockLapse s
  | .ringEnWrite ini value => Sys2Proof.Machine.execRingEnWrite ini value s
  | .extest cells => Sys2Proof.Machine.execExtest cells s
  | .idcode => Sys2Proof.Machine.execIdcode s
  | .samplePreload cells => Sys2Proof.Machine.execSamplePreload cells s
  | .bypass => Sys2Proof.Machine.execBypass s
  | .dapAddr addr => Sys2Proof.Machine.execDapAddr addr s
  | .dapData op data => Sys2Proof.Machine.execDapData op data s
  | .dapStatus => Sys2Proof.Machine.execDapStatus s
  | .nandReady => Sys2Proof.Machine.execNandReady s
  | .fieldPortLinkUp port fec => Sys2Proof.Machine.execFieldPortLinkUp port fec s
  | .fieldPortLinkDown port => Sys2Proof.Machine.execFieldPortLinkDown port s
  | .arpNeighbourRequest r => Sys2Proof.Machine.execArpNeighbourRequest r s
  | .ideKSetGo p sid stream set => Sys2Proof.Machine.execIdeKSetGo p sid stream set s
  | .ideKSetStop p sid stream => Sys2Proof.Machine.execIdeKSetStop p sid stream s
  | .inputDropout volts => Sys2Proof.Machine.execInputDropout volts s

end Sys2Proof.Machine
end

