-- ==== Sys2Proof/Machine/Tick.lean ====
section
/-!
DEFINITION. What one cycle of the arithmetic clock does by itself (R6, R159, R350, R386): it ends the cycle in which slots of
Sorrel were acknowledged, and the module cycle count, module time and the lease clock advance. DESIGN CHOICE (log entry 1):
it happens where no command waits.
-/
namespace Sys2Proof.Machine

/-- One cycle.
Log entry 1 (DESIGN CHOICE). -/
def State.tick (s : State) : State :=
  let s := s.ackEnd
  let s := { s with cycle := (s.cycle + 1) % 2 ^ 64 }
  s.tickTime.leaseTick

end Sys2Proof.Machine
end

