-- ==== Sys2Proof/Safety.lean ====
section
/-!
DEFINITION. Safe runs: every step answers a next state, and no unit stands fenced (R391).
-/
namespace Sys2Proof.Machine

/-- No unit and no HBM stack is fenced. -/
def State.unfenced (s : State) : Bool := s.sorrel.fenced.isEmpty && (List.range 8).all (fun k => !s.stackFenced k)

/-- `n` steps from a state all answer a next state, with no unit fenced along the way. -/
def SafeFor : Nat → State → Prop
  | 0, s => s.unfenced = true
  | n + 1, s => s.unfenced = true ∧ ∃ t, step s = .next t ∧ SafeFor n t

end Sys2Proof.Machine
end

