-- ==== Sys2Proof/Certificates/Slice0/Obligations.lean ====
section
/-!
DEFINITION. The statements for the provers, chapter by chapter of the spec. Each docstring names the rules it formalises.
-/
open Sys2Proof Sys2Proof.Machine

/-! ## The whole block -/

/-- One command a step: with a command at the front of its queue, step runs exec of it on the state with the queue's rest. -/
def Obligations.StepRunsFrontCommand : Prop :=
  ∀ (s : State) (c : Instr) (rest : List Instr), s.pending = c :: rest → step s = exec c { s with pending := rest }

/-- R6, R24, R159: right after reset no command waits, module time and the cycle count are 0, memory lists nothing and both
tables are canonical. A step on an empty queue is one cycle of the clock: the cycle count advances by one, and module time by 10/11
ns while it is not slewed. That a step on an empty queue is a cycle is the model's choice (log entry 1). -/
def Obligations.ResetIsCanonicalAndIdleCyclesPass : Prop :=
  (State.reset.pending = [] ∧ State.reset.timeNs = 0 ∧ State.reset.cycle = 0 ∧ State.reset.mem.cells = [] ∧
    Memory.wf State.reset.mem = true ∧ regsWf State.reset.regs = true ∧ State.reset.sent = []) ∧
  (∀ (s : State), s.pending = [] → ∃ t, step s = .next t ∧ t.pending = [] ∧ t.cycle = (s.cycle + 1) % 2 ^ 64 ∧
    (s.slew = 0 → s.timeRem < 110000 → (t.timeNs, t.timeRem) =
      if s.timeRem < 10000 then (s.timeNs % 2 ^ 64, s.timeRem + 100000) else ((s.timeNs + 1) % 2 ^ 64, s.timeRem - 10000)) ∧
    t.mem = s.mem ∧ t.tenants = s.tenants ∧ t.sent = s.sent)

/-- Every step keeps both canonical forms: memory lists strictly rising addresses and nothing that an unlisted one reads as, and
the register file lists strictly rising registers and no reset value. -/
def Obligations.StepKeepsCanonicalForm : Prop :=
  ∀ (s t : State), Memory.wf s.mem = true ∧ regsWf s.regs = true → step s = .next t → Memory.wf t.mem = true ∧ regsWf t.regs = true

/-- No command stops the block: every command completes in every state, and none changes the queue of waiting commands. -/
def Obligations.EveryCommandCompletes : Prop :=
  ∀ (c : Instr) (s : State), ∃ t, exec c s = .next t ∧ t.pending = s.pending

/-! ## Registers, memory, links (00, 01) -/

/-- R8 on the module-wide page: for a management core's write of a register word that has no behaviour of its own, a bit of an
RW or RWP field takes the written value, a bit of an RW1C field is cleared by a 1, and every other bit (RO, ROH, WO, reserved)
keeps its value; the three scrub periods hold the nearer limit of their range. No other register changes, nothing else does. -/
def Obligations.RegisterWriteFollowsAccessCodes : Prop :=
  ∀ (s : State) (ini off v : Nat) (r : RegSpec) (k w : Nat), isMgmtCore ini = true → off < 0x300 → off % 4 = 0 → v < 2 ^ 32 →
    regAt (modA off) = some (r, k, w) →
    ∃ t, exec (.registerWrite ini (modA off) 4 v) s = .next t ∧ t.resp = .ok 0 ∧
      (off ∉ [0x114, 0x118, 0x11C] → ∀ i < 32, (t.reg (modA off)).testBit i =
        if (r.maskOf w (· == .rw1c)).testBit i && v.testBit i then false
        else if (r.maskOf w (fun x => x == .rw || x == .rwp)).testBit i then v.testBit i
        else (s.reg (modA off)).testBit i) ∧
      (off = 0x114 → t.reg (modA off) = min (max v 60) 86400) ∧
      (off = 0x118 ∨ off = 0x11C → t.reg (modA off) = min (max v 3600) 604800) ∧
      (∀ a, a ≠ modA off → t.reg a = s.reg a) ∧
      t = { s with regs := t.regs, resp := t.resp }

/-- R7 and R10: a write of a register page that is narrower than 32 bits or not aligned to its own size, and a write of an
address that the map does not assign, complete with an error status and a class U record of SOURCE 0x07, and have no other
effect. -/
def Obligations.BadRegisterAccessHasNoEffect : Prop :=
  ∀ (s : State) (ini a n v : Nat), acOfId ini = none →
    (s.place a = .regPage ∧ ¬ (0 < n ∧ n % 4 = 0 ∧ a % n = 0) ∨ s.place a = .unassigned ∧ regBlock a = none) →
    exec (.registerWrite ini a n v) s = .next { s with
      resp := .err
      sorrel := { s.sorrel with presented := s.sorrel.presented ++ [(s.cycle, ⟨0x07, 6, ini, 0, a, 0, 0xFFFF⟩)] } }

/-- R33–R36, R40: a targeted scrub corrects a word of one or two symbols in error and reports the correction as class C with ACCESS 4;
a word of three that double correction finds uncorrectable is poisoned, with zero data and no further record; every other byte and
word keeps its state. A write-back that still stands leaves its word clean, and changes no data; a tier's period starts a pass at its
first word and ends one register period later; the pass reads one word, here a clean one, and counts itself when it reads its last. -/
def Obligations.ScrubsCorrectPoisonAndAdvance : Prop :=
  (∀ (s : State) (addr : Nat), (s.word (s.phys addr / 32)).scrub = true →
    ((s.word (s.phys addr / 32)).sym ≤ 2 → ∃ t, exec (.targetedScrub addr none) s = .next t ∧
      t.word (s.phys addr / 32) = {} ∧ (∀ p, t.rawByte p = s.rawByte p) ∧
      t.sorrel.presented = s.sorrel.presented ++ [(s.cycle, ⟨if (s.word (s.phys addr / 32)).sym = 2 then 0x02 else 0x01, 4,
        (placeOf (s.phys addr / 32 * 32)).1.ctrlId, 0, s.phys addr / 32 * 32, (s.word (s.phys addr / 32)).sym, 0xFFFF⟩)] ∧
      (∀ w, w ≠ s.phys addr / 32 → t.word w = s.word w) ∧
      t = { s with mem := t.mem, sorrel := { s.sorrel with presented := t.sorrel.presented } }) ∧
    (2 < (s.word (s.phys addr / 32)).sym → ∃ t, exec (.targetedScrub addr none) s = .next t ∧
      t.word (s.phys addr / 32) = { poison := true } ∧
      (∀ p, t.mem.cells = cellsWrite s.mem.cells (s.phys addr / 32 * 32) (zeros 32) ∧
        (p / 32 = s.phys addr / 32 → tabGet 0 t.mem.cells p = 0) ∧
        (p / 32 ≠ s.phys addr / 32 → t.rawByte p = s.rawByte p)) ∧
      (∀ w, w ≠ s.phys addr / 32 → t.word w = s.word w) ∧
      t = { s with mem := t.mem })) ∧
  (∀ (s : State) (addr : Nat), (s.word (s.phys addr / 32)).writeback = true →
    ∃ t, exec (.correctionWriteback addr) s = .next t ∧ t.word (s.phys addr / 32) = {} ∧ (∀ p, t.rawByte p = s.rawByte p) ∧
      (∀ w, w ≠ s.phys addr / 32 → t.word w = s.word w) ∧ t = { s with mem := { s.mem with ecc := t.mem.ecc } }) ∧
  (∀ (s : State) (tier : ScrubTier), (s.patrol tier).nextStart ≤ s.cycle →
    ∃ t, exec (.patrolScrubPassStart tier) s = .next t ∧
      (t.patrol tier).nextStart = (s.patrol tier).nextStart + s.reg (modA (0x114 + 4 * tierIx tier)) * 1100000000 ∧
      (t.patrol tier).running = s.scrubOn tier ∧ (t.patrol tier).cursor = s.scrubNext tier 0 ∧
      (∀ u, u ≠ tier → t.patrol u = s.patrol u) ∧ t.regs = s.regs ∧
      t = { s with mem := { s.mem with patrolSram := t.mem.patrolSram, patrolHbm := t.mem.patrolHbm, patrolLp := t.mem.patrolLp } }) ∧
  (∀ (s : State) (tier : ScrubTier), (s.patrol tier).running = true → s.scrubOn tier = true →
    (s.patrol tier).cursor < tierWords tier → s.scrubNext tier (s.patrol tier).cursor = (s.patrol tier).cursor →
    (s.word (tierAddr tier (s.patrol tier).cursor / 32)).sym = 0 → (s.word (tierAddr tier (s.patrol tier).cursor / 32)).scrub = false →
    ∃ t, exec (.patrolScrubRead tier none) s = .next t ∧ (∀ p, t.rawByte p = s.rawByte p) ∧ (∀ w, t.word w = s.word w) ∧
      (t.patrol tier).cursor = s.scrubNext tier ((s.patrol tier).cursor + 1) ∧
      (t.patrol tier).running = decide ((t.patrol tier).cursor < tierWords tier) ∧
      (tier = .lp → (t.patrol tier).running = false → t.fld (modA 0x124) 15 0 = min (s.fld (modA 0x124) 15 0 + 1) 65535) ∧
      ((t.patrol tier).running = true → t.regs = s.regs))

/-- R15, R16, R37: every retransmission of a flit is counted in the link's LINK_RETRIES, which saturates; only a flit that fails its
fourth retransmission makes a record (class F by R383, DETAIL 4). A management core's write of CL_SLOT_MAP while both slots it moves
are idle, slot 8 among them, takes effect: the logical slot is then served by slot 8 (SPARE_ACTIVE 1) or by itself (0), and FENCED is
kept; while either is busy the register keeps its value but for MAP_REJECT, which is set. Tile memory is not copied. -/
def Obligations.SlotMapAndLinkRetransmissions : Prop :=
  (∀ (s : State) (link : Fin 8) (far : Bool) (n : Fin 5) (ok : Bool), ∃ t, exec (.linkFlitError link far n ok) s = .next t ∧
    t.reg (srlA (0x60 + 4 * link)) = min (s.reg (srlA (0x60 + 4 * link)) + n) (2 ^ 32 - 1) ∧
    (∀ a, a ≠ srlA (0x60 + 4 * link) → t.reg a = s.reg a) ∧
    t.sorrel.presented = s.sorrel.presented ++
      (if n.val = 4 ∧ ok = false then [(s.cycle, ⟨0x0A, 5, linkEndId link far, 4, link, 4, 0x5000 + link⟩)] else []) ∧
    t = { s with regs := t.regs, sorrel := { s.sorrel with presented := t.sorrel.presented } }) ∧
  (∀ (s : State) (ini : Nat) (d : Fin 4) (c : Fin 8) (v : Word), isMgmtCore ini = true →
    let l := bits v.toNat 26 24
    let busy := s.slotBusy ⟨d, c, s.physSlot d c l⟩ || s.slotBusy ⟨d, c, if bit v.toNat 31 then 8 else l⟩
    ∃ t, exec (.clSlotMapWrite ini d c v) s = .next t ∧ t.resp = .ok 0 ∧ t.mem = s.mem ∧
      (busy = true → t.rbit (clA d c 0x40) 30 = true ∧ t.physSlot d c = s.physSlot d c ∧
        t.fld (clA d c 0x40) 8 0 = s.fld (clA d c 0x40) 8 0 ∧ ∀ a, a ≠ clA d c 0x40 → t.reg a = s.reg a) ∧
      (busy = false → t.physSlot d c l = (if bit v.toNat 31 then 8 else l) ∧
        t.fld (clA d c 0x40) 8 0 = s.fld (clA d c 0x40) 8 0 ∧
        ∀ a, a ∉ [clA d c 0x40, tcA d c 8 0x420, tcA d c 8 0x424] → t.reg a = s.reg a))

/-- R14: an access to the logical alias of slot l reaches physical slot 8 when SPARE_ACTIVE is 1 and SPARE_FOR equals l, and physical
slot l otherwise; an access to a physical slot's own address reaches that slot. -/
def Obligations.SlotAliasReachesTheServingSlot : Prop :=
  ∀ (s : State) (d c l o : Nat), d < 4 → c < 8 → l < 8 → o < 0x200000 →
    s.phys (cluBase d c + 0x8000000 + l * 0x400000 + o) =
      tileBase d c (if s.rbit (clA d c 0x40) 31 = true ∧ s.fld (clA d c 0x40) 26 24 = l then 8 else l) + o ∧
    (∀ n < 9, s.phys (tileBase d c n + o) = tileBase d c n + o)

/-! ## Tile cores, number formats, walks (02, 03, 04, 07) -/

/-- R41, R42, R44: every encoding that is not a NaN survives: converting its value back to its own format gives the encoding
and raises no flag, in every rounding mode; with SAT an infinity is left out, since SAT turns it into the largest value. -/
def Obligations.FormatsHoldTheirOwnValues : Prop :=
  ∀ (code : Nat) (f : Fmt) (w : Nat) (r : Rnd), fmtOf code = some f → w < 2 ^ f.width → f.decode w ≠ .nan →
    (r.sat = false ∨ (f.decode w).isFin = true) → f.put r (f.decode w) = (w, 0)

/-- R79, R108: the write of a staging window's last word by the window's owner pushes the window's 32 bytes, with the written word
last, into the slot's launch queue: behind the records queued, but before those that a later source pushed in the same cycle;
with the queue full the last record in that order is dropped and its source's DROP bit sets (an application core's LQ_DROP too, R148),
and so is every push into a slot that serves no logical slot (log entry 198: for a source that is no application core this is the
model's choice). HALT follows the written bit; ABORT stops the running
kernel's issue and cancels its waits; with FLUSH every queued record is discarded and counted; the aborted kernel ends with RESULT 3,
with its record where STATUS_EN asks, and signals DONE_OBJ. Only management may write TC_CTRL. -/
def Obligations.LaunchQueueHaltAbortAndFlush : Prop :=
  (∀ (s : State) (ini : Nat) (d : Fin 4) (c : Fin 8) (sl : Fin 9) (win : Fin 4) (v : Word), let x : Core3 := ⟨d, c, sl⟩
     let a := x.reg (0x100 + 0x20 * win)
     windowOwner ini d c win = true → s.consentBar ini (a + 0x1C) = false →
     ∃ t, exec (.launchRecordPush ini d c sl win v) s = .next t ∧ t.resp = .ok 0 ∧ t.reg (a + 0x1C) = v.toNat ∧
       (let q := (s.tileGet x).queue
        let later := fun (e : LaunchRec) => e.pushed == s.cycle && decide (win.val < e.source)
        let q' := q.filter (fun e => !later e) ++ [⟨natLe 32 (s.regWords a 7 + 2 ^ 224 * v.toNat), win, 0, 0, s.cycle⟩] ++ q.filter later
        let drop := fun (w : Nat) => t.rbit (x.reg 0x20) (28 + w) = true ∧ (2 ≤ w → t.rbit (acA d c (w - 2) 0x200) 6 = true) ∧
          ∀ b, b ∉ [a + 0x1C, x.reg 0x20, acA d c (w - 2) 0x200] → t.reg b = s.reg b
        (q.length < 16 → (s.logSlot x).isSome = true →
          t.tileGet x = { s.tileGet x with queue := q' } ∧ ∀ b, b ≠ a + 0x1C → t.reg b = s.reg b) ∧
        (∀ e, q.length = 16 → (s.logSlot x).isSome = true → q'.getLast? = some e → e.source < 4 → e.source ≠ 1 →
          t.tileGet x = { s.tileGet x with queue := q'.take 16 } ∧ drop e.source) ∧
        (s.logSlot x = none → t.tile = s.tile ∧ drop win)) ∧
       (∀ y : Core3, y.ix ≠ x.ix → t.tileGet y = s.tileGet y) ∧ t = { s with tile := t.tile, regs := t.regs, resp := t.resp }) ∧
  (∀ (s : State) (ini : Nat) (d : Fin 4) (c : Fin 8) (sl : Fin 9), let x : Core3 := ⟨d, c, sl⟩
     (s.consentBar ini (x.reg 0x4) = false →
       (∀ h, isMgmt ini = true → ∃ t, exec (.tcHalt ini d c sl h) s = .next t ∧ t.rbit (x.reg 0x4) 0 = h ∧ t.resp = .ok 0 ∧
         (∀ a, a ≠ x.reg 0x4 → t.reg a = s.reg a) ∧ t = { s with regs := t.regs, resp := t.resp }) ∧
       (∀ k, isMgmt ini = true → (s.tileGet x).kernel = some k →
         (∃ t, exec (.tcAbort ini d c sl false) s = .next t ∧
           t.tileGet x = { s.tileGet x with stall := none, kernel := some { k with aborting := true } } ∧
           (∀ w ∈ t.sync.waiters ++ t.sync.arriving, waitOfCore x.ix w = false) ∧ t.sync.inflight = s.sync.inflight ∧
           t = { s with tile := t.tile, sync := t.sync, resp := .ok 0 }) ∧
         (∃ t, exec (.tcFlush ini d c sl false) s = .next t ∧
           t.tileGet x = { s.tileGet x with queue := [], stall := none, kernel := some { k with aborting := true } } ∧
           t.fld (x.reg 0x20) 27 20 = (s.tileGet x).queue.length % 256 ∧
           (∀ a, a ≠ x.reg 0x20 → t.reg a = s.reg a) ∧ t.mem = s.mem)) ∧
       (isMgmt ini = false → ∀ h, exec (.tcHalt ini d c sl h) s = .next { s with
         resp := .err, sorrel := { s.sorrel with presented := s.sorrel.presented ++
           [(s.cycle, ⟨0x08, 6, ini, 0, x.reg 0x4, 0, 0xFFFF⟩)] } })) ∧
     (∀ k, (s.tileGet x).kernel = some k → k.aborting = true → (s.tileGet x).cmds = [] →
       let w := fieldLe k.launch.data 0x14 4
       ∃ t, exec (.abortComplete d c sl) s = .next t ∧ t.tileGet x = { s.tileGet x with kernel := none, stall := none } ∧
         t.mem = (if bit (fieldLe k.launch.data 4 4) 0 then
           (s.memWrite (x.id 0) (fieldLe k.launch.data 0x18 6) (k.record 3 s.cycle)).1.mem else s.mem) ∧
         t.sync.inflight = s.sync.inflight ++ (if s.objOwned (s.coreTenant x) (w % 0x40000) = true ∧ bit w 31 = true then
           [⟨w % 0x40000, 1, x.id 0, false, 0⟩] else [])))

/-- R80, R105, R107: the head record starts as the kernel, whose code is fetched when the slot holds another image's; the
fetch brings the code and the constants, the argument block at the top of the scalar data store, the tile index in scalar register
1 and the entry's offset in the program counter; a kernel with nothing outstanding ends, writes its record where STATUS_EN asks, and signals DONE_OBJ. -/
def Obligations.KernelStartsRunsAndEnds : Prop :=
  (∀ (s : State) (d : Fin 4) (c : Fin 8) (sl : Fin 9) (r : LaunchRec) (rest : List LaunchRec) (im : Image),
    let x : Core3 := ⟨d, c, sl⟩
    (s.tileGet x).kernel = none → (s.tileGet x).queue = r :: rest → s.rbit (x.reg 0x4) 0 = false → s.serving x = true →
    s.launchImage x r = some im → fieldLe r.data 2 2 < im.entryCount →
    (s.fld (x.reg 0x8) 15 0 ≠ im.handle ∨ (s.tileGet x).codeOf ≠ im.digest) →
    ∃ t, exec (.kernelStart d c sl) s = .next t ∧
      t.tileGet x = { s.tileGet x with queue := rest, cmds := [], stall := none
                                       kernel := some { launch := r, start := s.cycle, fetching := true } } ∧
      (∀ y : Core3, y.ix ≠ x.ix → t.tileGet y = s.tileGet y) ∧ t = { s with tile := t.tile }) ∧
  (∀ (s : State) (d : Fin 4) (c : Fin 8) (sl : Fin 9) (k : Kernel) (im : Image) (code con arg ent : List Byte),
    let x : Core3 := ⟨d, c, sl⟩
    (s.tileGet x).kernel = some k → k.fetching = true → k.aborting = false → s.launchImage x k.launch = some im →
    s.sectionRead x im 1 = (s, some code) → s.sectionRead x im 2 = (s, some con) →
    let data := con ++ slice (s.tileGet x).data con.length (32768 - con.length)
    let u := (s.tileSet x { s.tileGet x with code := code, codeOf := im.digest, data := data }).setFld (x.reg 0x8) 15 0 im.handle
    let e := u.tileSet x { u.tileGet x with
      data := slice data 0 (32768 - 256) ++ arg
      sregs := (if (s.tileGet x).sregs.length = 32 then (s.tileGet x).sregs else List.replicate 32 0).set 1
        (fieldLe k.launch.data 0x10 4)
      kernel := some { k with fetching := false } }
    u.memRead (x.id 0) (fieldLe k.launch.data 8 6) 256 = (u, some arg) → e.sectionRead x im 4 = (e, some ent) →
    ∃ t, exec (.codeFetchDone d c sl) s = .next t ∧ t.tileGet x = e.tileGet x ∧
      t.fld (x.reg 0x8) 15 0 = im.handle % 2 ^ 16 ∧
      t.reg (x.reg 0x200) = fieldLe ent (16 * fieldLe k.launch.data 2 2) 4 % 0x20000 ∧
      (∀ a, a ∉ [x.reg 0x8, x.reg 0x200] → t.reg a = s.reg a) ∧ t = { s with tile := t.tile, regs := t.regs }) ∧
  (∀ (s : State) (d : Fin 4) (c : Fin 8) (sl : Fin 9) (k : Kernel), let x : Core3 := ⟨d, c, sl⟩
    (s.tileGet x).kernel = some k → k.fetching = false → k.aborting = false → (s.tileGet x).cmds = [] →
    (s.tileGet x).stall = none →
    let w := fieldLe k.launch.data 0x14 4
    ∃ t, exec (.kernelEnd d c sl) s = .next t ∧ t.tileGet x = { s.tileGet x with kernel := none } ∧
      t.mem = (if bit (fieldLe k.launch.data 4 4) 0 then
        (s.memWrite (x.id 0) (fieldLe k.launch.data 0x18 6) (k.record (if k.err.isSome then 2 else 0) s.cycle)).1.mem
        else s.mem) ∧
      t.sync.inflight = s.sync.inflight ++ (if s.objOwned (s.coreTenant x) (w % 0x40000) = true ∧ bit w 31 = true then
        [⟨w % 0x40000, 1, x.id 0, false, 0⟩] else []) ∧
      (k.launch.source ≠ 1 → t.job = s.job))

/-- R75, R89, R90, R93, R96–R103, R196: on a slot whose kernel runs with nothing outstanding, a descriptor that breaks no check
and waits for nothing is issued and runs at once: it then waits for its completion, with the flags, sticky chunks, error and
written ranges that its engine's operation gives on the state in which it stands issued. With a header wait it goes to its
object's sync block instead. -/
def Obligations.EngineCommandIsIssuedAndRuns : Prop :=
  ∀ (s : State) (d : Fin 4) (c : Fin 8) (sl : Fin 9) (desc : List Word) (k : Kernel), let x : Core3 := ⟨d, c, sl⟩
    (s.tileGet x).kernel = some k → k.fetching = false → k.aborting = false → k.err = none →
    (s.tileGet x).stall = none → (s.tileGet x).cmds = [] →
    let held := fun (ws : List Nat) (w : List Byte) (bad : List Nat) =>
      ({ num := (s.tileGet x).nextNum, words := ws, walk := w, queues := queuesOf ws, bad := bad } : Cmd)
    let issued := fun (c : Cmd) => s.tileSet x { s.tileGet x with cmds := [c], nextNum := (s.tileGet x).nextNum + 1 }
    let done := fun (c : Cmd) (r : Ran) => r.s.setCmd x { c with stage := .executed, since := s.cycle, flags := r.flags
                                                                 sticky := r.sticky, err := r.err, dst := r.dst }
    (∀ p ∈ ([(withOp 0x10 desc, .mma d c sl desc, runMma), (withOp 0x12 desc, .attn d c sl desc, runAttn),
        (withOp 0x18 desc, .xrd d c sl desc, runXrd), (withOp 0x30 desc, .dma d c sl desc [] [], fun s x w => runDma s x w []),
        (withVop 0x00 desc, .mov d c sl desc, runVop), (withVop 0x01 desc, .cvt d c sl desc, runVop),
        (withVop 0x02 desc, .mxq d c sl desc, runVop), (withVop 0x03 desc, .mxd d c sl desc, runVop),
        (withVop 0x08 desc, .add d c sl desc, runVop), (withVop 0x09 desc, .sub d c sl desc, runVop),
        (withVop 0x0A desc, .mul d c sl desc, runVop), (withVop 0x0B desc, .div d c sl desc, runVop),
        (withVop 0x0C desc, .fma d c sl desc, runVop), (withVop 0x0D desc, .min d c sl desc, runVop),
        (withVop 0x0E desc, .max d c sl desc, runVop), (withVop 0x0F desc, .abs d c sl desc, runVop),
        (withVop 0x10 desc, .neg d c sl desc, runVop), (withVop 0x11 desc, .sqrt d c sl desc, runVop),
        (withVop 0x12 desc, .recip d c sl desc, runVop), (withVop 0x13 desc, .rsqrt d c sl desc, runVop),
        (withVop 0x18 desc, .exp d c sl desc, runVop), (withVop 0x19 desc, .exp2 d c sl desc, runVop),
        (withVop 0x1A desc, .log d c sl desc, runVop), (withVop 0x1B desc, .log2 d c sl desc, runVop),
        (withVop 0x1C desc, .expm1 d c sl desc, runVop), (withVop 0x1D desc, .log1p d c sl desc, runVop),
        (withVop 0x1E desc, .sin d c sl desc, runVop), (withVop 0x1F desc, .cos d c sl desc, runVop),
        (withVop 0x20 desc, .tanh d c sl desc, runVop), (withVop 0x21 desc, .sigmoid d c sl desc, runVop),
        (withVop 0x22 desc, .erf d c sl desc, runVop), (withVop 0x23 desc, .gelu d c sl desc, runVop),
        (withVop 0x28 desc, .cmp d c sl desc, runVop), (withVop 0x29 desc, .sel d c sl desc, runVop),
        (withVop 0x30 desc, .rsum d c sl desc, runVop), (withVop 0x31 desc, .rmax d c sl desc, runVop),
        (withVop 0x32 desc, .rmin d c sl desc, runVop), (withVop 0x33 desc, .rdot d c sl desc, runVop),
        (withVop 0x38 desc, .smax d c sl desc, runVop), (withVop 0x39 desc, .rmsn d c sl desc, runVop),
        (withVop 0x3A desc, .lnrm d c sl desc, runVop), (withVop 0x40 desc, .iadd d c sl desc, runVop),
        (withVop 0x41 desc, .isub d c sl desc, runVop), (withVop 0x42 desc, .imul d c sl desc, runVop),
        (withVop 0x43 desc, .ishr d c sl desc, runVop), (withVop 0x48 desc, .gath d c sl desc, runVop),
        (withVop 0x49 desc, .scat d c sl desc, runVop), (withVop 0x4A desc, .scadd d c sl desc, runVop)] :
          List (List Nat × Instr × (State → Core3 → List Nat → Ran))), cmdErrs s x p.1 [] = [] →
      (bit (dw p.1 2) 31 = false → exec p.2.1 s =
        .next (done (held p.1 [] []) (p.2.2 (issued (held p.1 [] [])) x p.1))) ∧
      (bit (dw p.1 2) 31 = true → exec p.2.1 s =
        .next ((issued { held p.1 [] [] with stage := .headerWait }).sendWait
          { who := .cmd x.ix (s.tileGet x).nextNum, obj := db p.1 2 17 0, thr := dw p.1 3 }))) ∧
    (∀ w : List Byte, let ws := withOp 0x11 desc
      s.tRead x 0 (db ws 4 20 0) (min 256 (tileBytes - db ws 4 20 0)) = (s, some w) → cmdErrs s x ws w = [] →
      walkHalo w = false → bit (dw ws 2) 31 = false →
      exec (.conv d c sl desc) s = .next (done (held ws w []) (runConv (issued (held ws w [])) x ws w)))

/-- R90, R106: a descriptor that breaks a check is not issued; the kernel fails with the lowest code broken, which
TC_ERR_INFO keeps, with the command's opcode and tag, unless it already keeps an earlier error. -/
def Obligations.BrokenCheckFailsTheKernel : Prop :=
  ∀ (s : State) (d : Fin 4) (c : Fin 8) (sl : Fin 9) (desc : List Word) (k : Kernel) (code : Nat), let x : Core3 := ⟨d, c, sl⟩
    (s.tileGet x).kernel = some k → k.fetching = false → k.aborting = false → k.err = none → (s.tileGet x).stall = none →
    ∀ p ∈ ([(withOp 0x10 desc, .mma d c sl desc), (withOp 0x12 desc, .attn d c sl desc), (withOp 0x18 desc, .xrd d c sl desc),
        (withOp 0x30 desc, .dma d c sl desc [] []), (withVop 0x08 desc, .add d c sl desc), (withVop 0x30 desc, .rsum d c sl desc),
        (withVop 0x40 desc, .iadd d c sl desc), (withVop 0x49 desc, .scat d c sl desc)] : List (List Nat × Instr)),
      code < 256 → code ∈ cmdErrs s x p.1 [] → (∀ e ∈ cmdErrs s x p.1 [], code ≤ e) →
      ∃ t, exec p.2 s = .next t ∧
        t.tileGet x = { s.tileGet x with kernel := some { k with err := some (code, db p.1 0 15 0, opcode p.1) } } ∧
        (s.rbit (x.reg 0x30) 31 = true → t.regs = s.regs) ∧
        (s.rbit (x.reg 0x30) 31 = false → t.rbit (x.reg 0x30) 31 = true ∧ t.fld (x.reg 0x30) 23 16 = code ∧
          t.fld (x.reg 0x30) 15 8 = opcode p.1 ∧ t.fld (x.reg 0x30) 7 0 = db p.1 0 7 0 ∧
          ∀ a, a ≠ x.reg 0x30 → t.reg a = s.reg a) ∧
        (∀ y : Core3, y.ix ≠ x.ix → t.tileGet y = s.tileGet y) ∧ t = { s with tile := t.tile, regs := t.regs }

/-- R97, R98, R93, R96, R107: over memory whose words are all clean, with the running image's trees readable, a vector operation, MMA or XRD that passed its checks
changes no byte outside the ranges it names as its destinations, and nothing else of the machine but the answer field. -/
def Obligations.EnginesWriteOnlyTheirDestinations : Prop :=
  ∀ (s : State) (d : Fin 4) (c : Fin 8) (sl : Fin 9) (ws : List Nat), let x : Core3 := ⟨d, c, sl⟩
    s.mem.ecc = [] →
    (∀ im, s.coreImage x = some im → (s.sectionRead x im 5).1 = s) → cmdErrs s x ws [] = [] →
    ∀ r ∈ [(0x20, runVop s x ws), (0x10, runMma s x ws), (0x18, runXrd s x ws)], opcode ws = r.1 →
      (∀ p, (∀ e ∈ r.2.dst, p < e.1 ∨ e.1 + e.2 ≤ p) → r.2.s.rawByte p = s.rawByte p) ∧
      r.2.s = { s with mem := { s.mem with cells := r.2.s.mem.cells }, resp := r.2.s.resp }

/-- R97, R98: IADD, ISUB and IMUL give each element of each row the sum, difference or product of its INT32 operands, the
second from memory or the immediate: clamped to the INT32 range with SAT, else modulo 2^32. -/
def Obligations.IntegerVectorArithmetic : Prop :=
  ∀ (s : State) (d : Fin 4) (c : Fin 8) (sl : Fin 9) (desc : List Word) (k : Kernel), let x : Core3 := ⟨d, c, sl⟩
    (s.tileGet x).kernel = some k → k.fetching = false → k.aborting = false → k.err = none →
    (s.tileGet x).stall = none → (s.tileGet x).cmds = [] → s.mem.ecc = [] →
    s.sorrel.fenced.contains (0x3000 + d * 0x100 + c * 0x10) = false →
    ∀ p ∈ ([(withVop 0x40 desc, .iadd d c sl desc, fun a b => a + b), (withVop 0x41 desc, .isub d c sl desc, fun a b => a - b),
        (withVop 0x42 desc, .imul d c sl desc, fun a b => a * b)] : List (List Nat × Instr × (Int → Int → Int))),
      cmdErrs s x p.1 [] = [] → bit (dw p.1 2) 31 = false →
      let ws := p.1
      let ss := db ws 11 31 16 * 32
      let ds := db ws 11 15 0 * 32
      let n := db ws 9 23 0
      let el := fun (u : State) (o i : Nat) => leNat (u.rawRead (x.base + o + 4 * i) 4)
      (db ws 10 15 0 ≤ 1 ∨ 4 * n ≤ ds) →
      ∃ t, exec p.2.1 s = .next t ∧ ∀ i < db ws 10 15 0, ∀ j < n,
        let a := toInt 32 (el s (db ws 5 20 0 + i * ss) j)
        let b := toInt 32 (if vImm ws then dw ws 12 else el s (db ws 6 20 0 + i * ss) j)
        el t (db ws 8 20 0 + i * ds) j = ofInt 32 (if vSat ws then max (-2 ^ 31) (min (2 ^ 31 - 1) (p.2.2 a b)) else p.2.2 a b)

/-- R99: a row reduction combines in a fixed binary tree. `l'` is the next level of the row `l`: element 2k combined with element
2k + 1, an odd last element unchanged; the reduction of a row is that of its next level, until one value remains, whatever the row's
values are. RSUM reduces the elements of its row so, and RDOT their products. -/
def Obligations.RowReductionsCombineInTheFixedTree : Prop :=
  (∀ (cf : Fmt) (mode : Nat) (isMax : Bool) (l l' : List FV),
    (∀ a, l = [a] → (rowSum cf mode l).1 = a ∧ (rowExt isMax l).1 = a) ∧
    (2 ≤ l.length → l'.length = (l.length + 1) / 2 → (l.length % 2 = 1 → l'.getLast? = l.getLast?) →
      ((∀ k, 2 * k + 1 < l.length → l'.getD k .zero = (cAdd cf mode (l.getD (2 * k) .zero) (l.getD (2 * k + 1) .zero)).1) →
        (rowSum cf mode l).1 = (rowSum cf mode l').1) ∧
      ((∀ k, 2 * k + 1 < l.length → l'.getD k .zero = (rowExt isMax [l.getD (2 * k) .zero, l.getD (2 * k + 1) .zero]).1) →
        (rowExt isMax l).1 = (rowExt isMax l').1))) ∧
  (∀ (ws : List Nat) (r : Nat) (d0 d1 d2 : List Byte), let n := db ws 9 23 0
    let a := rowVals (fmtGet (vF0 ws)) d0 n
    let out := fun (y : FV) => (putRow (fmtGet (vFd ws)) (vopRnd ws r) [y]).1
    (vCode ws = 0x30 → (vopRow ws r d0 d1 d2).1 = out (rowSum (compFmt [vF0 ws, vFd ws]) (vMode ws) a).1) ∧
    (vCode ws = 0x31 → (vopRow ws r d0 d1 d2).1 = out (rowExt true a).1) ∧
    (vCode ws = 0x32 → (vopRow ws r d0 d1 d2).1 = out (rowExt false a).1) ∧
    (vCode ws = 0x33 → vImm ws = false → (vopRow ws r d0 d1 d2).1 = out (rowSum (compFmt [vF0 ws, vFd ws, vF1 ws]) (vMode ws)
      ((a.zip (rowVals (fmtGet (vF1 ws)) d1 n)).map (fun p => (cMul (compFmt [vF0 ws, vFd ws, vF1 ws]) (vMode ws) p.1 p.2).1))).1))

/-- R77, R89, R104: a NOP and a SYNC signal that wait for nothing end at once, with their signals; a SYNC wait stalls the
sequencer and goes to its object's sync block; a command's completion puts its status word in the register of each of its
queues, adds its flags and sticky chunks, counts, and applies its header signal. -/
def Obligations.SequencerCommandsAndCompletion : Prop :=
  ∀ (s : State) (d : Fin 4) (c : Fin 8) (sl : Fin 9) (desc : List Word) (k : Kernel), let x : Core3 := ⟨d, c, sl⟩
    (s.tileGet x).kernel = some k → k.aborting = false → (s.tileGet x).stall = none →
    let more := { k with commands := min (k.commands + 1) (2 ^ 32 - 1) }
    let own := fun (ws : List Nat) => if bit (dw ws 1) 31 then [(⟨dw ws 1 % 0x40000, 1, x.id 0, false, 0⟩ : Signal)] else []
    let sync := fun (mode : Bool) => (withOp 0x02 desc).set 4 (putBit (dw (withOp 0x02 desc) 4) 31 mode)
    (k.fetching = false → k.err = none → (s.tileGet x).cmds = [] →
      ((desc.getD 0 0).toNat / 2 ^ 24 = 1 → cmdErrs s x (withOp 0x01 desc) [] = [] → bit (dw (withOp 0x01 desc) 2) 31 = false →
        ∃ t, exec (.nop d c sl desc) s = .next t ∧
          t.tileGet x = { s.tileGet x with kernel := some more, nextNum := (s.tileGet x).nextNum + 1 } ∧
          t.sync = { s.sync with inflight := s.sync.inflight ++ own (withOp 0x01 desc) } ∧
          t = { s with tile := t.tile, sync := t.sync }) ∧
      (cmdErrs s x (sync true) [] = [] → bit (dw (sync true) 2) 31 = false →
        ∃ t, exec (.syncSignal d c sl desc) s = .next t ∧
          t.tileGet x = { s.tileGet x with kernel := some more, nextNum := (s.tileGet x).nextNum + 1 } ∧
          t.sync = { s.sync with inflight := s.sync.inflight ++
            (⟨db (sync true) 4 17 0, dw (sync true) 5, x.id 0, false, 0⟩ :: own (sync true)) } ∧
          t = { s with tile := t.tile, sync := t.sync }) ∧
      (cmdErrs s x (sync false) [] = [] → bit (dw (sync false) 2) 31 = false →
        ∃ t, exec (.syncWait d c sl desc) s = .next t ∧
          (t.tileGet x).stall.map (·.stage) = some .syncWait ∧ (t.tileGet x).kernel = some k ∧
          t.sync = { s.sync with arriving := s.sync.arriving ++ [{
            who := .sq x.ix, obj := db (sync false) 4 17 0, thr := dw (sync false) 5
            timeout := if dw (sync false) 6 = 0 then none else some (dw (sync false) 6) }] } ∧
          t = { s with tile := t.tile, sync := t.sync })) ∧
    (∀ (e : Cmd) (q : Fin 4), (s.tileGet x).cmds = [e] → e.stage = .executed → e.err = 0 → e.flags < 128 → bit e.queues q = true →
      ∃ t, exec (.commandComplete d c sl q) s = .next t ∧
        (∀ i < 4, t.reg (x.reg (0x210 + 4 * i)) =
          if bit e.queues i then (if e.flags = 0 then 0 else 2 ^ 28) + db e.words 0 15 0 else s.reg (x.reg (0x210 + 4 * i))) ∧
        t.reg (x.reg 0x300) = s.reg (x.reg 0x300) ||| e.flags ∧
        t.reg (x.reg 0x304) = min (s.reg (x.reg 0x304) + e.sticky) (2 ^ 32 - 1) ∧ (t.tileGet x).cmds = [] ∧
        (t.tileGet x).kernel = some { more with flags := k.flags ||| e.flags, sticky := min (k.sticky + e.sticky) (2 ^ 32 - 1) } ∧
        t.sync = { s.sync with inflight := s.sync.inflight ++ own e.words } ∧ t.mem = s.mem)

/-- R131, R136: past its deadline a halo wait ends and the copy from ALT_ADDR begins; a mailbox copy during which BEGIN_OBJ
moved on is torn, counted and repeated from ALT_ADDR; else it counts as HALO_OK and the CONV reads A; so it does after the
copy from ALT_ADDR, which counts as HALO_LATE where the deadline brought it. -/
def Obligations.HaloStepEndsByItsThreeWays : Prop :=
  ∀ (s : State) (d : Fin 4) (c : Fin 8) (sl : Fin 9) (e : Cmd), let x : Core3 := ⟨d, c, sl⟩
    (s.tileGet x).cmds = [e] → s.aborting x = false →
    (∀ (w : Waiter) (t₀ : Nat), e.stage = .haloWait → s.sync.arriving = [] → s.sync.waiters = [w] → w.who = .halo x.ix e.num →
      w.deadline = some t₀ → t₀ < s.cycle →
      ∃ t, exec (.haloDeadlineExpiry d c sl) s = .next t ∧ t.sync.waiters = [] ∧
        t.tileGet x = { s.tileGet x with cmds := [{ e with stage := .haloAlt true }] } ∧
        t.fld (x.reg 0x500) 1 0 = 2 ∧ (∀ a, a ≠ x.reg 0x500 → t.reg a = s.reg a) ∧
        t = { s with tile := t.tile, sync := t.sync, regs := t.regs }) ∧
    (e.stage = .haloMail → wf e.walk 0x18 4 + 2 ≤ s.obj (bits (wf e.walk 0x14 4) 17 0) →
      ∃ t, exec (.haloMailboxCopyDone d c sl) s = .next t ∧
        t.tileGet x = { s.tileGet x with cmds := [{ e with stage := .haloAlt false }] } ∧
        t.reg (x.reg 0x50C) = min (s.reg (x.reg 0x50C) + 1) (2 ^ 32 - 1) ∧ (∀ a, a ≠ x.reg 0x50C → t.reg a = s.reg a) ∧
        t = { s with tile := t.tile, regs := t.regs }) ∧
    (∀ u : State, e.stage = .haloMail → s.obj (bits (wf e.walk 0x14 4) 17 0) < wf e.walk 0x18 4 + 2 →
      haloCopy s x e.walk (wf e.walk 0x20 8 : Nat) ((walkDim e.walk (wf e.walk 0xC 1)).pitch : Nat) = (u, true) →
      exec (.haloMailboxCopyDone d c sl) s = .next (((u.bump (x.reg 0x504)).haloBits x false false).runCmd x e)) ∧
    (∀ (u : State) (late : Bool), e.stage = .haloAlt late →
      haloCopy s x e.walk (wf e.walk 0x28 8 : Nat) (toInt 32 (wf e.walk 0x30 4)) = (u, true) →
      exec (.haloAltCopyDone d c sl) s =
        .next (((if late then u.bump (x.reg 0x508) else u).haloBits x false false).runCmd x e))

/-! ## Application cores (05) -/

/-- R150: START takes a core in RESET whose image and entry pass the check to BOOT, and sets ERR else; boot enters S-mode at the
entry with the argument, the entry number and the core number, in RUN, or in HALTED while HALT is set; HALT stops a running
hart; RESET empties the caches and the wait slots, and ends in RESET with the hart as it was at reset; a hart in S-mode may halt
itself, and one in U-mode takes the environment-call exception instead (R138). -/
def Obligations.AppCoreLifeCycle : Prop :=
  ∀ (s : State) (ini : Nat) (d : Fin 4) (c : Fin 8) (k : Fin 2), let x : AcCore := ⟨d, c, k⟩
    let st := x.reg 0x8
    (isMgmt ini = true → s.consentBar ini (x.reg 0x4) = false →
      (s.acState x = 0 → (s.acGet x.ix).resetting = false → s.acFenced x = false →
        ∃ t, exec (.acStart ini d c k) s = .next t ∧
          ((∃ im a l, s.images.find? (fun i => i.handle == s.fld (x.reg 0x10) 31 16 && i.tenant == s.acTenant x) = some im ∧
            x.section im = some (a, l) ∧ s.fld (x.reg 0x10) 15 0 < l.entries) → t.acState x = 1) ∧
          (s.images.find? (fun i => i.handle == s.fld (x.reg 0x10) 31 16 && i.tenant == s.acTenant x) = none →
            t.acState x = 0 ∧ t.rbit st 27 = true) ∧
          (∀ a, a ≠ st → t.reg a = s.reg a) ∧ t = { s with regs := t.regs, resp := .ok 0 }) ∧
      (s.acState x = 2 → ∃ t, exec (.acHalt ini d c k true) s = .next t ∧ t.acState x = 3 ∧ t.rbit (x.reg 0x4) 1 = true ∧
        t.reg64 (x.reg 0x400) = min (s.reg64 (x.reg 0x400) + s.acRan x) (2 ^ 64 - 1) ∧
        (∀ a, a ∉ [st, x.reg 0x4, x.reg 0x400, x.reg 0x404] → t.reg a = s.reg a) ∧ t = { s with regs := t.regs, resp := .ok 0 }) ∧
      ((∀ l ∈ (s.acGet x.ix).lines, l.dirty = false) → ∃ t, exec (.acReset ini d c k) s = .next t ∧
        t.acGet x.ix = { s.acGet x.ix with lines := [], resetting := true } ∧
        (∀ w ∈ t.sync.waiters ++ t.sync.arriving, ∀ n < 4, w.who ≠ .ac x.ix n) ∧ t.mem = s.mem ∧
        (∀ n < 4, t.fld (x.reg (0x11C + 16 * n)) 31 30 ≠ 1) ∧
        (∀ a, a ≠ x.reg 0x200 → (∀ n < 4, a ≠ x.reg (0x11C + 16 * n)) → t.reg a = s.reg a) ∧
        t = { s with ac := t.ac, sync := t.sync, regs := t.regs, resp := .ok 0 })) ∧
    ((s.acGet x.ix).resetting = true → ∃ t, exec (.acResetDone d c k) s = .next t ∧ t.acState x = 0 ∧ t.rbit st 0 = false ∧
      t.acGet x.ix = {} ∧ (∀ a, a ∉ [st, x.reg 0x400, x.reg 0x404] → t.reg a = s.reg a) ∧
      t = { s with ac := t.ac, regs := t.regs }) ∧
    (∀ im a l, s.acState x = 1 →
      s.images.find? (fun i => i.handle == s.fld (x.reg 0x10) 31 16 && i.tenant == s.acTenant x) = some im →
      x.section im = some (a, l) →
      ∃ t, exec (.acBootDone d c k) s = .next t ∧ t.acState x = (if s.rbit (x.reg 0x4) 1 then 3 else 2) ∧
        (t.acGet x.ix).mode = .supervisor ∧
        (t.acGet x.ix).pc = a + l.text + s.unitNat x.id (a + l.table + 8 * s.fld (x.reg 0x10) 15 0) 4 ∧
        (t.acGet x.ix).xGet 10 = s.reg64 (x.reg 0x18) ∧ (t.acGet x.ix).xGet 11 = s.fld (x.reg 0x10) 15 0 ∧
        (t.acGet x.ix).xGet 12 = k ∧ (t.acGet x.ix).lines = (s.acGet x.ix).lines ∧ (∀ b, b ≠ st → t.reg b = s.reg b) ∧
        t = { s with ac := t.ac, regs := t.regs }) ∧
    (s.acRuns x = true → (s.acGet x.ix).mode ≠ .user → ∃ t, exec (.haltSelf d c k) s = .next t ∧ t.acState x = 3 ∧
      (t.acGet x.ix).selfHalted = true ∧ (∀ a, a ∉ [st, x.reg 0x400, x.reg 0x404] → t.reg a = s.reg a) ∧
      t = { s with ac := t.ac, regs := t.regs }) ∧
    (s.acRuns x = true → (s.acGet x.ix).mode = .user → s.acTextOk x ((s.acGet x.ix).csrGet 0x105 / 4 * 4) 2 = true →
      exec (.haltSelf d c k) s = .next (s.acSet x.ix ((s.acGet x.ix).enter false 8 0)))

/-- R138, R146–R148, of a running hart: a store to AC_SIG_OBJ sends its signal, and to an object outside the partition errs, raises
ACC_ERR and the store access fault; arming a wait slot replaces its pending wait; the two message registers raise MSG_IN and the
attentions; the external interrupt while asserted and the timer interrupt from stimecmp on end a WFI, and are taken where sie and
the mode allow it. -/
def Obligations.AppCoreSignalsWaitsAndMessages : Prop :=
  ∀ (s : State) (ini : Nat) (d : Fin 4) (c : Fin 8) (k : Fin 2) (v : Word), let x : AcCore := ⟨d, c, k⟩
    let o := v.toNat % 0x40000
    (s.acRuns x = true →
      (s.objOwned (s.acTenant x) o = true →
        exec (.acSigObjWrite d c k v) s = .next { s with
          resp := .ok 0, sync := { s.sync with inflight := s.sync.inflight ++ [⟨o, s.reg (x.reg 0x100), x.id, false, 0⟩] } }) ∧
      (s.objOwned (s.acTenant x) o = false → ∃ t, exec (.acSigObjWrite d c k v) s = .next t ∧ t.resp = .err ∧ t.sync = s.sync ∧
        t.rbit (x.reg 0x200) 5 = true ∧
        t.sorrel.presented = s.sorrel.presented ++ [(s.cycle, ⟨0x08, 6, x.id, 0, x.reg 0x104, 0, 0xFFFF⟩)] ∧
        (s.acTextOk x ((s.acGet x.ix).csrGet 0x105 / 4 * 4) 2 = true →
          t.acGet x.ix = (s.acGet x.ix).enter false 7 (x.reg 0x104) ∧ ∀ a, a ≠ x.reg 0x200 → t.reg a = s.reg a) ∧
        (s.acTextOk x ((s.acGet x.ix).csrGet 0x105 / 4 * 4) 2 = false → t.acState x = 3 ∧ (t.acGet x.ix).selfHalted = true)) ∧
      (∀ n : Fin 4, let a := x.reg (0x110 + 16 * n)
        s.objOwned (s.acTenant x) o = true → ∃ t, exec (.acWaitArm d c k n v) s = .next t ∧ t.resp = .ok 0 ∧
          t.fld a 17 0 = o ∧ t.fld (a + 0xC) 31 30 = 1 ∧ (∀ b, b ∉ [a, a + 0xC, x.reg 0x200] → t.reg b = s.reg b) ∧
          t.sync.waiters = s.sync.waiters.filter (fun w => !decide (w.who = .ac x.ix n)) ∧
          t.sync.arriving = s.sync.arriving.filter (fun w => !decide (w.who = .ac x.ix n)) ++
            [{ who := .ac x.ix n, obj := o, thr := s.reg (a + 4)
               timeout := if s.reg (a + 8) = 0 then none else some (s.reg (a + 8)) }] ∧
          t = { s with regs := t.regs, sync := t.sync, resp := .ok 0 }) ∧
      (∀ n, 0 < n → n < 16 → s.acTenant x = n → s.rbit (fnA n 0x20) 0 = false → ∃ t, exec (.acMsgOutWrite d c k v) s = .next t ∧
        t.reg (x.reg 0x21C) = v.toNat ∧ t.rbit (fnA n 0x20) 0 = true ∧
        (∃ l, t.sent = s.sent ++ l ++ [.msix ((s.tenant n).port * 16 + n) (s.fld (fnA n 0x24) 5 0)] ∧
          ∀ m ∈ l, ∃ p < 4, s.portActive p = true ∧ m = .msix (p * 16) 0) ∧
        t = { s with regs := t.regs, sent := t.sent, resp := .ok 0 }) ∧
      ((s.acGet x.ix).mode ≠ .user →
        (∀ n, s.cluOwner d c = some n → exec (.readOwnIdentity d c k) s =
          .next { s with resp := .ok (d * 2 ^ 11 + c * 2 ^ 8 + k * 2 ^ 7 + 2 ^ 4 + n) }) ∧
        (∀ code, exec (.reportFatal d c k code) s = .next { s with
          resp := .ok 0, sent := s.sent ++ [.notice "application core fatal" (x.id * 2 ^ 32 + code % 2 ^ 32)] }))) ∧
    (isMgmt ini = true → s.consentBar ini (x.reg 0x214) = false → ∃ t, exec (.acMsgInWrite ini d c k v) s = .next t ∧
      t.reg (x.reg 0x214) = v.toNat ∧ t.rbit (x.reg 0x200) 4 = true ∧
      (∀ a, a ∉ [x.reg 0x214, x.reg 0x200] → t.reg a = s.reg a) ∧ t = { s with regs := t.regs, resp := .ok 0 }) ∧
    (∀ e ∈ [(Instr.acInterrupt d c k, decide (s.reg (x.reg 0x200) &&& s.reg (x.reg 0x204) ≠ 0)),
        (Instr.stimecmpExpiry d c k, decide ((s.acGet x.ix).stimecmp ≤ s.timeNs))],
      ∃ t, exec e.1 s = .next t ∧ (e.2 = true → t.rbit (x.reg 0x8) 0 = false) ∧ (e.2 = false → t.regs = s.regs) ∧
        (∀ a, a ≠ x.reg 0x8 → t.reg a = s.reg a) ∧
        (∀ i, s.acIrqDue x = some i → s.acState x = 2 → (s.acGet x.ix).resetting = false →
          (e.2 = true ∨ s.rbit (x.reg 0x8) 0 = false) → t.acGet x.ix = (s.acGet x.ix).enter true i 0) ∧
        (s.acIrqDue x = none → t.ac = s.ac) ∧ t = { s with ac := t.ac, regs := t.regs })

/-- R140–R142, of a running hart: a load that a held line covers answers the line's bytes; a store makes the line dirty with the
stored bytes in place, and memory keeps its own; cleaning and flushing write a dirty line back, as the core's write of 64 bytes, and
flushing and invalidating drop the line. R149: a scalar operation rounds as its mode field, or frm where that is 7, says, NaN-boxes
its result and accrues fflags; a reserved mode and an instruction of the hypervisor extension (R138) are illegal; every NaN result is
the canonical one, a subnormal operand and result keep their values, and the unordered vector sums equal the ordered ones. That
the next pc is 4 further is the model's choice for such an instruction (log entry 61). -/
def Obligations.AppCoreCaches : Prop :=
  (∀ (s : State) (d : Fin 4) (c : Fin 8) (k : Fin 2) (a : Nat) (l : CacheLine), let x : AcCore := ⟨d, c, k⟩
    let la := a / 64 * 64
    (s.acGet x.ix).lines.find? (fun e => e.addr == la) = some l → l.data.length = 64 → s.acRuns x = true →
    (∀ n, 0 < n → a + n ≤ la + 64 → s.acRange x false a n = .cached →
      exec (.acLoadStore d c k (.load a n [] [])) s = .next { s with resp := .bytes (slice l.data (a - la) n) }) ∧
    (∀ data : List Byte, data ≠ [] → a + data.length ≤ la + 64 → s.acRange x true a data.length = .cached →
      (∀ e ∈ (s.acGet (acIx d c (1 - k))).lines, e.addr + 64 ≤ la ∨ la + 64 ≤ e.addr) →
      ∃ t e, exec (.acLoadStore d c k (.store a data [] [])) s = .next t ∧ t.resp = .ok 0 ∧
        (t.acGet x.ix).lines.find? (fun e => e.addr == la) = some e ∧ e.dirty = true ∧
        (∀ i < 64, e.data[i]? = if a ≤ la + i ∧ la + i < a + data.length then data[la + i - a]? else l.data[i]?) ∧
        (∀ j, j ≠ x.ix → t.acGet j = s.acGet j) ∧ t = { s with ac := t.ac, resp := .ok 0 }) ∧
    (∃ t, exec (.cboClean d c k a) s = .next t ∧
      t.mem = (if l.dirty then (s.memWrite x.id la l.data).1.mem else s.mem) ∧
      (s.place la = .lp → t.acGet x.ix = { s.acGet x.ix with
        lines := (s.acGet x.ix).lines.map (fun e => if e.addr = la then { e with dirty := false } else e) })) ∧
    (∃ t, exec (.cboFlush d c k a) s = .next t ∧
      t.mem = (if l.dirty then (s.memWrite x.id la l.data).1.mem else s.mem) ∧
      (s.place la = .lp → t.acGet x.ix = { s.acGet x.ix with lines := (s.acGet x.ix).lines.filter (fun e => e.addr != la) })) ∧
    (∃ t, exec (.cboInval d c k a) s = .next t ∧
      t.acGet x.ix = { s.acGet x.ix with lines := (s.acGet x.ix).lines.filter (fun e => e.addr != la) } ∧
      (∀ j, j ≠ x.ix → t.acGet j = s.acGet j) ∧ t = { s with ac := t.ac })) ∧
  (∀ (s : State) (d : Fin 4) (c : Fin 8) (k : Fin 2) (op : FpOp) (fm : HartFmt) (rm : Fin 8) (rd rs1 rs2 rs3 : Fin 32),
    let x : AcCore := ⟨d, c, k⟩
    let h := s.acGet x.ix
    s.acRuns x = true → h.fpOn = true → fm ≠ .half →
    (∀ r, rmRnd (if rm = 7 then bits (h.csrGet 3) 7 5 else rm) = some r →
      let v := fpArith (hartFmt fm) r op (h.fGet fm rs1) (h.fGet fm rs2) (h.fGet fm rs3)
      ∃ t, exec (.acLoadStore d c k (.hart (.fp op fm rm rd rs1 rs2 rs3))) s = .next t ∧
        (t.acGet x.ix).fGet fm rd = v.1 ∧ (t.acGet x.ix).csrGet 3 = h.csrGet 3 ||| v.2 ∧
        (∀ n, n ≠ rd.val → tabGet 0 (t.acGet x.ix).f n = tabGet 0 h.f n) ∧ (t.acGet x.ix).x = h.x ∧ (t.acGet x.ix).v = h.v ∧
        (t.acGet x.ix).pc = (h.pc + 4) % 2 ^ 64 ∧ t.reg64 (x.reg 0x408) = min (s.reg64 (x.reg 0x408) + 1) (2 ^ 64 - 1) ∧
        (∀ j, j ≠ x.ix → t.acGet j = s.acGet j) ∧ t = { s with ac := t.ac, regs := t.regs }) ∧
    (∀ op' ∈ [HartOp.fp op fm 5 rd rs1 rs2 rs3, .hyper], s.acTextOk x (h.csrGet 0x105 / 4 * 4) 2 = true →
      exec (.acLoadStore d c k (.hart op')) s = .next (s.acSet x.ix (h.enter false 2 0))) ∧
    (∀ (widen m : Bool), exec (.acLoadStore d c k (.hart (.vfred widen false rd rs2 rs1 m))) s =
      exec (.acLoadStore d c k (.hart (.vfred widen true rd rs2 rs1 m))) s)) ∧
  (∀ (fm : HartFmt) (r : Rnd) (op : FpOp) (a b e : Nat), let f := hartFmt fm
    a < 2 ^ f.width → b < 2 ^ f.width → e < 2 ^ f.width →
    (f.decode (fpArith f r op a b e).1 = .nan → (fpArith f r op a b e).1 = f.nanBits) ∧
    ((f.decode a).isFin = true → (f.decode a).isZero = false → fpArith f rne .add a 0 0 = (a, 0)))

/-! ## Sync, barriers, jobs, the log (06) -/

/-- R153–R155, R158: a signal that reaches its block when its object has not committed in this cycle and no operation waits before
it commits: the value saturates, and a saturation is counted; a wait whose
threshold is reached registers as met, any other waits with its deadline; past its deadline it is resolved as timed out. A
wait slot of an application core shows MET or TIMEOUT and raises its interrupt bit (R147), and a
TIMEOUT marks the jobs of its cluster. -/
def Obligations.SignalsCommitAndWaitsResolve : Prop :=
  (∀ (s : State) (i : Nat) (g : Signal), s.sync.inflight[i]? = some g → s.canCommit g.obj = true → s.queuedOn g.obj = false →
    g.set = false →
    (∀ w ∈ s.sync.waiters, w.obj = g.obj → min (s.obj g.obj + g.inc) 0xFFFFFFFF < w.thr) →
    ∃ t, exec (.signalCommit i) s = .next t ∧ t.obj g.obj = min (s.obj g.obj + g.inc) 0xFFFFFFFF ∧
      (∀ o, o ≠ g.obj → t.obj o = s.obj o) ∧ t.sync.inflight = s.sync.inflight.eraseIdx i ∧
      t.sync.waiters = s.sync.waiters ∧ t.mem = s.mem ∧ t.tile = s.tile ∧ t.ac = s.ac ∧ t.job = s.job ∧
      (0xFFFFFFFF < s.obj g.obj + g.inc → t.rbit (syncA (objDie g.obj) (objClu g.obj) 0x8000) 0 = true)) ∧
  (∀ (s : State) (ini : Nat) (d : Fin 4) (c : Fin 8) (n : Fin 8192) (v : Word), isMgmt ini = true →
    s.consentBar ini (syncA d c (4 * n)) = false → s.canCommit (mkObj d c n) = true →
    s.queuedOn (mkObj d c n) = false → s.sync.waiters = [] →
    ∃ t, exec (.syncValueWrite ini d c n v) s = .next t ∧ t.resp = .ok 0 ∧ t.obj (mkObj d c n) = v.toNat ∧
      (∀ o, o ≠ mkObj d c n → t.obj o = s.obj o) ∧ t.sync.inflight = s.sync.inflight ∧ t.mem = s.mem ∧ t.tile = s.tile) ∧
  (∀ (s : State) (i : Nat) (w : Waiter), s.sync.arriving[i]? = some w →
    (s.obj w.obj < w.thr → exec (.waitRegister i) s = .next { s with sync := { s.sync with
      arriving := s.sync.arriving.eraseIdx i
      waiters := s.sync.waiters ++ [{ w with deadline := w.deadline.or (w.timeout.map (· + s.cycle)) }] } }) ∧
    (∀ k n, w.who = .ac k n → w.thr ≤ s.obj w.obj → ∃ t, exec (.waitRegister i) s = .next t ∧
      t.fld ((acOf k).reg (0x11C + 16 * n)) 31 30 = 2 ∧ (n < 32 → t.rbit ((acOf k).reg 0x200) n = true) ∧
      (∀ a, a ∉ [(acOf k).reg (0x11C + 16 * n), (acOf k).reg 0x200] → t.reg a = s.reg a) ∧
      t = { s with regs := t.regs, ac := t.ac, sync := { s.sync with arriving := s.sync.arriving.eraseIdx i } })) ∧
  (∀ (s : State) (i : Nat) (w : Waiter) (t₀ k n : Nat), s.sync.waiters[i]? = some w → w.deadline = some t₀ → t₀ < s.cycle →
    w.who = .ac k n → ∃ t, exec (.waitTimeout i) s = .next t ∧
      t.fld ((acOf k).reg (0x11C + 16 * n)) 31 30 = 3 ∧ (n < 32 → t.rbit ((acOf k).reg 0x200) n = true) ∧
      (∀ a, a ∉ [(acOf k).reg (0x11C + 16 * n), (acOf k).reg 0x200] → t.reg a = s.reg a) ∧
      t.job.jobs = s.job.jobs.map (fun j => if bit (fieldLe j.data 0x1C 4) (k / 2) then { j with timeout := true } else j) ∧
      t = { s with regs := t.regs, ac := t.ac, job := { s.job with jobs := t.job.jobs }
                   sync := { s.sync with waiters := s.sync.waiters.eraseIdx i } })

/-- R160–R164: setting EN arms a context at generation 0; 64 cycles after the last arrival, or from T_rel on in a ring context,
the release commits: GEN counts it, and each RELEASE_OBJ takes 1, at once where its sync block has room, else in its turn; an incomplete
generation that outlives the timeout breaks the context and raises its tenant's attention. -/
def Obligations.BarrierArmsReleasesAndBreaks : Prop :=
  ∀ (s : State) (b : Fin 32),
    (∀ (ini : Nat) (v : Word), isMgmt ini = true → s.consentBar ini (ctxA b 0) = false → s.rbit (ctxA b 0) 31 = false →
      bit v.toNat 31 = true → bit v.toNat 30 = false → ∃ t, exec (.barrierContextEnable ini b v) s = .next t ∧ t.barState b = 1 ∧
        t.reg (ctxA b 0x1C) = 0 ∧ t.rbit (ctxA b 0) 31 = true ∧ t.fld (ctxA b 0) 23 20 = bits v.toNat 23 20 ∧
        (∀ a, a ∉ [ctxA b 0, ctxA b 0x18, ctxA b 0x1C] → t.reg a = s.reg a) ∧
        (∀ e, e ≠ b.val → t.bar e = s.bar e) ∧ t = { s with regs := t.regs, barriers := t.barriers, resp := .ok 0 }) ∧
    (s.sync.waiters = [] → s.sync.reached = [] → (∀ o ∈ s.releaseObjs b, s.watchers o = []) →
      s.barState b = 1 → s.barSpaced b = true → (s.reg (ctxA b 0x1C) < 2 ^ 32 - 1) →
      let released := fun (t : State) => t.reg (ctxA b 0x1C) = s.reg (ctxA b 0x1C) + 1 ∧ t.barState b = 1 ∧
        (t.bar b).lastRelease = some s.cycle ∧ t.mem = s.mem ∧ t.tile = s.tile ∧ t.job = s.job ∧
        ∀ o ∈ s.releaseObjs b, (s.sync.commitCycle ≠ s.cycle → t.obj o = min (s.obj o + 1) 0xFFFFFFFF) ∧
          (t.obj o = min (s.obj o + 1) 0xFFFFFFFF ∨
            ∃ n, (n, (⟨o, 1, mkId (objDie o) (objClu o) 13 0, false, 0⟩ : Signal)) ∈ t.sync.reached)
      (∀ a, genCycle (s.bar b).done (s.barGen b) = some a → s.rbit (ctxA b 0) 30 = false → a + 64 ≤ s.cycle →
        ∃ t, exec (.barrierReleaseCommit b) s = .next t ∧ released t) ∧
      (∀ T, (s.bar b).ringAt = some T → T ≤ s.timeNs → ∃ t, exec (.ringBarrierReleaseCommit b) s = .next t ∧ released t)) ∧
    (∀ c n, genCycle (s.bar b).first (s.barIncomplete b) = some c → s.barState b = 1 → s.reg (ctxA b 0x10) ≠ 0 →
      c + s.reg (ctxA b 0x10) < s.cycle → s.fld (ctxA b 0) 23 20 = n → 0 < n → s.rbit (fnA n 0x20) 1 = false →
      ∃ t, exec (.barrierContextTimeout b) s = .next t ∧ t.barState b = 2 ∧ t.bar b = {} ∧ t.rbit (fnA n 0x20) 1 = true ∧
        t.sent = s.sent ++ [.msix ((s.tenant n).port * 16 + n) (s.fld (fnA n 0x24) 5 0)] ∧
        (∀ a, a ∉ [ctxA b 0x18, fnA n 0x20] → t.reg a = s.reg a) ∧
        t = { s with regs := t.regs, barriers := t.barriers, sent := t.sent })

/-- R166–R171: a job record that breaks no check is accepted under the next number, with the stamp of its cycle, or of a later one
after records of lower windows of that cycle, and clears its fold accumulators; any other
leaves its first code; a stale claim lapses with code 10; a distributor pushes the next tile of the static rule, or claims the
next tiles of a balanced job; an ended job writes its result record, signals DONE_OBJ and leaves. -/
def Obligations.JobsAreCheckedDistributedAndEnded : Prop :=
  ∀ (s : State) (d : Fin 4) (c : Fin 8), let k := 8 * d.val + c.val
    (∀ (ini : Nat) (win : Fin 4) (v : Word), winWriter k win ini = true → s.claim k = none →
      s.consentBar ini (clA (k / 8) (k % 8) (winOff win + 60)) = false →
      let r := natLe 64 (s.regWords (clA (k / 8) (k % 8) (winOff win)) 15 + 2 ^ 480 * v.toNat)
      (s.jobErrs k win r = [] → ∃ t, exec (.jobSubmit ini d c win v) s = .next t ∧ t.resp = .ok 0 ∧
        (let same := fun (e : Job) => e.home == k && e.submitted == s.cycle
         t.job.jobs = s.job.jobs.map (fun e => if same e && decide (win.val < e.window) then { e with stamp := e.stamp + 1 } else e) ++
          [{ num := s.job.nextNum, home := k, window := win, submitted := s.cycle
             stamp := s.cycle + (s.job.jobs.filter (fun e => same e && decide (e.window ≤ win.val))).length
             tenant := (s.cluOwner (k / 8) (k % 8)).getD 16, data := r }]) ∧
        t.job.nextNum = s.job.nextNum + 1 ∧
        (∀ q ∈ cluList (fieldLe r 0x1C 4), ∀ sl < 9, ∀ f ∈ foldSlots (fieldLe r 0x38 4),
          t.reg64 (tcA (q / 8) (q % 8) sl (0x600 + 8 * f)) = 0) ∧
        t = { s with regs := t.regs, job := t.job, resp := .ok 0 }) ∧
      (∀ code l, s.jobErrs k win r = code :: l → code < 16 → s.rbit (clA (k / 8) (k % 8) 0x304) 31 = false →
        ∃ t, exec (.jobSubmit ini d c win v) s = .next t ∧ t.job.jobs = s.job.jobs ∧
          t.reg (clA (k / 8) (k % 8) 0x304) = 2 ^ 31 + code)) ∧
    (∀ i c₀, s.claim k = some (i, c₀) → c₀ + 110000 ≤ s.cycle → s.rbit (clA (k / 8) (k % 8) 0x304) 31 = false →
      ∃ t, exec (.jobWindowClaimLapse d c) s = .next t ∧ t.claim k = none ∧ t.reg (clA (k / 8) (k % 8) 0x304) = 2 ^ 31 + 10 ∧
        (∀ w < 16, t.reg (clA (k / 8) (k % 8) (0x200 + 4 * w)) = 0) ∧ t.job.jobs = s.job.jobs ∧
        t = { s with regs := t.regs, job := t.job }) ∧
    (∀ (l : Fin 8) (j : Job) (n q : Nat), let x : Core3 := ⟨k / 8, k % 8, s.physSlot (k / 8) (k % 8) l⟩
      oldestJob (s.job.jobs.filter (fun j => s.jobRuns j && j.hasTiles k l)) = some j → j.bal = false →
      j.staticTile k l = some n → s.queued k l = some q → q < 16 →
      ∃ t, exec (.tilePush d c l) s = .next t ∧ 
        (t.tileGet x).queue = queueRec (s.tileGet x).queue { j.launch n with pushed := s.cycle } ∧
        t.job.jobs = s.job.jobs.map (fun e => if e.num = j.num then
          { j with snext := tabMod 0 j.snext (8 * k + l) (· + 1), pushed := j.pushed + 1 } else e) ∧
        (∀ y : Core3, y.ix ≠ x.ix → t.tileGet y = s.tileGet y) ∧ t = { s with tile := t.tile, job := t.job }) ∧
    (∀ j : Job, oldestJob (s.job.jobs.filter (fun j => s.jobRuns j && j.bal && !j.failed && j.clus.contains k &&
        decide (j.next < j.tiles) && !j.claimed.any (·.1 == k) && (s.balSlot j k).isSome)) = some j →
      ∃ t, exec (.tileClaim d c) s = .next t ∧ t.job.jobs = s.job.jobs.map (fun e => if e.num = j.num then
          { j with next := min j.tiles (j.next + j.f 0xC 1)
                   claimed := j.claimed ++ (List.range (min (j.tiles - j.next) (j.f 0xC 1))).map (fun i => (k, j.next + i)) }
          else e) ∧ t = { s with job := { s.job with jobs := t.job.jobs } }) ∧
    (∀ (j : Job) (step : Option PipeStep), oldestJob (s.job.jobs.filter (fun j => j.home == k && j.over)) = some j →
      (step = none ∨ j.tenant ≠ 0) → let id := mkId (k / 8) (k % 8) 12 0
      let w := j.f 0x20 4
      ∃ t, exec (.jobEnd d c step) s = .next t ∧ t.job.jobs = s.job.jobs.filter (fun e => e.num != j.num) ∧
        t.mem = (s.memWrite id (j.f 0x30 6) (s.jobResult j)).1.mem ∧
        t.sync.inflight = s.sync.inflight ++ (if bit w 31 then [⟨w % 0x40000, 1, id, false, 0⟩] else []) ∧
        (j.window = 1 → tabGet [] t.job.results j.num = s.jobResult j))

/-- R179, R182–R184: the phase sample of a new millisecond takes the next SEQ of its kind; a record that meets full staging is
dropped, counted in HUB_LOG_LOST and marks every pipeline; once staging drains, a gap record tells the loss; a segment about to
be reused is copied to the NAND area's next extent; a replay takes the log's place and the pace registers follow it. -/
def Obligations.LogRecordsGapsAndReplay : Prop :=
  ∀ (s : State),
    (s.logOn = true → s.log.nextSample ≤ s.timeNs →
      (∃ t, exec (.phaseSample true) s = .next t ∧ t.log.nextSample = s.timeNs / 1000000 * 1000000 + 1000000 ∧
        tabGet 0 t.log.seqs (4 * 65536) = (tabGet 0 s.log.seqs (4 * 65536) + 1) % 2 ^ 32 ∧
        t.log.lostRecs = s.log.lostRecs + 1 ∧ t.log.lostBytes = s.log.lostBytes + 64 ∧ t.log.dropping = true ∧
        t.log.gapPipes = 0xFF ∧ t.reg (hubA 0x408) = min (s.reg (hubA 0x408) + 1) (2 ^ 32 - 1) ∧
        (∀ a, a ≠ hubA 0x408 → t.reg a = s.reg a) ∧ t = { s with log := t.log, regs := t.regs }) ∧
      (s.log.dropping = false → ∃ (t u : State) (data : List Byte), exec (.phaseSample false) s = .next t ∧
        u = { s with log := { s.log with nextSample := s.timeNs / 1000000 * 1000000 + 1000000, seqs := u.log.seqs } } ∧
        tabGet 0 u.log.seqs (4 * 65536) = (tabGet 0 s.log.seqs (4 * 65536) + 1) % 2 ^ 32 ∧ data.length = 64 ∧
        fieldLe data 0 2 = 4 ∧ fieldLe data 2 2 = 0 ∧ fieldLe data 4 4 = 16 ∧ fieldLe data 8 8 = s.timeNs % 2 ^ 64 ∧
        fieldLe data 0x18 4 = tabGet 0 s.log.seqs (4 * 65536) % 2 ^ 32 ∧
        t = u.logAppend ⟨4, 0, data⟩)) ∧
    (s.logOn = true → s.log.dropping = true → ∃ (t u : State) (data : List Byte), exec .logGapRecord s = .next t ∧
      u = { s with log := { s.log with dropping := false, lostRecs := 0, lostBytes := 0, seqs := u.log.seqs } } ∧
      fieldLe data 0 2 = 6 ∧ fieldLe data 0x20 8 = s.log.lostRecs % 2 ^ 64 ∧ fieldLe data 0x28 8 = s.log.lostBytes % 2 ^ 64 ∧
      t = u.logAppend ⟨6, 0, data⟩) ∧
    (∀ b : List Byte, s.log.regions.length ≤ s.log.seg + 1 → s.logNand = true → s.log.staged = [] →
      s.log.copied < s.log.seg + 2 - s.log.regions.length →
      let v := s.log.seg + 1 - s.log.regions.length
      s.memRead hubDmaId (s.log.regions.getD (v % s.log.regions.length) 0) segBytes = (s, some b) →
      ∃ t, exec .logSegmentCopy s = .next t ∧ t.log.copied = v + 1 ∧ t.log.copies = s.log.copies + 1 ∧
        tabGet 0 t.log.extents (s.log.copies % s.log.nandExtents) = v + 1 ∧
        (∀ i < b.length, tabGet 0 t.mem.nand ((s.log.nandFirst + s.log.copies % s.log.nandExtents * 512) * 4096 + i) =
          b.getD i 0) ∧ t.mem.cells = s.mem.cells ∧ t.log.seg = s.log.seg) ∧
    (∀ (ini first last : Nat) (p : Fin 8) (segs : List Nat), isMgmt ini = true → s.consentBar ini (hubA 0x404) = false →
      ∃ t r, exec (.replayStart ini p first last segs) s = .next t ∧ t.resp = .ok 0 ∧ t.log.replay = some r ∧
        r.pipeline = p ∧ r.last = last ∧ r.segs = segs ∧ t.logState = 3 ∧
        (s.reg64 (paceA p 0x18) = 0 → first < 2 ^ 64 → t.reg64 (paceA p 0) = first - 1) ∧
        (s.reg64 (paceA p 0x18) ≠ 0 → t.reg64 (paceA p 0) = s.reg64 (paceA p 0x18)) ∧
        (∀ a, a ∉ [paceA p 0, paceA p 0 + 4] → t.reg a = s.reg a) ∧ t.mem = s.mem ∧
        t = { s with log := { s.log with replay := t.log.replay }, regs := t.regs, resp := .ok 0 })

/-! ## KV pages and serving (07, 08) -/

/-- R215, R216, R220, R221, R225, R240, R242, R245: a serving command is stamped with module time and appended to its tenant's
inbox: to tenant 0's when management gives it, else to that of the function whose queue it is fetched from, where it leaves no
command in flight; nothing else changes. A lane whose step is over runs its boundary for that step's job, and an idle one every
IDLE_US runs an empty one; neither acts before its time. Writing MODEL_COUNT is refused while requests live; else it starts lanes,
each below the count, whose descriptors pass the checks of R216. -/
def Obligations.ServingCommandsAndLaneBoundaries : Prop :=
  (∀ (s : State), ∀ p ∈ ([(0, .submit), (1, .cancel), (2, .pause), (3, .resume)] : List (Nat × (ServeSrc → Instr))),
     (∀ b, (tabGet [] s.serve.inbox 0).length < 1024 → exec (p.2 (.mgmt b)) s = .next { s with serve := { s.serve with
       inbox := tabSet [] s.serve.inbox 0 (tabGet [] s.serve.inbox 0 ++ [⟨s.timeNs, p.1, slice b 0 64, 0⟩]) } }) ∧
     (∀ (port : Fin 4) (u : State) (c : HostCmd), s.fetch port (· == 0x40 + p.1) = (u, some c) → c.headOk = true →
       (tabGet [] s.serve.inbox c.tenant).length < 1024 → ∃ t, exec (p.2 (.host port)) s = .next t ∧
         tabGet [] t.serve.inbox c.tenant = tabGet [] s.serve.inbox c.tenant ++
           [⟨s.timeNs, p.1, slice c.data 0x40 64, s.fld (sqA c.tenant c.sq 0xC) 21 16⟩] ∧
         (∀ n, n ≠ c.tenant → tabGet [] t.serve.inbox n = tabGet [] s.serve.inbox n) ∧
         t.host.cmds = s.host.cmds.filter (fun e => e.num != c.num) ∧
         t.fld (sqA c.tenant c.sq 0x10) 15 0 = c.head % 2 ^ 16 ∧
         (∀ a, a ≠ sqA c.tenant c.sq 0x10 → t.reg a = s.reg a) ∧
         t = { s with serve := { s.serve with inbox := t.serve.inbox }, host := t.host, regs := t.regs })) ∧
  (∀ (s : State) (t m : Fin 16) (r : Bool),
     (∀ l, s.lane t m = some l → s.rbit (rqtA 0) 0 = true →
       (s.stepOver l = true → exec (.stepBoundary t m r) s = .next
         ({ s with job := { s.job with results := tabSet [] s.job.results l.job [] } }.boundary t m l.job r)) ∧
       (s.stepOver l = false → exec (.stepBoundary t m r) s = .next s) ∧
       (l.job = 0 → l.last + max 100 (s.fld (rqtA 0) 31 16) * 1000 ≤ s.timeNs →
         exec (.emptyBoundary t m r) s = .next (s.boundary t m 0 r)) ∧
       (l.job ≠ 0 ∨ s.timeNs < l.last + max 100 (s.fld (rqtA 0) 31 16) * 1000 → exec (.emptyBoundary t m r) s = .next s)) ∧
     (∀ (ini : Nat) (v : Word), isMgmt ini = true → s.consentBar ini (rqtT t 8) = false →
       (s.liveOf t ≠ [] → ∃ u, exec (.rqtModelCountWrite ini t v) s = .next u ∧ u.rbit (rqtA 4) 31 = true ∧
         (∀ a, a ≠ rqtA 4 → u.reg a = s.reg a) ∧ u = { s with regs := u.regs, resp := .ok 0 }) ∧
       (s.liveOf t = [] → ∃ u, exec (.rqtModelCountWrite ini t v) s = .next u ∧ u.resp = .ok 0 ∧
         u.reg (rqtT t 8) = min 16 v.toNat ∧ (∀ i l, u.lane t i = some l → i < 16 → i < min 16 v.toNat ∧ l.last = s.timeNs ∧
           l.job = 0 ∧ l.batch = []) ∧
         (∀ n i, n ≠ t.val → i < 16 → u.lane n i = s.lane n i) ∧ u.serve.reqs = s.serve.reqs ∧ u.serve.inbox = s.serve.inbox)))

/-- R231–R233: the drafts accepted are the longest run of drafts that equal the tokens chosen before them; the tokens committed
are a prefix of the chosen ones, up to the room left and up to and with the first stop token; the draft cap stays between
DRAFT_FLOOR and DRAFT_MAX, or goes to 0 with speculation off. -/
def Obligations.DraftsAreAcceptedAndTheCapAdapts : Prop :=
  (∀ (rec_ : List Byte) (len : Nat), let a := draftRun rec_ len len
    a ≤ len ∧ (∀ i, 1 ≤ i → i ≤ a → fieldLe rec_ (0x40 + 4 * i) 4 = fieldLe rec_ (4 * i) 4) ∧
    (a < len → fieldLe rec_ (0x40 + 4 * (a + 1)) 4 ≠ fieldLe rec_ (4 * (a + 1)) 4)) ∧
  (∀ (stops toks : List Nat) (room : Nat), ∃ n ≤ room, (commitTokens stops room toks).1 = toks.take n ∧
    ((commitTokens stops room toks).2 = false → (∀ c ∈ toks.take n, c ∉ stops) ∧ n = min room toks.length) ∧
    ((commitTokens stops room toks).2 = true → 0 < n ∧ (∃ c ∈ stops, toks[n - 1]? = some c) ∧
      ∀ c ∈ toks.take (n - 1), c ∉ stops)) ∧
  (∀ (e : ReqEntry) (l : Lane) (len a : Nat), let lo := l.d 0x17 1
    let hi := l.d 0x16 1
    lo ≤ hi → lo ≤ e.cap → e.cap ≤ hi → len ≤ e.cap → a ≤ len →
    (bit (e.adapt l len a).flags 5 = true ∧ (e.adapt l len a).cap = 0) ∨
      (lo ≤ (e.adapt l len a).cap ∧ (e.adapt l len a).cap ≤ hi))

/-- R206, R211, R212, R236: a lane's summaries end with a subset of those asked for; a page move that ends copies the page,
switches its metadata, counts, and leaves its old slot for the lane's next boundary; with no room in flight no further move
starts; a lookup starts while fewer than 8 are in flight and, ended, keeps the nodes it found for the next boundary. -/
def Obligations.PageMovesSummariesAndLookups : Prop :=
  ∀ (s : State),
    (∀ (t m : Fin 16) (a : Nat) (l : Lane), s.lane t m = some l → l.summDone = false →
      ∃ u l', exec (.summaryDone t m a) s = .next u ∧ u.lane t m = some l' ∧ l'.summDone = true ∧
        (∀ n ∈ l'.summ, n ∈ l.summ) ∧ l' = { l with summ := l'.summ, summDone := true } ∧
        (∀ i, i ≠ 16 * t.val + m.val → tabGet none u.serve.lanes i = tabGet none s.serve.lanes i) ∧
        u.serve.moves = s.serve.moves) ∧
    (∀ (mv : PageMove) (b : List Byte), s.serve.moves = [mv] → s.serve.reqs = [] →
      let p := s.page mv.tenant mv.page
      let dst := s.slotAddr mv.tenant mv.toLp mv.dst
      s.readPages mv.tenant [mv.page] = s → s.memRead kvpId p.addr p.map.bytes = (s, some b) →
      ∃ u, exec (.pageMoveDone 0) s = .next u ∧ u.serve.moves = [] ∧
        u.mem = ((s.memWrite kvpId dst b).1.setPage mv.tenant mv.page
          ({ p with addr := dst, state := if mv.toLp then 2 else 1 }.flag 2 false)).mem ∧
        (∀ l, s.lane mv.tenant mv.lane = some l → u.lane mv.tenant mv.lane = some { l with
          freed := l.freed ++ [(!mv.toLp, mv.src)], fetched := if mv.toLp then l.fetched else l.fetched ++ [mv.page] }) ∧
        u.fld (kvpA 4) 15 0 = 0) ∧
    (∀ (t m : Fin 16) (l : Lane) (n : Nat) (rest : List Nat) (v : State), s.lane t m = some l → l.walk = n :: rest →
      (s.page t n).state = 2 → bit (s.page t n).flags 2 = false → s.readPages t [n] = v →
      (max 1 (v.fld (kvpA 0) 15 8) ≤ v.fetching → exec (.prefetchMoveStart t m) s = .next v) ∧
      (∀ sl, v.rbit (kvpA 0) 1 = true → v.fetching < max 1 (v.fld (kvpA 0) 15 8) → rest = [] →
        v.reg (kvpT t 0x14) < v.slotsFree t false →
        (List.range (v.slotCount t false)).find? (fun i => !(v.slots t false).contains i) = some sl →
        ∃ u mv, exec (.prefetchMoveStart t m) s = .next u ∧ u.serve.moves = v.serve.moves ++ [mv] ∧ mv.tenant = t.val ∧
          mv.lane = m.val ∧ mv.page = n ∧ mv.dst = sl ∧ mv.toLp = false ∧ (u.lane t m).map (·.walk) = some [])) ∧
    ((s.serve.looks.filter (fun i => (s.req i).look == 2)).length < 8 → ∀ i,
      s.serve.looks.find? (fun i => (s.req i).look == 1) = some i → s.serve.looks.Nodup →
      ∃ u, exec .lookupStart s = .next u ∧ u.req i = { s.req i with look := 2 } ∧ (∀ j, j ≠ i → u.req j = s.req j) ∧
        u.reg (lovA 4) = (s.serve.looks.filter (fun i => (s.req i).look == 2)).length + 1 ∧
        (∀ a, a ≠ lovA 4 → u.reg a = s.reg a) ∧ u.serve.looks = s.serve.looks ∧ u.mem = s.mem) ∧
    (∀ (k i : Nat) (v : State) (found : List Nat), (s.serve.looks.filter (fun i => (s.req i).look == 2))[k]? = some i →
      s.lookupGo (s.entry i) ((s.entry i).committed / 64 + 1) 0 (lovRoot (s.entry i).tenant (s.entry i).model) hole [] =
        (v, found) → v.serve = s.serve →
      ∃ u, exec (.lookupEnd k) s = .next u ∧ u.req i = { s.req i with look := 3, found := found } ∧
        i ∉ u.serve.looks ∧ (∀ j, j ≠ i → u.req j = s.req j) ∧ u.serve.moves = s.serve.moves)

/-! ## Camera streams and video coding (09) -/

/-- R249–R252, R296: frames with a bad FCS, fragments and unmatched datagrams are counted and dropped; the first packet of a
context opens an access unit stamped with its arrival; REORDER_US later the unit closes; a field port's link sets LINK with its
FEC, and clears both; an ARP request for FP0's address is answered. -/
def Obligations.DatagramsFormAccessUnits : Prop :=
  (∀ (s : State) (x : UdpIn) (full : Bool), s.log.replay = none → s.rbit (fptA 0) 0 = true → s.rbit (fptA 4) 0 = true →
    let seen := fun (t : State) => t.reg (fptA 0x10) = min (s.reg (fptA 0x10) + 1) (2 ^ 32 - 1) ∧
      t.reg64 (fptA 0x28) = min (s.reg64 (fptA 0x28) + x.frameLen) (2 ^ 64 - 1)
    let drop := fun (t : State) (off : Nat) => seen t ∧ t.reg (fptA off) = min (s.reg (fptA off) + 1) (2 ^ 32 - 1) ∧
      (∀ a, a ∉ [fptA 0x10, fptA 0x28, fptA 0x2C, fptA off] → t.reg a = s.reg a) ∧ t = { s with regs := t.regs }
    (x.fcsBad = true → ∃ t, exec (.udpDatagramRx x full) s = .next t ∧ drop t 0x14) ∧
    (x.fcsBad = false → x.fragment = true → ∃ t, exec (.udpDatagramRx x full) s = .next t ∧ drop t 0x1C) ∧
    (x.fcsBad = false → x.fragment = false → x.frameLen ≤ 9216 → s.rbit (fptA 0) 1 = false → s.dopens = [] →
      ∃ t, exec (.udpDatagramRx x full) s = .next t ∧ drop t 0x18) ∧
    (x.fcsBad = false → x.fragment = false → (9216 < x.frameLen ∨ s.rbit (fptA 0) 1 = true ∧ x.vlan ≠ some (s.fld (fptA 0) 27 16)) →
      ∃ t, exec (.udpDatagramRx x full) s = .next t ∧ seen t ∧
        (∀ a, a ∉ [fptA 0x10, fptA 0x28, fptA 0x2C] → t.reg a = s.reg a) ∧ t = { s with regs := t.regs }) ∧
    (∀ (c pt n ts : Nat) (p : List Byte), x.fcsBad = false → x.fragment = false → x.frameLen ≤ 9216 → s.rbit (fptA 0) 1 = false →
      s.dopens = [c] → c < 128 → s.dport c = x.dport → bit (s.dd c 2 1) 3 = false → s.dten c ≠ 0 →
      rtpParse x.payload = some (false, pt, n, ts, p) → pt = s.dd c 0xC 1 → packOk (s.dd c 1 1) p = true →
      (s.dctx c).assem = [] → (s.dctx c).hi = none → (s.dctx c).next = none → (s.dctx c).lastTs = none →
      (s.dctx c).ahead = [] →
      ∃ t, exec (.udpDatagramRx x full) s = .next t ∧ seen t ∧
        t.reg (vdecA c 0x10) = min (s.reg (vdecA c 0x10) + 1) (2 ^ 32 - 1) ∧
        (let au : AuOpen := { ts := ts, first := s.timeNs, cyc := s.thyPhase.1, cnt := s.thyPhase.2.1, pkts := [(65536 + n, false, p)] }
         t.dctx c = { s.dctx c with hi := some (65536 + n), heard := s.timeNs, silent := false, assem := [au] }) ∧
        (∀ e, e ≠ c → t.dctx e = s.dctx e) ∧ t = { s with regs := t.regs, video := t.video })) ∧
  (∀ (s : State) (c : Fin 128) (a : AuOpen), s.dopen c = true → (s.dctx c).assem = [a] → s.auDeadline c a < s.inputTime c →
    (s.dctx c).queue.length + (s.dctx c).wait.length < 8 → ∃ t q, exec (.auReorderTimeout c) s = .next t ∧
      (t.dctx c).assem = [] ∧ (t.dctx c).queue = (s.dctx c).queue ++ [q] ∧ q.num = (s.dctx c).auNext ∧ q.ts = a.ts ∧
      q.closed = s.auDeadline c a ∧ (a.marker = none → q.damaged = true) ∧ (t.dctx c).auNext = (s.dctx c).auNext + 1 ∧
      t.reg (vdecA c 0x20) = min (s.reg (vdecA c 0x20) + 1) (2 ^ 32 - 1) ∧
      (∀ r, r ∉ [vdecA c 0x20, vdecA c 0x14, vdecA c 0x24] → t.reg r = s.reg r) ∧ t = { s with regs := t.regs, video := t.video }) ∧
  (∀ (s : State) (port : Fin 2) (fec : Fin 3), s.rbit (fptA (0x1000 * port)) 0 = true → s.linksReady = true →
    s.start.recovery = false →
    ∃ t, exec (.fieldPortLinkUp port fec) s = .next t ∧ t.rbit (fptA (0x1000 * port + 4)) 0 = true ∧
      t.fld (fptA (0x1000 * port + 4)) 2 1 = (if s.fld (fptA (0x1000 * port)) 3 2 = 3 then fec.val else s.fld (fptA (0x1000 * port)) 3 2) ∧
      (∀ r, r ≠ fptA (0x1000 * port + 4) → t.reg r = s.reg r) ∧ t = { s with regs := t.regs }) ∧
  (∀ (s : State), ∃ t, exec (.fieldPortLinkDown 0) s = .next t ∧ t.rbit (fptA 4) 0 = false ∧ t.fld (fptA 4) 2 1 = 0 ∧
      (∀ r, r ≠ fptA 4 → t.reg r = s.reg r) ∧ t = { s with regs := t.regs }) ∧
  (∀ (s : State) (ip : Nat), s.rbit (fptA 0) 0 = true → s.rbit (fptA 4) 0 = true → ip ≠ 0 → ip = s.video.ip4 →
    ∃ t, exec (.arpNeighbourRequest (.arp ip)) s = .next t ∧
      t.sent = s.sent ++ [.fp0 "ARP reply" (natLe 6 (Config.portMac 0) ++ natLe 4 ip)] ∧
      (∀ r, r ≠ fptA 0x20 → t.reg r = s.reg r) ∧ t = { s with regs := t.regs, sent := t.sent }) ∧
  (∀ (s : State) (ip : Nat), s.rbit (fptA 0) 0 = true → s.rbit (fptA 4) 0 = true → ip ≠ 0 → ip = s.video.ip6 →
    ∃ t, exec (.arpNeighbourRequest (.ndisc ip)) s = .next t ∧
      t.sent = s.sent ++ [.fp0 "neighbour advertisement" (natLe 6 (Config.portMac 0) ++ natLe 16 ip)]) ∧
  (∀ (s : State) (c p : Nat) (g : List Byte), s.rbit (fptA 0) 0 = true → s.rbit (fptA 4) 0 = true → s.dopens = [c] →
    (s.dctx c).rtsp.joined = true → (s.dctx c).rtsp.group = some (g, p) → isIp4 g = true →
    (∃ t, exec (.arpNeighbourRequest .igmpQuery) s = .next t ∧ t.sent = s.sent ++ [.fp0 "IGMPv3 report" (slice g 12 4)]) ∧
    exec (.arpNeighbourRequest .mldQuery) s = .next s)

/-- R251, R254, R255: a receiver report goes out every 5 s; the RTSP client goes from OPTIONS to DESCRIBE and from PLAY to
PLAYING, keeps its session alive, and on an error response or a broken connection sends TEARDOWN, goes DOWN with ERR 0x13 and
waits a back-off that doubles up to 64 s before it connects again; silence sets ERR 0x14. -/
def Obligations.RtspSessionAndReports : Prop :=
  ∀ (s : State) (c : Fin 128), s.dopen c = true →
    let x := (s.dctx c).rtsp
    let data := fun (auth : Nat) (more : List Byte) => natLe 1 c.val ++ slice (s.camera c) 0 160 ++ natLe 1 auth ++
      (if auth = 0 then [] else slice (s.camera c) 0xA0 80) ++ more
    let sends := fun (t : State) (l : List (String × List Byte)) => t.sent = s.sent ++ (if s.fp0Up then l.map (fun m => .fp0 m.1 m.2) else [])
    let own := fun (t : State) => (∀ e, e ≠ c.val → t.dctx e = s.dctx e) ∧
      (∀ r, r ∉ [fptA 0x20, vdecA c 4, vdecA c 0x48] → t.reg r = s.reg r) ∧ t = { s with regs := t.regs, sent := t.sent, video := t.video }
    let lost := fun (t : State) (err : Nat) => sends t [("TEARDOWN", data x.auth [])] ∧ t.dstate c = 3 ∧ t.fld (vdecA c 4) 27 20 = err ∧ own t ∧
      (t.dctx c).rtsp = { x with
        step := 0, retryAt := s.timeNs + x.backoff * 1000000000, backoff := min 64 (2 * x.backoff), group := none, joined := false }
    let transport := fun (g : Option (List Byte × Nat)) => match g with
      | none => natLe 1 0 ++ natLe 2 (s.dd c 0xA 2) ++ natLe 2 (s.dd c 0xA 2 + 1)
      | some (g, p) => natLe 1 1 ++ slice g 0 16 ++ natLe 2 p ++ natLe 2 (p + 1)
    ((s.dctx c).rtcpAt + 5000000000 ≤ s.timeNs → ∃ t, exec (.rtcpReceiverReport c) s = .next t ∧
      sends t [("RTCP receiver report", natLe 1 c.val)] ∧ t.dctx c = { s.dctx c with rtcpAt := s.timeNs } ∧ own t) ∧
    (∀ r : RtspReply, r.status < 400 →
      (x.step = 1 → ∃ t, exec (.rtspResponse c r) s = .next t ∧ sends t [("DESCRIBE", data x.auth [])] ∧
        (t.dctx c).rtsp = { x with step := 2, getParam := r.getParam } ∧ own t) ∧
      (x.step = 2 → r.media = true → ∃ t, exec (.rtspResponse c r) s = .next t ∧ sends t [("SETUP", data x.auth (transport r.group))] ∧
        (t.dctx c).rtsp = { x with step := 3, group := r.group } ∧ own t) ∧
      (x.step = 2 → r.media = false → ∃ t, exec (.rtspResponse c r) s = .next t ∧ lost t 0x13) ∧
      (x.step = 3 → r.group.or x.group = none → ∃ t, exec (.rtspResponse c r) s = .next t ∧ sends t [("PLAY", data x.auth [])] ∧
        (t.dctx c).rtsp = { x with step := 4, timeout := r.timeout.getD 60, group := none } ∧ own t) ∧
      (∀ g p, x.step = 3 → r.group.or x.group = some (g, p) → ∃ t, exec (.rtspResponse c r) s = .next t ∧
        sends t [if isIp4 g then ("IGMPv3 report", slice g 12 4) else ("MLDv2 report", slice g 0 16), ("PLAY", data x.auth [])] ∧
        (t.dctx c).rtsp = { x with step := 4, timeout := r.timeout.getD 60, group := some (g, p), joined := true } ∧ own t) ∧
      (x.step = 4 → ∃ t, exec (.rtspResponse c r) s = .next t ∧ t.sent = s.sent ∧ t.dstate c = 4 ∧
        (t.dctx c).rtsp = { x with step := 5, backoff := 1, keepAt := s.timeNs + x.timeout * 500000000 } ∧
        (t.dctx c).waitRap = true ∧ own t)) ∧
    (∀ r : RtspReply, 400 ≤ r.status → x.step ≠ 0 →
      (r.status ≠ 401 ∨ x.auth ≠ 0 ∨ s.rtspAuth c r = 0 ∨ 5 ≤ x.step → ∃ t, exec (.rtspResponse c r) s = .next t ∧ lost t 0x13) ∧
      (r.status = 401 → x.auth = 0 → s.rtspAuth c r ≠ 0 → x.step = 2 → ∃ t, exec (.rtspResponse c r) s = .next t ∧
        sends t [("DESCRIBE", data (s.rtspAuth c r) [])] ∧ (t.dctx c).rtsp = { x with auth := s.rtspAuth c r } ∧ own t)) ∧
    (x.step ≠ 0 → ∃ t, exec (.rtspSessionLost c) s = .next t ∧ lost t 0x13) ∧
    (x.step = 5 → x.keepAt ≤ s.timeNs → ∃ t, exec (.rtspKeepalive c) s = .next t ∧
      sends t [(if x.getParam then "GET_PARAMETER" else "OPTIONS", data x.auth [])] ∧
      (t.dctx c).rtsp = { x with keepAt := s.timeNs + x.timeout * 500000000 } ∧ own t) ∧
    (s.dstate c = 3 → x.retryAt ≤ s.timeNs → ∃ t, exec (.rtspRetry c) s = .next t ∧ sends t [("OPTIONS", data 0 [])] ∧ t.dstate c = 1 ∧
      t.reg (vdecA c 0x48) = min (s.reg (vdecA c 0x48) + 1) (2 ^ 32 - 1) ∧
      (t.dctx c).rtsp = { x with auth := 0, step := 1, group := none, joined := false } ∧ own t) ∧
    ((s.dctx c).silent = false → (s.dctx c).heard + s.dd c 0x24 4 * 1000000 ≤ s.timeNs →
      (bit (s.dd c 2 1) 2 = false ∨ x.step ≠ 5 → ∃ t, exec (.streamSilence c) s = .next t ∧ t.fld (vdecA c 4) 27 20 = 0x14 ∧
        t.dctx c = { s.dctx c with silent := true } ∧ t.sent = s.sent ∧ own t) ∧
      (bit (s.dd c 2 1) 2 = true → x.step = 5 → ∃ t, exec (.streamSilence c) s = .next t ∧ (t.dctx c).silent = true ∧ lost t 0x14))

/-- R256–R258, R275: OPEN of a context at STATE 0 that breaks no check admits it, with its counters at zero, at STATE 2, or at
STATE 1 with an RTSP session begun; one that breaks a check keeps STATE 0 and shows the first code. CLOSE stops the context's
input and abandons its picture in a codec or pre-processor; once closed it is at STATE 0 with nothing left. -/
def Obligations.CodecContextsOpenAndClose : Prop :=
  (∀ (s : State) (ini : Nat) (c : Fin 128), isMgmt ini = true → s.consentBar ini (vdecA c 0) = false →
    (∀ v, ((s.resetRegs (vdecA c 0x10) (vdecA c 0x60)).setFld (vdecA c 8) 7 0 0).setReg (vdecA c 4) 0 = v →
      v.unitRead (codecId 0) (v.dd c 0x38 6) (64 * (v.viewsOf (v.ddesc c)).length) = v →
      s.dstate c = 0 → s.decErrs c = [] → ∃ t, exec (.decodeOpen ini c) s = .next t ∧ t.resp = .ok 0 ∧
      t.dstate c = (if bit (s.dd c 2 1) 2 then 1 else 2) ∧ t.fld (vdecA c 8) 7 0 = 0 ∧
      (∀ k < 20, t.reg (vdecA c (0x10 + 4 * k)) = (regReset (vdecA c (0x10 + 4 * k))).toNat) ∧
      (t.dctx c).views = v.viewsOf (v.ddesc c) ∧ (t.dctx c).heard = s.timeNs ∧ (t.dctx c).assem = [] ∧ (t.dctx c).closing = false ∧
      t.sent = s.sent ++ (if bit (s.dd c 2 1) 2 && s.fp0Up then
        [.fp0 "OPTIONS" (natLe 1 c.val ++ slice (s.camera c) 0 160 ++ natLe 1 0)] else []) ∧
      (∀ e, e ≠ c.val → t.dctx e = s.dctx e) ∧ t = { s with regs := t.regs, video := t.video, sent := t.sent, resp := .ok 0 }) ∧
    (∀ code l, s.dstate c = 0 → s.decErrs c = code :: l → ∃ t, exec (.decodeOpen ini c) s = .next t ∧ t.dstate c = 0 ∧
      t.fld (vdecA c 8) 7 0 = code % 256 ∧ (∀ r, r ≠ vdecA c 8 → t.reg r = s.reg r) ∧ t = { s with regs := t.regs, resp := .ok 0 }) ∧
    (s.dstate c ≠ 0 → ∃ t, exec (.decodeClose ini c) s = .next t ∧ t.dctx c = { s.dctx c with closing := true } ∧
      (∀ i < 4, (tabGet none t.video.decoder i).any (fun p => p.1 == c.val) = false ∧
        (tabGet none t.video.pre i).any (fun p => p.ctx == c.val) = false) ∧
      (∀ e, e ≠ c.val → t.dctx e = s.dctx e) ∧ (∀ r, r ≠ vidA 4 → t.reg r = s.reg r) ∧
      t = { s with regs := t.regs, video := t.video, resp := .ok 0 })) ∧
  (∀ (s : State) (c : Fin 128), (s.dctx c).closing = true →
    (s.codecSignals (s.doutObj c) = false → ∃ t, exec (.contextClosed false c) s = .next t ∧ t.dstate c = 0 ∧
      t.dctx c = {} ∧ (∀ e, e ≠ c.val → t.dctx e = s.dctx e) ∧ t.sync = s.sync ∧ t = { s with regs := t.regs, video := t.video }) ∧
    (s.codecSignals (s.doutObj c) = true → exec (.contextClosed false c) s = .next s)) ∧
  (∀ (s : State) (e : Fin 128), e.val < 64 → (s.ectx e).closing = true → s.streamSignals true e = false →
    ∃ t, exec (.contextClosed true e) s = .next t ∧ t.fld (vencA e 4) 31 28 = 0 ∧ t.ectx e = {} ∧
      (∀ k, k ≠ e.val → t.ectx k = s.ectx k) ∧ t = { s with regs := t.regs, video := t.video }) ∧
  (∀ (s : State) (ini : Nat) (e : Fin 64), isMgmt ini = true → s.consentBar ini (vencA e 0) = false →
    (s.fld (vencA e 4) 31 28 = 0 → s.encErrs e = [] → ∃ t, exec (.encodeOpen ini e) s = .next t ∧ t.resp = .ok 0 ∧
      t.fld (vencA e 4) 31 28 = 2 ∧ t.fld (vencA e 8) 7 0 = 0 ∧ (t.ectx e).coding = none ∧ (t.ectx e).au = 0 ∧
      (t.ectx e).fw = s.reg (updA 0x10C) ∧ t.sent = s.sent ∧ t.mem = s.mem) ∧
    (∀ code l, s.fld (vencA e 4) 31 28 = 0 → s.encErrs e = code :: l → ∃ t, exec (.encodeOpen ini e) s = .next t ∧
      t.fld (vencA e 4) 31 28 = 0 ∧ t.fld (vencA e 8) 7 0 = code % 256 ∧ (∀ r, r ≠ vencA e 8 → t.reg r = s.reg r)) ∧
    (s.fld (vencA e 4) 31 28 ≠ 0 → ∃ t, exec (.encodeClose ini e) s = .next t ∧
      t.ectx e = { s.ectx e with closing := true, placed := [], coding := none } ∧
      (∀ i < 2, tabGet none t.video.encoder i ≠ some e.val) ∧ (∀ r, r ≠ vidA 4 → t.reg r = s.reg r) ∧
      t = { s with regs := t.regs, video := t.video, resp := .ok 0 }))

/-- R259, R262–R264, R271, R272, R275, R277, R278: parsing takes the oldest closed unit and drops a damaged one; an undamaged one
whose headers make a picture waits for a decoder where the codec's tools, the sizes and its references allow it, and is dropped
otherwise; a free decoder takes a
waiting picture; its end makes the picture decoded, or drops it with
ERR 0x12 where the codec could not decode it, and with it the pictures parsed since that reference it; a free pre-processor takes
the next record, or counts an overrun while its
consumer holds the slot; each view moves it on; the record is written and OUT_OBJ is signalled; a free encoder takes a placed
source, and its end writes one access unit under the rate control's fill to the stream's destinations. -/
def Obligations.PicturesAreDecodedRecordedAndCoded : Prop :=
  (∀ (s : State) (c : Fin 128) (a : AuClosed) (rest : List AuClosed), s.dopen c = true → (s.dctx c).queue = a :: rest →
    a.num ∉ (s.dctx c).wait →
    let x := s.dctx c
    let i := Config.videoHeaders (s.dd c 1 1) (x.hist ++ [(a.num, a.data.flatten)])
    let fits := decide (i.w % 65536 ≤ s.dd c 4 2) && decide (i.h % 65536 ≤ s.dd c 6 2) &&
      x.views.all (fun v => decide (vf v 0 2 + vf v 4 2 ≤ i.w % 65536) && decide (vf v 2 2 + vf v 6 2 ≤ i.h % 65536))
    let refs := i.rap || !(x.waitRap || (x.rasl && i.rasl) || i.refs.any x.dropped.contains)
    let takes := !a.damaged && i.pic && auSupported (s.dd c 1 1) i && fits && refs
    ∃ t, exec (.headersParsed c) s = .next t ∧ (t.dctx c).queue = rest ∧
      (t.dctx c).hist = (if a.damaged then x.hist else x.hist ++ [(a.num, a.data.flatten)]) ∧
      (t.dctx c).wait = (if takes then x.wait ++ [a.num] else x.wait) ∧
      (takes = true → ∃ p ∈ (t.dctx c).pics, p.au = a.num ∧ p.ts = a.ts ∧ p.closed = a.closed ∧ p.w = i.w % 65536 ∧ p.h = i.h % 65536 ∧
        p.decoded = none) ∧
      (a.damaged || (i.pic && !takes) → a.num ∈ (t.dctx c).dropped ∧
        t.reg (vdecA c 0x30) = min (s.reg (vdecA c 0x30) + 1) (2 ^ 32 - 1)) ∧
      t.mem = s.mem ∧ t.sync = s.sync) ∧
  (∀ (s : State) (c au : Nat) (p : Picture), s.rbit (vidA 0) 0 = true → s.video.decoder = [] → s.sorrel.fenced = [] →
    s.dopens = [c] → (s.dctx c).wait.head? = some au → (s.dctx c).pics.find? (fun q => q.au == au) = some p →
    ∃ t, exec .decoderStart s = .next t ∧ tabGet none t.video.decoder 0 = some (c, au) ∧ au ∉ (t.dctx c).wait ∧
      t.rbit (vidA 4) 0 = true ∧ (∀ r, r ≠ vidA 4 → t.reg r = s.reg r) ∧ t = { s with regs := t.regs, video := t.video }) ∧
  (∀ (s : State) (i : Fin 4) (c : Fin 128) (au : Nat) (p : Picture), tabGet none s.video.decoder i = some (c.val, au) →
    (s.dctx c).pics.find? (fun q => q.au == au) = some p →
    let bad := Config.videoBad (s.dd c 1 1) ((s.dctx c).hist.take p.hist)
    ∃ t, exec (.decodeDone i) s = .next t ∧ tabGet none t.video.decoder i = none ∧
      t.reg (vdecA c 0x2C) = min (s.reg (vdecA c 0x2C) + if bad then 0 else 1) (2 ^ 32 - 1) ∧
      (bad = false → t.reg (vdecA c 0x30) = s.reg (vdecA c 0x30) ∧
        (t.dctx c).pics = (s.dctx c).pics.map (fun q => if q.au = au then { q with decoded := some s.timeNs } else q)) ∧
      (bad = true → t.fld (vdecA c 4) 27 20 = 0x12 ∧ (∀ q ∈ (t.dctx c).pics, q ∈ (s.dctx c).pics ∧ q.au ≠ au) ∧
        (∀ q ∈ (s.dctx c).pics, au < q.au → q.decoded = none → au ∈ q.refs →
          (∀ b ∈ (s.dctx c).pics, b.rap = true → au < b.au → q.au < b.au) → ∀ b ∈ (t.dctx c).pics, b.au ≠ q.au) ∧
        ((∀ q ∈ (s.dctx c).pics, q.au ≤ au) → (t.dctx c).pics = (s.dctx c).pics.filter (fun q => q.au != au) ∧
          t.reg (vdecA c 0x30) = min (s.reg (vdecA c 0x30) + 1) (2 ^ 32 - 1)))) ∧
  (∀ (s v : State) (c tm : Nat) (j : PicJob), s.rbit (vidA 0) 0 = true → s.dopens = [c] → s.settle c = v → v.dopens = [c] →
    v.video.pre = [] → v.jobReady c = some (j, tm) →
    (v.slotHeld c ((v.dctx c).seq + 1) = false → ∃ t r, exec .preprocessStart s = .next t ∧ tabGet none t.video.pre 0 = some r ∧
      r.ctx = c ∧ r.job = j ∧ r.seq = (v.dctx c).seq + 1 ∧ (t.dctx c).jobs = (v.dctx c).jobs.drop 1 ∧ t.mem = v.mem) ∧
    (v.slotHeld c ((v.dctx c).seq + 1) = true → ∃ t, exec .preprocessStart s = .next t ∧ t.video.pre = [] ∧
      t.reg (vdecA c 0x40) = min (v.reg (vdecA c 0x40) + 1) (2 ^ 32 - 1) ∧ (t.dctx c).jobs = (v.dctx c).jobs.drop 1)) ∧
  (∀ (s : State) (i : Fin 4) (r : PreRun) (v : List Byte) (p : Picture), tabGet none s.video.pre i = some r →
    (s.dctx r.ctx).views[r.view]? = some v → s.jobPic r.ctx r.job = some p →
    ∃ t q, exec (.viewWritten i) s = .next t ∧ tabGet none t.video.pre i = some q ∧ q.view = r.view + 1 ∧ q.ctx = r.ctx ∧
      t.mem = (s.writeView (codecId i) v p (s.picData r.ctx p) (r.seq % max 1 (s.dd r.ctx 0x48 4))).1.mem) ∧
  (∀ (s v : State) (i : Fin 4) (r : PreRun), tabGet none s.video.pre i = some r → (s.dctx r.ctx).views.length ≤ r.view → r.ctx < 128 →
    (s.memWrite (codecId i) (s.dd r.ctx 0x40 6 + 64 * (r.seq % max 1 (s.dd r.ctx 0x48 4))) (recordBytes r (s.jobPic r.ctx r.job))).1 = v →
    v = { s with mem := v.mem } →
    ∃ t, exec (.pictureRecordWrite i) s = .next t ∧ tabGet none t.video.pre i = none ∧ (t.dctx r.ctx).seq = r.seq ∧
      t.mem = v.mem ∧ t.sync.inflight = s.sync.inflight ++ [⟨s.dd r.ctx 0x4C 4 % 2 ^ 18, 1, codecId i, false, 0⟩]) ∧
  (∀ (s : State) (e time : Nat) (src : Option (List Nat)) (rest : List (Nat × Option (List Nat))), s.rbit (vidA 0) 0 = true →
    s.video.encoder = [] → s.sorrel.fenced = [] → (List.range 64).filter s.eopen = [e] → (s.ectx e).coding = none →
    (s.ectx e).placed = (time, src) :: rest →
    (∀ d, src = some d → ∃ t, exec .encodeStart s = .next t ∧ tabGet none t.video.encoder 0 = some e ∧
      (t.ectx e).coding = some (time, d) ∧ (t.ectx e).placed = rest ∧ t.mem = s.mem ∧ t.sync = s.sync) ∧
    (∀ d v, src = none → s.setEctx e { s.ectx e with placed := rest } = v → v.readSource (codecId 4) e (s.ectx e).slot = (v, some d) →
      ∃ t, exec .encodeStart s = .next t ∧ tabGet none t.video.encoder 0 = some e ∧ (t.ectx e).coding = some (time, d) ∧
        (t.ectx e).placed = rest ∧ (t.ectx e).slot = (s.ectx e).slot + 1 ∧
        t.reg (vencA e 0x10) = min (s.reg (vencA e 0x10) + 1) (2 ^ 32 - 1) ∧ t.mem = s.mem ∧
        t.sync.inflight = s.sync.inflight ++ [⟨s.ed e 0x5C 4 % 2 ^ 18, 1, codecId 4, false, 0⟩])) ∧
  (∀ (s : State) (i : Fin 2) (e time : Nat) (src : List Nat), tabGet none s.video.encoder i = some e →
    (s.ectx e).coding = some (time, src) → e < 64 →
    let d := s.edesc e
    let f := s.reg (vencA e 0x24) - fieldLe d 0x10 4 * 100 / max 1 (fieldLe d 8 2)
    ∃ v c, c = codePicture d (v.ectx e).fw (v.ectx e).hist ((s.ectx e).intraDue || decide (fieldLe d 0xA 2 ≤ (s.ectx e).since)) f ∧
      tabGet none v.video.encoder i = none ∧ (v.ectx e).coding = none ∧ (v.ectx e).au = (s.ectx e).au + 1 ∧
      (v.ectx e).hist = (s.ectx e).hist ++ [src] ∧ v.reg (vencA e 0x24) = (f + 8 * c.bytes.length) % 2 ^ 32 ∧
      v.reg (vencA e 0x14) = min (s.reg (vencA e 0x14) + 1) (2 ^ 32 - 1) ∧ v = { s with regs := v.regs, video := v.video } ∧
      (∃ t, exec (.encodeDone i) s = .next t) ∧
      (∀ w x : State, (if s.eflag e 2 then (v.ringWrite (codecId (4 + i)) (fieldLe d 0x30 6) (fieldLe d 0x38 4) (s.ectx e).ringPos
            (auBytes (s.ectx e).au c time)).setEctx e { v.ectx e with
              ringPos := (s.ectx e).ringPos + (auBytes (s.ectx e).au c time).length } else v) = w →
        (if s.eflag e 3 then w.recorder e (auBytes (s.ectx e).au c time) w.timeNs else w) = x →
        (∀ k, w.eflag e k = s.eflag e k ∧ x.eflag e k = s.eflag e k) →
        let y := if s.eflag e 2 || s.eflag e 3 then x.signal (fieldLe d 0x3C 4 % 2 ^ 18) 1 (codecId (4 + i)) else x
        exec (.encodeDone i) s = .next (if s.eflag e 4 then
          y.rtpSend e time (auPayloads (fieldLe d 1 1) (c.kind == 0) c.bytes) else y)))

/-! ## The phase, events and the process port (10) -/

/-- R280: the phase is a pair (CYCLE, COUNT) of 32 bits each with a 32-bit fraction FRAC, COUNT lies from 0 to CPC − 1; a forward step
from CPC − 1 gives COUNT 0 and increments CYCLE, a backward step from 0 gives CPC − 1 and decrements CYCLE, modulo 2^32. -/
def Obligations.PhaseStepsCarryAndBorrow : Prop :=
  ∀ (s : State), s.log.replay = none → s.reg (thyA 0x20) < s.thyCpc →
    s.thyPhase.1 < 2 ^ 32 ∧ s.thyPhase.2.1 < s.thyCpc ∧ s.thyPhase.2.1 < 2 ^ 32 ∧ s.thyPhase.2.2 < 2 ^ 32 ∧
    (s.thyOn = true → s.thySel = 2 → s.thyLock ≠ 4 → s.thy.a = false → ∀ b z held, s.filtered held = true → let cyc := s.thyPhase.1
      let cnt := s.thyPhase.2.1
      ∃ t, exec (.phaseCountEdge true b z held) s = .next t ∧
        (b ≠ s.rbit (thyA 0) 6 → (cnt + 1 < s.thyCpc → t.thyPhase.1 = cyc ∧ t.thyPhase.2.1 = cnt + 1) ∧
          (cnt + 1 = s.thyCpc → t.thyPhase.1 = (cyc + 1) % 2 ^ 32 ∧ t.thyPhase.2.1 = 0)) ∧
        (b = s.rbit (thyA 0) 6 → (0 < cnt → t.thyPhase.1 = cyc ∧ t.thyPhase.2.1 = cnt - 1) ∧
          (cnt = 0 → t.thyPhase.1 = (if cyc = 0 then 2 ^ 32 - 1 else cyc - 1) ∧ t.thyPhase.2.1 = s.thyCpc - 1)) ∧
        t.reg (thyA 0x20) < t.thyCpc)

/-- R280–R284: inputs whose level has not held for FILTER_NS change nothing; an accepted count moves COUNT by one, carrying into CYCLE and borrowing from it, and REVERSE tells its direction;
a transition of both quadrature inputs leaves COUNT, counts QUAD_ERR and is recorded, and the sixteenth within one cycle of the phase
declares it lost; a forward index edge takes COUNT to 0 of
the nearer cycle and records the correction; in pulse mode a count is synthesised once FRAC is full. -/
def Obligations.PhaseCountsAndIndexEdges : Prop :=
  ∀ (s : State), s.thyOn = true → s.thyLock = 2 →
    let cyc := s.reg (thyA 0x24)
    let cnt := s.reg (thyA 0x20)
    let only := fun (t : State) (l : List Nat) => (∀ a, a ∉ l → t.reg a = s.reg a) ∧ t = { s with regs := t.regs, thy := t.thy }
    (∀ a b z held, s.filtered held = false → exec (.phaseCountEdge a b z held) s = .next s ∧ exec (.zEdge held) s = .next s) ∧
    (∀ b z held, s.thySel = 2 → s.thy.a = false → s.filtered held = true →
      ∃ t, exec (.phaseCountEdge true b z held) s = .next t ∧ t.thy.a = true ∧ t.thy.b = b ∧ t.thy.z = z ∧
        only t [thyA 0x18, thyA 0x20, thyA 0x24, thyA 0x30, thyA 0x34] ∧
        (b ≠ s.rbit (thyA 0) 6 → t.rbit (thyA 0x18) 26 = false ∧
          (cnt + 1 < s.thyCpc → t.reg (thyA 0x20) = cnt + 1 ∧ t.reg (thyA 0x24) = cyc) ∧
          (s.thyCpc ≤ cnt + 1 → t.reg (thyA 0x20) = 0 ∧ t.reg (thyA 0x24) = (cyc + 1) % 2 ^ 32)) ∧
        (b = s.rbit (thyA 0) 6 → t.rbit (thyA 0x18) 26 = true ∧
          (0 < cnt → t.reg (thyA 0x20) = cnt - 1 ∧ t.reg (thyA 0x24) = cyc) ∧
          (cnt = 0 → t.reg (thyA 0x20) = s.thyCpc - 1 ∧ t.reg (thyA 0x24) = (cyc + 2 ^ 32 - 1) % 2 ^ 32))) ∧
    (∀ z held, s.thySel = 1 → s.filtered held = true → (s.reg (thyA 0x10) = 0 ∨ s.thy.quadErrs < 15) →
      ∃ t, exec (.phaseCountEdge (!s.thy.a) (!s.thy.b) z held) s = .next t ∧
        t.reg (thyA 0x40) = min (s.reg (thyA 0x40) + 1) (2 ^ 32 - 1) ∧ (∀ a, a ≠ thyA 0x40 → t.reg a = s.reg a) ∧
        t = { s with regs := t.regs, thy := t.thy, sorrel := { s.sorrel with
          presented := s.sorrel.presented ++ [(s.cycle, ⟨0x10, 10, thyId, 5, 0, 0, 0xFFFF⟩)] } }) ∧
    (∀ z held, s.thySel = 1 → s.filtered held = true → s.reg (thyA 0x10) ≠ 0 → s.thy.quadCycle = cyc → 15 ≤ s.thy.quadErrs →
      ∃ t, exec (.phaseCountEdge (!s.thy.a) (!s.thy.b) z held) s = .next t ∧ t.thyLock = 4 ∧ t.reg (thyA 0x20) = cnt ∧
        t.reg (thyA 0x24) = cyc ∧ t.reg (thyA 0x48) = min (s.reg (thyA 0x48) + 1) (2 ^ 32 - 1)) ∧
    ((s.thySel = 1 ∨ s.thySel = 2) → s.fld (thyA 0) 5 4 = 1 → s.rbit (thyA 0x18) 26 = false → cnt < s.thyCpc →
      ∀ held, s.filtered held = true → ∃ t, exec (.zEdge held) s = .next t ∧ t.reg (thyA 0x20) = 0 ∧
        (2 * cnt < s.thyCpc → t.reg (thyA 0x24) = cyc ∧ t.reg (thyA 0x38) = ofInt 32 (-(cnt : Int))) ∧
        (s.thyCpc ≤ 2 * cnt → t.reg (thyA 0x24) = (cyc + 1) % 2 ^ 32 ∧ t.reg (thyA 0x38) = s.thyCpc - cnt) ∧
        t.reg (thyA 0x44) = (if cnt = 0 then s.reg (thyA 0x44) else min (s.reg (thyA 0x44) + 1) (2 ^ 32 - 1)) ∧
        t.thy = { s.thy with zSeen := true } ∧ only t [thyA 0x20, thyA 0x24, thyA 0x38, thyA 0x44]) ∧
    (s.thySel = 3 → cnt + 1 < s.thyCpc → 2 ^ 32 ≤ s.fracRaw →
      ∃ t, exec .synthCount s = .next t ∧ t.reg (thyA 0x20) = cnt + 1 ∧ (∀ a, a ≠ thyA 0x20 → t.reg a = s.reg a) ∧
        t = { s with regs := t.regs, thy := { s.thy with lastCount := s.cycle } })

/-- R281, R286, R287, R290, R300: a silent phase is declared lost, counted, recorded, and forces every PHASE_BOUND flow that is
not forced, and no other; a new SEL keeps the phase and starts acquisition anew; with SEL 4 a Sync message locks the phase once 16
in a row stay below 100 ns, and slews module time, which it does not step again. That a new SEL keeps the phase is the model's
choice (log entry 109). -/
def Obligations.PhaseLossSourcesAndSync : Prop :=
  (∀ (s : State), s.wdogDue = true → ∃ t l, exec .phaseLoss s = .next t ∧ t.thyLock = 4 ∧
    t.reg (thyA 0x48) = min (s.reg (thyA 0x48) + 1) (2 ^ 32 - 1) ∧
    (∀ f < 64, s.flowBound f = true → s.flowForced f = false → t.flowForced f = true ∧ t.flowReason f = 2) ∧
    (∀ f < 64, s.flowBound f = false → t.reg (flowCtl f 4) = s.reg (flowCtl f 4)) ∧
    (∀ a, a ∉ [thyA 0x18, thyA 0x48, srlA 0x40, srlA 0x44] → (∀ f < 64, a ≠ flowCtl f 4) → t.reg a = s.reg a) ∧
    t.thy = { s.thy with lostAt := some s.cycle } ∧
    t.sorrel = { s.sorrel with presented := s.sorrel.presented ++ (s.cycle, ⟨0x11, 10, thyId, 5, 0, 0, 0xFFFF⟩) :: l } ∧
    ((∀ f < 64, s.flowBound f = true → s.flowEn f = false) → l = [] ∧ t.mem = s.mem) ∧
    t = { s with regs := t.regs, thy := t.thy, fp1 := t.fp1, sorrel := t.sorrel, mem := t.mem, freeCtr := t.freeCtr }) ∧
  (∀ (s : State) (ini : Nat) (v : Word), isMgmt ini = true → s.consentBar ini (thyA 0) = false → s.log.replay = none →
    bits v.toNat 2 0 < 6 → bits v.toNat 2 0 ≠ s.thySel →
    ∃ t, exec (.thySrcWrite ini v) s = .next t ∧ t.thySel = bits v.toNat 2 0 ∧
      t.thyLock = (if bits v.toNat 2 0 = 0 then 0 else 1) ∧ t.thyVel = 0 ∧
      (t.reg (thyA 0x24), t.reg (thyA 0x20), t.reg (thyA 0x28)) = s.thyPhase ∧ t.thy.counts = [] ∧ t.thy.pulses = [] ∧
      (∀ a, a ∉ [thyA 0, thyA 0x18, thyA 0x20, thyA 0x24, thyA 0x28, thyA 0x30, thyA 0x34, modA 0x200, modA 0x240, modA 0x244] →
        t.reg a = s.reg a) ∧ t = { s with regs := t.regs, thy := t.thy, start := t.start, resp := .ok 0 }) ∧
  (∀ (s : State) (off : Int) (tai : Nat), s.rbit (fptA 0x1004) 0 = true → s.ringTime = false → s.thySel = 4 → s.thyOn = true →
    s.thy.stepped = true →
    let run := if off.natAbs < 100 then (if s.thyLock = 4 then 0 else s.thy.syncRun) + 1 else 0
    ∃ t, exec (.asSyncMessage off tai) s = .next t ∧ t.thy.syncRun = run ∧ t.thyLock = (if 16 ≤ run then 2 else 1) ∧
      t.reg64 (fptA 0x1018) = ofInt 64 off ∧ t.timeNs = s.timeNs ∧ t.slew = -(off * 110000) ∧
      (∀ a, a ∉ [thyA 0x18, thyA 0x30, thyA 0x34, fptA 0x1018, fptA 0x101C, fptA 0x1004, modA 0x200, modA 0x240, modA 0x244, sgeA 0, sgeA 0x10, sgeA 0x14] →
        t.reg a = s.reg a) ∧ t = { s with regs := t.regs, thy := t.thy, slew := t.slew, start := t.start })

/-- R273, R288–R292, R297, R298, R304: the entry that is next in order fires: FIRED counts it, MISSED the points it skips, its match
point advances past the phase or its EN clears, its object is signalled; a DEADLINE decides frame k of its flow as a result
exactly if READY_OBJ has reached k and the flow is not forced, a RELEASE queues the decided frame, a SNAPSHOT triggers Dill, an
INGEST gives each windowed context a window, whose record is made of the latest picture once the context's input has passed the
firing time; an entry that names what its owner does not own only counts in MISSED. -/
def Obligations.EventsFireInOrder : Prop :=
  (∀ (s : State) (i : Fin 4096), s.thyOn = true → s.log.replay = none → s.thyFirst = some i.val →
    let e := s.evt i
    let p := (e.past s.thyCpc s.thyPhase).getD 0
    let skip := if e.step = 0 then 0 else p / (e.step * 2 ^ 32)
    let point := e.matchCycle * s.thyCpc + e.matchCount + (skip + 1) * e.step
    let moves := fun (u : ThyEvent) => u.missed = min (e.missed + skip) (2 ^ 32 - 1) ∧ u.arg = e.arg ∧ u.obj = e.obj ∧
      u.step = e.step ∧ (e.step = 0 → u.en = false ∧ u.matchCycle = e.matchCycle ∧ u.matchCount = e.matchCount) ∧
      (0 < e.step → u.ctrl = e.ctrl ∧ u.matchCount = point % s.thyCpc ∧ u.matchCycle = point / s.thyCpc % 2 ^ 32)
    let fired := fun (t : State) => moves (t.evt i) ∧ (t.evt i).fired = min (e.fired + 1) (2 ^ 32 - 1) ∧
      (∀ j, j ≠ i.val → t.evt j = s.evt j)
    let objs := if bit e.obj 31 then [(⟨e.obj % 0x40000, 1, thyId, false, i.val⟩ : Signal)] else []
    (s.evtOwn e = true →
      (e.kind = 0 → ∃ t, exec (.eventSignal i) s = .next t ∧ fired t ∧ (e.tenant ≠ 0 → t.sync.inflight = s.sync.inflight ++ objs ∧
        (∀ a, a ∉ [thyA 0x4C, thyA 0x50] → t.reg a = s.reg a) ∧ t = { s with regs := t.regs, thy := t.thy, sync := t.sync })) ∧
      (∀ c, e.kind = 1 → s.dopens.filter (fun c => bit (s.dd c 2 1) 1 && s.dd c 0xE 2 == i.val) = [c] →
        (s.dctx c).windows = [] → ∃ t, exec (.eventIngest i) s = .next t ∧ fired t ∧ (t.dctx c).windows = [s.timeNs] ∧
          (t.dctx c).jobs = (s.dctx c).jobs ∧ (t.dctx c).out = (s.dctx c).out ∧ (∀ k, k ≠ c → t.dctx k = s.dctx k)) ∧
      (e.kind = 2 → let f := e.arg % 64
        let x := s.flow f
        let forced := s.flowForced f && !x.unforce
        s.flowEn f = true → ∃ t, ∃ fr : Fp1Frame, exec (.eventDeadline i) s = .next t ∧ fired t ∧ (t.flow f).k = x.k + 1 ∧
          (t.flow f).unforce = false ∧ (t.flow f).decided = some fr ∧ fr.k = x.k ∧ fr.cyc = e.matchCycle ∧ fr.cnt = e.matchCount ∧
          (fr.result = true ↔ forced = false ∧ x.k ≤ s.obj (s.flowF f 0x1C 4 % 0x40000)) ∧
          (forced = true → fr.reason = s.flowReason f) ∧ (∀ g, g ≠ f → t.flow g = s.flow g) ∧ t.fp1.queue = s.fp1.queue) ∧
      (∀ fr, e.kind = 3 → let f := e.arg % 64
        s.flowEn f = true → (s.flow f).decided = some fr → fr.flow = f →
        ∃ t w, exec (.eventRelease i) s = .next t ∧ fired t ∧ t.fp1.queue = s.fp1.queue ++ [{ fr with windowEnd := w }] ∧
          t.flow f = { s.flow f with decided := none, lastFrame := s.timeNs } ∧ (∀ g, g ≠ f → t.flow g = s.flow g) ∧
          (e.tenant ≠ 0 → t = { s with regs := t.regs, thy := t.thy, sync := t.sync, fp1 := t.fp1 })) ∧
      (e.kind = 4 → s.rbit (dilA 0) 31 = true → s.rbit (dilA 0) 29 = false → bit e.arg 31 = false →
        ∃ t, exec (.eventSnapshot i) s = .next t ∧ fired t ∧
          t.dill = { s.dill with trigs := s.dill.trigs ++ [⟨2, e.arg, 0xFFFFFFFF, false, s.cycle + 64⟩] }) ∧
      (∀ m : Arm, e.kind = 5 → s.upd.arm = some m → m.kind = 1 → m.ticket = e.arg → s.updState = 4 → s.upd.stagedKind ≠ 1 →
        ∃ t, exec (.eventActivate i) s = .next t ∧ t.updState = 5 ∧ t.upd.arm = none ∧ t.upd.stagedComps = [] ∧
          t.upd.todo = activationOrder s.upd.stagedComps)) ∧
    (s.evtOwn e = false → e.kind = 0 → ∃ t, exec (.eventSignal i) s = .next t ∧ (t.evt i).fired = e.fired ∧
      (t.evt i).missed = min (e.missed + (skip + 1)) (2 ^ 32 - 1) ∧ (∀ a, a ≠ thyA 0x50 → t.reg a = s.reg a) ∧
      t = { s with regs := t.regs, thy := t.thy })) ∧
  (∀ (s : State) (c tm : Nat), s.log.replay = none → s.rbit (vidA 0) 0 = true → s.dopens = [c] →
    (∀ k < 4, (tabGet none s.video.pre k).isSome) → (s.dctx c).windows = [tm] → tm < s.timeNs → (s.dctx c).assem = [] → (s.dctx c).feed = [] → (∀ q ∈ (s.dctx c).queue, tm < q.closed) →
      (∀ q ∈ (s.dctx c).pics, q.decoded = none → tm < q.closed) →
      let ready := (s.dctx c).out.filter (fun o => decide (o.avail ≤ tm))
      ∃ t, exec .preprocessStart s = .next t ∧ (t.dctx c).windows = [] ∧ (t.dctx c).jobs = (s.dctx c).jobs ++ [⟨tm, ready.getLast?⟩] ∧
        (t.dctx c).out = (s.dctx c).out.filter (fun o => decide (tm < o.avail)) ∧
        t.reg (vdecA c 0x38) = min (s.reg (vdecA c 0x38) + (ready.length - 1)) (2 ^ 32 - 1) ∧
        (∀ a, a ≠ vdecA c 0x38 → t.reg a = s.reg a) ∧ t = { s with regs := t.regs, video := t.video })

/-- R290, R304, R453, R300, R302: management's windows onto event entries and flow descriptors take its words; a descriptor is
open only while EN is 0; FORCE sets FORCED with REASON 4, turns every frame not yet started into a safe frame and queues one; a
forced flow queues another each SAFE_PERIOD_US; UNFORCE is refused while a bound phase is not good, else awaits the deadline. -/
def Obligations.FlowsAreWrittenForcedAndReleased : Prop :=
  (∀ (s : State) (ini : Nat) (v : Word), isMgmt ini = true →
    (s.consentBar ini (thyA 0x100) = false → ∃ t, exec (.thyEvtIndexWrite ini v) s = .next t ∧ t.reg (thyA 0x100) = bits v.toNat 11 0 ∧
      (∀ n < 8, t.reg (evtData n) = fieldLe (s.evt (bits v.toNat 11 0)).toBytes (4 * n) 4) ∧
      (∀ a, a ≠ thyA 0x100 → (∀ n < 8, a ≠ evtData n) → t.reg a = s.reg a) ∧ t = { s with regs := t.regs, resp := .ok 0 }) ∧
    (s.consentBar ini (thyA 0x104) = false → bit v.toNat 0 = true → let n := s.fld (thyA 0x100) 11 0
      ∃ t, exec (.thyEvtCommit ini v) s = .next t ∧ (t.evt n).matchCount = s.reg (evtData 1) ∧ (t.evt n).matchCycle = s.reg (evtData 2) ∧
        (t.evt n).step = s.reg (evtData 3) ∧ (t.evt n).arg = s.reg (evtData 5) ∧ (t.evt n).fired = s.reg (evtData 6) ∧
        (t.evt n).missed = s.reg (evtData 7) ∧ (t.evt n).en = s.rbit (evtData 0) 31 ∧ (t.evt n).owner = (s.evt n).owner ∧
        (∀ j, j ≠ n → t.evt j = s.evt j) ∧ t = { s with thy := t.thy, resp := .ok 0 })) ∧
  (∀ (s : State) (ini : Nat) (f : Fin 64) (w : Fin 16) (v : Word), isMgmt ini = true → s.consentBar ini (flowA f (4 * w)) = false →
    ∃ t, exec (.flowDescWrite ini f w v) s = .next t ∧ t = { s with regs := t.regs, fp1 := t.fp1, resp := .ok 0 } ∧
      (∀ g, g ≠ f.val → t.flow g = s.flow g) ∧ (∀ a, a ≠ flowA f (4 * w) → t.reg a = s.reg a) ∧
      (s.flowEn f = false → t.reg (flowA f (4 * w)) = v.toNat ∧ t.fp1.queue = s.fp1.queue ∧
        (w = 0 → bit v.toNat 8 = true → t.flow f = { s.flow f with k := 1, decided := none, lastFrame := s.timeNs })) ∧
      (s.flowEn f = true → (w = 0 → bit v.toNat 8 = false → t.flowEn f = false ∧ (t.flow f).decided = none ∧
          ∀ fr ∈ t.fp1.queue, fr.flow ≠ f.val) ∧
        (w ≠ 0 ∨ bit v.toNat 8 = true → t = { s with resp := .ok 0 }))) ∧
  (∀ (s : State) (ini : Nat) (f : Fin 64), isMgmt ini = true → s.consentBar ini (flowCtl f 0) = false →
    (s.flowForced f = false → s.flowEn f = true → s.log.replay = none → ∃ t, ∃ fr : Fp1Frame, exec (.flowForce ini f) s = .next t ∧
      t.flowForced f = true ∧ t.flowReason f = 4 ∧ (∀ g ∈ t.fp1.queue, g.flow = f.val → g.result = false) ∧
      t.fp1.queue.getLast? = some fr ∧ fr.flow = f.val ∧ fr.k = 0 ∧ fr.result = false ∧ fr.reason = 4 ∧ fr.tc = s.safeTc ∧
      t.fp1.queue.length = s.fp1.queue.length + 1 ∧ (∀ g ∈ s.fp1.queue, g.flow ≠ f.val → g ∈ t.fp1.queue) ∧
      (∀ a, a ∉ [flowCtl f 4, srlA 0x40, srlA 0x44] → t.reg a = s.reg a) ∧
      t = { s with regs := t.regs, fp1 := t.fp1, mem := t.mem, sorrel := t.sorrel, freeCtr := t.freeCtr, resp := .ok 0 }) ∧
    (s.flowBound f = true → s.phaseGood = false → ∃ t, exec (.flowUnforce ini f) s = .next t ∧ t.rbit (flowCtl f 4) 27 = true ∧
      t.flowForced f = s.flowForced f ∧ (∀ a, a ≠ flowCtl f 4 → t.reg a = s.reg a) ∧ t = { s with regs := t.regs, resp := .ok 0 }) ∧
    (s.flowBound f = false → s.sorrel.quietF = none → s.flowForced f = true → ∃ t, exec (.flowUnforce ini f) s = .next t ∧
      t.flow f = { s.flow f with unforce := true } ∧ (∀ g, g ≠ f.val → t.flow g = s.flow g) ∧
      t = { s with fp1 := { s.fp1 with flows := t.fp1.flows }, resp := .ok 0 })) ∧
  (∀ (s : State) (f : Fin 64), s.flowEn f = true → s.flowForced f = true → s.log.replay = none → s.flowF f 0x24 4 ≠ 0 →
    (s.flow f).lastFrame + s.flowF f 0x24 4 * 1000 ≤ s.timeNs →
    ∃ t, ∃ fr : Fp1Frame, exec (.safePeriodExpiry f) s = .next t ∧ t.fp1.queue = s.fp1.queue ++ [fr] ∧ fr.flow = f.val ∧ fr.result = false ∧
      fr.reason = s.flowReason f ∧ fr.k = 0 ∧ t.flow f = { s.flow f with lastFrame := s.timeNs } ∧
      (∀ a, a ∉ [srlA 0x40, srlA 0x44] → t.reg a = s.reg a) ∧
      t = { s with regs := t.regs, mem := t.mem, sorrel := t.sorrel, freeCtr := t.freeCtr
                   fp1 := { s.fp1 with queue := t.fp1.queue, flows := t.fp1.flows } })

/-- R296, R298, R299, R303: a queued frame starts only where it ends before its gate closes, takes the next SEQ and is counted
as a result or as a safe frame; its end frees the line; a CHANGE schedules the list that the registers hold, which runs from its
base time on; a received frame that no filter matches is counted and dropped, one that filter r matches goes into the next slot
of that ring and signals its object. -/
def Obligations.Fp1SendsAndReceives : Prop :=
  (∀ (s : State) (fr : Fp1Frame), s.fp1.sending = none → s.rbit (fptA 0x1000) 0 = true → s.rbit (fptA 0x1004) 0 = true →
    s.fp1Next = some fr →
    let seq := s.reg64 (flowCtl fr.flow 8)
    let b := s.fp1Bytes fr seq
    ∃ t, exec .frameTxStart s = .next t ∧ t.sent = s.sent ++ [.fp1 b] ∧ t.reg64 (flowCtl fr.flow 8) = (seq + 1) % 2 ^ 64 ∧
      t.fp1.sending = some (fr, s.timeNs + lineNs b.length) ∧ t.fp1.queue = s.fp1.queue.erase fr ∧ fr ∈ s.fp1.queue ∧
      (∀ close, s.gate fr.tc s.timeNs = some (some close) → s.timeNs + lineNs b.length ≤ close) ∧ s.gate fr.tc s.timeNs ≠ none ∧
      t.reg (fptA (if fr.result then 0x1040 else 0x1044)) =
        min (s.reg (fptA (if fr.result then 0x1040 else 0x1044)) + 1) (2 ^ 32 - 1) ∧
      (∀ a, a ∉ [flowCtl fr.flow 8, flowCtl fr.flow 12, fptA (if fr.result then 0x1040 else 0x1044), fptA 0x1048] → t.reg a = s.reg a) ∧
      t = { s with regs := t.regs, fp1 := t.fp1, sent := t.sent }) ∧
  (∀ (s : State) (fr : Fp1Frame) (e : Nat), s.fp1.sending = some (fr, e) → e ≤ s.timeNs →
    exec .frameTxEnd s = .next { s with fp1 := { s.fp1 with sending := none } }) ∧
  (∀ (s : State) (ini : Nat) (v : Word), isMgmt ini = true → s.consentBar ini (fptA 0x1030) = false →
    ∃ t l, exec (.gclChange ini v) s = .next t ∧
      t.fp1 = { s.fp1 with newGcl := some (s.reg64 (fptA 0x1028), clampNat 1000 1000000000 (s.reg (fptA 0x1020)), l) } ∧
      l.length = clampNat 1 64 (bits v.toNat 6 0) ∧
      (∀ i g d, l[i]? = some (g, d) → g = s.fld (fptA (0x1104 + 8 * i)) 7 0 ∧ d = s.reg (fptA (0x1100 + 8 * i))) ∧
      (∀ a, a ≠ fptA 0x1030 → t.reg a = s.reg a) ∧ t = { s with regs := t.regs, fp1 := t.fp1, resp := .ok 0 }) ∧
  (∀ (s : State) (base cyc : Nat) (l : List (Nat × Nat)), s.fp1.newGcl = some (base, cyc, l) →
    (base ≤ s.timeNs → ∃ t, exec .gclBaseTime s = .next t ∧ t.fp1 = { s.fp1 with gcl := some (base, cyc, l), newGcl := none } ∧
      t.rbit (fptA 0x1030) 30 = true ∧ (∀ a, a ≠ fptA 0x1030 → t.reg a = s.reg a) ∧ t = { s with regs := t.regs, fp1 := t.fp1 }) ∧
    (s.timeNs < base → exec .gclBaseTime s = .next s)) ∧
  (∀ (s : State) (b : List Byte) (full : Bool), s.log.replay = none → s.rbit (fptA 0x1000) 0 = true → s.rbit (fptA 0x1004) 0 = true →
    ((List.range 16).filter (s.filterHit b) = [] → ∃ t, exec (.fp1RxFrame b full) s = .next t ∧
      t.reg (fptA 0x1054) = min (s.reg (fptA 0x1054) + 1) (2 ^ 32 - 1) ∧ t.reg (fptA 0x1058) = min (s.reg (fptA 0x1058) + 1) (2 ^ 32 - 1) ∧
      (∀ a, a ∉ [fptA 0x1054, fptA 0x1058] → t.reg a = s.reg a) ∧ t = { s with regs := t.regs }) ∧
    (∀ r, (List.range 16).filter (s.filterHit b) = [r] → s.logOn = false → ∃ t, exec (.fp1RxFrame b full) s = .next t ∧
      tabGet 0 t.fp1.rings r = tabGet 0 s.fp1.rings r + 1 ∧ (∀ q, q ≠ r → tabGet 0 t.fp1.rings q = tabGet 0 s.fp1.rings q) ∧
      t.sync.inflight = s.sync.inflight ++ [⟨s.reg (fptA (0x140C + 0x10 * r)) % 0x40000, 1, fp1Id, false, 0⟩] ∧
      t.reg (fptA 0x1054) = min (s.reg (fptA 0x1054) + 1) (2 ^ 32 - 1) ∧
      tabGet 0 t.log.seqs (2 * 65536 + r) = (tabGet 0 s.log.seqs (2 * 65536 + r) + 1) % 2 ^ 32))

/-! ## Host ports, functions and tenants (11) -/

/-- R305, R307, R323, R326, R327: a link that reaches L0 shows its speed and width, and RB_N falls only from 16 GT/s on with start-up
released; one that leaves it floats RB_N high and starts the 10 ms; a timeout, a PERST_N assertion of PERST_SCOPE 0 and a Hot Reset
are a port reset, which tears down the port's tenants and ends its SPDM sessions; an FLR of the management function ends them too
and, as clearing VF Enable does, tears down the virtual functions alone. -/
def Obligations.PortLinksAndResets : Prop :=
  ∀ (s : State) (p : Fin 4),
    let a := pciA p 4
    let torn := fun (t : State) (q : Tenant → Bool) => ∀ u, 1 ≤ u → u < 16 → (s.tenant u).port = p.val →
      ((s.tenant u).state = .opening ∨ (s.tenant u).state = .isOpen) →
      (q (s.tenant u) = true → (t.tenant u).state = .scrubbing ∧ (t.tenant u).trigger = s.timeNs) ∧
      (q (s.tenant u) = false → t.tenant u = s.tenant u)
    let others := fun (t : State) => ∀ u, (s.tenant u).port ≠ p.val → t.tenant u = s.tenant u
    let portReset := fun (t : State) => t.reg (pciA p 0x14) = min (s.reg (pciA p 0x14) + 1) (2 ^ 32 - 1) ∧ t.rbit a 31 = false ∧
      t.rbit a 30 = false ∧ (t.port p).downAt = none ∧ torn t (fun _ => true) ∧ others t ∧ (∀ x ∈ t.sage.sessions, x.port ≠ p.val)
    (∀ (speed : Fin 7) (width : Fin 17) (flit : Bool), s.linksReady = true → (s.start.recovery = true → p = 0) →
      s.portActive p = true → (s.port p).perst = false → 0 < speed.val → speed.val ≤ s.fld (pciA p 0) 2 0 → width.val ∈ [1, 2, 4, 8, 16] →
      (width.val = 16 → (if p.val < 2 then s.host.bifAB else s.host.bifCD) = false) →
      ∃ t, exec (.pcieLinkUp p speed width flit) s = .next t ∧ t.rbit a 30 = true ∧ t.fld a 15 8 = speed.val ∧
        t.fld a 23 16 = width.val ∧ (speed.val < 4 → t.rbit a 31 = false) ∧
        (4 ≤ speed.val → s.host.released = true → s.host.mctp = true → s.host.resetPending = false → t.rbit a 31 = true) ∧
        (t.port p).downAt = none ∧ (∀ r, r ≠ a → t.reg r = s.reg r) ∧ t = { s with regs := t.regs, host := t.host }) ∧
    (s.rbit a 30 = true → ∃ t, exec (.pcieLinkDown p) s = .next t ∧ t.rbit a 30 = false ∧ t.rbit a 31 = false ∧
      (t.port p).downAt = some s.timeNs ∧ t.reg (pciA p 0x10) = min (s.reg (pciA p 0x10) + 1) (2 ^ 32 - 1) ∧
      (∀ r, r ∉ [a, pciA p 0x10] → t.reg r = s.reg r) ∧ t = { s with regs := t.regs, host := t.host }) ∧
    (∀ t₀, (s.port p).downAt = some t₀ → t₀ + 10000000 ≤ s.timeNs → ∃ t, exec (.linkDownTimeout p) s = .next t ∧ portReset t) ∧
    (s.portActive p = true → (s.port p).perst = false → ∃ t, exec (.hotReset p) s = .next t ∧ portReset t) ∧
    (s.portActive p = true → (s.port p).perst = false → s.rbit (pciA p 0) 7 = false →
      ∃ t, exec (.perstNAssert p) s = .next t ∧ portReset t ∧ (t.port p).perst = true) ∧
    (s.rbit (pciA p 0) 7 = false → ∃ t, exec (.perstNDeassert p) s = .next t ∧ (t.port p).perst = false ∧
      (∀ r, r ≠ a → t.reg r = s.reg r) ∧ t = { s with regs := t.regs, host := t.host }) ∧
    (s.portActive p = true → ∃ t, exec (.managementFlr p) s = .next t ∧ torn t (fun x => x.kind == 1) ∧ others t ∧
      t.reg (pciA p 0x18) = min (s.reg (pciA p 0x18) + 1) (2 ^ 32 - 1) ∧ (∀ x ∈ t.sage.sessions, x.port ≠ p.val)) ∧
    (s.portActive p = true → ∃ t, exec (.vfEnableClear p) s = .next t ∧ torn t (fun x => x.kind == 1) ∧ others t)

/-- R312, R315, R325, R328, R329, R341: an ACTIVATE is refused for tenant 0 with ERR 5 and outside CLOSED with ERR 6, else leaves the
tenant OPENING, or OPEN where it asks for no region; a teardown scrubs its regions, sync objects and jobs, and ends 400 ms after its
trigger, never earlier, in CLOSED with SCRUB_DONE or in STUCK; a region is FREE once it is zeroed; an FLR clears the function's
queues and commands and leaves the tenant open; a changed command register puts a locked TDI into ERROR and tears its tenant down. -/
def Obligations.TenantsOpenCloseAndAreScrubbed : Prop :=
  ∀ (s : State) (u : Fin 16), let x := s.tenant u
    let scrubbed := fun (t : State) => (t.tenant u).state = .scrubbing ∧ (t.tenant u).trigger = s.timeNs ∧
      (∀ o, s.objOwned u o = true → t.obj o = 0) ∧ (∀ j ∈ t.job.jobs, j.tenant ≠ u.val) ∧
      (∀ r, (s.region r).state = .assigned → (s.region r).owner = u → t.region r = { state := .scrubbing }) ∧
      (∀ w, w ≠ u.val → t.tenant w = s.tenant w)
    (∀ ini, isMgmt ini = true → s.consentBar ini (tenA u 0) = false →
      (s.activateErr u false ≠ 0 → ∃ t, exec (.tenantActivate ini u) s = .next t ∧ t.fld (tenA u 8) 27 20 = s.activateErr u false ∧
        (u = 0 → t.fld (tenA u 8) 27 20 = 5) ∧ (u ≠ 0 → x.state ≠ .closed → t.fld (tenA u 8) 27 20 = 6) ∧
        (∀ r, r ≠ tenA u 8 → t.reg r = s.reg r) ∧ t = { s with regs := t.regs, resp := .ok 0 }) ∧
      (s.activateErr u false = 0 → ∃ t, exec (.tenantActivate ini u) s = .next t ∧
        ((t.tenant u).state = .opening ∨ (t.tenant u).state = .isOpen) ∧ (t.tenant u).clusters = s.reg (tenA u 4) ∧
        (t.tenant u).trigger = s.timeNs ∧ ((t.tenant u).regions = 0 → (t.tenant u).state = .isOpen) ∧
        (∀ w, w ≠ u.val → t.tenant w = s.tenant w) ∧ (∀ r, t.reg r = s.reg r) ∧ t.mem.cells = s.mem.cells) ∧
      (u ≠ 0 → (x.state = .opening ∨ x.state = .isOpen) → ∃ t, exec (.tenantTeardown ini u) s = .next t ∧ scrubbed t)) ∧
    (x.state = .scrubbing →
      (s.timeNs < x.trigger + 400000000 → ∀ stuck, exec (.scrubEnd u stuck) s = .next s) ∧
      (x.trigger + 400000000 ≤ s.timeNs → u ≠ 0 →
        (s.rbit (tenA u 0) 29 = false → ∃ t, exec (.scrubEnd u false) s = .next t ∧ t.tenant u = {} ∧ t.rbit (fnA u 0x20) 4 = true ∧
          t.reg (tenA u 0x28) = min (s.reg (tenA u 0x28) + 1) (2 ^ 32 - 1) ∧
          (∀ r, r ∉ [fnA u 0x20, tenA u 0x28] → t.reg r = s.reg r) ∧ (∀ w, w ≠ u.val → t.tenant w = s.tenant w) ∧
          t = { s with regs := t.regs, tenants := t.tenants, sent := t.sent, sage := t.sage }) ∧
        (∃ t, exec (.scrubEnd u true) s = .next t ∧ t.tenant u = { x with state := .stuck } ∧
          t = { s with tenants := t.tenants, sorrel := { s.sorrel with
            presented := s.sorrel.presented ++ [(s.cycle, ⟨0x21, 10, tenancyId, 5, 0, 0, 0xFFFF⟩)] } }))) ∧
    (∀ r, r < stagingRegion → (regionTier r = 8 → s.rbit (modA 0x100) 16 = true) →
      (regionTier r < 8 → s.rbit (modA 0x100) (regionTier r) = true ∧ s.stackFenced (regionTier r) = false) →
      ((s.region r).state = .dirty ∨ (s.region r).state = .scrubbing) → (∀ w < 16, (s.tenant w).state ≠ .opening) →
      ∃ t, exec (.regionZeroed r) s = .next t ∧ t.region r = { state := .free } ∧
        (∀ i < 0x200000, tabGet 0 t.mem.cells (regionBase r + i) = 0) ∧
        (∀ b, (b < regionBase r ∨ regionBase r + 0x200000 ≤ b) → tabGet 0 t.mem.cells b = tabGet 0 s.mem.cells b) ∧
        (∀ q, q ≠ r → t.region q = s.region q) ∧ t = { s with mem := t.mem }) ∧
    (u ≠ 0 → (x.state = .opening ∨ x.state = .isOpen) → (s.tdi u).isLocked = false → x.port < 4 → ∃ t, exec (.flr u) s = .next t ∧
      t.tenant u = x ∧ (∀ off, 0x100 ≤ off → off < 0x1100 → t.reg (fnA u off) = (regReset (fnA u off)).toNat) ∧
      t.inflightOf u = [] ∧ (∀ h ∈ t.host.held, h.1 ≠ u.val) ∧ (∀ j ∈ t.job.jobs, j.tenant ≠ u.val) ∧
      t.reg (pciA x.port 0x18) = min (s.reg (pciA x.port 0x18) + 1) (2 ^ 32 - 1)) ∧
    (∀ (p : Fin 4) (v : Nat), s.onPort p u = true →
      ((s.tdi u).isLocked = false ∨ tabGet 0 s.host.config (cfgKey p u 6) = v → ∃ t, exec (.configWrite p u (.command v)) s = .next t ∧
        tabGet 0 t.host.config (cfgKey p u 6) = v ∧ t = { s with host := { s.host with config := t.host.config } }) ∧
      (u ≠ 0 → (x.state = .opening ∨ x.state = .isOpen) → (s.tdi u).isLocked = true →
        tabGet 0 s.host.config (cfgKey p u 6) ≠ v →
        ∃ t, exec (.configWrite p u (.command v)) s = .next t ∧ (t.tdi u).state = .error ∧ scrubbed t))

/-- R314, R316, R317, R321: BAR2 answers Unsupported Request outside DEV_BYTES or unless the tenant is OPEN, and else reads or writes its
device memory; a doorbell moves its queue's tail or head, or puts the queue into the error state where the value lies outside it
or runs backwards; a command with a result posts its record into its CQ and leaves; a held completion goes once there is room. -/
def Obligations.QueuesDoorbellsAndCompletions : Prop :=
  ∀ (s : State) (u : Fin 16),
    (∀ (p : Fin 4) (off n : Nat), u ≠ 0 →
      ((s.tenant u).state ≠ .isOpen ∨ s.devBytes u < off + n → ∃ t, exec (.bar2Access p u off (.read n)) s = .next t ∧
        t.resp = .unsupported ∧ t.reg (pciA p 0x1C) = min (s.reg (pciA p 0x1C) + 1) (2 ^ 32 - 1) ∧
        (∀ r, r ≠ pciA p 0x1C → t.reg r = s.reg r) ∧ t = { s with regs := t.regs, resp := t.resp }) ∧
      (∀ d : List Byte, ((s.tenant u).state ≠ .isOpen ∨ s.devBytes u < off + d.length) →
        ∃ t, exec (.bar2Access p u off (.write d)) s = .next t ∧
        (∀ r, r ≠ pciA p 0x1C → t.reg r = s.reg r) ∧ t = { s with regs := t.regs, resp := .none }) ∧
      (∀ m b, (s.tenant u).state = .isOpen → (s.tenant u).port = p.val → off + n ≤ s.devBytes u → off + n ≤ s.bar2Bytes u → 0 < n →
        off % 0x200000 + n ≤ 0x200000 → s.devAddr u off = some m → s.memRead (mkId 7 p u 0) m n = (s, some b) →
        exec (.bar2Access p u off (.read n)) s = .next { s with resp := .bytes b }) ∧
      (∀ m v (d : List Byte), (s.tenant u).state = .isOpen → (s.tenant u).port = p.val → off + d.length ≤ s.devBytes u →
        off + d.length ≤ s.bar2Bytes u → 0 < d.length → off % 0x200000 + d.length ≤ 0x200000 → s.devAddr u off = some m →
        s.memWrite (mkId 7 p u 0) m d = (v, true) → exec (.bar2Access p u off (.write d)) s = .next { v with resp := .ok 0 })) ∧
    (∀ (q : Fin 64) (v : Word), (s.tenant u).state = .isOpen →
      let new := bits v.toNat 11 0
      let dist := fun (size from_ end_ : Nat) => (end_ + size - from_ % size) % size
      let broken := fun (t : State) (a : Nat) => t.fld a 31 28 = 2 ∧ (u ≠ 0 → t.rbit (fnA u 0x20) 3 = true) ∧
        (∀ r, r ∉ [a, fnA u 0x20] → t.reg r = s.reg r) ∧ t = { s with regs := t.regs, sent := t.sent }
      (s.fld (sqA u q 0x10) 31 28 = 1 →
        let n := s.fld (sqA u q 8) 12 0
        let d := dist n (s.fld (sqA u q 0x10) 15 0)
        (new < n → d (tabGet 0 s.host.sqTail (qKey u q)) ≤ d new → ∃ t, exec (.sqDoorbell u q v) s = .next t ∧
          tabGet 0 t.host.sqTail (qKey u q) = new ∧ (∀ k, k ≠ qKey u q → tabGet 0 t.host.sqTail k = tabGet 0 s.host.sqTail k) ∧
          t = { s with host := { s.host with sqTail := t.host.sqTail } }) ∧
        (n ≤ new ∨ (0 < n ∧ d new < d (tabGet 0 s.host.sqTail (qKey u q))) →
          ∃ t, exec (.sqDoorbell u q v) s = .next t ∧ broken t (sqA u q 0x10))) ∧
      (s.fld (cqA u q 0x18) 31 28 = 1 →
        let n := s.fld (cqA u q 8) 12 0
        let d := dist n (tabGet 0 s.host.cqHead (qKey u q))
        (new < n → d new ≤ d (tabGet 0 s.host.cqTail (qKey u q)) → ∃ t, exec (.cqDoorbell u q v) s = .next t ∧
          tabGet 0 t.host.cqHead (qKey u q) = new ∧ (∀ k, k ≠ qKey u q → tabGet 0 t.host.cqHead k = tabGet 0 s.host.cqHead k) ∧
          t = { s with host := { s.host with cqHead := t.host.cqHead } }) ∧
        (n ≤ new ∨ (0 < n ∧ d (tabGet 0 s.host.cqTail (qKey u q)) < d new) →
          ∃ t, exec (.cqDoorbell u q v) s = .next t ∧ broken t (cqA u q 0x18)))) ∧
    (let posts := fun (s t : State) (q : Nat) (r : List Byte) =>
      let p := (s.tenant u).port
      let tail := tabGet 0 s.host.cqTail (qKey u q)
      let next := (tail + 1) % max 1 (s.fld (cqA u q 8) 12 0)
      tabGet 0 t.host.cqTail (qKey u q) = next ∧ t.mem.cells = s.mem.cells ∧
      t.mem.host = ((s.hostWrite p (s.reg64 (cqA u q 0) + 32 * tail) r).hostWrite p (s.reg64 (cqA u q 0x10)) (natLe 4 next)).mem.host ∧
      t.sent = s.sent ++ (if s.rbit (cqA u q 0xC) 30 then [.msix (p * 16 + u) (s.fld (cqA u q 0xC) 5 0)] else []) ∧
      t = { s with host := t.host, mem := t.mem, sent := t.sent }
     (∀ (i : Fin 256) (c : HostCmd) (st code v : Nat), (s.inflightOf u)[i.val]? = some c → c.result = some (st, code, v) →
      (s.inflightOf u).find? (·.num == c.num) = some c →
      let q := s.fld (sqA u c.sq 0xC) 21 16
      s.fld (cqA u q 0x18) 31 28 = 1 → s.cqRoom u q = true → (∀ h ∈ s.host.held, h.1 ≠ u.val ∨ h.2.1 ≠ q) →
      ∃ t, exec (.hostCommandComplete u i) s = .next t ∧ posts s t q (c.completion st code v s.timeNs) ∧
        t.host.cmds = s.host.cmds.filter (·.num != c.num)) ∧
     (∀ h, s.host.held.find? (fun h => h.1 == u.val && s.fld (cqA u h.2.1 0x18) 31 28 == 1 && s.cqRoom u h.2.1) = some h →
      ∃ t, exec (.heldCompletionPost u) s = .next t ∧ t.host.held = s.host.held.erase h ∧ posts s t h.2.1 h.2.2))

/-- R318, R320: the command that round robin serves next on a port moves its SQ's head and gets its result by its own rules: NOP
completes; an image is placed at the highest free run and takes the lowest free handle, or shows the code of its first failed
check; an unload frees a handle that nothing uses; a job is accepted for its clusters; copies move bytes within DEV_BYTES or answer
RANGE; a stream command of another tenant's context is refused with 7; PARTITION_INFO writes the partition's record. -/
def Obligations.HostCommandsRun : Prop :=
  ∀ (s : State) (p : Fin 4) (u q : Nat), s.fetchNext p = some (u, q) →
    let b := s.sqHeadCmd u q
    let f := fun (off n : Nat) => fieldLe b (0x40 + off) n
    let c : HostCmd := { num := s.host.nextNum, tenant := u, sq := q, data := b
                         head := (s.fld (sqA u q 0x10) 15 0 + 1) % max 1 (s.fld (sqA u q 8) 12 0) }
    let zero := fun (off n : Nat) => c.zero off n = true
    let took := fun (t : State) => t.fld (sqA u q 0x10) 15 0 = c.head ∧ t.host.nextNum = s.host.nextNum + 1 ∧
      tabGet 0 t.host.rrFn p = u ∧ tabGet 63 t.host.rrSq u = q
    let gives := fun (t : State) (r : Nat × Nat × Nat) => took t ∧ { c with result := some r } ∈ t.host.cmds
    c.headOk = true →
    (fieldLe b 0 1 = 0 → zero 0x40 64 → ∃ t, exec (.hostNop p) s = .next t ∧ took t ∧
      t.host.cmds = s.host.cmds.filter (·.num != s.host.nextNum)) ∧
    (fieldLe b 0 1 = 0x10 → zero 0x50 48 →
      (s.inPartition u (f 0 8) (f 8 8) = false → ∃ t, exec (.loadImage p) s = .next t ∧ gives t (3, 0, 0) ∧ t.images = s.images) ∧
      (∀ im k, s.inPartition u (f 0 8) (f 8 8) = true → (s.memRead hubDmaId (f 0 8) (f 8 8)).2 = some im → s.imgCheck u im = some k →
        k ≠ 0x45 → ∃ t, exec (.loadImage p) s = .next t ∧ gives t (1, k, 0) ∧ t.images = s.images) ∧
      (∀ im run h, s.inPartition u (f 0 8) (f 8 8) = true → (s.memRead hubDmaId (f 0 8) (f 8 8)).2 = some im → s.imgCheck u im = none →
        s.imgPlace u (((imgLayout (imgTable im) 0).2 + 65535) / 65536 * 65536) (fieldLe im 0x68 4) false = some run →
        s.freeHandle = some h → ∃ t i, exec (.loadImage p) s = .next t ∧ gives t (0, 0, h) ∧ t.images = s.images ++ [i] ∧
          i.handle = h ∧ i.tenant = u ∧ i.run = run ∧ i.digest = slice im 0x20 32)) ∧
    (fieldLe b 0 1 = 0x11 → zero 0x42 62 →
      ((s.imagesOf u).any (·.handle == f 0 2) = false → ∃ t, exec (.unloadImage p) s = .next t ∧ gives t (1, 0x13, 0) ∧
        t.images = s.images) ∧
      ((s.imagesOf u).any (·.handle == f 0 2) = true → s.imgInUse u (f 0 2) = false → ∃ t, exec (.unloadImage p) s = .next t ∧
        gives t (0, 0, 0) ∧ t.images = s.images.filter (fun i => !(i.tenant == u && i.handle == f 0 2)))) ∧
    (∀ k l, fieldLe b 0 1 = 0x20 → cluList (fieldLe (slice b 0x40 64) 0x1C 4) = k :: l → bit (s.tenant u).clusters k = true →
      bit (fieldLe b 1 1) 1 = false → s.jobErrs k 1 (slice b 0x40 64) = [] → ∃ t, exec (.job p) s = .next t ∧ took t ∧
        { c with job := s.job.nextNum } ∈ t.host.cmds ∧ t.job.nextNum = s.job.nextNum + 1 ∧
        ∃ j, t.job.jobs.getLast? = some j ∧ t.job.jobs.length = s.job.jobs.length + 1 ∧ j.num = s.job.nextNum ∧ j.home = k ∧
          j.window = 1 ∧ j.tenant = (s.cluOwner (k / 8) (k % 8)).getD 16 ∧ j.data = slice b 0x40 64 ∧ s.cycle ≤ j.stamp ∧
          ((∀ e ∈ s.job.jobs, e.home ≠ k ∨ e.submitted ≠ s.cycle) → t.job.jobs = s.job.jobs ++ [j] ∧ j.stamp = s.cycle)) ∧
    (zero 0x58 40 → 0 < f 0x10 8 → f 0x10 8 ≤ 0x400000000 →
      (s.devBytes u < f 8 8 + f 0x10 8 →
        (fieldLe b 0 1 = 0x30 → ∃ t, exec (.copyIn p) s = .next t ∧ gives t (3, 0, 0) ∧ t.mem = s.mem) ∧
        (fieldLe b 0 1 = 0x31 → ∃ t, exec (.copyOut p) s = .next t ∧ gives t (3, 0, 0) ∧ t.mem = s.mem)) ∧
      (f 8 8 + f 0x10 8 ≤ s.devBytes u →
        (fieldLe b 0 1 = 0x30 → let r := s.devWrite hubDmaId u (f 8 8) (s.hostRead p (f 0 8) (f 0x10 8))
          ∃ t, exec (.copyIn p) s = .next t ∧ gives t (if r.2 then 0 else 5, 0, 0) ∧ t.mem.cells = r.1.mem.cells ∧
            t.mem.host = s.mem.host) ∧
        (∀ d, fieldLe b 0 1 = 0x31 → (s.devRead hubDmaId u (f 8 8) (f 0x10 8)).2 = some d → ∃ t, exec (.copyOut p) s = .next t ∧
          gives t (0, 0, 0) ∧ t.mem.cells = s.mem.cells ∧ t.mem.host = (s.hostWrite p (f 0 8) d).mem.host))) ∧
    (∀ d, fieldLe b 0 1 = 0x50 → zero 0x42 6 → zero 0x50 48 → f 0 1 = 0 → f 1 1 < 128 → s.inPartition u (f 8 8) 128 = true →
      (s.memRead hubDmaId (f 8 8) 128).2 = some d →
      ((s.dstate (f 1 1) ≠ 0 ∨ fieldLe d 0 1 ≠ u) → ∃ t, exec (.streamOpen p) s = .next t ∧ gives t (1, 7, 0) ∧ t.video = s.video) ∧
      (s.dstate (f 1 1) = 0 → fieldLe d 0 1 = u → ∃ t, exec (.streamOpen p) s = .next t ∧
        let code := t.fld (vdecA (f 1 1) 8) 7 0
        gives t (if code = 0 then (0, 0, 0) else (openStatus code, code, 0)) ∧
        ∀ i < 32, t.reg (vdecA (f 1 1) (0x100 + 4 * i)) = fieldLe d (4 * i) 4)) ∧
    (fieldLe b 0 1 = 0x51 → zero 0x42 62 → f 0 1 = 0 → f 1 1 < 128 → s.dstate (f 1 1) ≠ 0 →
      (s.dten (f 1 1) ≠ u → ∃ t, exec (.streamClose p) s = .next t ∧ gives t (1, 7, 0) ∧ t.video = s.video) ∧
      (s.dten (f 1 1) = u → ∃ t, exec (.streamClose p) s = .next t ∧ took t ∧ c ∈ t.host.cmds ∧ (t.dctx (f 1 1)).closing = true ∧
        ∀ e, e ≠ f 1 1 → t.dctx e = s.dctx e)) ∧
    (fieldLe b 0 1 = 0x60 → zero 0x50 48 → let d := (s.partitionInfo u).take (f 8 8)
      ∃ t, exec (.partitionInfo p) s = .next t ∧ gives t (0, 0, d.length) ∧ t.mem.host = (s.hostWrite p (f 0 8) d).mem.host ∧
        t.mem.cells = s.mem.cells)

/-! ## Sage (12) -/

/-- R335–R340, R358: while the endpoint of a port is up Sage answers each SPDM request there, an answer above 4,096 bytes being kept
and read in chunks; a fifth session is refused as Busy; FINISH opens a session or ends it, a message in it renews its 180 s, KEY_UPDATE
counts, END_SESSION and 180 s of silence end it; a report is signed, and given only to a session that R340 admits; a nonce is 32
bytes and stays noted; a locked TDI's session sets the digest of the consent key. The bytes of replies are the model's (log entry
133). -/
def Obligations.SpdmRequestsAndSessions : Prop :=
  ∀ (s : State) (p : Fin 5), s.mctpUp p = true → s.sage.identityBad = false →
    let tells := fun (t : State) (k : String) (d : List Byte) => t.sent = s.sent ++ [.reply k p d]
    let answers := fun (t : State) (k : String) (d : List Byte) =>
      (d.length ≤ 4096 → tells t k d) ∧ (4096 < d.length → tells t "ERROR LargeResponse" [] ∧ tabGet [] t.sage.chunksOut p = d)
    let plain := fun (t : State) => t = { s with sent := t.sent, sage := { s.sage with chunksOut := t.sage.chunksOut } }
    (∃ t, exec (.spdmGetVersion p) s = .next t ∧ tells t "VERSION" [0x14] ∧ t = { s with sent := t.sent }) ∧
    (∃ t d, exec (.spdmGetCapabilities p) s = .next t ∧ tells t "CAPABILITIES" d ∧ t = { s with sent := t.sent }) ∧
    (∃ t d, exec (.negotiateAlgorithms p) s = .next t ∧ tells t "ALGORITHMS" d ∧ t = { s with sent := t.sent }) ∧
    (∃ t, exec (.getDigests p) s = .next t ∧ t = { s with sent := t.sent } ∧
      tells t "DIGESTS" (sha3_384 (s.chain 0) ++ sha3_384 (s.chain 1) ++ sha3_384 (s.chain 2))) ∧
    (∀ (slot : Fin 8) (off len : Nat),
      (slot.val < 3 → ∃ t, exec (.getCertificate p slot off len) s = .next t ∧
        answers t "CERTIFICATE" (((s.chain slot).drop off).take len) ∧ plain t) ∧
      (3 ≤ slot.val → ∃ t, exec (.getCertificate p slot off len) s = .next t ∧ tells t "ERROR InvalidRequest" [] ∧ t = { s with sent := t.sent })) ∧
    (∀ nonce : List Byte, ∃ t d, exec (.challenge p 0 nonce) s = .next t ∧ d.take 32 = slice nonce 0 32 ∧
      answers t "CHALLENGE_AUTH" (d ++ Config.sign 1 d) ∧ plain t) ∧
    (∀ (i : Fin 256) (m nonce : List Byte), i.val ≠ 255 → s.measurement i = some m → let d := natLe 1 i ++ m
      (∃ t, exec (.getMeasurements p i false nonce) s = .next t ∧ answers t "MEASUREMENTS" d ∧ plain t) ∧
      (∃ t, exec (.getMeasurements p i true nonce) s = .next t ∧ plain t ∧
        answers t "MEASUREMENTS" (d ++ (slice nonce 0 32 ++ Config.sign 1 (d ++ slice nonce 0 32))))) ∧
    (∀ d : List Byte, tabGet [] s.sage.chunksOut p = d → d ≠ [] → ∃ t, exec (.chunkGet p) s = .next t ∧
      tells t "CHUNK_RESPONSE" (d.take 4096) ∧ tabGet [] t.sage.chunksOut p = d.drop 4096 ∧ plain t) ∧
    (∀ share : List Byte, let mine := s.sage.sessions.filter (fun x => x.port == p.val)
      (4 ≤ mine.length → ∃ t, exec (.keyExchange p share) s = .next t ∧ tells t "ERROR Busy" [] ∧ t = { s with sent := t.sent }) ∧
      (mine.length < 4 → ∃ t x, exec (.keyExchange p share) s = .next t ∧ t.sage.sessions = s.sage.sessions ++ [x] ∧
        x.port = p.val ∧ x.id = s.sage.nextSession ∧ x.open_ = false ∧ t.sage.nextSession = s.sage.nextSession + 1 ∧
        t.reg (sgeA 0x80) = min (s.reg (sgeA 0x80) + 1) (2 ^ 32 - 1) ∧ (∀ a, a ≠ sgeA 0x80 → t.reg a = s.reg a) ∧
        t = { s with regs := t.regs, sage := t.sage, sent := t.sent, freeCtr := t.freeCtr })) ∧
    (∃ t b, exec (.getNonce p) s = .next t ∧ b.length = 32 ∧ tells t "NONCE" b ∧ t.sage.nonces = s.sage.nonces ++ [(b, s.timeNs)] ∧
      t = { s with sent := t.sent, sage := { s.sage with nonces := t.sage.nonces }, freeCtr := t.freeCtr }) ∧
    (∀ (sid : Nat) (x : Session), s.session p sid = some x →
      let own := fun (t : State) => t = { s with sent := t.sent, sage := { s.sage with sessions := t.sage.sessions } }
      let kept := fun (t : State) => t.session p sid = some { x with last := s.timeNs }
      (x.open_ = false →
        (∃ t, exec (.finish p sid true) s = .next t ∧ t.session p sid = some { x with open_ := true, last := s.timeNs } ∧
          tells t "FINISH_RSP" [] ∧ own t) ∧
        (∃ t, exec (.finish p sid false) s = .next t ∧ t.session p sid = none ∧ tells t "ERROR DecryptError" [] ∧ own t)) ∧
      (x.last + 180000000000 ≤ s.timeNs → ∃ t, exec (.spdmSessionTimeout p sid) s = .next t ∧ t.session p sid = none ∧
        t = { s with sage := { s.sage with sessions := t.sage.sessions } }) ∧
      (s.timeNs < x.last + 180000000000 → exec (.spdmSessionTimeout p sid) s = .next s) ∧
      (x.open_ = true →
        (∃ t, exec (.heartbeat p sid) s = .next t ∧ kept t ∧ tells t "HEARTBEAT_ACK" [] ∧ own t) ∧
        (∃ t, exec (.keyUpdate p sid) s = .next t ∧ tells t "KEY_UPDATE_ACK" [] ∧ own t ∧
          t.session p sid = some { x with last := s.timeNs, updates := x.updates + 1 }) ∧
        (∃ t, exec (.endSession p sid) s = .next t ∧ t.session p sid = none ∧ tells t "END_SESSION_ACK" [] ∧ own t) ∧
        (∀ chunk : List Byte, chunk.length ≤ 4096 → (tabGet [] s.sage.chunksIn p ++ chunk).length ≤ 65536 →
          ∃ t, exec (.chunkSend p sid chunk false) s = .next t ∧ kept t ∧ tells t "CHUNK_SEND_ACK" [] ∧
            tabGet [] t.sage.chunksIn p = tabGet [] s.sage.chunksIn p ++ chunk ∧
            t = { s with sent := t.sent, sage := { s.sage with sessions := t.sage.sessions, chunksIn := t.sage.chunksIn } }) ∧
        (∀ chunk : List Byte, 4096 < chunk.length ∨ 65536 < (tabGet [] s.sage.chunksIn p ++ chunk).length → ∀ last : Bool,
          ∃ t, exec (.chunkSend p sid chunk last) s = .next t ∧ kept t ∧ tells t "ERROR RequestTooLarge" [] ∧
            tabGet [] t.sage.chunksIn p = [] ∧
            t = { s with sent := t.sent, sage := { s.sage with sessions := t.sage.sessions, chunksIn := t.sage.chunksIn } }) ∧
        (∀ (u : Fin 16) (nonce : List Byte), let b := s.reportBody u nonce
          let signs := fun (t : State) => kept t ∧
            t = { s with sent := t.sent, sage := { s.sage with sessions := t.sage.sessions, chunksOut := t.sage.chunksOut } }
          (s.sessionFor x u = true → ∃ t, exec (.getReport p sid u nonce) s = .next t ∧ signs t ∧
            answers t "REPORT" (b ++ Config.sign 1 b)) ∧
          (s.sessionFor x u = false → ∃ t, exec (.getReport p sid u nonce) s = .next t ∧ signs t ∧
            tells t "ERROR UnexpectedRequest" [])) ∧
        (∀ (u : Fin 16) (key : List Byte),
          (u ≠ 0 → (s.tdi u).isLocked = true → s.sessionFor x u = true → key.length = 2592 → ∃ t, exec (.setConsentKey p sid u key) s = .next t ∧
            natLe 48 (t.regWords (sgeT u 0x20) 12) = sha3_384 key ∧ tells t "CONSENT_KEY" [0] ∧
            (∀ a, (a < sgeT u 0x20 ∨ sgeT u 0x50 ≤ a) → t.reg a = s.reg a)) ∧
          (u = 0 ∨ (s.tdi u).isLocked = false ∨ s.sessionFor x u = false ∨ key.length ≠ 2592 → ∃ t, exec (.setConsentKey p sid u key) s = .next t ∧
            tells t "CONSENT_KEY" [1] ∧ (∀ a, t.reg a = s.reg a)))))

/-- R334, R341: in an open session on its function's port a TDI is locked once, goes to RUN only from CONFIG_LOCKED with an enabled
IDE stream, and STOP tears its tenant down; a key is programmed from the session's secret alone, the KEY_PROG's own key and IV being
zero, on a link in FLIT mode; K_SET_GO enables a programmed key set and K_SET_STOP destroys the stream's keys. The codes and bytes
of replies are the model's (log entry 133). -/
def Obligations.TdispAndIdeMessages : Prop :=
  ∀ (s : State) (p : Fin 4) (sid : Nat) (x : Session) (u : Fin 16), s.mctpUp p = true → s.sage.identityBad = false →
    s.session p sid = some x → x.open_ = true → u ≠ 0 → s.onPort p u = true →
    let tells := fun (t : State) (k : String) (d : List Byte) => t.sent = s.sent ++ [.reply k p d]
    let kept := fun (t : State) => (t.session p sid).map (·.last) = some s.timeNs
    let quiet := fun (t : State) => kept t ∧ t = { s with sent := t.sent, sage := { s.sage with sessions := t.sage.sessions } }
    let other := fun (t : State) => ∀ w, w ≠ u.val → t.tdi w = s.tdi w
    (∃ t, exec (.tdispGetVersion p sid) s = .next t ∧ tells t "TDISP_VERSION" [0x10] ∧ quiet t) ∧
    (∃ t d, exec (.tdispGetCapabilities p sid) s = .next t ∧ tells t "TDISP_CAPABILITIES" d ∧ quiet t) ∧
    ((s.tdi u).state = .unlocked → ((s.tenant u).state = .opening ∨ (s.tenant u).state = .isOpen) →
      ∃ t n, exec (.lockInterface p sid u) s = .next t ∧ t.tdi u = { state := .locked, session := some (p.val, sid), nonce := n } ∧
        tells t "LOCK_INTERFACE_RESPONSE" (natLe 32 n) ∧ other t ∧ kept t ∧ t = { s with sent := t.sent, sage := t.sage, freeCtr := t.freeCtr }) ∧
    ((s.tdi u).state ≠ .unlocked ∨ ((s.tenant u).state ≠ .opening ∧ (s.tenant u).state ≠ .isOpen) → ∃ t, exec (.lockInterface p sid u) s = .next t ∧
      tells t "TDISP_ERROR InvalidInterfaceState" [] ∧ quiet t) ∧
    ((s.tdi u).isLocked = true → ∃ t d, exec (.getDeviceInterfaceReport p sid u) s = .next t ∧ tells t "DEVICE_INTERFACE_REPORT" d ∧ quiet t) ∧
    (∃ t, exec (.getDeviceInterfaceState p sid u) s = .next t ∧ tells t "DEVICE_INTERFACE_STATE" (natLe 1 (s.tdiCode u - 1)) ∧ quiet t) ∧
    ((s.tdi u).state = .locked → s.ideOn u = true → ∃ t, exec (.startInterface p sid u) s = .next t ∧
      t.tdi u = { s.tdi u with state := .run } ∧ tells t "START_INTERFACE_RESPONSE" [] ∧ other t ∧ kept t ∧
      t = { s with sent := t.sent, sage := t.sage }) ∧
    ((s.tdi u).state ≠ .locked ∨ s.ideOn u = false → ∃ t, exec (.startInterface p sid u) s = .next t ∧
      tells t "TDISP_ERROR InvalidInterfaceState" [] ∧ quiet t) ∧
    (((s.tenant u).state = .opening ∨ (s.tenant u).state = .isOpen) → ∃ t, exec (.stopInterface p sid u) s = .next t ∧
      (t.tenant u).state = .scrubbing ∧ ∀ w, w ≠ u.val → t.tenant w = s.tenant w) ∧
    (∀ (stream : Fin 256) (set dir : Fin 2) (sub : Fin 8) (kiv : List Byte), let n := 16 * set.val + 8 * dir.val + sub.val
      (kiv.all (· == 0) = true → s.rbit (pciA p 4) 29 = true → s.ideStream p stream = none →
        (s.sage.ide.filter (fun y => y.port == p.val)).length < 8 → ∃ t k, exec (.ideKeyProg p sid stream u set dir sub kiv) s = .next t ∧
          t.ideStream p stream = some { port := p, id := stream, tenant := u, keys := [(n, k)] } ∧ tells t "KP_ACK" [0] ∧
          (∀ q i, (q, i) ≠ (p.val, stream.val) → t.ideStream q i = s.ideStream q i) ∧ t = { s with sent := t.sent, sage := t.sage }) ∧
      (kiv.all (· == 0) = false ∨ s.rbit (pciA p 4) 29 = false ∨ (∃ y, s.ideStream p stream = some y ∧ y.tenant ≠ u.val) ∨
          (s.ideStream p stream = none ∧ 8 ≤ (s.sage.ide.filter (fun y => y.port == p.val)).length) →
        ∃ t, exec (.ideKeyProg p sid stream u set dir sub kiv) s = .next t ∧ tells t "KP_ACK" [1] ∧ quiet t) ∧
      (∀ y, s.ideStream p stream = some y → y.keys.any (fun e => e.1 / 16 == set.val) = true →
        ∃ t, exec (.ideKSetGo p sid stream set) s = .next t ∧ t.ideStream p stream = some { y with enabled := some set } ∧
          tells t "K_GOSTOP_ACK" [] ∧ t = { s with sent := t.sent, sage := t.sage }) ∧
      (∃ t, exec (.ideKSetStop p sid stream) s = .next t ∧ t.ideStream p stream = none ∧ tells t "K_GOSTOP_ACK" [] ∧
        t = { s with sent := t.sent, sage := t.sage }))

/-- R334, R344–R347, R350: ROTATE draws a new key for the other slot, counts the regions of the old EPOCH and is refused outside
OPEN and while a rotation runs; each sweep step moves a region's pointer by 64 bytes and, where no symbol is in error or poisoned, changes no byte of
memory, the last giving the region its new EPOCH; with OLD_REGIONS and OLD_READS 0 the old key goes and the rotation is counted; LEASE_CLOCK is stored
each 600 s; an entropy failure stops keys and is presented as SOURCE 0x20. -/
def Obligations.RotationSweepAndKeys : Prop :=
  (∀ (s : State) (ini : Nat) (u : Fin 16), isMgmt ini = true → s.consentBar ini (sgeT u 0) = false → let a := sgeT u 4
    ((s.tenant u).state = .isOpen → s.rbit a 31 = false → s.sage.entropyBad = false → ∃ t, exec (.rotate (.reg ini) u) s = .next t ∧
      t.rbit a 31 = true ∧ t.fld a 30 30 = 1 - s.fld a 30 30 ∧ t.reg (sgeT u 8) = (s.oldRegions u (1 - s.fld a 30 30)).length % 2 ^ 32 ∧
      tabGet 0 t.sage.memKeys (2 * u + (1 - s.fld a 30 30)) ≠ 0 ∧
      tabGet 0 t.sage.memKeys (2 * u + s.fld a 30 30) = tabGet 0 s.sage.memKeys (2 * u + s.fld a 30 30) ∧
      (∀ r, r ∉ [a, sgeT u 8] → t.reg r = s.reg r) ∧
      t = { s with regs := t.regs, resp := .ok 0, freeCtr := t.freeCtr, sage := { s.sage with memKeys := t.sage.memKeys } }) ∧
    ((s.tenant u).state ≠ .isOpen ∨ s.rbit a 31 = true → ∃ t, exec (.rotate (.reg ini) u) s = .next t ∧
      t.fld a 29 24 = (if (s.tenant u).state = .isOpen then 2 else 1) ∧ t.fld a 31 30 = s.fld a 31 30 ∧
      (∀ r, r ≠ a → t.reg r = s.reg r) ∧ t = { s with regs := t.regs, resp := .ok 0 })) ∧
  (∀ (s : State) (p : Fin 5) (sid : Nat) (x : Session) (u : Fin 16), s.mctpUp p = true → s.sage.identityBad = false →
    s.session p sid = some x → x.open_ = true → let a := sgeT u 4
    ((s.tenant u).state = .isOpen → s.rbit a 31 = false → s.sage.entropyBad = false → ∃ t, exec (.rotate (.vendor p sid) u) s = .next t ∧
      t.sent = s.sent ++ [.reply "ROTATE" p [0]] ∧ t.rbit a 31 = true ∧ t.fld a 30 30 = 1 - s.fld a 30 30 ∧
      t.reg (sgeT u 8) = (s.oldRegions u (1 - s.fld a 30 30)).length % 2 ^ 32 ∧ (∀ r, r ∉ [a, sgeT u 8] → t.reg r = s.reg r)) ∧
    ((s.tenant u).state ≠ .isOpen ∨ s.rbit a 31 = true → ∃ t, exec (.rotate (.vendor p sid) u) s = .next t ∧
      t.sent = s.sent ++ [.reply "ROTATE" p [if (s.tenant u).state = .isOpen then 2 else 1]] ∧ (∀ r, r ≠ a → t.reg r = s.reg r))) ∧
  (∀ (s : State) (u : Fin 16) (k : Fin 9) (r : Nat) (e : Region), s.rbit (sgeT u 4) 31 = true → (k.val < 8 → s.stackFenced k = false) →
    s.sweepRegion u k = some (r, e) → ∃ t, exec (.rotationSweepUnit u k) s = .next t ∧
      (let w := (regionBase r + e.sweep) / 32
       s.badWords w (w + 2) = [] → t.mem.cells = s.mem.cells ∧ t.sorrel = s.sorrel) ∧
      (e.sweep + 64 < 0x200000 → t.region r = { e with sweep := e.sweep + 64 } ∧ t.reg (sgeT u 8) = s.reg (sgeT u 8)) ∧
      (0x200000 ≤ e.sweep + 64 → t.region r = { e with sweep := 0, epoch := s.fld (sgeT u 4) 30 30 } ∧
        t.reg (sgeT u 8) = s.reg (sgeT u 8) - 1) ∧
      (∀ q, q ≠ r → t.region q = s.region q) ∧ t.tenants = s.tenants ∧ t.sage = s.sage ∧ t.tile = s.tile) ∧
  (∀ (s : State) (u : Fin 16), s.rbit (sgeT u 4) 31 = true →
    (s.reg (sgeT u 8) = 0 → s.reg (sgeT u 0xC) = 0 → ∃ t, exec (.oldKeyDestroy u) s = .next t ∧ t.rbit (sgeT u 4) 31 = false ∧
      tabGet 0 t.sage.memKeys (2 * u + (1 - s.fld (sgeT u 4) 30 30)) = 0 ∧
      t.reg (sgeT u 0x10) = min (s.reg (sgeT u 0x10) + 1) (2 ^ 32 - 1) ∧ (∀ r, r ∉ [sgeT u 4, sgeT u 0x10] → t.reg r = s.reg r) ∧
      t = { s with regs := t.regs, sage := { s.sage with memKeys := t.sage.memKeys } }) ∧
    (s.reg (sgeT u 8) ≠ 0 ∨ s.reg (sgeT u 0xC) ≠ 0 → exec (.oldKeyDestroy u) s = .next s)) ∧
  (∀ (s : State), (s.sage.leaseStoredAt + 600000000000 ≤ s.timeNs → exec .leaseClockStore s = .next { s with sage := { s.sage with
      leaseStored := s.lease, leaseStoredAt := s.timeNs } }) ∧
    (s.timeNs < s.sage.leaseStoredAt + 600000000000 → exec .leaseClockStore s = .next s) ∧
    (∃ t, exec .entropyHealthFailure s = .next t ∧ t.sageState = 2 ∧ (∀ r, r ≠ sgeA 0 → t.reg r = s.reg r) ∧
      t = { s with regs := t.regs, sage := { s.sage with entropyBad := true }, sorrel := { s.sorrel with
        presented := s.sorrel.presented ++ [(s.cycle, ⟨0x20, 10, sageId, 5, 0, 0, 0xFFFF⟩)] } }))

/-- R348, R349, R358–R360: a crate record is refused with the code of the first check it fails and else fills its slot and raises
LEASE_CLOCK to its issue; a token needs the serial, a live nonce, which it uses up, the tenant's key, its signature and its time, and
becomes a consent in the lowest free index; REVOKE and the expiry end one consent and clear the HALT bits set under it; a nonce lives
600 s. -/
def Obligations.CratesConsentsAndNonces : Prop :=
  (∀ (s : State) (p : Fin 5) (sid : Nat) (x : Session) (r : List Byte), s.mctpUp p = true → s.sage.identityBad = false →
    s.session p sid = some x → x.open_ = true →
    let answers := fun (t : State) (c : Nat) => exec (.putCrate p sid r) s = .next t ∧ t.sent = s.sent ++ [.reply "CRATE" p [BitVec.ofNat 8 c]]
    let pk := slice r 0x700 2592
    let signed := crateForm r && Config.verify pk (slice r 0 0x1120) (slice r 0x1120 4627)
    let issued := fieldLe r 0x38 8
    let ends := fieldLe r 0x30 8
    (fieldLe r 8 8 ≠ serialNo → ∃ t, answers t 1 ∧ t.sage.crates = s.sage.crates) ∧
    (fieldLe r 8 8 = serialNo → s.brokerKnown pk = false → ∃ t, answers t 2 ∧ t.sage.crates = s.sage.crates) ∧
    (fieldLe r 8 8 = serialNo → s.brokerKnown pk = true → signed = false → ∃ t, answers t 3 ∧ t.sage.crates = s.sage.crates ∧
      t.reg (sgeA 0x84) = min (s.reg (sgeA 0x84) + 1) (2 ^ 32 - 1)) ∧
    (fieldLe r 8 8 = serialNo → s.brokerKnown pk = true →
      let late := fun (c : Nat) => ∃ t, answers t (if signed = false then 3 else if crateKey r = none then 4 else c) ∧ t.sage.crates = s.sage.crates
      (issued + 34560000 < ends → late 5) ∧
      (∀ k c, ends ≤ issued + 34560000 → s.crateOf (slice r 0x10 16) = some (k, c) → issued ≤ s.reg64 (crateA k 0x18) → late 6) ∧
      (ends ≤ issued + 34560000 → s.crateOf (slice r 0x10 16) = none →
        (List.range 16).find? (fun i => (tabGet none s.sage.crates i).isNone) = none → late 7)) ∧
    (∀ i, fieldLe r 8 8 = serialNo → s.brokerKnown pk = true → ends ≤ issued + 34560000 →
      s.crateOf (slice r 0x10 16) = none → (List.range 16).find? (fun i => (tabGet none s.sage.crates i).isNone) = some i →
      ∃ t, answers t (if signed = false then 3 else if crateKey r = none then 4 else 0) ∧ (signed = true → crateKey r ≠ none →
        t.reg64 (crateA i 0x10) = ends ∧ t.reg64 (crateA i 0x18) = issued ∧
        t.reg (crateA i 0x20) = (if ends = issued then 0 else 1) ∧ t.lease = max s.lease issued ∧
        (∃ c, tabGet none t.sage.crates i = some c ∧ c.owner = slice r 0x40 48 ∧ c.revoked = (ends == issued)) ∧
        ∀ j, j ≠ i → tabGet none t.sage.crates j = tabGet none s.sage.crates j))) ∧
  (∀ (s : State) (ini : Nat), isMgmt ini = true → s.consentBar ini (sgeA 0x20) = false →
    (let a := s.reg64 (sgeA 0x28) % 2 ^ 48
     let b := s.unitBytes (hubId 2) a 7315
     let code := fun (t : State) => t.fld (sgeA 0x24) 31 24
     hubBase ≤ a → a + 7315 ≤ hubBase + 0x4000000 →
      (fieldLe b 8 8 ≠ serialNo → ∃ t, exec (.consentSubmit ini) s = .next t ∧ code t = 1 ∧ t.sage = s.sage ∧
        t.reg (sgeA 0x90) = min (s.reg (sgeA 0x90) + 1) (2 ^ 32 - 1)) ∧
      (fieldLe b 8 8 = serialNo → s.nonceOk (slice b 0x28 32) = false → ∃ t, exec (.consentSubmit ini) s = .next t ∧ code t = 2 ∧
        t.sage = s.sage ∧ t.reg (sgeA 0x90) = min (s.reg (sgeA 0x90) + 1) (2 ^ 32 - 1)) ∧
      (∀ i, fieldLe b 8 8 = serialNo → s.nonceOk (slice b 0x28 32) = true → fieldLe b 0x10 1 < 16 →
        natLe 48 (s.regWords (sgeT (fieldLe b 0x10 1) 0x20) 12) = sha3_384 (slice b 0x60 2592) →
        s.regWords (sgeT (fieldLe b 0x10 1) 0x20) 12 ≠ 0 → tokenForm b = true → fieldLe b 0x18 8 ≤ s.lease →
        s.lease < fieldLe b 0x20 8 → fieldLe b 0x20 8 ≤ fieldLe b 0x18 8 + 604800 → (s.tenant (fieldLe b 0x10 1)).state = .isOpen →
        fieldLe b 6 2 ≠ 0 → (List.range 16).find? (fun i => (s.consent i).isNone) = some i →
        let signed := Config.verify (slice b 0x60 2592) (slice b 0 0xA80) (slice b 0xA80 4627)
        ∃ t, exec (.consentSubmit ini) s = .next t ∧ code t = (if signed then 0 else 4) ∧
          (∀ n ∈ t.sage.nonces, n.1 ≠ slice b 0x28 32) ∧ (signed = false → t.sage.consents = s.sage.consents) ∧ (signed = true →
          t.consent i = some { tenant := fieldLe b 0x10 1, scope := fieldLe b 6 2, clusters := fieldLe b 0x14 4
                               notAfter := fieldLe b 0x20 8, digest := sha3_256 b } ∧
          (∀ j, j ≠ i → t.consent j = s.consent j) ∧ t.fld (sgeA 0) 4 0 = t.consentList.length % 32))) ∧
    (∃ t b, exec (.newNonce ini) s = .next t ∧ b.length = 32 ∧ t.sage.nonces = s.sage.nonces ++ [(b, s.timeNs)] ∧
      natLe 32 (t.regWords (sgeA 0x40) 8) = b ∧ (∀ a, (a < sgeA 0x40 ∨ sgeA 0x60 ≤ a) → t.reg a = s.reg a) ∧
      t = { s with regs := t.regs, freeCtr := t.freeCtr, resp := .ok 0, sage := { s.sage with nonces := t.sage.nonces } }) ∧
    (∀ i : Fin 16, ∃ t, exec (.consentRevoke ini i) s = .next t ∧ t.consent i = none ∧ (∀ j, j ≠ i.val → t.consent j = s.consent j) ∧
      (∀ c, s.consent i = some c → ∀ a ∈ c.halted, (regBlock a = some (.tc, 4) → t.rbit a 0 = false) ∧
        (regBlock a = some (.ac, 4) → t.rbit a 1 = false)) ∧
      t = { s with regs := t.regs, resp := .ok 0, sage := { s.sage with consents := t.sage.consents } })) ∧
  (∀ (s : State) (i : Fin 16) (c : Consent), s.consent i = some c →
    (c.notAfter ≤ s.lease → ∃ t, exec (.consentExpiry i) s = .next t ∧ t.consent i = none ∧
      (∀ j, j ≠ i.val → t.consent j = s.consent j) ∧ t = { s with regs := t.regs, sage := { s.sage with consents := t.sage.consents } }) ∧
    (s.lease < c.notAfter → exec (.consentExpiry i) s = .next s)) ∧
  (∀ (s : State) (b : List Byte) (t₀ : Nat) (l : List (List Byte × Nat)), s.sage.nonces = (b, t₀) :: l →
    (t₀ + 600000000000 ≤ s.timeNs → exec .nonceExpiry s = .next { s with sage := { s.sage with nonces := l } }) ∧
    (s.timeNs < t₀ + 600000000000 → exec .nonceExpiry s = .next s))

/-- R351–R357: a load is refused at once with STATUS 4 beyond 16 packages and 3 for a source outside the tenant's memory, and else
runs; each block is checked against versions and consents, decrypted and written to its slot, a failing one ending the load with its
code; with the last one, its digest good, the package gets its handle; an unload of an unknown handle gives 0x5D, any other frees
the handle and clears marks. -/
def Obligations.WeightPackagesLoadByBlocks : Prop :=
  (∀ (s : State) (p : Fin 4) (u q : Nat) (bad : List Nat), s.fetchNext p = some (u, q) →
    let b := s.sqHeadCmd u q
    let f := fun (off n : Nat) => fieldLe b (0x40 + off) n
    let c : HostCmd := { num := s.host.nextNum, tenant := u, sq := q, data := b
                         head := (s.fld (sqA u q 0x10) 15 0 + 1) % max 1 (s.fld (sqA u q 8) 12 0) }
    let gives := fun (t : State) (r : Nat × Nat × Nat) => t.fld (sqA u q 0x10) 15 0 = c.head ∧ { c with result := some r } ∈ t.host.cmds
    fieldLe b 0 1 = 0x18 → c.headOk = true →
    (f 0 1 = 0 → f 1 1 ≤ 1 → c.zero 0x42 6 = true → c.zero 0x60 32 = true →
      let n := (s.sage.weights.filter (fun w => w.tenant == u)).length + (s.sage.loads.filter (fun w => w.tenant == u)).length
      (16 ≤ n → ∃ t, exec (.loadWeights p bad) s = .next t ∧ gives t (4, 0, 0) ∧ t.sage = s.sage) ∧
      (n < 16 → s.pkgIn u (f 1 1) (f 8 8) (f 0x10 8) = false → ∃ t, exec (.loadWeights p bad) s = .next t ∧ gives t (3, 0, 0) ∧
        t.sage = s.sage ∧ t.reg (sgeA 0x8C) = min (s.reg (sgeA 0x8C) + 1) (2 ^ 32 - 1)) ∧
      (n < 16 → s.pkgIn u (f 1 1) (f 8 8) (f 0x10 8) = true → ∃ t, exec (.loadWeights p bad) s = .next t ∧
        let checks := ((s.fetch p (· == 0x18)).1.wStart (some s.host.nextNum) u (f 1 1) (f 8 8) (f 0x10 8) (f 0x18 8) bad).2
        (∀ st code, checks = .inr (st, code) → gives t (st, code, 0) ∧ t.sage = s.sage) ∧
        (∀ w, checks = .inl w → t.sage.loads = s.sage.loads ++ [w] ∧ w.next = 0 ∧ w.tenant = u ∧
          c ∈ t.host.cmds ∧ t.sage.weights = s.sage.weights ∧ t.tenants = s.tenants ∧ t.tile = s.tile))) ∧
    (f 0 1 = 1 → c.zero 0x41 3 = true → c.zero 0x46 58 = true →
      (s.sage.weights.find? (fun w => w.tenant == u && w.handle == f 4 2) = none →
        ∃ t, exec (.unloadWeights p) s = .next t ∧ gives t (1, 0x5D, 0) ∧ t.sage = s.sage ∧ t.mem = s.mem) ∧
      (∀ w, s.sage.weights.find? (fun w => w.tenant == u && w.handle == f 4 2) = some w →
        ∃ t, exec (.unloadWeights p) s = .next t ∧ gives t (0, 0, 0) ∧ t.sage = { s.sage with weights := s.sage.weights.erase w } ∧
          (∀ r, (t.region r).weight = true → (s.region r).weight = true) ∧ t.mem.cells = s.mem.cells ∧
          (∀ a, 0 < wBlocks w.header → s.devAddr w.tenant w.devOff = some a → (t.region (regionOf a)).weight = false)))) ∧
  (∀ (s : State) (i : Fin 256) (w : WLoad) (bad : List Nat), s.sage.loads[i.val]? = some w →
    let failsAs := fun (t : State) (s₁ : State) (status code : Nat) => t.sage.loads = s₁.sage.loads.erase w ∧
      t.reg (sgeA 0x8C) = min (s₁.reg (sgeA 0x8C) + 1) (2 ^ 32 - 1) ∧ t.sage.weights = s.sage.weights ∧
      ∀ n c, w.cmd = some n → s₁.host.cmds.find? (·.num == n) = some c → { c with result := some (status, code, 0) } ∈ t.host.cmds
    let fails := fun (t : State) (s₁ : State) (code : Nat) => failsAs t s₁ 1 code
    (s.wVersionsOk w.header = false → ∃ t, exec (.weightBlockLoad i bad) s = .next t ∧ fails t s 0x55) ∧
    (s.wVersionsOk w.header = true → s.wDebugOk w.header w.tenant = false →
      ∃ t, exec (.weightBlockLoad i bad) s = .next t ∧ fails t s 0x56) ∧
    (∀ s₁, s.wVersionsOk w.header = true → s.wDebugOk w.header w.tenant = true →
      s.pkgRead w.tenant w.kind w.src (fieldLe w.index (16 * w.next) 8) (fieldLe w.index (16 * w.next + 8) 4) bad = (s₁, none) →
      ∃ t, exec (.weightBlockLoad i bad) s = .next t ∧ failsAs t s₁ 5 0) ∧
    (∀ s₁ b, s.wVersionsOk w.header = true → s.wDebugOk w.header w.tenant = true →
      s.pkgRead w.tenant w.kind w.src (fieldLe w.index (16 * w.next) 8) (fieldLe w.index (16 * w.next + 8) 4) bad = (s₁, some b) →
      ∃ t, exec (.weightBlockLoad i bad) s = .next t ∧ (∀ code, wBlock w b = .inr code → fails t s₁ code) ∧
      (∀ data coded raw s₂, wBlock w b = .inl (data, coded, raw) →
        s₁.devWrite sageId w.tenant (w.devOff + 65536 * w.next) data = (s₂, true) →
        let w' := { w with next := w.next + 1, raw := w.raw ++ raw, coded := if coded then w.coded ++ [w.next] else w.coded }
        let l := s₂.sage.loads.map (fun x => if x = w then w' else x)
        (w.next + 1 ≠ wBlocks w.header → t = { s₂ with sage := { s₂.sage with loads := l } }) ∧
        (w.next + 1 = wBlocks w.header → sha3_256 (w.raw ++ raw) = slice w.header 0x48 32 →
          ∃ x, t.sage.weights = s₂.sage.weights ++ [x] ∧ t.sage.loads = l.erase w' ∧
            x.tenant = w.tenant ∧ x.devOff = w.devOff ∧ x.header = w.header ∧ x.leaseEnd = w.leaseEnd ∧ t.mem.cells = s₂.mem.cells ∧
            t.reg (sgeA 0x88) = min (s₂.reg (sgeA 0x88) + 1) (2 ^ 32 - 1)))))

/-! ## Start-up, settings and update (13) -/

/-- R6, R24, R362–R365: the release of internal reset starts module time at 0 with every step to come, keeping NAND, settings and
banks; step 1 runs the active bank, or the other one with a record, or the recovery responder; memories, every word of theirs
with a valid code, and NAND become ready, or a stack is fenced; step 3 takes the first configuration copy that it accepts; step 4 activates tenant 0; steps 5 and 6 end at their
waits with their FAILED bits; steps 7 and 8 release RB_N. -/
def Obligations.StartUpRunsItsSteps : Prop :=
  (∀ (s : State), s.start.held = true → s.start.dark = false → s.perstHolds = false →
    ∃ t, exec .internalResetRelease s = .next t ∧ t.start = {} ∧ t.timeNs = 0 ∧ t.cycle = 0 ∧ t.mem.cells = [] ∧
      t.mem.nand = s.mem.nand ∧ t.tile = [] ∧ t.tenants = [] ∧ t.nvs.copy0 = s.nvs.copy0 ∧ t.nvs.copy1 = s.nvs.copy1 ∧
      t.nvs.snapshots = s.nvs.snapshots ∧ t.upd.banks = s.upd.banks ∧ t.upd.copies = s.upd.copies ∧ t.sage.crates = s.sage.crates ∧
      t.pending = s.pending ∧ t.lease = s.sage.leaseStored % 2 ^ 64 ∧
      (∀ k c, s.nvs.defaults = false → s.nvs.newest = some (k, c) → t.reg (nvsA 8) = c.seq % 2 ^ 32) ∧
      (s.nvs.defaults = true → t.reg (nvsA 8) = 0)) ∧
  (∀ (s : State), s.starting = true →
    (s.stepDone? 1 = false → ∀ ok0 ok1 idOk : Bool, let ok := fun (b : Nat) => if b = 0 then ok0 else ok1
      let a := s.activeBank
      let good := (s.bankState a = 3 ∨ s.bankState a = 4) ∧ ok a = true
      let runs := fun (t : State) (b : Nat) => t.stepDone? 1 = true ∧ t.host.mctp = true ∧ t.upd.active = s.bank b ∧ t.activeBank = b ∧
        t.upd.trialFrom = (if s.bankState b = 3 then some s.cycle else none) ∧ t.mem = s.mem ∧ t.tenants = s.tenants
      (good → ∃ t, exec (.firmwareVerifyDone ok0 ok1 idOk) s = .next t ∧ runs t a ∧ t.sageState = (if idOk then 1 else 2) ∧
        t.reg (sgeA 0x18) = min (s.reg (sgeA 0x18) + 1) (2 ^ 32 - 1)) ∧
      (¬ good → s.bankState (1 - a) = 4 → ok (1 - a) = true → ∃ t, exec (.firmwareVerifyDone ok0 ok1 idOk) s = .next t ∧
        runs t (1 - a) ∧ t.bankState a = 5 ∧ t.rbit (modA 0x200) 21 = true) ∧
      (¬ good → (s.bankState (1 - a) ≠ 4 ∨ ok (1 - a) = false) → ∃ t, exec (.firmwareVerifyDone ok0 ok1 idOk) s = .next t ∧
        t.start.recovery = true ∧ t.fld (modA 0x200) 31 28 = 15 ∧ t.bankState a = 5)) ∧
    (s.stepDone? 1 = true →
      (∀ k : Fin 8, s.rbit (modA 0x100) k = false → s.stackFenced k = false →
        (∃ t, exec (.hbmTrainingDone k true) s = .next t ∧ t.rbit (modA 0x100) k = true ∧ t.stackFenced k = false ∧
          (∀ a, a ∉ [modA 0x100, modA 0x200, modA 0x220, modA 0x224] → t.reg a = s.reg a) ∧
          (∀ w, t.word w = if k.val * 0x60000000 ≤ w ∧ w < (k.val + 1) * 0x60000000 then {} else s.word w) ∧
          t = { s with regs := t.regs, start := t.start, mem := { s.mem with ecc := t.mem.ecc } }) ∧
        (∃ t, exec (.hbmTrainingDone k false) s = .next t ∧ t.rbit (modA 0x100) k = false ∧ t.stackFenced k = true)) ∧
      (s.rbit (modA 0x100) 16 = false → s.rbit (modA 0x200) 16 = false →
        (∃ t, exec (.lpddrTrainingDone true) s = .next t ∧ t.rbit (modA 0x100) 16 = true ∧
          (∀ a, a ∉ [modA 0x100, modA 0x200, modA 0x220, modA 0x224] → t.reg a = s.reg a) ∧
          (∀ w, t.word w = if 0x800000000 ≤ w ∧ w < 0xC00000000 then {} else s.word w) ∧
          t = { s with regs := t.regs, start := t.start, mem := { s.mem with ecc := t.mem.ecc } }) ∧
        (∃ t, exec (.lpddrTrainingDone false) s = .next t ∧ t.rbit (modA 0x200) 16 = true ∧ t.rbit (modA 0x100) 16 = false ∧
          t.log.regions = [])) ∧
      (∃ t, exec .nandReady s = .next t ∧ t.rbit (modA 0x100) 17 = true ∧
        (∀ a, a ∉ [modA 0x100, modA 0x200, modA 0x220, modA 0x224] → t.reg a = s.reg a) ∧
        t = { s with regs := t.regs, start := t.start }) ∧
      (s.stepDone? 3 = false → ∀ tags0 tags1 : Bool, let tags := fun (k : Nat) => if k = 0 then tags0 else tags1
        let a := s.fld (updA 8) 16 16
        ∃ t, exec (.configReadDone tags0 tags1) s = .next t ∧ t.stepDone? 3 = true ∧ t.start.step3At = s.cycle ∧
          (∀ b, s.cfgCopy a (tags a) = some b → t.sage.standing = b ∧ t.rbit (modA 0x200) 17 = s.rbit (modA 0x200) 17) ∧
          (∀ b, s.cfgCopy a (tags a) = none → s.cfgCopy (1 - a) (tags (1 - a)) = some b → t.sage.standing = b ∧
            t.rbit (modA 0x200) 17 = true) ∧
          (s.cfgCopy a (tags a) = none → s.cfgCopy (1 - a) (tags (1 - a)) = none → t.sage.standing = s.sage.standing ∧
            t.rbit (modA 0x200) 17 = true))) ∧
    (s.stepDone? 3 = true →
      (∀ bad, s.hbmSettled = true → s.rbit (modA 0x100) 17 = true → s.start.stage = 0 → s.rbit (modA 0x200) 16 = false →
        (s.activateErr 0 true = 0 → ∃ t, exec (.standingLoad bad) s = .next t ∧ t.start.stage ≠ 0 ∧
          ((t.tenant 0).state = .opening ∨ (t.tenant 0).state = .isOpen) ∧ (t.tenant 0).clusters = s.reg (tenA 0 4)) ∧
        (s.activateErr 0 true ≠ 0 → ∃ t, exec (.standingLoad bad) s = .next t ∧ t.stepDone? 4 = true ∧
          t.rbit (modA 0x200) 17 = true ∧ t.tenants = s.tenants)) ∧
      (s.stepDone? 5 = false → let wait := s.start.step3At + s.fld (nvsA 0x10) 15 0 * cyclesPerSecond
        (s.rbit (rngA 0) 31 = false → ∃ t, exec .joinWaitExpiry s = .next t ∧ t.stepDone? 5 = true ∧
          t.rbit (modA 0x200) 19 = s.rbit (modA 0x200) 19 ∧ t = { s with regs := t.regs, start := t.start }) ∧
        (s.rbit (rngA 0) 31 = true → wait ≤ s.cycle → ∃ t, exec .joinWaitExpiry s = .next t ∧ t.stepDone? 5 = true ∧
          t.rbit (modA 0x200) 19 = true ∧ t = { s with regs := t.regs, start := t.start }) ∧
        (s.rbit (rngA 0) 31 = true → s.cycle < wait → exec .joinWaitExpiry s = .next s)) ∧
      (s.stepDone? 6 = false → s.start.step3At + s.fld (nvsA 0x10) 31 16 * cyclesPerSecond ≤ s.cycle →
        ∃ t, exec .lockWaitExpiry s = .next t ∧ t.stepDone? 6 = true ∧ t.rbit (modA 0x200) 20 = true ∧
          (∀ f < 64, s.flowEn f = true → s.flowBound f = true → s.flowForced f = false → t.flowForced f = true ∧ t.flowReason f = 2) ∧
          t = { s with regs := t.regs, start := t.start, fp1 := t.fp1, mem := t.mem, freeCtr := t.freeCtr
                       sorrel := { s.sorrel with presented := t.sorrel.presented } }) ∧
      (s.stepDone? 4 = true → s.stepDone? 5 = true → s.stepDone? 6 = true → s.stepDone? 7 = false → (s.tenant 0).state ≠ .opening →
        ∃ t, exec .pipelineStart s = .next t ∧ t.stepDone? 7 = true ∧ t.stepDone? 8 = true ∧ t.host.released = true ∧
          ∀ p < 4, t.rbit (pciA p 4) 31 = (t.portActive p && t.rbReason p == 0))))

/-- R324, R327, R369–R371, R376, R397: a TRIAL bank that has not ended step 3 within 30 s, or whose watchdog expires, becomes BAD and
the module resets; after 600 s it is GOOD, each floor is at least its component's and a bank below a floor is STALE; a module reset by a management function forces
every flow with REASON 4, floats RB_N high, ends every tenant, stores LEASE_CLOCK while firmware runs, and holds internal reset. STORE latches the settings
and sets BUSY, and is refused while it is set; its end writes them to the copy that is not in force under the next SEQ, or tells the
failure and leaves that copy invalid; DISCARD returns the settings to the copy in force; DEFAULTS marks both copies to be ignored; a
counter snapshot is written each period, the last 16 being kept. That a failed store leaves its copy invalid is the model's choice
(log entry 149). -/
def Obligations.TrialBanksResetsAndStores : Prop :=
  (∀ (s : State),
     let resets := fun (t : State) => t.start.held = true ∧ t.host.resetPending = true ∧
       (∀ p < 4, t.rbit (pciA p 4) 31 = false) ∧ (∀ f < 64, s.flowForced f = false → t.flowForced f = true ∧ t.flowReason f = 4) ∧
       t.nvs.copy0 = s.nvs.copy0 ∧ t.nvs.copy1 = s.nvs.copy1 ∧ t.upd.banks = s.upd.banks ∧ t.tenants = [] ∧ t.job = {}
     (s.starting = true → s.onTrial = true →
       (s.stepDone? 3 = false →
         (30 * cyclesPerSecond ≤ s.cycle → ∃ t, exec .trialStartTimeout s = .next t ∧ t.bankState s.activeBank = 5 ∧ resets t) ∧
         (s.cycle < 30 * cyclesPerSecond → exec .trialStartTimeout s = .next s)) ∧
       (∃ t, exec .firmwareWatchdogExpiry s = .next t ∧ t.bankState s.activeBank = 5 ∧ resets t) ∧
       (∀ c, s.upd.trialFrom = some c →
         (s.cycle < c + 600 * cyclesPerSecond → exec .trialGood s = .next s) ∧
         (c + 600 * cyclesPerSecond ≤ s.cycle → (∀ i < 7, (s.upd.active.getD i {}).svn < 2 ^ 32) → ∃ t, exec .trialGood s = .next t ∧
           t.bankState s.activeBank = 4 ∧ (let o := 1 - s.activeBank
             t.bankState o = (if (List.range (s.bank o).length).any (fun i =>
               decide (((s.bank o).getD i {}).svn < t.reg (updA (0x120 + 4 * i)))) then 6 else s.bankState o)) ∧ t.upd.trialFrom = none ∧ t.updState = 0 ∧
           (∀ i < 7, t.reg (updA (0x120 + 4 * i)) = max (s.reg (updA (0x120 + 4 * i))) (s.upd.active.getD i {}).svn) ∧
           (∀ a, a ∉ [updA 0, updA 8] → (∀ i < 7, a ≠ updA (0x120 + 4 * i)) → t.reg a = s.reg a) ∧
           t = { s with regs := t.regs, upd := t.upd }))) ∧
     (∀ ini, (isMgmtFn ini = true → s.start.held = false → s.start.dark = false → ∃ t, exec (.moduleReset ini) s = .next t ∧ resets t ∧
         t.sage = (if s.fwRuns then { s.sage with leaseStored := s.lease, leaseStoredAt := s.timeNs } else s.sage) ∧
         t.nvs.snapshots.length = (if s.fwRuns then min 16 (s.nvs.snapshots.length + 1) else s.nvs.snapshots.length)) ∧
       (isMgmtFn ini = false → exec (.moduleReset ini) s = .next s))) ∧
  (∀ (s : State),
     let shot := fun (t u : State) => t = { u with regs := t.regs, mem := t.mem, freeCtr := t.freeCtr
                                                   sorrel := { u.sorrel with presented := t.sorrel.presented } }
     (∀ ini, isMgmt ini = true → s.consentBar ini (nvsA 0) = false →
       (s.nvs.storing = none → ∃ t, exec (.nvsStore ini) s = .next t ∧ t.nvs.storing = some s.rwpRecs ∧ t.rbit (nvsA 4) 31 = true ∧
         t.nvs.copy0 = s.nvs.copy0 ∧ t.nvs.copy1 = s.nvs.copy1 ∧ t.reg (nvsA 0x18) = min (s.reg (nvsA 0x18) + 1) (2 ^ 32 - 1) ∧
         (∀ a, a ∉ [nvsA 4, nvsA 0x18, srlA 0x40, srlA 0x44] → t.reg a = s.reg a) ∧ shot t { s with nvs := t.nvs, resp := .ok 0 }) ∧
       (∀ recs, s.nvs.storing = some recs → ∃ t, exec (.nvsStore ini) s = .next t ∧ t.rbit (nvsA 4) 30 = true ∧
         (∀ a, a ≠ nvsA 4 → t.reg a = s.reg a) ∧ t = { s with regs := t.regs, resp := .ok 0 }) ∧
       (∃ t, exec (.nvsDefaults ini) s = .next t ∧ t.rbit (nvsA 4) 27 = true ∧ (∀ a, a ≠ nvsA 4 → t.reg a = s.reg a) ∧
         t = { s with regs := t.regs, nvs := { s.nvs with defaults := true }, resp := .ok 0 }) ∧
       (∃ t, exec (.nvsDiscard ini) s = .next t ∧ t.nvs = s.nvs ∧
         ((∀ u < 16, (s.tdi u).isLocked = false) → ∀ w ∈ rwpWords, fptA 0 ≤ w.1 → w.1 < fptA 0x2000 →
           t.reg w.1 = (s.reg w.1 &&& (0xFFFFFFFF - w.2)) + rwpValue (match s.nvs.newest with | some (_, c) => c.recs | none => []) w))) ∧
     (∀ recs, s.nvs.storing = some recs →
       let into := fun (t : State) (one : Bool) (x : Option NvsCopy) =>
         t.nvs = (if one then { s.nvs with storing := none, copy1 := x } else { s.nvs with storing := none, copy0 := x })
       let one := match s.nvs.newest with | some (k, _) => k == 0 | none => false
       let seq := match s.nvs.newest with | some (_, c) => (c.seq + 1) % 2 ^ 32 | none => 1
       (∃ t, exec (.nvsStoreDone true) s = .next t ∧ into t one (some ⟨seq, recs⟩) ∧ t.rbit (nvsA 4) 31 = false ∧
         t.reg (nvsA 8) = seq ∧ t.reg (nvsA 0xC) = min (s.reg (nvsA 0xC) + 1) (2 ^ 32 - 1) ∧
         (∀ a, a ∉ [nvsA 4, nvsA 8, nvsA 0xC] → t.reg a = s.reg a) ∧ t = { s with regs := t.regs, nvs := t.nvs }) ∧
       (∃ t, exec (.nvsStoreDone false) s = .next t ∧ into t one none ∧ t.rbit (nvsA 4) 31 = false ∧ t.rbit (nvsA 4) 29 = true ∧
         (∀ a, a ≠ nvsA 4 → t.reg a = s.reg a) ∧ t = { s with regs := t.regs, nvs := t.nvs })) ∧
     (let due := s.nvs.lastSnap + s.reg (nvsA 0x14) * cyclesPerSecond
      (s.fwRuns = true → due ≤ s.cycle → ∃ t b, exec .counterSnapshot s = .next t ∧ b = s.counterSnapshot 0 ∧
         t.nvs.snapshots.getLast? = some b ∧ t.nvs.snapshots.length = min 16 (s.nvs.snapshots.length + 1) ∧ t.nvs.lastSnap = s.cycle ∧
         t.reg (nvsA 0x18) = min (s.reg (nvsA 0x18) + 1) (2 ^ 32 - 1) ∧ (∀ a, a ∉ [nvsA 0x18, srlA 0x40, srlA 0x44] → t.reg a = s.reg a) ∧
         shot t { s with nvs := t.nvs }) ∧
      (s.fwRuns = false ∨ s.cycle < due → exec .counterSnapshot s = .next s)))

/-- R372–R378: a block of a package is kept where its digest agrees and else refused with 0x67; END refuses a package whose
signature does not verify with 0x63, with blocks missing with 0x68, with a tag that fails with 0x69, with a component whose digest
differs with 0x6A, and else starts the write of the inactive bank; staging marks it STAGED, or ERR takes 0x6C; ARM needs STATE 3 and a
point 100 ms ahead, DISARM comes before the point; at the point activation begins, component by component, each running its new
image, the last leaving the new bank in TRIAL; a failed check or an overrun limit rolls all back with 0x6E. -/
def Obligations.UpdatesStageArmAndSwitch : Prop :=
  ∀ (s : State) (p : Fin 5), s.updUp p = true →
    let tells := fun (t : State) (k : String) (code : Nat) => t.sent = s.sent ++ [.reply k p [BitVec.ofNat 8 code]]
    let refused := fun (t : State) (k : String) (code : Nat) => tells t k code ∧ t.fld (updA 0) 27 20 = code ∧
      (∀ a, a ≠ updA 0 → t.reg a = s.reg a) ∧ t.updState = s.updState ∧ t = { s with regs := t.regs, sent := t.sent }
    let b := s.pkPrefix
    let rolled := fun (t : State) => t.updState = 0 ∧ t.fld (updA 0) 27 20 = 0x6E ∧ t.fld (updA 0) 19 16 = 0 ∧ t.upd.todo = [] ∧
      t.upd.switched = [] ∧ t.bankState (1 - s.activeBank) = 5 ∧ t.activeBank = s.activeBank
    (∀ (i : Nat) (d : List Byte), d.length = 65536 →
      (s.updState ≠ 0 → s.updState ≠ 1 → s.updState ≠ 3 → ∃ t, exec (.updatePut p i d) s = .next t ∧ refused t "UPDATE_PUT" 0x6B) ∧
      (s.updState = 1 → s.upd.key ≠ [] → pkUnits b ≤ i → i < pkUnits b + pkBlocks b → tabGet [] s.upd.units i = [] →
        ∃ t, exec (.updatePut p i d) s = .next t ∧
          (sha3_256 d = slice (pkDigest b (i - pkUnits b)) 0 32 → tells t "UPDATE_PUT" 0 ∧
            tabGet [] t.upd.units i = d ∧ (∀ j, j ≠ i → tabGet [] t.upd.units j = tabGet [] s.upd.units j) ∧
            (∀ a, a ≠ updA 0x18 → t.reg a = s.reg a) ∧ t = { s with regs := t.regs, upd := t.upd, sent := t.sent }) ∧
          (sha3_256 d ≠ slice (pkDigest b (i - pkUnits b)) 0 32 → tells t "UPDATE_PUT" 0x67 ∧
            t.fld (updA 0) 27 20 = 0x67 ∧ t.reg (updA 0x44) = min (s.reg (updA 0x44) + 1) (2 ^ 32 - 1) ∧ t.upd = s.upd))) ∧
    (s.updState = 1 → s.upd.key ≠ [] →
      let refusedWith := fun (t : State) (code : Nat) => tells t "UPDATE_END" code ∧ t.fld (updA 0) 27 20 = code ∧ t.upd.units = [] ∧
        t.upd.banks = s.upd.banks
      ((∃ i < pkBlocks b, tabGet [] s.upd.units (pkUnits b + i) = []) → ∃ t, exec (.updateEnd p) s = .next t ∧
        refusedWith t (if pkSigned b then 0x68 else 0x63)) ∧
      ((∀ i < pkBlocks b, tabGet [] s.upd.units (pkUnits b + i) ≠ []) → pkKind b = 0 → ∃ t, exec (.updateEnd p) s = .next t ∧
        (pkSigned b = false → refusedWith t 0x63) ∧
        (pkSigned b = true → (∃ i < pkBlocks b, s.pkPlain b i = none) → refusedWith t 0x69) ∧
        (pkSigned b = true → (∀ i < pkBlocks b, s.pkPlain b i ≠ none) →
          (s.pkImages b (pkEntries b) = none → refusedWith t 0x6A) ∧
          (∀ l, s.pkImages b (pkEntries b) = some l → tells t "UPDATE_END" 0 ∧ t.updState = 2 ∧
            t.bankState (1 - s.activeBank) = 1 ∧ t.upd.newBank = l.foldl (fun cs e => setComp cs e.1 e.2) s.installed)))) ∧
    (s.updState = 2 →
      (pkKind b = 0 → ∃ t, exec (.stagingDone true) s = .next t ∧ t.updState = 3 ∧ t.bankState (1 - s.activeBank) = 2 ∧
        t.bank (1 - s.activeBank) = s.upd.newBank ∧ t.upd.stagedId = leNat (pkId b) ∧
        t.reg (updA 0x40) = min (s.reg (updA 0x40) + 1) (2 ^ 32 - 1)) ∧
      (∃ t, exec (.stagingDone false) s = .next t ∧ t.fld (updA 0) 27 20 = 0x6C ∧ t.upd.units = [] ∧ t.upd.banks = s.upd.banks ∧
        (pkKind b = 0 → t.bankState (1 - s.activeBank) = 5))) ∧
    (∀ (ticket : Word) (at_ : BitVec 64),
      (s.updState ≠ 3 → ∃ t, exec (.updateArm p ticket 0 false at_) s = .next t ∧ refused t "UPDATE_ARM" 0x6B) ∧
      (s.updState = 3 → at_.toNat < s.timeNs + 100000000 → ∃ t, exec (.updateArm p ticket 0 false at_) s = .next t ∧
        refused t "UPDATE_ARM" 0x6D) ∧
      (s.updState = 3 → s.timeNs + 100000000 ≤ at_.toNat → ∃ t, exec (.updateArm p ticket 0 false at_) s = .next t ∧
        tells t "UPDATE_ARM" 0 ∧ t.updState = 4 ∧ t.upd.arm = some { kind := 0, ticket := ticket.toNat, point := at_.toNat } ∧
        t.reg (updA 0xC) = ticket.toNat ∧ t.reg64 (updA 0x10) = at_.toNat ∧
        (∀ a, a ∉ [updA 0, updA 0xC, updA 0x10, updA 0x14] → t.reg a = s.reg a) ∧
        t = { s with regs := t.regs, sent := t.sent, upd := { s.upd with arm := t.upd.arm } })) ∧
    (s.updState = 4 ∧ s.armReached = false → ∃ t, exec (.updateDisarm (.port p)) s = .next t ∧ tells t "UPDATE_DISARM" 0 ∧
      t.updState = 3 ∧ t.upd.arm = none ∧ t.reg64 (updA 0x10) = 0) ∧
    (s.updState ≠ 4 ∨ s.armReached = true → ∃ t, exec (.updateDisarm (.port p)) s = .next t ∧ refused t "UPDATE_DISARM" 0x6B) ∧
    (s.updState = 1 → ∃ t, exec (.updateAbort (.port p)) s = .next t ∧ tells t "UPDATE_ABORT" 0 ∧ t.upd.units = [] ∧ t.upd.key = [] ∧
      t.updState = (if s.upd.stagedComps = [] then 0 else 3)) ∧
    (s.updState = 2 → ∃ t, exec (.updateAbort (.port p)) s = .next t ∧ tells t "UPDATE_ABORT" 0 ∧ t.upd.units = [] ∧ t.upd.key = [] ∧
      (pkKind b = 0 → t.bankState (1 - s.activeBank) = 5)) ∧
    (s.updState ≠ 1 → s.updState ≠ 2 → ∃ t, exec (.updateAbort (.port p)) s = .next t ∧ refused t "UPDATE_ABORT" 0x6B) ∧
    (∃ t, exec (.updateStatus p) s = .next t ∧ t = { s with sent := t.sent } ∧ t.sent = s.sent ++ [.reply "UPDATE_STATUS" p
      (natLe 1 0 ++ natLe 4 (s.reg (updA 0)) ++ natLe 4 (s.reg (updA 8)) ++ natLe 4 (s.reg (updA 0x18)))]) ∧
    (∀ m, s.upd.arm = some m → m.kind = 0 → s.updState = 4 →
      (m.point ≤ s.timeNs → s.upd.stagedKind ≠ 1 → ∃ t, exec .activationPoint s = .next t ∧ t.updState = 5 ∧ t.upd.arm = none ∧
        t.upd.todo = activationOrder s.upd.stagedComps ∧ t.upd.switched = [] ∧ t.upd.since = s.cycle) ∧
      (m.point ≤ s.timeNs → s.upd.stagedKind = 1 → s.start.held = false → s.start.dark = false →
        ∃ t, exec .activationPoint s = .next t ∧ t.updState = 0 ∧ t.upd.arm = none ∧ t.start.held = true ∧
          t.fld (updA 8) 16 16 = 1 - s.fld (updA 8) 16 16) ∧
      (s.timeNs < m.point → exec .activationPoint s = .next s)) ∧
    (∀ i rest, s.upd.todo = i :: rest → 1 ≤ i → i ≤ 7 → s.updState = 5 →
      (s.maySwitch i = true →
        (rest ≠ [] → ∃ t, exec (.componentSwitch true) s = .next t ∧ t.updState = 5 ∧ t.upd.todo = rest ∧
          t.upd.active.getD (i - 1) {} = (s.bank (1 - s.activeBank)).getD (i - 1) {} ∧ t.upd.since = s.cycle) ∧
        (rest = [] → ∃ t, exec (.componentSwitch true) s = .next t ∧ t.updState = 6 ∧ t.activeBank = 1 - s.activeBank ∧
          t.bankState (1 - s.activeBank) = 3 ∧ t.upd.trialFrom = some s.cycle ∧
          t.upd.active.getD (i - 1) {} = (s.bank (1 - s.activeBank)).getD (i - 1) {}) ∧
        (∃ t, exec (.componentSwitch false) s = .next t ∧ rolled t)) ∧
      (∀ n, s.switchLimit i = some n →
        (s.upd.since + n < s.cycle → ∃ t, exec .activationLimitExpiry s = .next t ∧ rolled t) ∧
        (s.cycle ≤ s.upd.since + n → exec .activationLimitExpiry s = .next s)))

/-! ## Sorrel and Dill (14) -/

/-- R381–R393: the first presented error is counted under its class, escalated once or twice where its slot is held, captured with
its SEQ, class, source and unit in the free slot (or counted as lost where class F is held), and keeps its class degraded for QUIET_S;
classes U and F raise the owner's attention; class F starts the FAULT_N pulse, fences the unit that holds the error and forces its
flows with REASON 3. Which flows a hub error forces is the model's reading (log entry 163). -/
def Obligations.ErrorsAreClassifiedAndCaptured : Prop :=
  ∀ (s : State) (x : Nat × ErrEv) (det : Nat), firstErr s.sorrel.presented = some x → x.1 ≤ s.cycle →
    s.sorrel.lastClass ≠ some s.cycle → sourceClass x.2.source = some det →
    let e := x.2
    let becomes := fun (t : State) (cls steps : Nat) => exec .errorClassify s = .next t ∧
      t.reg (srlA (0x20 + 4 * cls)) = min (s.reg (srlA (0x20 + 4 * cls)) + 1) (2 ^ 32 - 1) ∧
      t.reg (srlA 0x2C) = min (s.reg (srlA 0x2C) + steps) (2 ^ 32 - 1) ∧ t.sorrel.seq = s.sorrel.seq + 1 ∧
      t.sorrel.lastClass = some s.cycle ∧ t.errHeld cls = true ∧
      t.sorrel.quiet cls = some (s.cycle + s.reg (srlA 4) * 1100000000) ∧
      (s.errHeld cls = false → t.reg (srlB (0x40 * cls)) = s.sorrel.seq % 2 ^ 32 ∧ t.fld (srlB (0x40 * cls + 4)) 1 0 = cls ∧
        t.fld (srlB (0x40 * cls + 4)) 3 2 = det ∧ t.fld (srlB (0x40 * cls + 0x10)) 7 0 = e.source % 256 ∧
        (cls = 2 → unitOk (s.errUnit e) = true → t.fld (srlB (0x40 * cls + 0x10)) 31 16 = s.errUnit e % 2 ^ 16)) ∧
      (1 ≤ cls → ∀ u, s.iniTenant e.initiator = some u → 1 ≤ u → u < 16 → t.rbit (fnA u 0x20) 2 = true) ∧
      (cls = 2 → t.sorrel.pulseEnd = some (s.cycle + 1100000) ∧ (s.fwRuns = true → t.rbit (srlA 0) 0 = true) ∧
        (unitOk (s.errUnit e) = true → t.sorrel.fenced.contains (s.errUnit e) = true) ∧
        ∀ f < 64, s.forcesFlow (s.errUnit e) e.initiator f = true → s.flowForced f = false →
          t.flowForced f = true ∧ t.flowReason f = 3)
    (det = 0 → s.errHeld 0 = false → ∃ t, becomes t 0 0) ∧
    (det = 0 → s.errHeld 0 = true → s.errHeld 1 = false → ∃ t, becomes t 1 1) ∧
    (det = 0 → s.errHeld 0 = true → s.errHeld 1 = true → ∃ t, becomes t 2 2) ∧
    (det = 1 → s.errHeld 1 = true → ∃ t, becomes t 2 1) ∧
    (det = 1 → s.errHeld 1 = false → ∃ t, becomes t 1 0 ∧ t.sorrel.presented = s.sorrel.presented.erase x ∧
      (s.rbit (dilA 0) 31 = false → (∀ a, a ∉ [srlA 0x24, srlA 0x38] → (a < srlB 0x40 ∨ srlB 0x80 ≤ a) → a ≠ srlB 0xC0 →
        (∀ u < 16, a ≠ fnA u 0x20) → t.reg a = s.reg a) ∧ t = { s with regs := t.regs, sorrel := t.sorrel, sent := t.sent, job := t.job })) ∧
    (det = 2 → ∃ t, becomes t 2 0 ∧ (s.errHeld 2 = true → t.reg (srlA 0x30) = min (s.reg (srlA 0x30) + 1) (2 ^ 32 - 1) ∧
      ∀ i < 16, t.reg (srlB (0x80 + 4 * i)) = s.reg (srlB (0x80 + 4 * i))))

/-- R386, R387, R390, R393: the hardware FAULT_N pulse ends in its time; an acknowledgement by a management core drains the held
record and frees its slot at the end of the cycle; a core's KICK sets its own watchdog 50 ms ahead, one that expires is presented once
as SOURCE 0x31; a new second starts a new storm window; a class quiet for QUIET_S leaves its degraded state and RECOV counts it. That
the end of the cycle is the next step on an empty queue is the model's choice (log entry 1). -/
def Obligations.AcknowledgeWatchdogsAndRecovery : Prop :=
  (∀ (s : State) (c : Nat), s.sorrel.pulseEnd = some c →
    (c ≤ s.cycle → exec .faultNPulseEnd s = .next { s with sorrel := { s.sorrel with pulseEnd := none } }) ∧
    (s.cycle < c → exec .faultNPulseEnd s = .next s)) ∧
  (∀ (s : State) (ini c : Nat) (v : Word), c < 3 → v.toNat = 2 ^ c → s.errHeld c = true → s.sorrel.acking = 0 →
    (isMgmtCore ini = true → ∃ t, exec (.srlAckWrite ini v) s = .next t ∧ t.sorrel.stored = s.sorrel.stored + 1 ∧
      t.reg (srlA 0x14) = s.reg (srlB (0x40 * c)) ∧ bit t.sorrel.acking c = true ∧ t.errHeld c = true ∧
      (∀ a, a ∉ [srlA 0x14, srlA 0x40, srlA 0x44] → t.reg a = s.reg a) ∧ (s.mem.ecc = [] →
        t.hubRead (hubId 0) (0x480000 + s.sorrel.stored % 4096 * 64) 64 = natLe 64 (s.regWords (srlB (0x40 * c)) 16) ∧
        t = { s with regs := t.regs, mem := { s.mem with cells := t.mem.cells }, resp := .ok 0, sorrel := { s.sorrel with
          stored := s.sorrel.stored + 1, acking := t.sorrel.acking } })) ∧
    (isMgmtFn ini = true → s.consentBar ini (srlB 0xC0) = false → ∃ t, exec (.srlAckWrite ini v) s = .next t ∧
      bit t.sorrel.acking c = true ∧ t = { s with sorrel := { s.sorrel with acking := t.sorrel.acking }, resp := .ok 0 })) ∧
  (∀ (s : State), s.pending = [] → ∃ t, step s = .next t ∧ (∀ c < 3, t.errHeld c = (s.errHeld c && !bit s.sorrel.acking c)) ∧
    t.sorrel.acking = 0) ∧
  (∀ (s : State) (v : Word),
    (bit v.toNat 0 = true → exec (.srlWdogKick (hubId 0) v) s =
      .next { s with resp := .ok 0, sorrel := { s.sorrel with wdog0 := { deadline := s.cycle + 55000000, expired := false } } }) ∧
    (bit v.toNat 1 = true → exec (.srlWdogKick (hubId 1) v) s =
      .next { s with resp := .ok 0, sorrel := { s.sorrel with wdog1 := { deadline := s.cycle + 55000000, expired := false } } })) ∧
  (∀ (s : State), s.stepDone? 1 = true → s.sorrel.wdog0.expired = false →
    (s.sorrel.wdog0.deadline ≤ s.cycle → ∃ t, exec (.mgmtWatchdogExpiry 0) s = .next t ∧ t = { s with sorrel := { s.sorrel with
      wdog0 := { s.sorrel.wdog0 with expired := true }
      presented := s.sorrel.presented ++ [(s.cycle, ⟨0x31, 10, hubId 0, 5, 0, 0, 0xFFFF⟩)] } }) ∧
    (s.cycle < s.sorrel.wdog0.deadline → exec (.mgmtWatchdogExpiry 0) s = .next s)) ∧
  (∀ (s : State), (s.timeNs / 1000000000 ≠ s.sorrel.window → exec .stormWindowStart s = .next { s with sorrel := { s.sorrel with
      window := s.timeNs / 1000000000, stormCount := 0, stormDone := false } }) ∧
    (s.timeNs / 1000000000 = s.sorrel.window → exec .stormWindowStart s = .next s)) ∧
  (∀ (s : State) (c : Fin 3) (q : Nat), s.sorrel.quiet c = some q →
    (s.cycle ≤ q → exec (.degradedExit c) s = .next s) ∧
    (q < s.cycle → ∃ t, exec (.degradedExit c) s = .next t ∧ t.sorrel.quiet c = none ∧
      (c = 0 → t.fld (srlA 0x38) 15 0 = min (s.fld (srlA 0x38) 15 0 + 1) 0xFFFF) ∧
      (c = 1 → t.fld (srlA 0x38) 31 16 = min (s.fld (srlA 0x38) 31 16 + 1) 0xFFFF) ∧
      (c = 2 → t.fld (srlA 0x3C) 15 0 = min (s.fld (srlA 0x3C) 15 0 + 1) 0xFFFF ∧ (s.fwRuns = true → t.rbit (srlA 0) 0 = false)) ∧
      (∀ a, a ∉ [srlA 0, srlA 0x38, srlA 0x3C] → t.reg a = s.reg a) ∧ t = { s with regs := t.regs, sorrel := t.sorrel }))

/-- R399–R401, R405: with Dill enabled a management write and an expired period each trigger a snapshot 64 cycles ahead; the latch
gives the snapshot the next SNAP_SEQ and its trigger's code, or drops it while one is being copied; the copy fills staging slot
SNAP_SEQ mod 4 and shows it as NEWEST; a checkpoint that is written counts and signals CKPT_OBJ, one that fails counts in DROPPED.
That a failed checkpoint counts in DROPPED is the model's choice (log entry 167). -/
def Obligations.SnapshotsLatchCopyAndCheckpoints : Prop :=
  (∀ (s : State) (ini : Nat) (v : Word), isMgmt ini = true → s.consentBar ini (dilA 8) = false →
    (s.rbit (dilA 0) 31 = true → s.rbit (dilA 0) 29 = false → exec (.dilTriggerWrite ini v) s = .next { s with resp := .ok 0, dill :=
      { s.dill with trigs := s.dill.trigs ++ [⟨3, v.toNat % 65536, 0xFFFFFFFF, false, s.cycle + 64⟩] } }) ∧
    (s.rbit (dilA 0) 31 = false → exec (.dilTriggerWrite ini v) s = .next { s with resp := .ok 0 })) ∧
  (∀ (s : State), let p := s.reg (dilA 4) * 1000000
    (0 < p → s.dill.timerFrom + p ≤ s.timeNs → s.rbit (dilA 0) 31 = true → s.rbit (dilA 0) 29 = false →
      exec .dilTimerExpiry s = .next { s with dill := { s.dill with timerFrom := s.dill.timerFrom + p
                                                                    trigs := s.dill.trigs ++ [⟨5, 0, 0xFFFFFFFF, false, s.cycle + 64⟩] } }) ∧
    (p = 0 ∨ s.timeNs < s.dill.timerFrom + p → exec .dilTimerExpiry s = .next s)) ∧
  (∀ (s : State) (x : Trigger), s.dill.trigs.find? s.latchDue = some x →
    (s.dill.copying = none → ∃ t b, exec .snapshotLatch s = .next t ∧ b = s.snapshotBytes x ∧ fieldLe b 8 8 = s.dill.nextSeq % 2 ^ 64 ∧
      fieldLe b 6 1 = x.code % 256 ∧ fieldLe b 0x18 8 = s.cycle % 2 ^ 64 ∧ fieldLe b 0x20 8 = s.timeNs % 2 ^ 64 ∧
      t.dill = { s.dill with trigs := s.dill.trigs.erase x, copying := some b, nextSeq := s.dill.nextSeq + 1 } ∧
      t.rbit (dilA 0xC) 31 = true ∧ (∀ a, a ≠ dilA 0xC → t.reg a = s.reg a) ∧ t = { s with regs := t.regs, dill := t.dill }) ∧
    (s.dill.copying ≠ none → ∃ t, exec .snapshotLatch s = .next t ∧ t.dill = { s.dill with trigs := s.dill.trigs.erase x } ∧
      t.reg (dilA 0x24) = min (s.reg (dilA 0x24) + 1) (2 ^ 32 - 1) ∧ (∀ a, a ≠ dilA 0x24 → t.reg a = s.reg a) ∧
      t = { s with regs := t.regs, dill := t.dill })) ∧
  (∀ (s : State) (b : List Byte), s.dill.copying = some b →
    let n := fieldLe b 8 8
    let base := hubBase + 0x4C0000 + n % 4 * 0x100000
    ∃ t, exec .snapshotCopyDone s = .next t ∧ t.dill = { s.dill with copying := none } ∧
      t.reg (dilA 0xC) = n % 4 ∧ t.reg64 (dilA 0x10) = n ∧ t.reg (dilA 0x20) = min (s.reg (dilA 0x20) + 1) (2 ^ 32 - 1) ∧
      (∀ a, a ∉ [dilA 0xC, dilA 0x10, dilA 0x14, dilA 0x20, srlA 0x40, srlA 0x44] → t.reg a = s.reg a) ∧ (s.mem.ecc = [] →
        (∀ i, i < b.length → i < 0x100000 → tabGet 0 t.mem.cells (base + i) = b.getD i 0) ∧
        (∀ a, (a < base ∨ base + min b.length 0x100000 ≤ a) → tabGet 0 t.mem.cells a = tabGet 0 s.mem.cells a) ∧
        t = { s with regs := t.regs, dill := t.dill, mem := { s.mem with cells := t.mem.cells } })) ∧
  (∀ (s s₁ : State) (c : Checkpoint) (l : List Checkpoint), s.dill.ckpts = c :: l →
    let s₀ := { s with dill := { s.dill with ckpts := l } }
    (s₀.readRegions (s.ckptRegions c.pipe) = (s₁, none) → ∃ t, exec .checkpointDone s = .next t ∧ t.dill.ckpts = s₁.dill.ckpts ∧
      t.reg (dilA 0x24) = min (s₁.reg (dilA 0x24) + 1) (2 ^ 32 - 1) ∧ (∀ a, a ≠ dilA 0x24 → t.reg a = s₁.reg a) ∧
      t = { s₁ with regs := t.regs }) ∧
    (∀ data s₂ ok, s₀.readRegions (s.ckptRegions c.pipe) = (s₁, some data) →
      let size := s.reg (dilA 0x48)
      let base := s.reg64 (dilA 0x40) % 2 ^ 48 + (c.pipe * 2 + s.reg (dilA 0x28) % 2) * size
      let entries := (s₁.ckptEntries c.pipe).flatMap (fun r => natLe 16 (s₁.regWords (dilA (0x100 + 0x10 * r)) 4))
      s₁.devWrite hubDmaId 0 base (c.header (s.ckptRegions c.pipe) data ++ entries ++ data) = (s₂, ok) →
      (ok = false → ∃ t, exec .checkpointDone s = .next t ∧ t.reg (dilA 0x24) = min (s₂.reg (dilA 0x24) + 1) (2 ^ 32 - 1) ∧
        (∀ a, a ≠ dilA 0x24 → t.reg a = s₂.reg a) ∧ t = { s₂ with regs := t.regs }) ∧
      (ok = true → ∃ t, exec .checkpointDone s = .next t ∧ t.reg (dilA 0x28) = min (s₂.reg (dilA 0x28) + 1) (2 ^ 32 - 1) ∧
        t.sync.inflight = s₂.sync.inflight ++ [⟨t.reg (dilA 0x4C) % 2 ^ 18, 1, hubDmaId, false, 0⟩] ∧
        (∀ a, a ≠ dilA 0x28 → t.reg a = s₂.reg a) ∧ t = { s₂ with regs := t.regs, sync := t.sync })))

/-! ## Power, cooling and field service (15) -/

/-- R409–R418: a due sample shows every sensor and the hottest of each domain, excludes readings outside −40 to 150 °C, starts a clamp
where COOL_OK is false (levels at least 12, B 2) and holds a hot die at level 15; COOL_OK is taken by the samples; an input sample keeps
the energies, raises levels to 8 above 2,100 W and begins a limiter hold; a due period updates R̂, shows P, and moves each die's
throttle by the largest demand or one step back; the baseline is the mean of R̂; a clamp whose release condition is met
within 5 s is released, any other becomes CAUSE 1 then, once. -/
def Obligations.SensorsClampAndGovernor : Prop :=
  (∀ (s : State) (temps : List (BitVec 16)) (powers : List Nat), s.alive = true →
    let now := s.timeNs / 1000000
    let ts := (List.range sensorCount).map (fun i => (temps.getD i 0).toInt)
    (now ≤ s.power.lastSensor → exec (.sensorSample temps powers) s = .next s) ∧
    (s.power.lastSensor < now → ∃ t, exec (.sensorSample temps powers) s = .next t ∧ t.power.lastSensor = now ∧ t.readings = ts ∧
      (∀ i < 306, t.fld (sensorA i) 15 0 = (temps.getD i 0).toNat ∧
        (outOfRange (ts.getD i 0) = true → t.power.excluded.contains i = true)) ∧
      (∀ k < 13, t.fld (domA k 8) 15 0 = ofInt 16 (t.domainT ts k)) ∧ t.reg (thmA 0x50) = t.power.excluded.length ∧
      t.rbit (thmA 0x48) 31 = s.power.coolPin ∧
      t.reg (pwrCount 4) = min (s.reg (pwrCount 4) + (t.power.excluded.filter (fun i => !s.power.excluded.contains i)).length) (2 ^ 32 - 1) ∧
      (s.power.coolPin = false → t.rbit (thmA 0x48) 30 = true ∧
        (s.power.clamp = none → t.power.clamp = some s.timeNs ∧ t.rbit (pwrA 8) 31 = true ∧
          t.reg (pwrCount 2) = min (s.reg (pwrCount 2) + 1) (2 ^ 32 - 1) ∧ (∀ d < 4, 12 ≤ t.level d) ∧ (∀ k < 8, t.stackB k = 2)) ∧
        (s.power.clamp ≠ none → t.power.clamp = s.power.clamp)) ∧
      (∀ d < 4, 6720 ≤ t.domainT ts d → t.power.hotDies.contains d = true ∧
        (s.power.hotDies.contains d = false → t.level d = 15 ∧ t.sorrel.presented ≠ s.sorrel.presented)) ∧
      ((∀ k < 13, t.domainT ts k < 6400) →
        (∀ a, (∀ i < 306, a ≠ sensorA i) → (∀ k < 13, a ≠ domA k 8 ∧ a ≠ domA k 0xC) → (∀ d < 4, a ≠ levelA d) →
          (∀ k < 8, a ≠ stackBA k) → a ∉ [pwrCount 2, pwrCount 4, pwrA 8, pwrA 0x10, thmA 0x48, thmA 0x50] → t.reg a = s.reg a) ∧
        (s.clampPast = false → t.sorrel = s.sorrel ∧ t.reg (pwrA 0x10) = s.reg (pwrA 0x10)) ∧
        t = { s with regs := t.regs, power := t.power, sorrel := { s.sorrel with presented := t.sorrel.presented } }))) ∧
  (∀ (s : State) (b : Bool), exec (.coolOkChange b) s = .next { s with power := { s.power with coolPin := b } }) ∧
  (∀ (s : State) (c : Nat), s.power.clamp = some c →
    (s.timeNs < c + 5000000000 → exec .clampTimeout s = .next s) ∧
    (s.power.clampF = true → exec .clampTimeout s = .next s) ∧
    (c + 5000000000 ≤ s.timeNs → s.power.clampF = false →
      (∀ q, s.power.quietFrom = some q → q + 1000000000 ≤ c + 5000000000 → ∃ t, exec .clampTimeout s = .next t ∧ t.power.clamp = none ∧
        t.rbit (pwrA 8) 31 = false ∧ (∀ d < 4, t.rbit (levelA d) 4 = false) ∧
        (∀ a, a ≠ pwrA 8 → (∀ d < 4, a ≠ levelA d) → t.reg a = s.reg a) ∧ t = { s with regs := t.regs, power := t.power }) ∧
      ((∀ q, s.power.quietFrom = some q → c + 5000000000 < q + 1000000000) → ∃ t, exec .clampTimeout s = .next t ∧
        t.power = { s.power with clampF := true } ∧ t.fld (pwrA 0x10) 7 0 = 1 ∧
        t.sorrel.presented = s.sorrel.presented ++ [(s.cycle, ⟨0x30, 10, powerId, 5, 0, 0, 0xFFFF⟩)] ∧
        (∀ a, a ≠ pwrA 0x10 → t.reg a = s.reg a) ∧ t = { s with regs := t.regs, power := t.power, sorrel := t.sorrel }))) ∧
  (∀ (s : State) (volts mw : Nat), s.alive = true → s.power.lastInput < s.timeNs / 1000 →
    ∃ t, exec (.inputSample volts mw) s = .next t ∧ t.power.lastInput = s.timeNs / 1000 ∧
      t.power.input = takeSamples 1000000 (pushSample mw s.power.input) ∧
      t.power.overCap = (if s.capW * 1000 < mw then s.power.overCap + 1 else 0) ∧
      t.fld (pwrA 0xC) 31 16 = min volts 0xFFFF ∧ t.fld (pwrA 0xC) 15 0 = min (t.energy 10000 / 10000000) 0xFFFF ∧
      (2100000 < mw → (∀ d < 4, 8 ≤ t.level d) ∧ t.reg (pwrCount 1) = min (s.reg (pwrCount 1) + 1) (2 ^ 32 - 1)) ∧
      (t.mustLimit = true → s.power.hold = none → t.power.hold = some s.timeNs ∧ t.rbit (pwrA 8) 29 = true ∧
        (∀ d < 4, t.level d = 15) ∧ (∀ k < 8, t.stackB k = 2)) ∧
      (t.mustLimit = false → mw ≤ 2100000 → (∀ a, a ≠ pwrA 0xC → t.reg a = s.reg a) ∧ t.power.hold = s.power.hold) ∧
      t = { s with regs := t.regs, power := t.power }) ∧
  (∀ (s : State), s.alive = true → let now := s.timeNs / 10000000
    (now ≤ s.power.lastPeriod → exec .governorPeriod s = .next s) ∧
    (s.power.lastPeriod < now → ∃ t, exec .governorPeriod s = .next t ∧ t.power.lastPeriod = now ∧ t.power.pSum = [] ∧
      t.power.pCount = 0 ∧ (∀ h, s.power.hold = some h → h ≤ (now - 1) * 10000000 → t.power.hold = none ∧ t.rbit (pwrA 8) 29 = false) ∧
      t.rbit (pwrA 8) 30 = (s.overAvg 10000 1000 || s.overAvg 1000000 980) ∧
      (∀ k < 13, let T := s.domainT s.readings k
        let tin := s.inletT s.readings
        let p := s.domainP k
        let r := s.rNext k T tin p
        tabGet none t.power.rEst k = some r ∧ t.fld (domA k 4) 15 0 = ratField 16 p ∧
        (0 < r → let allow : Rat := (max 0 (64 * (tLim k - s.marginK) - tin) : Int) / 64 / r
          t.fld (domA k 4) 31 16 = ratField 16 allow ∧
          (k < 4 → s.power.hotHub = false → s.power.hotDies.contains k = false → s.power.clamp = none →
            t.level k = min 15 (if t.demand k T p allow = 0 && t.mayStepBack p allow then s.level k - 1
              else s.level k + t.demand k T p allow)))) ∧
      (∀ a, (∀ k < 13, a ≠ domA k 4 ∧ a ≠ domA k 0xC) → (∀ d < 4, a ≠ levelA d) → (∀ k < 8, a ≠ stackBA k) →
        a ∉ [pwrCount 0, pwrCount 3, pwrA 8] → t.reg a = s.reg a) ∧
      t = { s with regs := t.regs, power := t.power, sent := t.sent, freeCtr := t.freeCtr })) ∧
  (∀ (s : State) (k : Fin 13), s.fwRuns = true → s.fld (domA k 0) 31 16 = 0 → basePeriods ≤ tabGet 0 s.power.basePeriods k →
    ∃ t, exec (.baselineSet k) s = .next t ∧
      t.fld (domA k 0) 31 16 = ratField 16 ((tabGet none s.power.baseSum k).getD 0 / (basePeriods : Rat) * 10000) ∧
      (∀ a, a ≠ domA k 0 → t.reg a = s.reg a) ∧ t = { s with regs := t.regs })

/-- R419–R422, R426–R429: input and regulator faults shut the module down once: CAUSE, class F, SHUTDOWNS and a snapshot while the
firmware runs; 50 ms later, and at a fall of MOD_PWR_EN, the module goes dark with its bypass closed, RB_N high, no tenant, and a
settings store that ran without effect; a rise of
MOD_PWR_EN powers the rails; a dropout below 30 V closes the bypass; MOD_FENCE tests, fences and lifts units or refuses with its CODE;
a test that ends shows its result. -/
def Obligations.ShutdownPowerAndUnitFences : Prop :=
  (∀ (s : State),
    let shuts := fun (c : Instr) (cause : Nat) => (s.power.shutdown = none → ∃ t, exec c s = .next t ∧
        t.power = { s.power with shutdown := some s.cycle } ∧ t.fld (pwrA 0x10) 7 0 = cause ∧
        t.reg (pwrCount 5) = min (s.reg (pwrCount 5) + 1) (2 ^ 32 - 1) ∧
        (∃ l, t.sorrel.presented = s.sorrel.presented ++ (s.cycle, ⟨0x30, 10, powerId, 5, 0, 0, 0xFFFF⟩) :: l ∧ (s.fwRuns = false → l = [])) ∧
        t.nvs.snapshots.length = (if s.fwRuns then min 16 (s.nvs.snapshots.length + 1) else s.nvs.snapshots.length) ∧
        (∀ a, a ∉ [pwrA 0x10, pwrCount 5, nvsA 0x18, srlA 0x40, srlA 0x44] → t.reg a = s.reg a) ∧
        t = { s with regs := t.regs, power := t.power, sorrel := { s.sorrel with presented := t.sorrel.presented }, nvs := t.nvs
                     sage := t.sage, mem := t.mem, freeCtr := t.freeCtr } ∧ (s.fwRuns = false → t.mem = s.mem ∧ t.sage = s.sage)) ∧
      (s.power.shutdown.isSome = true → exec c s = .next s)
    let dark := fun (t : State) => t.start.dark = true ∧ t.start.held = true ∧ t.host.released = false ∧ t.host.mctp = false ∧
      t.ringState = 0 ∧ t.rbit (rngA 4) 24 = false ∧ t.ring.up = none ∧ t.ring.down = none ∧ (∀ p < 4, t.rbit (pciA p 4) 31 = false) ∧
      t.tenants = [] ∧ t.job = {} ∧ t.mem = s.mem ∧ t.nvs = s.nvs.powerLost ∧ t.upd = s.upd ∧ t.sage = s.sage
    (s.alive = true → shuts .regulatorFault 6) ∧
    (∀ c, s.alive = true → s.power.voltFrom = some c → c + 1000000 ≤ s.timeNs → shuts .inputVoltageFault 5) ∧
    (∀ c, s.power.voltFrom = some c → s.timeNs < c + 1000000 → exec .inputVoltageFault s = .next s) ∧
    (∀ c, s.power.shutdown = some c → s.alive = true →
      (c + 55000000 ≤ s.cycle → ∃ t, exec .shutdownRailsOff s = .next t ∧ dark t ∧ t.power = s.power) ∧
      (s.cycle < c + 55000000 → exec .shutdownRailsOff s = .next s)) ∧
    (∃ t, exec .modPwrEnFall s = .next t ∧ dark t ∧ t.power = { s.power with pwrEn := false }) ∧
    (s.power.pwrEn = true → exec .modPwrEnRise s = .next s) ∧
    (s.power.pwrEn = false → exec .modPwrEnRise s = .next { s with power := { s.power with pwrEn := true }
                                                                   start := { s.start with dark := false, held := true } }) ∧
    (∀ volts, s.alive = true →
      (3800 ≤ volts → exec (.inputDropout volts) s = .next s) ∧
      (3000 ≤ volts → volts < 3800 → exec (.inputDropout volts) s = .next
        { s with power := { s.power with voltFrom := some (s.power.voltFrom.getD s.timeNs) } }) ∧
      (volts < 3000 → ∃ t, exec (.inputDropout volts) s = .next t ∧ t.ringState = 0 ∧ t.rbit (rngA 4) 24 = false ∧
        t.ring.up = none ∧ t.ring.down = none ∧ t.mem = s.mem ∧ (∀ b < 32, s.barState b = 1 → s.rbit (ctxA b 0) 30 = true →
          t.barState b = 2)))) ∧
  (∀ (s : State) (ini u : Nat), isMgmt ini = true → s.consentBar ini (modA 0x300) = false → u < 65536 →
    let status := fun (t : State) (code : Nat) => t.fld (modA 0x304) 27 24 = code ∧ t.fld (modA 0x304) 15 0 = u
    let refuses := fun (c : Instr) (code : Nat) => ∃ t, exec c s = .next t ∧ status t code ∧
      t.fld (modA 0x304) 31 28 = s.fld (modA 0x304) 31 28 ∧ (∀ a, a ≠ modA 0x304 → t.reg a = s.reg a) ∧
      t = { s with regs := t.regs, resp := .ok 0 }
    (unitOk u = false → refuses (.unitTest ini u) 5 ∧ refuses (.unitFence ini u) 5 ∧ refuses (.fenceLift ini u) 5) ∧
    (unitOk u = true →
      (s.isFenced u = false → s.outOfService u = false → refuses (.unitTest ini u) 1) ∧
      (s.isFenced u = true ∨ s.outOfService u = true →
        (s.power.testing.isSome = true ∨ s.unitOwned u = true → refuses (.unitTest ini u) 4) ∧
        (s.power.testing = none → s.unitOwned u = false → ∃ t, exec (.unitTest ini u) s = .next t ∧ status t 0 ∧
          t.fld (modA 0x304) 31 28 = 1 ∧ t.power.testing = some u ∧ (∀ a, a ≠ modA 0x304 → t.reg a = s.reg a) ∧
          t = { s with regs := t.regs, resp := .ok 0, power := { s.power with testing := some u } })) ∧
      (∃ t, exec (.unitFence ini u) s = .next t ∧ status t 0 ∧ t.isFenced u = true ∧ t.sorrel.passed.contains u = false ∧
        t.nvs = s.nvs ∧ t.upd = s.upd ∧ t.tenants = s.tenants) ∧
      (s.power.testing = some u → refuses (.fenceLift ini u) 4) ∧
      (s.power.testing ≠ some u →
        (s.isFenced u = false → refuses (.fenceLift ini u) 1) ∧
        (s.isFenced u = true → s.sorrel.passed.contains u = false → refuses (.fenceLift ini u) 2) ∧
        (s.isFenced u = true → s.sorrel.passed.contains u = true → s.degraded 2 = true → refuses (.fenceLift ini u) 3) ∧
        (s.isFenced u = true → s.sorrel.passed.contains u = true → s.degraded 2 = false →
          ∃ t, exec (.fenceLift ini u) s = .next t ∧ status t 0 ∧ t.isFenced u = false ∧
            (u / 0x1000 = 4 → t.rbit (modA 0x100) (u % 0x1000) = true) ∧
            (u / 0x1000 ≠ 4 → t.mem = s.mem ∧ ∀ a, a ≠ modA 0x304 → t.reg a = s.reg a) ∧
            t.mem.cells = s.mem.cells ∧ t.nvs = s.nvs ∧ t.tenants = s.tenants)))) ∧
  (∀ (s : State) (u : Nat) (ok : Bool), s.power.testing = some u → ∃ t, exec (.unitTestDone ok) s = .next t ∧
    t.fld (modA 0x304) 31 28 = (if ok then 2 else 3) ∧ t.power = { s.power with testing := none } ∧
    (ok = true → s.isFenced u = true → t.sorrel.passed.contains u = true) ∧ (ok = false → t.sorrel.passed = s.sorrel.passed) ∧
    (∀ a, (∀ r ∈ unitMemory u, a < r.1 ∨ r.1 + r.2 ≤ a) → tabGet 0 t.mem.cells a = tabGet 0 s.mem.cells a) ∧
    (∀ w, (∀ r ∈ unitMemory u, w * 32 < r.1 ∨ r.1 + r.2 ≤ w * 32) → t.word w = s.word w) ∧
    (∀ w, (∃ r ∈ unitMemory u, r.1 ≤ w * 32 ∧ w * 32 < r.1 + r.2) → t.word w = {}) ∧
    (∀ a, a ≠ modA 0x304 → t.reg a = s.reg a) ∧ t = { s with regs := t.regs, power := t.power, sorrel := t.sorrel, freeCtr := t.freeCtr
                                                             mem := { s.mem with cells := t.mem.cells, ecc := t.mem.ecc } })

/-! ## The ring and the debug pins (16) -/

/-- R162, R163, R285, R378, R399, R437–R439, R444: a member counts a frame, passes an authentic one on with CORR and SEGS moved on, and
takes it where it is addressed to it (time, phase, loop delay, report, release, snapshot, activation); a frame that fails its tag counts
TAG_FAILS and has no effect, and one that names this node as its source and was not sent by it makes the node leave. Durations are
compared in whole cycles or ns (log entry 181). -/
def Obligations.RingNodeReceivesFrames : Prop :=
  ∀ (s : State),
    let bumped := fun (t : State) (a : Nat) => t.reg a = min (s.reg a + 1) (2 ^ 32 - 1)
    let passedOn := fun (typ : Nat) (f : RingFrame) => if s.goesOn f then
      [Msg.ring typ f.dst f.src (f.hops + 1).val (forwarded typ (s.arrived typ f) f.residence)] else []
    (s.ringState = 2 → ∀ f : RingFrame, s.ring.up.any (fun k => k.node == f.hopFrom.val) = true →
      (f.auth = false → ∀ c ∈ [Instr.timeFrame f, .phaseFrame f, .calFrame f, .barrierReportFrame f, .barrierReleaseFrame f,
          .snapshotFrame f, .activateFrame f, .statusFrame f], ∃ t, exec c s = .next t ∧ bumped t (rngCount 0) ∧ bumped t (rngCount 2) ∧
        (∀ a, a ∉ [rngCount 0, rngCount 2] → t.reg a = s.reg a) ∧
        t = { s with regs := t.regs, ring := { s.ring with lastFrom := some f.hopFrom, fails := 0 } }) ∧
      (f.auth = true → f.src.val = s.ring.node → f.hopSeq < s.ring.txSeq →
        s.rbit (rngA 0) 30 = true → let b := s.arrived 10 f
          ∃ t, exec (.calFrame f) s = .next t ∧ t.reg (rngA 0x10) =
            ((s.timePs : Int) - (fieldLe b 0 8 * 1000 + fieldLe b 8 8 : Nat)).toNat * 16 / 1000 % 2 ^ 32 ∧
            (∀ a, a ∉ [rngCount 0, rngA 0x10] → t.reg a = s.reg a) ∧ t = { s with regs := t.regs, ring := t.ring }) ∧
      (f.auth = true → f.src.val = s.ring.node → s.ring.txSeq ≤ f.hopSeq → ∃ t, exec (.statusFrame f) s = .next t ∧
        t.ringState = 4 ∧ t.rbit (rngA 4) 24 = false ∧ t.ring.up = none ∧ t.ring.down = none ∧ bumped t (rngCount 8)) ∧
      (f.auth = true → f.src.val ≠ s.ring.node →
        (∃ t, exec (.statusFrame f) s = .next t ∧ bumped t (rngCount 0) ∧ t.sent = s.sent ++ passedOn 7 f ∧
          (∀ a, a ∉ [rngCount 0, rngCount 1] → t.reg a = s.reg a) ∧ t = { s with regs := t.regs, ring := t.ring, sent := t.sent }) ∧
        (s.forMe f = true →
          (let b := s.arrived 1 f
           let valid := fieldLe b 18 1 % 2 == 1
           let master := fieldLe b 0 8 * 1000 + pathPs (fieldLe b 8 8) (fieldLe b 16 2) (fieldLe b 20 4) (fieldLe b 24 1)
           let off : Int := (s.timePs : Int) - (master : Int)
           let run := if s.thySel = 4 ∧ s.thyOn = true ∧ s.thyLock = 4 then 0 else s.thy.syncRun
           ∃ t, exec (.timeFrame f) s = .next t ∧ t.sent = s.sent ++ passedOn 1 f ∧ t.reg (rngA 0x10) = fieldLe b 20 4 ∧
             t.reg64 (rngA 8) = ofInt 64 (off / 1000) ∧ t.rbit (rngA 4) 25 = valid ∧ t.ring.lastTime = s.cycle ∧
             (valid = false ∨ s.rbit (rngA 0) 29 = false → t.timeNs = s.timeNs ∧ t.slew = s.slew ∧ t.thy = s.thy) ∧
             (valid = true → s.rbit (rngA 0) 29 = true → t.rbit (rngA 4) 26 = decide (16 ≤ t.thy.syncRun) ∧
               t.thy.syncRun = (if off.natAbs < 10000 then run + 1 else 0) ∧
               (s.thy.stepped = true → t.timeNs = s.timeNs ∧ t.slew = -(off * 110)) ∧
               (s.thy.stepped = false → 16 ≤ t.thy.syncRun → t.thy.stepped = true ∧ t.timeNs = master / 1000 % 2 ^ 64) ∧
               (s.thy.stepped = false → t.thy.syncRun < 16 → t.timeNs = s.timeNs ∧ t.slew = s.slew)) ∧ t.mem = s.mem) ∧
          (s.thySel = 5 → s.thyOn = true → s.thyLock ≠ 4 → let b := s.arrived 2 f
            ∃ t, exec (.phaseFrame f) s = .next t ∧ t.sent = s.sent ++ passedOn 2 f ∧ t.thyVel = fieldLe b 16 8 ∧
              t.thy.lastInput = s.cycle ∧ t.thy.ringFrames = (if s.ringLoop = 0 then 0 else s.thy.ringFrames + 1) ∧
              t.thyLock = (if 16 ≤ t.thy.ringFrames then 2 else 1) ∧
              (let delay := pathPs (fieldLe b 32 8) (fieldLe b 40 2) s.ringLoop s.ring.segments
               let at_ : Int := (((fieldLe b 0 4 * s.thyCpc + fieldLe b 4 4) * 2 ^ 32 + fieldLe b 8 4 : Nat) : Int) +
                 velAdvance (fieldLe b 16 8) delay
               t.thy.ringBase = ((phaseOf s.thyCpc at_).1, (phaseOf s.thyCpc at_).2.1, (phaseOf s.thyCpc at_).2.2, s.timeNs))) ∧
          (let c := fieldLe (s.arrived 3 f) 0 1 % 32
           let reports := (s.bar c).reports ++ [(fieldLe (s.arrived 3 f) 4 4, f.src.val)]
           let all := (cluList (s.fld (ctxA c 0x14) 15 0)).all (fun n => reports.contains (s.barGen c, n))
           let at_ := s.timeNs + s.reg (barA 0x10)
           s.barState c = 1 → s.ringMaster c = some s.ring.node → s.rbit (ctxA c 0) 30 = true → (s.bar c).ringAt = none →
             ∃ t, exec (.barrierReportFrame f) s = .next t ∧ (t.bar c).reports = reports ∧
               (all = true → (t.bar c).ringAt = some at_ ∧ t.sent = s.sent ++ passedOn 3 f ++
                 [.ring 4 0xFF s.ring.node 0 (natLe 4 c ++ natLe 4 (s.barGen c) ++ natLe 8 at_)]) ∧
               (all = false → (t.bar c).ringAt = none ∧ t.sent = s.sent ++ passedOn 3 f) ∧
               (∀ a, a ∉ [rngCount 0, rngCount 1] → t.reg a = s.reg a)) ∧
          (let c := fieldLe (s.arrived 4 f) 0 1 % 32
           let at_ := fieldLe (s.arrived 4 f) 8 8
           s.barState c = 1 → s.rbit (ctxA c 0) 30 = true → fieldLe (s.arrived 4 f) 4 4 = s.barGen c →
             (s.timeNs ≤ at_ → ∃ t, exec (.barrierReleaseFrame f) s = .next t ∧ t.bar c = { s.bar c with ringAt := some at_ } ∧
               (∀ a, a ∉ [rngCount 0, rngCount 1] → t.reg a = s.reg a) ∧
               t = { s with regs := t.regs, ring := t.ring, sent := t.sent, barriers := t.barriers }) ∧
             (at_ < s.timeNs → ∃ t, exec (.barrierReleaseFrame f) s = .next t ∧ t.rbit (ctxA c 0x18) 29 = true ∧
               t.reg (ctxA c 0x1C) = s.barGen c % 2 ^ 32)) ∧
          (∃ t, exec (.snapshotFrame f) s = .next t ∧ t.dill.trigs = s.dill.trigs ++ (if s.rbit (dilA 0) 31 && s.rbit (dilA 0) 30 then
              [⟨4, fieldLe (s.arrived 5 f) 8 4, 0xFFFFFFFF, true, fieldLe (s.arrived 5 f) 0 8⟩] else []) ∧
            t.sent = s.sent ++ passedOn 5 f ∧ (∀ a, a ∉ [rngCount 0, rngCount 1] → t.reg a = s.reg a) ∧
            t = { s with regs := t.regs, ring := t.ring, sent := t.sent, dill := t.dill }) ∧
          (let b := s.arrived 6 f
           (s.updState = 3 → fieldLe b 0 16 = s.upd.stagedId → fieldLe b 20 1 = 0 → ∃ t, exec (.activateFrame f) s = .next t ∧
             t.updState = 4 ∧ t.upd.arm = some ⟨0, fieldLe b 16 4, fieldLe b 24 8, 0⟩ ∧ t.reg64 (updA 0x10) = fieldLe b 24 8) ∧
           (s.updState ≠ 3 ∨ fieldLe b 0 16 ≠ s.upd.stagedId → ∃ t, exec (.activateFrame f) s = .next t ∧ bumped t (updA 0x54) ∧
             t.upd = s.upd ∧ t.updState = s.updState)))))

/-- R342, R434, R440–R443, R451: HELLO and SHARE with an accepted certificate and signature key the links and bring the node to MEMBER;
others count JOIN_FAILS and change nothing; retimer lock opens the bypass, its loss re-forms the ring, 200 ms end a join; a link is
keyed anew after 2^31 frames or 24 h; EN = 1 begins to join, EN = 0 leaves the ring and breaks its barriers; 100 ms without a TIME frame end the time lock.
Durations are compared in whole cycles or ns (log entry 181). -/
def Obligations.RingNodesJoinLeaveAndRekey : Prop :=
  ∀ (s : State),
    let bumped := fun (t : State) (a : Nat) => t.reg a = min (s.reg a + 1) (2 ^ 32 - 1)
    (∀ f : RingFrame, f.auth = true → f.src.val ≠ s.ring.node → s.forMe f = true → let m := joinParts f.payload
      (s.ringState = 1 ∨ s.ringState = 2 → s.ring.up.isSome = true → ∃ t, exec (.hello f) s = .next t ∧ t.ring.up = s.ring.up ∧
        ((∀ pk, s.peerKey m.cert = some pk → Config.verify pk m.body m.sig = false) → bumped t (rngCount 3) ∧
          t.ring.down.map (·.node) = s.ring.down.map (·.node) ∧ t.ringState = s.ringState) ∧
        (∀ pk, s.peerKey m.cert = some pk → Config.verify pk m.body m.sig = true → ∃ z un,
          t.ring.down = some ⟨f.src, hopKey z un m.nonce, s.timeNs, 0⟩ ∧ t.ring.phase = !s.ring.phase ∧ t.ringState = 2 ∧
          t.fld (rngA 4) 15 12 = f.src.val ∧ s.sent.length < t.sent.length ∧ (s.ringState = 1 → bumped t (rngCount 5)))) ∧
      (∀ u dn k, s.ringState ≠ 0 → s.ringState ≠ 4 → f.hopFrom = f.src → s.ring.hello = some (u, dn, k) → f.src.val = u →
        ∃ t, exec (.share f) s = .next t ∧
          ((∀ pk, s.peerKey m.cert = some pk → Config.verify pk (dn ++ m.body) m.sig = true → Config.kemDecap k m.key = none) →
            bumped t (rngCount 3) ∧ t.ring.hello = s.ring.hello ∧ t.ring.up = s.ring.up ∧ t.ringState = s.ringState) ∧
          (∀ pk z, s.peerKey m.cert = some pk → Config.verify pk (dn ++ m.body) m.sig = true → Config.kemDecap k m.key = some z →
            t.ring.up = some ⟨u, hopKey z m.nonce dn, s.timeNs, 0⟩ ∧ t.ring.hello = none ∧ t.fld (rngA 4) 19 16 = u ∧
            (s.ringState = 1 → t.ringState = (if s.ring.down.isSome then 2 else 1)) ∧
            (s.ringState = 3 → t.ringState = 2 ∧ bumped t (rngCount 4)) ∧
            (s.ringState = 2 → s.ring.up.any (fun x => x.node == u) = true → t.ringState = 2 ∧ bumped t (rngCount 6))))) ∧
    (s.ringState = 2 →
      (∃ t, exec .retimerLockLoss s = .next t ∧ t.ringState = 3 ∧ t.rbit (rngA 4) 27 = false ∧ t.ring.up = none ∧
        t.ring.down = s.ring.down ∧ t.mem = s.mem) ∧
      (∀ k, s.ring.up = some k → s.ring.hello = none →
        (2 ^ 31 ≤ k.frames ∨ k.since + 86400000000000 ≤ s.timeNs → ∃ t n k', exec .hopRekey s = .next t ∧
          t.ring.hello = some (k.node, n, k') ∧ t.ring.up = s.ring.up ∧ s.sent.length < t.sent.length ∧
          (∀ a, a ≠ rngCount 1 → t.reg a = s.reg a)) ∧
        (k.frames < 2 ^ 31 → s.timeNs < k.since + 86400000000000 → exec .hopRekey s = .next s))) ∧
    (s.start.dark = false → s.start.held = false → ∃ t, exec .retimerLock s = .next t ∧ t.rbit (rngA 4) 27 = true ∧
      (s.rbit (rngA 0) 31 = true → s.ringState = 0 → s.stepDone? 3 = true → s.ring.waitUntil ≤ s.cycle →
        t.ringState = 1 ∧ t.rbit (rngA 4) 24 = true ∧ t.ring.node = s.fld (rngA 0) 3 0 ∧ t.ring.openedAt = s.cycle) ∧
      (s.rbit (rngA 0) 31 = false ∨ s.ringState ≠ 0 ∨ s.stepDone? 3 = false ∨ s.cycle < s.ring.waitUntil → t.ring = s.ring ∧ t.ringState = s.ringState) ∧
      (∀ a, a ≠ rngA 4 → t.reg a = s.reg a) ∧ t = { s with regs := t.regs, ring := t.ring }) ∧
    (s.ringState = 1 → (s.ring.openedAt + 220000000 ≤ s.cycle → ∃ t, exec .joinTimeout s = .next t ∧ t.ringState = 0 ∧
        t.rbit (rngA 4) 24 = false ∧ t.ring.up = none ∧ t.ring.down = none ∧ t.ring.waitUntil = s.cycle + cyclesPerSecond ∧
        (∀ a, a ≠ rngA 4 → t.reg a = s.reg a) ∧ t = { s with regs := t.regs, ring := t.ring }) ∧
      (s.cycle < s.ring.openedAt + 220000000 → exec .joinTimeout s = .next s)) ∧
    (s.rbit (rngA 4) 26 = true →
      (s.ring.lastTime + 110000000 ≤ s.cycle → ∃ t, exec .timeLockLapse s = .next t ∧ t.rbit (rngA 4) 26 = false ∧
        (∀ a, a ≠ rngA 4 → t.reg a = s.reg a) ∧ t = { s with regs := t.regs }) ∧
      (s.cycle < s.ring.lastTime + 110000000 → exec .timeLockLapse s = .next s)) ∧
    (∀ (ini : Nat) (v : Word), isMgmt ini = true → s.consentBar ini (rngA 0) = false → bit v.toNat 31 = false →
      ∃ t, exec (.ringEnWrite ini v) s = .next t ∧ t.resp = .ok 0 ∧ t.rbit (rngA 0) 31 = false ∧ t.ringState = 0 ∧
        t.fld (rngA 0) 3 0 = v.toNat % 16 ∧ t.fld (rngA 0) 12 8 = max 2 (min 16 (v.toNat / 256 % 32)) ∧
        (s.ringState ≠ 0 → s.ringState ≠ 4 → t.rbit (rngA 4) 24 = false ∧ t.ring.up = none ∧ t.ring.down = none ∧
          ∀ b < 32, s.barState b = 1 → s.rbit (ctxA b 0) 30 = true → t.barState b = 2)) ∧
    (∀ (ini : Nat) (v : Word), isMgmt ini = true → s.consentBar ini (rngA 0) = false → bit v.toNat 31 = true →
      let off := s.ringState = 0 ∨ s.ringState = 4
      let may := s.rbit (rngA 4) 27 = true ∧ s.stepDone? 3 = true ∧ s.ring.waitUntil ≤ s.cycle
      ∃ t, exec (.ringEnWrite ini v) s = .next t ∧ t.resp = .ok 0 ∧ t.rbit (rngA 0) 31 = true ∧
        (off → may → t.ringState = 1 ∧ t.rbit (rngA 4) 24 = true ∧ t.ring.node = v.toNat % 16) ∧
        (off → ¬ may → t.ringState = 0 ∧ t.ring = s.ring) ∧ (¬ off → t.ringState = s.ringState ∧ t.ring = s.ring) ∧
        (∀ a, a ∉ [rngA 0, rngA 4] → t.reg a = s.reg a) ∧ t = { s with regs := t.regs, ring := t.ring, resp := .ok 0 })

/-- R285, R438, R439, R444–R446: a member sends its TIME, PHASE, STATUS and CAL frames when they are due, each once in its period; the
ring service answers the controller's node alone with the data asked for or the code of its refusal, counts any other's request, and
FORCE_ALL forces every enabled flow with REASON 4. Durations are compared in whole cycles or ns (log entry 181). -/
def Obligations.RingNodeSendsAndServes : Prop :=
  ∀ (s : State),
    let bumped := fun (t : State) (a : Nat) => t.reg a = min (s.reg a + 1) (2 ^ 32 - 1)
    (s.ringState = 2 →
      let sends := fun (t : State) (typ : Nat) (b : List Byte) => t.sent = s.sent ++ [.ring typ 0xFF s.ring.node 0 b] ∧
        bumped t (rngCount 1) ∧ t.ring.txSeq = s.ring.txSeq + 1 ∧ (∀ a, a ≠ rngCount 1 → t.reg a = s.reg a) ∧
        t = { s with regs := t.regs, ring := t.ring, sent := t.sent }
      (s.rbit (rngA 0) 30 = true → s.ring.sentTime < s.timeNs / 1000000 → ∃ t, exec .timeFrameSend s = .next t ∧
        sends t 1 (natLe 8 s.timeNs ++ zeros 10 ++ natLe 1 (if s.asState = 2 then 1 else 0) ++ zeros 1 ++
          natLe 4 s.ringLoop ++ natLe 1 s.ring.segments ++ zeros 7) ∧ t.ring.sentTime = s.timeNs / 1000000) ∧
      (s.rbit (rngA 0) 30 = false ∨ s.timeNs / 1000000 ≤ s.ring.sentTime → exec .timeFrameSend s = .next s) ∧
      (s.rbit (thyA 0x14) 1 = true → s.thySel ≠ 5 → s.ring.sentPhase < s.timeNs / 50000 → ∃ t, exec .phaseFrameSend s = .next t ∧
        sends t 2 (natLe 4 s.thyPhase.1 ++ natLe 4 s.thyPhase.2.1 ++ natLe 4 s.thyPhase.2.2 ++ zeros 4 ++ natLe 8 s.phaseVel ++
          natLe 8 s.timeNs ++ zeros 10 ++ natLe 1 s.thyLock ++ zeros 5) ∧ t.ring.sentPhase = s.timeNs / 50000) ∧
      (s.ring.sentStatus < s.timeNs / 10000000 → ∃ t b, exec .statusFrameSend s = .next t ∧ b = s.statusBytes ∧ sends t 7 b ∧
        t.ring.sentStatus = s.timeNs / 10000000 ∧ b.length = 224 ∧ fieldLe b 0 8 = serialNo % 2 ^ 64 ∧ fieldLe b 8 4 = s.reg (sgeA 0x18)) ∧
      (s.rbit (rngA 0) 30 = true → s.ring.sentCal < s.timeNs / 1000000000 → ∃ t, exec .calFrameSend s = .next t ∧
        sends t 10 (natLe 8 s.timeNs ++ zeros 8) ∧ t.ring.sentCal = s.timeNs / 1000000000) ∧
      (s.host.mctp = true → ∀ src : Fin 16,
        (src.val ≠ s.fld (rngA 0) 19 16 → ∀ c ∈ [Instr.forceAll src, .readCounters src 0 4, .readStore src 0 1, .readSnapshot src 0 0 4,
            .readCheckpoint src 0 0 0 4], ∃ t, exec c s = .next t ∧ bumped t (rngCount 0) ∧ bumped t (rngCount 7) ∧
          (∀ a, a ∉ [rngCount 0, rngCount 7] → t.reg a = s.reg a) ∧ t = { s with regs := t.regs }) ∧
        (src.val = s.fld (rngA 0) 19 16 →
          let tells := fun (t : State) (name : String) (code : Nat) (data : List Byte) =>
            t.sent = s.sent ++ [.reply name 4 (natLe 1 code ++ data)]
          let reads := fun (t : State) (name : String) (code : Nat) (data : List Byte) => tells t name code data ∧
            (∀ a, a ∉ [rngCount 0, rngCount 1, srlA 0x40, srlA 0x44] → t.reg a = s.reg a) ∧
            t = { s with regs := t.regs, ring := t.ring, sent := t.sent, mem := t.mem, freeCtr := t.freeCtr
                         sorrel := { s.sorrel with presented := t.sorrel.presented } } ∧
            (s.mem.ecc = [] → t.mem = s.mem ∧ t.sorrel = s.sorrel ∧ t.freeCtr = s.freeCtr)
          (∀ first count, let l := s.storeFrom first.toNat count.toNat
            (1 ≤ count.toNat → count.toNat ≤ 16 → l ≠ [] → ∃ t, exec (.readStore src first count) s = .next t ∧ reads t "READ_STORE" 0 l.flatten) ∧
            (count.toNat = 0 ∨ 16 < count.toNat → ∃ t, exec (.readStore src first count) s = .next t ∧ reads t "READ_STORE" 1 [])) ∧
          (∀ slot off len, let base := 0x4C0000 + slot.toNat * 0x100000
            (slot.toNat < 4 → len.toNat ≤ 1000 → off.toNat + len.toNat ≤ 0x100000 → s.hubRead (hubId 0) base 4 = ascii "YDS1" →
              ∃ t, exec (.readSnapshot src slot off len) s = .next t ∧ reads t "READ_SNAPSHOT" 0 (s.hubRead (hubId 0) (base + off.toNat) len.toNat)) ∧
            (slot.toNat < 4 → len.toNat ≤ 1000 → off.toNat + len.toNat ≤ 0x100000 → s.hubRead (hubId 0) base 4 ≠ ascii "YDS1" →
              ∃ t, exec (.readSnapshot src slot off len) s = .next t ∧ tells t "READ_SNAPSHOT" 2 []) ∧
            (4 ≤ slot.toNat ∨ 1000 < len.toNat ∨ 0x100000 < off.toNat + len.toNat → ∃ t, exec (.readSnapshot src slot off len) s = .next t ∧ reads t "READ_SNAPSHOT" 1 [])) ∧
          (∀ pipe buf off len, (8 ≤ pipe.toNat ∨ 2 ≤ buf.toNat ∨ 1000 < len.toNat → ∃ t, exec (.readCheckpoint src pipe buf off len) s = .next t ∧
            reads t "READ_CHECKPOINT" 1 []) ∧
            (∀ s₁ s₂ m b, let s₀ := s.bump (rngCount 0)
              let base := s.reg64 (dilA 0x40) % 2 ^ 48 + (pipe.toNat * 2 + buf.toNat) * s.reg (dilA 0x48)
              pipe.toNat < 8 → buf.toNat < 2 → len.toNat ≤ 1000 → off.toNat + len.toNat ≤ s.reg (dilA 0x48) →
              s₀.devRead hubDmaId 0 base 4 = (s₁, some m) → m = ascii "YCP1" →
              s₁.devRead hubDmaId 0 (base + off.toNat) len.toNat = (s₂, some b) →
              ∃ t, exec (.readCheckpoint src pipe buf off len) s = .next t ∧
                t.sent = s₂.sent ++ [.reply "READ_CHECKPOINT" 4 (natLe 1 0 ++ b)])) ∧
          (∀ off len, off.toNat + len.toNat ≤ 65536 → len.toNat ≤ 1000 →
            (∀ b, s.nvs.snapshots.getLast? = some b → ∃ t, exec (.readCounters src off len) s = .next t ∧
              reads t "READ_COUNTERS" 0 (slice b off.toNat len.toNat)) ∧
            (s.nvs.snapshots = [] → ∃ t, exec (.readCounters src off len) s = .next t ∧ reads t "READ_COUNTERS" 2 [])) ∧
          (∀ off len, 65536 < off.toNat + len.toNat ∨ 1000 < len.toNat →
            ∃ t, exec (.readCounters src off len) s = .next t ∧ reads t "READ_COUNTERS" 1 []) ∧
          (∃ t, exec (.forceAll src) s = .next t ∧ t.sent.getLast? = some (.reply "FORCE_ALL" 4 (natLe 1 0)) ∧
            ∀ f < 64, s.flowEn f = true → s.flowForced f = false → t.flowForced f = true ∧ t.flowReason f = 4))))

/-- R359, R448, R449: boundary scan runs under every tenant's consent, shows the pins and drives them under EXTEST, and else loads as
BYPASS; IDCODE and BYPASS answer their registers; DAP_DATA answers the result of the operation before and makes one aligned access
under consent, after which DAP_ADDR stands 4 higher; DAP_STATUS tells consents and refusals. The levels of G21 to G27, the shift-out of
DAP_ADDR and the stepping and JEP106 code are free values (log entry 186). -/
def Obligations.TapAndDebugPort : Prop :=
  ∀ (s : State), s.tapOn = true →
    (s.scanAllowed = true → ∀ (cells : BitVec 18) (c : Instr) (n : Nat), (c, n) ∈ [(Instr.extest cells, 0), (.samplePreload cells, 2)] →
      ∃ t v, exec c s = .next t ∧ t.resp = .ok v ∧
        (∀ p < 4, bit v p = s.rbPin p ∧ bit v (4 + p) = !(s.port p).perst) ∧ bit v 8 = s.faultPin ∧ bit v 9 = s.power.coolPin ∧
        bit v 10 = s.power.pwrEn ∧
        t = { s with freeCtr := t.freeCtr, resp := t.resp, tap := { s.tap with instr := n, cells := cells.toNat } } ∧
        (n = 0 → (∀ p < 4, t.rbPin p = bit cells.toNat p) ∧ t.faultPin = bit cells.toNat 8) ∧
        (n = 2 → (∀ p < 4, t.rbPin p = !s.rbit (pciA p 4) 31) ∧ t.faultPin = s.faultN)) ∧
    (s.scanAllowed = false → ∀ (cells : BitVec 18), ∀ c ∈ [Instr.extest cells, .samplePreload cells],
      exec c s = .next { s with resp := .ok 0, tap := { s.tap with instr := 0xFF, refused := true } }) ∧
    (∃ v, exec .idcode s = .next { s with resp := .ok v, tap := { s.tap with instr := 1 } } ∧ bit v 0 = true ∧ bits v 27 12 = 0x4816) ∧
    exec .bypass s = .next { s with resp := .ok 0, tap := { s.tap with instr := 0xFF } } ∧
    (∀ a : BitVec 48, ∃ t, exec (.dapAddr a) s = .next t ∧ t.tap = { s.tap with instr := 0x10, addr := a.toNat } ∧
      t = { s with freeCtr := t.freeCtr, resp := t.resp, tap := t.tap }) ∧
    (let v := (if s.consentList = [] then 0 else 2 ^ 31) + (if s.tap.refused then 2 ^ 30 else 0)
     exec .dapStatus s = .next { s with tap := { s.tap with instr := 0x12 }, resp := .ok v }) ∧
    (∀ data : Word, let a := s.tap.addr
      let out := Resp.ok (s.tap.ack * 2 ^ 32 + s.tap.data)
      let ended := fun (ok : Bool) (x : Nat) => { s.tap with instr := 0x11, ack := if ok then 0 else 2, data := x, refused := !ok,
                                                             addr := (a + 4) % 2 ^ 48 }
      exec (.dapData 0 data) s = .next { s with resp := out, tap := { s.tap with instr := 0x11, ack := 0 } } ∧
      (s.place a = .unassigned ∨ a % 4 ≠ 0 → ∀ op : Fin 4, (op = 1 ∨ op = 2) → ∃ t, exec (.dapData op data) s = .next t ∧
        t.resp = out ∧ t.tap = ended false s.tap.data ∧ t = { s with resp := t.resp, tap := t.tap, sorrel := { s.sorrel with
          presented := s.sorrel.presented ++ [(s.cycle, ⟨0x07, 6, dapId, 0, a, 0, 0xFFFF⟩)] } }) ∧
      (s.place a ≠ .unassigned → a % 4 = 0 →
        (s.dapAllowed a 0 = false → exec (.dapData 1 data) s = .next { s with resp := out, tap := ended false s.tap.data }) ∧
        (s.dapAllowed a 1 = false → exec (.dapData 2 data) s = .next { s with resp := out, tap := ended false s.tap.data }) ∧
        (s.dapAllowed a 0 = true → (regBlock a).isSome = true → s.regCut dapId a = false → ∃ t, exec (.dapData 1 data) s = .next t ∧
          t.tap = ended true (s.wordRead a).2 ∧ t = { s with resp := out, tap := t.tap, latch := (s.wordRead a).1.latch }) ∧
        (s.dapAllowed a 1 = true → let w := { s with tap := { s.tap with instr := 0x11 } }.wordWrite dapId a data.toNat
          (w.resp ≠ .err → ∃ t, exec (.dapData 2 data) s = .next t ∧ t.tap.ack = 0 ∧ t.tap.refused = false ∧
            t.tap.addr = (w.tap.addr + 4) % 2 ^ 48 ∧ t = { w with resp := out, tap := t.tap, sage := t.sage }) ∧
          (w.resp = .err → ∃ t, exec (.dapData 2 data) s = .next t ∧ t.tap.ack = 2 ∧ t.tap.refused = true ∧
            t = { w with resp := out, tap := t.tap }))))
end

