-- ==== Sys2Proof/Laws/Tab.lean ====
section
/-!
SUPPORT. Sparse tables: reading after writing, and the canonical form, which every operation keeps.
-/
namespace Sys2Proof.Machine

variable {α : Type}

/-- Keys strictly rising. -/
def TabRising (t : Tab α) : Prop := t.Pairwise (fun p q => p.1 < q.1)

theorem tabGet_tabDel_self (d : α) (t : Tab α) (n : Nat) : tabGet d (tabDel t n) n = d := by
  induction t with
  | nil => rfl
  | cons p t ih =>
    by_cases h : p.1 = n
    · simpa [tabDel, h] using ih
    · simpa [tabDel, h, tabGet, Ne.symm h] using ih

theorem tabGet_tabDel_ne (d : α) (t : Tab α) {n m : Nat} (hm : m ≠ n) : tabGet d (tabDel t n) m = tabGet d t m := by
  induction t with
  | nil => rfl
  | cons p t ih =>
    by_cases h : p.1 = n
    · have : m ≠ p.1 := fun e => hm (e.trans h)
      simpa [tabDel, h, tabGet, this, hm] using ih
    · by_cases e : m = p.1
      · simp [tabDel, h, tabGet, e]
      · simpa [tabDel, h, tabGet, e] using ih

theorem tabGet_tabIns_self (d : α) (t : Tab α) (n : Nat) (v : α) (h : ∀ p ∈ t, p.1 ≠ n) :
    tabGet d (tabIns t n v) n = v := by
  induction t with
  | nil => simp [tabIns, tabGet]
  | cons p t ih =>
    have hp : n ≠ p.1 := fun e => h p (by simp) e.symm
    unfold tabIns
    split
    · simp [tabGet]
    · simp [tabGet, hp, ih (fun q hq => h q (by simp [hq]))]

theorem tabGet_tabIns_ne (d : α) (t : Tab α) {n m : Nat} (v : α) (hm : m ≠ n) : tabGet d (tabIns t n v) m = tabGet d t m := by
  induction t with
  | nil => simp [tabIns, tabGet, hm]
  | cons p t ih =>
    unfold tabIns
    split
    · simp [tabGet, hm]
    · simp [tabGet, ih]

theorem mem_tabDel {t : Tab α} {n : Nat} {p : Nat × α} : p ∈ tabDel t n ↔ p ∈ t ∧ p.1 ≠ n := by simp [tabDel]

theorem mem_tabIns {t : Tab α} {n : Nat} {v : α} {p : Nat × α} : p ∈ tabIns t n v ↔ p = (n, v) ∨ p ∈ t := by
  induction t with
  | nil => simp [tabIns]
  | cons q t ih =>
    unfold tabIns
    split
    · simp
    · simp [ih]; grind

/-- Reading a key just written gives what was written. -/
@[simp] theorem tabGet_tabSet_self [DecidableEq α] (d : α) (t : Tab α) (n : Nat) (v : α) : tabGet d (tabSet d t n v) n = v := by
  unfold tabSet
  split
  · rename_i h; rw [tabGet_tabDel_self, h]
  · exact tabGet_tabIns_self d _ n v (fun p hp => (mem_tabDel.1 hp).2)

/-- Writing a key leaves every other key alone. -/
theorem tabGet_tabSet_ne [DecidableEq α] (d : α) (t : Tab α) {n m : Nat} (v : α) (h : m ≠ n) :
    tabGet d (tabSet d t n v) m = tabGet d t m := by
  unfold tabSet
  split
  · exact tabGet_tabDel_ne d t h
  · rw [tabGet_tabIns_ne d _ v h, tabGet_tabDel_ne d t h]

/-- Reading any key after a write. -/
theorem tabGet_tabSet [DecidableEq α] (d : α) (t : Tab α) (n m : Nat) (v : α) :
    tabGet d (tabSet d t n v) m = if m = n then v else tabGet d t m := by
  split
  · rename_i h; subst h; exact tabGet_tabSet_self d t _ v
  · rename_i h; exact tabGet_tabSet_ne d t v h

theorem tabRising_filter {t : Tab α} (p : Nat × α → Bool) (h : TabRising t) : TabRising (t.filter p) :=
  List.Pairwise.filter p h

theorem tabRising_tabIns {t : Tab α} (n : Nat) (v : α) (h : TabRising t) (hn : ∀ p ∈ t, p.1 ≠ n) :
    TabRising (tabIns t n v) := by
  induction t with
  | nil => simp [tabIns, TabRising]
  | cons p t ih =>
    have hp := List.pairwise_cons.1 h
    unfold tabIns
    split
    · rename_i hlt
      refine List.pairwise_cons.2 ⟨fun q hq => ?_, h⟩
      rcases List.mem_cons.1 hq with rfl | hq
      · exact hlt
      · exact Nat.lt_trans hlt (hp.1 q hq)
    · rename_i hge
      have hne := hn p (by simp)
      refine List.pairwise_cons.2 ⟨fun q hq => ?_, ih hp.2 (fun q hq => hn q (by simp [hq]))⟩
      rcases mem_tabIns.1 hq with rfl | hq
      · simp only at hge ⊢; omega
      · exact hp.1 q hq

/-- The canonical form in terms of order and membership. -/
theorem tabWf_iff [DecidableEq α] (d : α) (t : Tab α) : tabWf d t = true ↔ TabRising t ∧ ∀ p ∈ t, p.2 ≠ d := by
  induction t with
  | nil => simp [tabWf, TabRising]
  | cons p t ih =>
    cases t with
    | nil => simp [tabWf, TabRising]
    | cons q t =>
      obtain ⟨k, v⟩ := p
      obtain ⟨k', v'⟩ := q
      simp only [tabWf, Bool.and_eq_true, decide_eq_true_eq, Bool.not_eq_true', decide_eq_false_iff_not, ih, TabRising,
        List.pairwise_cons, List.mem_cons]
      constructor
      · rintro ⟨⟨hk, hv⟩, ⟨h1, h2⟩, h3⟩
        refine ⟨⟨?_, h1, h2⟩, ?_⟩
        · rintro r (rfl | hr)
          · exact hk
          · exact Nat.lt_trans hk (h1 r hr)
        · rintro r (rfl | hr)
          · exact hv
          · exact h3 r hr
      · rintro ⟨⟨h0, h1, h2⟩, h3⟩
        exact ⟨⟨h0 _ (.inl rfl), h3 _ (.inl rfl)⟩, ⟨h1, h2⟩, fun r hr => h3 r (.inr hr)⟩

/-- Filtering keeps the canonical form. -/
theorem tabWf_filter [DecidableEq α] (d : α) {t : Tab α} (p : Nat × α → Bool) (h : tabWf d t = true) :
    tabWf d (t.filter p) = true := by
  rw [tabWf_iff] at h ⊢
  exact ⟨tabRising_filter p h.1, fun q hq => h.2 q (List.mem_filter.1 hq).1⟩

/-- Setting a key keeps the canonical form. -/
theorem tabWf_tabSet [DecidableEq α] (d : α) {t : Tab α} (n : Nat) (v : α) (h : tabWf d t = true) :
    tabWf d (tabSet d t n v) = true := by
  have hdel : tabWf d (tabDel t n) = true := tabWf_filter d _ h
  unfold tabSet
  split
  · exact hdel
  · rename_i hv
    rw [tabWf_iff] at hdel ⊢
    refine ⟨tabRising_tabIns n v hdel.1 (fun p hp => (mem_tabDel.1 hp).2), fun q hq => ?_⟩
    rcases mem_tabIns.1 hq with rfl | hq
    · exact hv
    · exact hdel.2 q hq

/-- Two canonical tables that read alike are the same table. -/
theorem tabWf_ext [DecidableEq α] (d : α) {t u : Tab α} (ht : tabWf d t = true) (hu : tabWf d u = true)
    (h : ∀ n, tabGet d t n = tabGet d u n) : t = u := by
  have key : ∀ {t : Tab α}, TabRising t → ∀ p ∈ t, tabGet d t p.1 = p.2 := by
    intro t
    induction t with
    | nil => simp
    | cons q t ih =>
      intro hr p hp
      have hq := List.pairwise_cons.1 hr
      rcases List.mem_cons.1 hp with rfl | hp
      · simp [tabGet]
      · have := hq.1 p hp
        simp only [tabGet]
        rw [if_neg (by omega)]
        exact ih hq.2 p hp
  have key2 : ∀ {t : Tab α}, ∀ n, tabGet d t n ≠ d → ∃ p ∈ t, p.1 = n := by
    intro t n
    induction t with
    | nil => simp [tabGet]
    | cons q t ih =>
      intro hne
      by_cases e : n = q.1
      · exact ⟨q, by simp, e.symm⟩
      · simp only [tabGet, if_neg e] at hne
        obtain ⟨p, hp, rfl⟩ := ih hne
        exact ⟨p, by simp [hp], rfl⟩
  rw [tabWf_iff] at ht hu
  have sub : ∀ {t u : Tab α}, TabRising t → TabRising u → (∀ p ∈ t, p.2 ≠ d) → (∀ n, tabGet d t n = tabGet d u n) →
      ∀ p ∈ t, p ∈ u := by
    intro t u ht hu hd h p hp
    have e := key ht p hp
    rw [h] at e
    obtain ⟨q, hq, hk⟩ := key2 (t := u) p.1 (by rw [e]; exact hd p hp)
    have e' := key hu q hq
    rw [hk, e] at e'
    have : p = q := Prod.ext hk.symm e'
    exact this ▸ hq
  have nd : ∀ {t : Tab α}, TabRising t → t.Nodup := by
    intro t ht
    refine ht.imp (fun {a b} hab e => ?_)
    subst e; exact Nat.lt_irrefl _ hab
  have hp : t.Perm u := (List.perm_ext_iff_of_nodup (nd ht.1) (nd hu.1)).2
    (fun a => ⟨sub ht.1 hu.1 ht.2 h a, sub hu.1 ht.1 hu.2 (fun n => (h n).symm) a⟩)
  exact hp.eq_of_pairwise (fun a b _ _ hab hba => absurd (Nat.lt_trans hab hba) (Nat.lt_irrefl _)) ht.1 hu.1

end Sys2Proof.Machine
end

