-- ==== Sys2Proof/Laws/Regs.lean ====
section
/-!
SUPPORT. The register file: reading after writing, bit fields, and the canonical form.
-/
namespace Sys2Proof.Machine

/-! ## Bit fields -/

theorem bits_lt (n hi lo : Nat) : bits n hi lo < 2 ^ (hi + 1 - lo) := Nat.mod_lt _ (Nat.two_pow_pos _)

theorem bits_mul_le (n hi lo : Nat) : bits n hi lo * 2 ^ lo ≤ n := by
  unfold bits
  calc n / 2 ^ lo % 2 ^ (hi + 1 - lo) * 2 ^ lo ≤ n / 2 ^ lo * 2 ^ lo := Nat.mul_le_mul_right _ (Nat.mod_le _ _)
    _ ≤ n := Nat.div_mul_le_self _ _

theorem testBit_bits (n hi lo i : Nat) : (bits n hi lo).testBit i = (decide (i < hi + 1 - lo) && n.testBit (lo + i)) := by
  simp [bits, Nat.testBit_mod_two_pow, Nat.testBit_div_two_pow, Nat.add_comm]

/-- `bit` is the number's bit. -/
theorem bit_eq_testBit (n i : Nat) : bit n i = n.testBit i := by
  rw [bit, Nat.testBit, Nat.shiftRight_eq_div_pow]
  simp only [Nat.one_and_eq_mod_two]
  rcases Nat.mod_two_eq_zero_or_one (n / 2 ^ i) with h | h <;> simp [h]

/-- The three parts of a number: above, inside and below a field. -/
theorem bits_split (n : Nat) {hi lo : Nat} (h : lo ≤ hi) :
    n = n / 2 ^ (hi + 1) * 2 ^ (hi + 1) + bits n hi lo * 2 ^ lo + n % 2 ^ lo := by
  have e : (2 : Nat) ^ (hi + 1) = 2 ^ lo * 2 ^ (hi + 1 - lo) := by rw [← Nat.pow_add]; congr 1; omega
  have h1 := Nat.div_add_mod n (2 ^ lo)
  have h2 := Nat.div_add_mod (n / 2 ^ lo) (2 ^ (hi + 1 - lo))
  rw [Nat.div_div_eq_div_mul, ← e] at h2
  unfold bits
  calc n = 2 ^ lo * (n / 2 ^ lo) + n % 2 ^ lo := h1.symm
    _ = 2 ^ lo * (2 ^ (hi + 1 - lo) * (n / 2 ^ (hi + 1)) + n / 2 ^ lo % 2 ^ (hi + 1 - lo)) + n % 2 ^ lo := by rw [h2]
    _ = _ := by rw [Nat.mul_add, ← Nat.mul_assoc, ← e, Nat.mul_comm (2 ^ (hi + 1)), Nat.mul_comm (2 ^ lo)]

theorem putBits_eq (n v : Nat) {hi lo : Nat} (h : lo ≤ hi) :
    putBits n hi lo v = n / 2 ^ (hi + 1) * 2 ^ (hi + 1) + v % 2 ^ (hi + 1 - lo) * 2 ^ lo + n % 2 ^ lo := by
  have := bits_split n h
  unfold putBits
  omega

theorem testBit_putBits (n v i : Nat) {hi lo : Nat} (h : lo ≤ hi) :
    (putBits n hi lo v).testBit i = if lo ≤ i ∧ i ≤ hi then v.testBit (i - lo) else n.testBit i := by
  have e : (2 : Nat) ^ (hi + 1) = 2 ^ lo * 2 ^ (hi + 1 - lo) := by rw [← Nat.pow_add]; congr 1; omega
  have hv : v % 2 ^ (hi + 1 - lo) < 2 ^ (hi + 1 - lo) := Nat.mod_lt _ (Nat.two_pow_pos _)
  have hl : n % 2 ^ lo < 2 ^ lo := Nat.mod_lt _ (Nat.two_pow_pos _)
  have hm : v % 2 ^ (hi + 1 - lo) * 2 ^ lo + n % 2 ^ lo < 2 ^ (hi + 1) := by
    rw [e]
    calc v % 2 ^ (hi + 1 - lo) * 2 ^ lo + n % 2 ^ lo < v % 2 ^ (hi + 1 - lo) * 2 ^ lo + 2 ^ lo := by omega
      _ = (v % 2 ^ (hi + 1 - lo) + 1) * 2 ^ lo := by rw [Nat.add_mul, Nat.one_mul]
      _ ≤ 2 ^ (hi + 1 - lo) * 2 ^ lo := Nat.mul_le_mul_right _ hv
      _ = 2 ^ lo * 2 ^ (hi + 1 - lo) := Nat.mul_comm _ _
  rw [putBits_eq n v h, Nat.add_assoc, Nat.mul_comm _ (2 ^ (hi + 1)), Nat.testBit_two_pow_mul_add _ hm]
  split
  · rename_i hi'
    rw [Nat.mul_comm _ (2 ^ lo), Nat.testBit_two_pow_mul_add _ hl]
    split
    · rename_i hlo; rw [if_neg (by omega), Nat.testBit_mod_two_pow]; simp [hlo]
    · rename_i hlo
      rw [if_pos (by omega), Nat.testBit_mod_two_pow]
      simp [show i - lo < hi + 1 - lo by omega]
  · rename_i hi'
    rw [if_neg (by omega), Nat.testBit_div_two_pow]
    congr 1; omega

/-- Reading the field just put gives the low bits of what was put. -/
@[simp] theorem bits_putBits_self (n v : Nat) {hi lo : Nat} (h : lo ≤ hi) :
    bits (putBits n hi lo v) hi lo = v % 2 ^ (hi + 1 - lo) := by
  apply Nat.eq_of_testBit_eq
  intro i
  rw [testBit_bits, testBit_putBits _ _ _ h, Nat.testBit_mod_two_pow]
  by_cases hi' : i < hi + 1 - lo
  · rw [if_pos (by omega)]; simp
  · simp [hi']

/-- A field that does not meet the field just put reads as before. -/
theorem bits_putBits_ne (n v : Nat) {hi lo hi' lo' : Nat} (h : lo ≤ hi) (hd : hi' < lo ∨ hi < lo') :
    bits (putBits n hi lo v) hi' lo' = bits n hi' lo' := by
  apply Nat.eq_of_testBit_eq
  intro i
  rw [testBit_bits, testBit_bits, testBit_putBits _ _ _ h]
  by_cases hi' : i < hi' + 1 - lo'
  · rw [if_neg (by omega)]
  · simp [hi']

theorem putBits_lt {n w v hi lo : Nat} (h : lo ≤ hi) (hw : hi < w) (hn : n < 2 ^ w) : putBits n hi lo v < 2 ^ w := by
  refine Nat.lt_pow_two_of_testBit _ fun i hi' => ?_
  rw [testBit_putBits _ _ _ h, if_neg (by omega)]
  exact Nat.testBit_lt_two_pow (Nat.lt_of_lt_of_le hn (Nat.pow_le_pow_right (by decide) hi'))

/-! ## Register words -/

theorem reg_lt (s : State) (a : Nat) : s.reg a < 2 ^ 32 := (tabGet (regReset a) s.regs a).isLt

/-- A register word just set reads as what was set. -/
theorem reg_setReg_self (s : State) (a v : Nat) : (s.setReg a v).reg a = v % 2 ^ 32 := by
  simp [State.reg, State.setReg]

/-- The other register words read as before. -/
theorem reg_setReg_ne (s : State) {a b : Nat} (v : Nat) (h : b ≠ a) : (s.setReg a v).reg b = s.reg b := by
  simp only [State.reg, State.setReg]
  unfold tabSet
  split
  · rw [tabGet_tabDel_ne _ _ h]
  · rw [tabGet_tabIns_ne _ _ _ h, tabGet_tabDel_ne _ _ h]

/-- Any register word after one is set. -/
theorem reg_setReg (s : State) (a b v : Nat) : (s.setReg a v).reg b = if b = a then v % 2 ^ 32 else s.reg b := by
  split
  · rename_i h; subst h; exact reg_setReg_self s _ v
  · rename_i h; exact reg_setReg_ne s v h

theorem reg_setFld_ne (s : State) {a b : Nat} (hi lo v : Nat) (h : b ≠ a) : (s.setFld a hi lo v).reg b = s.reg b :=
  reg_setReg_ne s _ h

/-- A field just set reads as what was set. -/
theorem fld_setFld_self (s : State) (a v : Nat) {hi lo : Nat} (h : lo ≤ hi) (h32 : hi < 32) :
    (s.setFld a hi lo v).fld a hi lo = v % 2 ^ (hi + 1 - lo) := by
  rw [State.fld, State.setFld, reg_setReg_self, Nat.mod_eq_of_lt (putBits_lt h h32 (reg_lt s a)), bits_putBits_self _ _ h]

/-- Another field of the word reads as before. -/
theorem fld_setFld_ne (s : State) (a v : Nat) {hi lo hi' lo' : Nat} (h : lo ≤ hi) (h32 : hi < 32)
    (hd : hi' < lo ∨ hi < lo') : (s.setFld a hi lo v).fld a hi' lo' = s.fld a hi' lo' := by
  rw [State.fld, State.setFld, reg_setReg_self, Nat.mod_eq_of_lt (putBits_lt h h32 (reg_lt s a)), bits_putBits_ne _ _ h hd,
    State.fld]

theorem rbit_setRbit_self (s : State) (a : Nat) {i : Nat} (b : Bool) (h : i < 32) : (s.setRbit a i b).rbit a i = b := by
  rw [State.rbit, State.setRbit, State.setFld, reg_setReg_self,
    Nat.mod_eq_of_lt (putBits_lt (Nat.le_refl _) h (reg_lt s a)), bit_eq_testBit, testBit_putBits _ _ _ (Nat.le_refl _)]
  cases b <;> simp

theorem rbit_setRbit_ne (s : State) (a : Nat) {i j : Nat} (b : Bool) (h : i < 32) (hj : j ≠ i) :
    (s.setRbit a i b).rbit a j = s.rbit a j := by
  rw [State.rbit, State.setRbit, State.setFld, reg_setReg_self,
    Nat.mod_eq_of_lt (putBits_lt (Nat.le_refl _) h (reg_lt s a)), bit_eq_testBit, testBit_putBits _ _ _ (Nat.le_refl _),
    if_neg (by omega), State.rbit, bit_eq_testBit]

/-- A 64-bit register just set reads as what was set. -/
theorem reg64_setReg64_self (s : State) (a v : Nat) : (s.setReg64 a v).reg64 a = v % 2 ^ 64 := by
  rw [State.reg64, State.setReg64, reg_setReg_self, reg_setReg_ne _ _ (by omega), reg_setReg_self]
  omega

theorem reg_setReg64_ne (s : State) {a b : Nat} (v : Nat) (h : b ≠ a) (h4 : b ≠ a + 4) : (s.setReg64 a v).reg b = s.reg b := by
  rw [State.setReg64, reg_setReg_ne _ _ h4, reg_setReg_ne _ _ h]

/-- A saturating counter counts one event. -/
theorem reg_bump_self (s : State) (a : Nat) : (s.bump a).reg a = min (s.reg a + 1) (2 ^ 32 - 1) := by
  rw [State.bump, State.bumpBy, reg_setReg_self, satAdd, Nat.mod_eq_of_lt]
  exact Nat.lt_of_le_of_lt (Nat.min_le_right _ _) (by decide)

theorem reg_bump_ne (s : State) {a b : Nat} (h : b ≠ a) : (s.bump a).reg b = s.reg b := reg_setReg_ne s _ h

/-! ## The canonical form -/

/-- The canonical form in terms of order and membership. -/
theorem regsWf_iff (t : Tab Word) : regsWf t = true ↔ TabRising t ∧ ∀ p ∈ t, p.2 ≠ regReset p.1 := by
  induction t with
  | nil => simp [regsWf, TabRising]
  | cons p t ih =>
    cases t with
    | nil => simp [regsWf, TabRising]
    | cons q t =>
      simp only [regsWf, Bool.and_eq_true, decide_eq_true_eq, Bool.not_eq_true', decide_eq_false_iff_not, ih, TabRising,
        List.pairwise_cons, List.mem_cons]
      constructor
      · rintro ⟨⟨hk, hv⟩, ⟨h1, h2⟩, h3⟩
        refine ⟨⟨?_, h1, h2⟩, ?_⟩
        · rintro r (rfl | hr)
          · exact hk
          · exact Nat.lt_trans hk (h1 r hr)
        · rintro r (rfl | hr)
          · exact hv
          · exact h3 r hr
      · rintro ⟨⟨h0, h1, h2⟩, h3⟩
        exact ⟨⟨h0 _ (.inl rfl), h3 _ (.inl rfl)⟩, ⟨h1, h2⟩, fun r hr => h3 r (.inr hr)⟩

theorem regsWf_filter {t : Tab Word} (p : Nat × Word → Bool) (h : regsWf t = true) : regsWf (t.filter p) = true := by
  rw [regsWf_iff] at h ⊢
  exact ⟨tabRising_filter p h.1, fun q hq => h.2 q (List.mem_filter.1 hq).1⟩

/-- Setting a register keeps the canonical form. -/
theorem regsWf_setReg (s : State) (a v : Nat) (h : regsWf s.regs = true) : regsWf (s.setReg a v).regs = true := by
  have hdel : regsWf (tabDel s.regs a) = true := regsWf_filter _ h
  simp only [State.setReg, tabSet]
  split
  · exact hdel
  · rename_i hv
    rw [regsWf_iff] at hdel ⊢
    refine ⟨tabRising_tabIns a _ hdel.1 (fun p hp => (mem_tabDel.1 hp).2), fun q hq => ?_⟩
    rcases mem_tabIns.1 hq with rfl | hq
    · exact hv
    · exact hdel.2 q hq

/-! ## Runs of registers -/

theorem reg_setRegWords_outside (s : State) (a n v : Nat) {b : Nat} (h : b < a ∨ a + 4 * n ≤ b) : (s.setRegWords a n v).reg b = s.reg b := by
  induction n generalizing s a v with
  | zero => rfl
  | succ n ih => rw [State.setRegWords, ih _ _ _ (by omega), reg_setReg_ne _ _ (by omega)]

/-- Register words read back what was set. -/
theorem regWords_setRegWords (s : State) (a n v : Nat) : (s.setRegWords a n v).regWords a n = v % 2 ^ (32 * n) := by
  induction n generalizing s a v with
  | zero => simp [State.regWords, Nat.mod_one]
  | succ n ih =>
    rw [State.regWords, State.setRegWords, reg_setRegWords_outside _ _ _ _ (by omega), reg_setReg_self, ih,
      show 32 * (n + 1) = 32 + 32 * n by omega, Nat.pow_add, Nat.mod_mul]
    simp

end Sys2Proof.Machine
end

