-- ==== Sys2Proof/Laws/Access.lean ====
section
/-!
SUPPORT. What an access to memory can do beside its answer: memory itself and the core caches change, errors are presented, the
counters POISON_READS and FENCE_ERRORS move, and nothing else does (R10, R25, R33, R35, R36).
-/
namespace Sys2Proof.Machine

/-- `t` differs from `s` at most as an access to memory makes it, a write if `wr`: a read leaves the core caches. -/
def AccessOnly (wr : Bool) (s t : State) : Prop :=
  (wr = false → t.ac = s.ac) ∧ (∀ r, r ≠ srlA 0x40 → r ≠ srlA 0x44 → t.reg r = s.reg r) ∧
  ∃ rg m ac a k l, t = { s with regs := rg, mem := m, ac := ac, resp := a, freeCtr := k
                                sorrel := { s.sorrel with presented := s.sorrel.presented ++ l } }

theorem AccessOnly.refl {wr : Bool} (s : State) : AccessOnly wr s s :=
  ⟨fun _ => rfl, fun _ _ _ => rfl, s.regs, s.mem, s.ac, s.resp, s.freeCtr, [], by simp⟩

theorem AccessOnly.trans {wr : Bool} {s t u : State} (h : AccessOnly wr s t) (h' : AccessOnly wr t u) : AccessOnly wr s u := by
  obtain ⟨hc, hr, rg, m, ac, a, k, l, rfl⟩ := h
  obtain ⟨hc', hr', rg', m', ac', a', k', l', rfl⟩ := h'
  exact ⟨fun e => (hc' e).trans (hc e), fun r h1 h2 => (hr' r h1 h2).trans (hr r h1 h2), rg', m', ac', a', k', l ++ l', by simp⟩

theorem AccessOnly.reg {wr : Bool} {s t : State} (h : AccessOnly wr s t) {r : Nat} (h1 : r ≠ srlA 0x40) (h2 : r ≠ srlA 0x44) :
    t.reg r = s.reg r := h.2.1 r h1 h2

theorem AccessOnly.foldl {wr : Bool} {α : Type} {f : State → α → State} (hf : ∀ s a, AccessOnly wr s (f s a)) (l : List α) (s : State) :
    AccessOnly wr s (l.foldl f s) := by
  induction l generalizing s with
  | nil => exact .refl s
  | cons a l ih => exact (hf s a).trans (ih _)

theorem accessOnly_mem {wr : Bool} (s : State) (m : MemState) : AccessOnly wr s { s with mem := m } := ⟨fun _ => rfl, fun _ _ _ => rfl, s.regs, m, s.ac, s.resp, s.freeCtr, [], by simp⟩
theorem accessOnly_ac (s : State) (a : Tab AcState) : AccessOnly true s { s with ac := a } :=
  ⟨nofun, fun _ _ _ => rfl, s.regs, s.mem, a, s.resp, s.freeCtr, [], by simp⟩
theorem accessOnly_answer {wr : Bool} (s : State) (r : Resp) : AccessOnly wr s (s.answer r) :=
  ⟨fun _ => rfl, fun _ _ _ => rfl, s.regs, s.mem, s.ac, r, s.freeCtr, [], by simp [State.answer]⟩
theorem accessOnly_present {wr : Bool} (s : State) (e : ErrEv) : AccessOnly wr s (s.present e) :=
  ⟨fun _ => rfl, fun _ _ _ => rfl, s.regs, s.mem, s.ac, s.resp, s.freeCtr, [(s.cycle, e)], rfl⟩

theorem accessOnly_bump {wr : Bool} (s : State) {a : Nat} (h : a = srlA 0x40 ∨ a = srlA 0x44) : AccessOnly wr s (s.bump a) := by
  refine ⟨fun _ => rfl, fun r h1 h2 => reg_bump_ne s ?_, (s.bump a).regs, s.mem, s.ac, s.resp, s.freeCtr, [], by simp [State.bump, State.bumpBy, State.setReg]⟩
  rcases h with rfl | rfl <;> assumption

theorem accessOnly_setWord {wr : Bool} (s : State) (w : Nat) (x : WordStat) : AccessOnly wr s (s.setWord w x) := accessOnly_mem s _
theorem accessOnly_rawWrite {wr : Bool} (s : State) (p : Nat) (d : List Byte) : AccessOnly wr s (s.rawWrite p d) := accessOnly_mem s _
theorem accessOnly_poisonWord {wr : Bool} (s : State) (w : Nat) : AccessOnly wr s (s.poisonWord w) :=
  (accessOnly_rawWrite s _ _).trans (accessOnly_setWord _ _ _)

theorem accessOnly_targetedScrub {wr : Bool} (s : State) (w : Nat) (mis : Option (List Byte)) : AccessOnly wr s (s.targetedScrub w mis) := by
  unfold State.targetedScrub
  dsimp only
  split
  · exact .refl s
  · split
    · exact (accessOnly_setWord s _ _).trans (accessOnly_present _ _)
    · split
      · exact ((accessOnly_rawWrite s _ _).trans (accessOnly_setWord _ _ _)).trans (accessOnly_present _ _)
      · exact accessOnly_poisonWord s w

theorem accessOnly_detectWord {wr : Bool} (s : State) (w : Nat) : AccessOnly wr s (s.detectWord w) := by
  unfold State.detectWord
  split
  · exact accessOnly_setWord s _ _
  · exact accessOnly_poisonWord s w

theorem accessOnly_decodeWords {wr : Bool} (s : State) (ini access : Nat) (ws : List Nat) : AccessOnly wr s (s.decodeWords ini access ws).1 := by
  unfold State.decodeWords
  have h0 : AccessOnly wr s (ws.foldl (fun s w => s.targetedScrub w none) s) := .foldl (fun s w => accessOnly_targetedScrub s w none) ws s
  generalize ws.foldl (fun s w => s.targetedScrub w none) s = u at h0
  dsimp only
  have h1 : AccessOnly wr s (if ws.any (fun w => (u.word w).poison) then u.bump (srlA 0x40) else u) := by
    split
    · exact h0.trans (accessOnly_bump u (.inl rfl))
    · exact h0
  generalize (if ws.any (fun w => (u.word w).poison) then u.bump (srlA 0x40) else u) = v at h1
  split
  · exact h1
  · refine (h1.trans (accessOnly_present v _)).trans (.foldl (fun s w => ?_) ws _)
    split
    · exact .refl s
    · split
      · exact accessOnly_setWord s _ _
      · exact accessOnly_detectWord s w

theorem accessOnly_accessError {wr : Bool} (s : State) (source access ini addr : Nat) : AccessOnly wr s (s.accessError source access ini addr) :=
  (accessOnly_present s _).trans (accessOnly_answer _ _)

theorem accessOnly_accessCheck {wr : Bool} (s : State) (ini access a n : Nat) : AccessOnly wr s (s.accessCheck ini access a n).1 := by
  unfold State.accessCheck
  split
  · exact accessOnly_accessError s _ _ _ _
  · split
    · exact accessOnly_accessError s _ _ _ _
    · split
      · exact accessOnly_answer s _
      · split
        · split
          · exact (accessOnly_bump s (.inr rfl)).trans (accessOnly_answer _ _)
          · exact ((accessOnly_mem s _).trans (accessOnly_present _ _)).trans (accessOnly_answer _ _)
        · exact .refl s

theorem accessOnly_codedError {wr : Bool} (s : State) (ini : Nat) (bs : List Nat) : AccessOnly wr s (s.codedError ini bs) := by
  unfold State.codedError
  dsimp only
  have h0 : AccessOnly wr s (if bs.any (fun b => bit (s.region (regionOf b)).failed (b % 0x200000 / 0x10000)) then s.bump (srlA 0x40) else s) := by
    split
    · exact accessOnly_bump s (.inl rfl)
    · exact .refl s
  generalize (if bs.any (fun b => bit (s.region (regionOf b)).failed (b % 0x200000 / 0x10000)) then s.bump (srlA 0x40) else s) = u at h0
  split
  · exact h0
  · exact (h0.trans (accessOnly_present u _)).trans (.foldl (fun s b => accessOnly_mem s _) _ _)

/-- A read of memory. -/
theorem accessOnly_memRead {wr : Bool} (s : State) (ini a n : Nat) : AccessOnly wr s (s.memRead ini a n).1 := by
  unfold State.memRead
  have h0 := accessOnly_accessCheck (wr := wr) s ini 0 a n
  generalize s.accessCheck ini 0 a n = c at h0
  obtain ⟨u, ok⟩ := c
  dsimp only at h0 ⊢
  split
  · exact h0
  · have h1 := accessOnly_decodeWords (wr := wr) u ini 0 (u.readWords (u.phys a) n)
    generalize u.decodeWords ini 0 (u.readWords (u.phys a) n) = c at h1
    obtain ⟨v, ok'⟩ := c
    dsimp only at h1 ⊢
    split
    · exact (h0.trans h1).trans (accessOnly_answer v _)
    · split
      · exact h0.trans h1
      · exact ((h0.trans h1).trans (accessOnly_codedError v ini _)).trans (accessOnly_answer _ _)

theorem accessOnly_cellWrite {wr : Bool} (s : State) (p : Nat) (d : List Byte) : AccessOnly wr s (s.cellWrite p d) := by
  unfold State.cellWrite
  exact ((AccessOnly.foldl (fun s w => accessOnly_targetedScrub s w none) _ s).trans (accessOnly_mem _ _)).trans (accessOnly_rawWrite _ _ _)

theorem accessOnly_dropLines (s : State) (i p n : Nat) : AccessOnly true s (s.dropLines i p n) := by
  unfold State.dropLines
  dsimp only
  split
  · exact (AccessOnly.foldl (fun s (l : CacheLine) => accessOnly_cellWrite s l.addr l.data) _ s).trans (accessOnly_ac _ _)
  · exact .foldl (fun s (l : CacheLine) => accessOnly_cellWrite s l.addr l.data) _ s

theorem accessOnly_snoop (s : State) (ini p n : Nat) : AccessOnly true s (s.snoop ini p n) := by
  unfold State.snoop
  split
  · dsimp only
    split <;> split
    · exact .refl s
    · exact accessOnly_dropLines s _ _ _
    · exact accessOnly_dropLines s _ _ _
    · exact (accessOnly_dropLines s _ _ _).trans (accessOnly_dropLines _ _ _ _)
  · exact .refl s

/-- A write to memory. -/
theorem accessOnly_memWrite (s : State) (ini a : Nat) (data : List Byte) : AccessOnly true s (s.memWrite ini a data).1 := by
  unfold State.memWrite
  dsimp only
  have h0 := accessOnly_accessCheck (wr := true) s ini 1 a data.length
  generalize s.accessCheck ini 1 a data.length = c at h0
  obtain ⟨u, ok⟩ := c
  dsimp only at h0 ⊢
  split
  · exact h0
  · split
    · exact h0.trans (accessOnly_accessError u _ _ _ _)
    · split
      · exact h0.trans (accessOnly_accessError u _ _ _ _)
      · have h1 := h0.trans (accessOnly_snoop u ini (u.phys a) data.length)
        generalize u.snoop ini (u.phys a) data.length = v at h1
        generalize (List.filter (fun w => !coveredWord (u.phys a) data.length w) (v.badWords _ _)) = rmw
        have h2 := h1.trans (accessOnly_decodeWords v ini 2 rmw)
        generalize v.decodeWords ini 2 rmw = c at h2
        obtain ⟨x, ok'⟩ := c
        dsimp only at h2 ⊢
        have h3 : AccessOnly true s (rmw.foldl (fun s w => if (s.word w).sym = 1 then s.setWord w {} else s) x) :=
          h2.trans (.foldl (fun s w => by
            split
            · exact accessOnly_setWord s _ _
            · exact .refl s) rmw x)
        generalize rmw.foldl (fun s w => if (s.word w).sym = 1 then s.setWord w {} else s) x = y at h3
        have h4 : ∀ old : List (Nat × List Byte), AccessOnly true s (old.foldl (fun s e => s.rawWrite e.1 e.2) (y.cellWrite (u.phys a) data)) := fun old =>
          (h3.trans (accessOnly_cellWrite y _ _)).trans (.foldl (fun s e => accessOnly_rawWrite s _ _) _ _)
        split
        · exact h4 _
        · exact (h4 _).trans (accessOnly_answer _ _)

/-- An answer and free values taken beside an access. -/
theorem AccessOnly.aside {wr : Bool} {s t : State} (h : AccessOnly wr s t) (r : Resp) (k : Nat) : AccessOnly wr s { t with resp := r, freeCtr := k } := by
  obtain ⟨hc, hr, rg, m, ac, a, k', l, rfl⟩ := h
  exact ⟨hc, hr, rg, m, ac, r, k, l, rfl⟩

/-- What a unit's read leaves: the sender's answer stays. -/
theorem accessOnly_unitRead {wr : Bool} (s : State) (ini a n : Nat) : AccessOnly wr s (s.unitRead ini a n) := by
  unfold State.unitRead
  have h := accessOnly_memRead (wr := wr) s ini a n
  generalize s.memRead ini a n = c at h ⊢
  exact h.aside s.resp _

/-- What several reads of a unit leave. -/
theorem accessOnly_unitReads {wr : Bool} (s : State) (ini : Nat) (rs : List (Nat × Nat)) : AccessOnly wr s (s.unitReads ini rs) := by
  unfold State.unitReads
  exact AccessOnly.foldl (f := fun s (r : Nat × Nat) => s.unitRead ini r.1 r.2) (fun s r => accessOnly_unitRead s ini r.1 r.2) rs s

/-- A unit's write. -/
theorem accessOnly_unitWrite (s : State) (ini a : Nat) (d : List Byte) : AccessOnly true s (s.unitWrite ini a d) := by
  unfold State.unitWrite
  have h := accessOnly_memWrite s ini a d
  generalize s.memWrite ini a d = c at h ⊢
  exact h.aside s.resp c.1.freeCtr

/-- A unit's access leaves the answer of the command's sender. -/
@[simp] theorem unitRead_resp (s : State) (ini a n : Nat) : (s.unitRead ini a n).resp = s.resp := rfl
@[simp] theorem unitWrite_resp (s : State) (ini a : Nat) (d : List Byte) : (s.unitWrite ini a d).resp = s.resp := rfl

end Sys2Proof.Machine
end

