-- ==== Sys2Proof/Laws/Memory.lean ====
section
/-!
SUPPORT. Memory: reading after writing, what a write leaves alone, and the canonical form, which every memory operation keeps.
-/
namespace Sys2Proof.Machine

theorem tabWf_cellsWrite {m : List Host.Cell} (a : Nat) (l : List Byte) (h : tabWf 0 m = true) :
    tabWf 0 (cellsWrite m a l) = true := by
  induction l generalizing m a with
  | nil => exact h
  | cons b t ih => exact ih (a + 1) (tabWf_tabSet 0 a b h)

theorem tabWf_cellsZero {m : List Host.Cell} (a n : Nat) (h : tabWf 0 m = true) : tabWf 0 (cellsZero m a n) = true :=
  tabWf_filter 0 _ h

/-- A byte outside the written range reads as before. -/
theorem cellsWrite_outside (m : List Host.Cell) {a p : Nat} (l : List Byte) (h : p < a ∨ a + l.length ≤ p) :
    tabGet 0 (cellsWrite m a l) p = tabGet 0 m p := by
  induction l generalizing m a with
  | nil => rfl
  | cons b t ih =>
    rw [List.length_cons] at h
    rw [cellsWrite, ih _ (by omega), tabGet_tabSet_ne 0 m b (by omega)]

/-- A byte of the written range reads as what was written. -/
theorem cellsWrite_inside (m : List Host.Cell) (a : Nat) (l : List Byte) {i : Nat} (h : i < l.length) :
    tabGet 0 (cellsWrite m a l) (a + i) = l[i] := by
  induction l generalizing m a i with
  | nil => simp at h
  | cons b t ih =>
    rw [cellsWrite]
    cases i with
    | zero => rw [cellsWrite_outside _ _ (by omega)]; simp
    | succ j =>
      have := ih (tabSet 0 m a b) (a + 1) (i := j) (by simpa using h)
      rw [show a + 1 + j = a + (j + 1) by omega] at this
      simpa using this

/-- A read of a range just written gives what was written. -/
theorem cellsRead_cellsWrite (m : List Host.Cell) (a : Nat) (l : List Byte) : cellsRead (cellsWrite m a l) a l.length = l := by
  have key : ∀ n k, k + n = l.length → cellsRead (cellsWrite m a l) (a + k) n = l.drop k := by
    intro n
    induction n with
    | zero => intro k hk; rw [List.drop_eq_nil_of_le (by omega)]; rfl
    | succ n ih =>
      intro k hk
      rw [cellsRead, cellsWrite_inside m a l (i := k) (by omega), List.drop_eq_getElem_cons (by omega)]
      congr 1
      exact ih (k + 1) (by omega)
  simpa using key l.length 0 (by omega)

theorem tabGet_filter (t : List Host.Cell) (p : Nat → Bool) (n : Nat) :
    tabGet (0 : Byte) (t.filter (fun e => p e.1)) n = if p n then tabGet 0 t n else 0 := by
  generalize (0 : Byte) = d
  induction t with
  | nil => simp [tabGet]
  | cons q t ih =>
    by_cases hq : p q.1
    · by_cases e : n = q.1
      · simp [hq, tabGet, e]
      · simp [hq, tabGet, e, ih]
    · by_cases e : n = q.1
      · subst e; simpa [hq] using ih
      · simp [hq, tabGet, e, ih]

/-- Zeroing a range: its bytes read as 0, every other byte as before. -/
theorem tabGet_cellsZero (m : List Host.Cell) (a n p : Nat) :
    tabGet 0 (cellsZero m a n) p = if a ≤ p ∧ p < a + n then 0 else tabGet 0 m p := by
  have := tabGet_filter m (fun k => decide (k < a) || decide (a + n ≤ k)) p
  rw [cellsZero, this]
  by_cases h : a ≤ p ∧ p < a + n
  · rw [if_pos h, if_neg]; simp; omega
  · rw [if_neg h, if_pos]; simp; omega

/-- The four tables of a canonical memory. -/
theorem memory_wf_iff (m : MemState) : Memory.wf m = true ↔
    tabWf 0 m.cells = true ∧ tabWf {} m.ecc = true ∧ tabWf 0 m.nand = true ∧ tabWf 0 m.host = true := by
  simp [Memory.wf, and_assoc]

/-- Every word is clean when the protection code's table lists nothing. -/
theorem word_of_no_ecc {s : State} (h : s.mem.ecc = []) (w : Nat) : s.word w = {} := by simp [State.word, h, tabGet]

/-- No word of a list is in error when the table lists nothing. -/
theorem worstWord_of_no_ecc {s : State} (h : s.mem.ecc = []) (ws : List Nat) : s.worstWord ws = (0, 0) := by
  unfold State.worstWord
  generalize hb : ((0 : Nat), (0 : Nat)) = b
  induction ws generalizing b with
  | nil => rfl
  | cons w ws ih => subst hb; simpa [word_of_no_ecc h] using ih _ rfl

/-- Decoding clean words changes nothing and lets the access deliver its data. -/
theorem decodeWords_of_no_ecc {s : State} (h : s.mem.ecc = []) (ini access : Nat) (ws : List Nat) :
    s.decodeWords ini access ws = (s, true) := by
  have hf : ws.foldl (fun s w => s.targetedScrub w none) s = s := by
    induction ws with
    | nil => rfl
    | cons w ws ih => simpa [State.targetedScrub, word_of_no_ecc h] using ih
  simp [State.decodeWords, hf, word_of_no_ecc h, worstWord_of_no_ecc h]

/-- The checks that every access meets change nothing where they let it pass. -/
theorem accessCheck_ok {s : State} {ini access a n : Nat} (h : (s.accessCheck ini access a n).2 = true) :
    s.accessCheck ini access a n = (s, true) := by
  revert h
  unfold State.accessCheck
  repeat' split
  all_goals first | exact fun h => absurd h Bool.false_ne_true | exact fun _ => rfl

/-- A read of clean memory that delivers data changes nothing. -/
theorem memRead_of_no_ecc {s : State} {ini a n : Nat} {b : List Byte} (h : s.mem.ecc = [])
    (hb : (s.memRead ini a n).2 = some b) : s.memRead ini a n = (s, some b) := by
  have hc : s.accessCheck ini 0 a n = (s, true) := by
    apply accessCheck_ok
    cases hn : (s.accessCheck ini 0 a n).2 with
    | true => rfl
    | false => simp [State.memRead, hn] at hb
  simp only [State.memRead, hc, decodeWords_of_no_ecc h] at hb ⊢
  cases hf : s.codedFail (s.phys a) n <;> simp_all

/-- A read of clean memory that the checks let pass, of no damaged coded block, delivers the bytes and changes nothing. -/
theorem memRead_clean {s : State} {ini a n : Nat} (h : s.mem.ecc = []) (hc : (s.accessCheck ini 0 a n).2 = true)
    (hf : s.codedFail (s.phys a) n = []) : s.memRead ini a n = (s, some (s.visRead (s.phys a) n)) := by
  simp [State.memRead, accessCheck_ok hc, decodeWords_of_no_ecc h, hf]

/-! ## Byte lists -/

@[simp] theorem length_natLe (n v : Nat) : (natLe n v).length = n := by
  induction n generalizing v with
  | zero => rfl
  | succ n ih => simp [natLe, ih]

/-- The value of a number's little-endian bytes. -/
theorem leNat_natLe (n v : Nat) : leNat (natLe n v) = v % 256 ^ n := by
  induction n generalizing v with
  | zero => simp [natLe, leNat, Nat.mod_one]
  | succ n ih =>
    rw [natLe, leNat, ih, Nat.pow_succ', Nat.mod_mul]
    simp [BitVec.toNat_ofNat]

@[simp] theorem length_rawRead (s : State) (p n : Nat) : (s.rawRead p n).length = n := by
  induction n generalizing p with
  | zero => rfl
  | succ n ih => simp [State.rawRead, ih]

theorem rawRead_drop (s : State) (p n o : Nat) : (s.rawRead p n).drop o = s.rawRead (p + o) (n - o) := by
  induction o generalizing p n with
  | zero => simp
  | succ o ih =>
    cases n with
    | zero => simp [State.rawRead]
    | succ n => simp [State.rawRead, ih, Nat.add_assoc, Nat.add_comm 1]

theorem rawRead_take (s : State) (p n k : Nat) (h : k ≤ n) : (s.rawRead p n).take k = s.rawRead p k := by
  induction k generalizing p n with
  | zero => simp [State.rawRead]
  | succ k ih =>
    cases n with
    | zero => omega
    | succ n => simp [State.rawRead, ih _ _ (Nat.le_of_succ_le_succ h)]

/-- A part of a range of memory is that range of memory. -/
theorem slice_rawRead (s : State) (p n o k : Nat) (h : o + k ≤ n) : slice (s.rawRead p n) o k = s.rawRead (p + o) k := by
  simp [slice, rawRead_drop, rawRead_take _ _ _ _ (show k ≤ n - o by omega), zeros]

theorem leNat_lt (l : List Byte) : leNat l < 256 ^ l.length := by
  induction l with
  | nil => simp [leNat]
  | cons b l ih =>
    have := b.isLt
    rw [leNat, List.length_cons, Nat.pow_succ]
    omega

/-- A byte list is the bytes of its value. -/
theorem natLe_leNat (l : List Byte) : natLe l.length (leNat l) = l := by
  induction l with
  | nil => rfl
  | cons b l ih =>
    have := b.isLt
    rw [List.length_cons, natLe, leNat, show (b.toNat + 256 * leNat l) / 256 = leNat l by omega, ih]
    congr 1
    apply BitVec.eq_of_toNat_eq
    simp
    omega

end Sys2Proof.Machine
end

