-- ==== Sys2Proof/Laws/Keeps.lean ====
section
/-!
SUPPORT. What every operation keeps: the queue of waiting commands, the canonical form of memory and the canonical form of the
register file. `Keeps s₀ s` says it of `s` seen from `s₀`; one lemma per operation follows in the files `Laws/Keeps*.lean`.
-/
namespace Sys2Proof.Machine

/-- The queue of `s` is that of `s₀`, and `s` is canonical where `s₀` is. -/
structure Keeps (s₀ s : State) : Prop where
  pending : s.pending = s₀.pending
  mem : Memory.wf s₀.mem = true → Memory.wf s.mem = true
  regs : regsWf s₀.regs = true → regsWf s.regs = true

/-- An outcome whose next state, if it is one, keeps all. -/
structure KeepsO (s₀ : State) (o : Host.Outcome State Fault Refusal) : Prop where
  next : ∀ t, o = .next t → Keeps s₀ t

theorem keeps_refl (s : State) : Keeps s s := ⟨rfl, id, id⟩

theorem Keeps.trans {s₀ s₁ s : State} (h₁ : Keeps s₀ s₁) (h : Keeps s₁ s) : Keeps s₀ s :=
  ⟨h.pending.trans h₁.pending, h.mem ∘ h₁.mem, h.regs ∘ h₁.regs⟩

theorem keepsO_next {s₀ s : State} (h : Keeps s₀ s) : KeepsO s₀ (.next s) := by
  refine ⟨fun t e => ?_⟩
  cases e
  exact h

/-- An update of other fields. -/
theorem keeps_mk {s₀ s : State} {x_cycle x_timeNs x_timeRem x_slew x_latch x_resp x_freeCtr x_ac x_sorrel x_dill x_tile x_images x_sync
    x_barriers x_job x_tenants x_nandModel x_nandScratch x_thy x_fp1 x_serve x_video x_host x_sage x_upd x_nvs
    x_start x_log x_power x_ring x_tap x_sent} (h : Keeps s₀ s) :
    Keeps s₀ ⟨s.pending, x_cycle, x_timeNs, x_timeRem, x_slew, s.regs, x_latch, x_resp, x_freeCtr, s.mem, x_ac, x_sorrel,
    x_dill, x_tile, x_images, x_sync, x_barriers, x_job, x_tenants, x_nandModel, x_nandScratch, x_thy, x_fp1,
    x_serve, x_video, x_host, x_sage, x_upd, x_nvs, x_start, x_log, x_power, x_ring, x_tap, x_sent⟩ := ⟨h.pending, h.mem, h.regs⟩

theorem keeps_mk_iff {s₀ s : State} {x_cycle x_timeNs x_timeRem x_slew x_latch x_resp x_freeCtr x_ac x_sorrel x_dill x_tile x_images x_sync
    x_barriers x_job x_tenants x_nandModel x_nandScratch x_thy x_fp1 x_serve x_video x_host x_sage x_upd x_nvs
    x_start x_log x_power x_ring x_tap x_sent} :
    Keeps s₀ ⟨s.pending, x_cycle, x_timeNs, x_timeRem, x_slew, s.regs, x_latch, x_resp, x_freeCtr, s.mem, x_ac, x_sorrel,
    x_dill, x_tile, x_images, x_sync, x_barriers, x_job, x_tenants, x_nandModel, x_nandScratch, x_thy, x_fp1,
    x_serve, x_video, x_host, x_sage, x_upd, x_nvs, x_start, x_log, x_power, x_ring, x_tap, x_sent⟩ ↔ Keeps s₀ s := ⟨fun h => ⟨h.pending, h.mem, h.regs⟩, fun h => ⟨h.pending, h.mem, h.regs⟩⟩

/-- An update of the tables of memory that have no canonical form, and of other fields. -/
theorem keeps_mem_iff {s₀ s : State} {y₀ y₁ y₂ y₃ y₄ y₅ x_cycle x_timeNs x_timeRem x_slew x_latch x_resp x_freeCtr x_ac x_sorrel x_dill x_tile x_images x_sync
    x_barriers x_job x_tenants x_nandModel x_nandScratch x_thy x_fp1 x_serve x_video x_host x_sage x_upd x_nvs
    x_start x_log x_power x_ring x_tap x_sent} :
    Keeps s₀ ⟨s.pending, x_cycle, x_timeNs, x_timeRem, x_slew, s.regs, x_latch, x_resp, x_freeCtr, ⟨s.mem.cells, s.mem.ecc,
    s.mem.nand, y₀, s.mem.host, y₁, y₂, y₃, y₄, y₅⟩, x_ac, x_sorrel, x_dill, x_tile, x_images, x_sync, x_barriers,
    x_job, x_tenants, x_nandModel, x_nandScratch, x_thy, x_fp1, x_serve, x_video, x_host, x_sage, x_upd, x_nvs,
    x_start, x_log, x_power, x_ring, x_tap, x_sent⟩ ↔ Keeps s₀ s := ⟨fun h => ⟨h.pending, h.mem, h.regs⟩, fun h => ⟨h.pending, h.mem, h.regs⟩⟩

/-- An update of memory and other fields. -/
theorem keeps_mkMem {s₀ s : State} {m x_cycle x_timeNs x_timeRem x_slew x_latch x_resp x_freeCtr x_ac x_sorrel x_dill x_tile x_images x_sync
    x_barriers x_job x_tenants x_nandModel x_nandScratch x_thy x_fp1 x_serve x_video x_host x_sage x_upd x_nvs
    x_start x_log x_power x_ring x_tap x_sent} (h : Keeps s₀ s)
    (hm : Memory.wf s.mem = true → Memory.wf m = true) :
    Keeps s₀ ⟨s.pending, x_cycle, x_timeNs, x_timeRem, x_slew, s.regs, x_latch, x_resp, x_freeCtr, m, x_ac, x_sorrel,
    x_dill, x_tile, x_images, x_sync, x_barriers, x_job, x_tenants, x_nandModel, x_nandScratch, x_thy, x_fp1,
    x_serve, x_video, x_host, x_sage, x_upd, x_nvs, x_start, x_log, x_power, x_ring, x_tap, x_sent⟩ := ⟨h.pending, hm ∘ h.mem, h.regs⟩

/-- An update of the register file and other fields. -/
theorem keeps_mkRegs {s₀ s : State} {r x_cycle x_timeNs x_timeRem x_slew x_latch x_resp x_freeCtr x_ac x_sorrel x_dill x_tile x_images x_sync
    x_barriers x_job x_tenants x_nandModel x_nandScratch x_thy x_fp1 x_serve x_video x_host x_sage x_upd x_nvs
    x_start x_log x_power x_ring x_tap x_sent} (h : Keeps s₀ s)
    (hr : regsWf s.regs = true → regsWf r = true) :
    Keeps s₀ ⟨s.pending, x_cycle, x_timeNs, x_timeRem, x_slew, r, x_latch, x_resp, x_freeCtr, s.mem, x_ac, x_sorrel,
    x_dill, x_tile, x_images, x_sync, x_barriers, x_job, x_tenants, x_nandModel, x_nandScratch, x_thy, x_fp1,
    x_serve, x_video, x_host, x_sage, x_upd, x_nvs, x_start, x_log, x_power, x_ring, x_tap, x_sent⟩ := ⟨h.pending, h.mem, hr ∘ h.regs⟩

/-- The state of an answer that was taken apart. -/
theorem keeps_fst {β : Type} {s₀ r : State} {x : β} {p : State × β} (h : Keeps s₀ p.1) (e : p = (r, x)) : Keeps s₀ r := by
  rw [e] at h
  exact h

theorem keeps_foldl {α : Type} {s₀ s : State} (f : State → α → State) (l : List α)
    (hf : ∀ a x, Keeps s₀ a → Keeps s₀ (f a x)) (h : Keeps s₀ s) : Keeps s₀ (l.foldl f s) := by
  induction l generalizing s with
  | nil => exact h
  | cons x t ih => exact ih (hf s x h)

theorem keeps_foldlP {α β : Type} {s₀ : State} {p : State × β} (f : State × β → α → State × β) (l : List α)
    (hf : ∀ a x, Keeps s₀ a.1 → Keeps s₀ (f a x).1) (h : Keeps s₀ p.1) : Keeps s₀ (l.foldl f p).1 := by
  induction l generalizing p with
  | nil => exact h
  | cons x t ih => exact ih (hf p x h)

theorem keeps_ite {s₀ s t : State} {c : Prop} [Decidable c] (h : Keeps s₀ s) (h' : Keeps s₀ t) : Keeps s₀ (if c then s else t) := by
  split
  · exact h
  · exact h'

/-- A fold over a structure that holds a state. -/
theorem keeps_foldlR {α β : Type} (proj : β → State) {s₀ : State} {p : β} (f : β → α → β) (l : List α)
    (hf : ∀ a x, Keeps s₀ (proj a) → Keeps s₀ (proj (f a x))) (h : Keeps s₀ (proj p)) : Keeps s₀ (proj (l.foldl f p)) := by
  induction l generalizing p with
  | nil => exact h
  | cons x t ih => exact ih (hf p x h)

theorem keeps_iteR {β : Type} (proj : β → State) {s₀ : State} {s t : β} {c : Prop} [Decidable c] (h : Keeps s₀ (proj s))
    (h' : Keeps s₀ (proj t)) : Keeps s₀ (proj (if c then s else t)) := by
  split
  · exact h
  · exact h'

theorem keeps_iteP {β : Type} {s₀ : State} {s t : State × β} {c : Prop} [Decidable c] (h : Keeps s₀ s.1)
    (h' : Keeps s₀ t.1) : Keeps s₀ (if c then s else t).1 := by
  split
  · exact h
  · exact h'

theorem keeps_setReg {s₀ s : State} (a v : Nat) (h : Keeps s₀ s) : Keeps s₀ (s.setReg a v) :=
  ⟨h.pending, h.mem, fun w => regsWf_setReg s a v (h.regs w)⟩

end Sys2Proof.Machine
end

