-- ==== Sys2Proof/Laws/KeepsOps.lean ====
section
/-!
SUPPORT. What the operations of `Machine/Ops.lean` keep (see `Laws/Keeps.lean`): one lemma per operation.
-/
namespace Sys2Proof.Machine

theorem keeps_setReg64 : ∀ {s₀ a0} a1 a2, Keeps s₀ a0 → Keeps s₀ (State.setReg64 a0 a1 a2) := by
  intro s₀ a0 a1 a2 h
  unfold State.setReg64
  repeat' first
    | with_reducible (first | assumption | apply keeps_setReg)

theorem keeps_setFld : ∀ {s₀ a0} a1 a2 a3 a4, Keeps s₀ a0 → Keeps s₀ (State.setFld a0 a1 a2 a3 a4) := by
  intro s₀ a0 a1 a2 a3 a4 h
  unfold State.setFld
  repeat' first
    | with_reducible (first | assumption | apply keeps_setReg)

theorem keeps_setRbit : ∀ {s₀ a0} a1 a2 a3, Keeps s₀ a0 → Keeps s₀ (State.setRbit a0 a1 a2 a3) := by
  intro s₀ a0 a1 a2 a3 h
  unfold State.setRbit
  repeat' first
    | with_reducible (first | assumption | apply keeps_setFld)
    | split

theorem keeps_bumpBy : ∀ {s₀ a0} a1 a2, Keeps s₀ a0 → Keeps s₀ (State.bumpBy a0 a1 a2) := by
  intro s₀ a0 a1 a2 h
  unfold State.bumpBy
  repeat' first
    | with_reducible (first | assumption | apply keeps_setReg)

theorem keeps_bump : ∀ {s₀ a0} a1, Keeps s₀ a0 → Keeps s₀ (State.bump a0 a1) := by
  intro s₀ a0 a1 h
  unfold State.bump
  repeat' first
    | with_reducible (first | assumption | apply keeps_bumpBy)

theorem keeps_bump64By : ∀ {s₀ a0} a1 a2, Keeps s₀ a0 → Keeps s₀ (State.bump64By a0 a1 a2) := by
  intro s₀ a0 a1 a2 h
  unfold State.bump64By
  repeat' first
    | with_reducible (first | assumption | apply keeps_setReg64)

theorem keeps_bumpFld : ∀ {s₀ a0} a1 a2 a3, Keeps s₀ a0 → Keeps s₀ (State.bumpFld a0 a1 a2 a3) := by
  intro s₀ a0 a1 a2 a3 h
  unfold State.bumpFld
  repeat' first
    | with_reducible (first | assumption | apply keeps_setFld)

theorem keeps_setRegWords {s₀ s : State} (a n v : Nat) (h : Keeps s₀ s) : Keeps s₀ (s.setRegWords a n v) := by
  induction n generalizing s a v with
  | zero => exact h
  | succ n ih => exact ih _ _ (keeps_setReg _ _ h)

theorem keeps_resetRegs {s₀ s : State} (a b : Nat) (h : Keeps s₀ s) : Keeps s₀ (s.resetRegs a b) :=
  keeps_mkRegs h (regsWf_filter _)

theorem keeps_answer : ∀ {s₀ a0} a1, Keeps s₀ a0 → Keeps s₀ (State.answer a0 a1) := by
  intro s₀ a0 a1 h
  unfold State.answer
  repeat' first
    | with_reducible (first | assumption)
    | simp only [keeps_mk_iff]

theorem keeps_present : ∀ {s₀ a0} a1, Keeps s₀ a0 → Keeps s₀ (State.present a0 a1) := by
  intro s₀ a0 a1 h
  unfold State.present
  repeat' first
    | with_reducible (first | assumption)
    | simp only [keeps_mk_iff]

theorem keeps_presentHub : ∀ {s₀ a0} a1 a2 a3 a4 a5 a6, Keeps s₀ a0 → Keeps s₀ (State.presentHub a0 a1 a2 a3 a4 a5 a6) := by
  intro s₀ a0 a1 a2 a3 a4 a5 a6 h
  unfold State.presentHub
  repeat' first
    | with_reducible (first | assumption | apply keeps_present)

theorem keeps_accessError : ∀ {s₀ a0} a1 a2 a3 a4, Keeps s₀ a0 → Keeps s₀ (State.accessError a0 a1 a2 a3 a4) := by
  intro s₀ a0 a1 a2 a3 a4 h
  unfold State.accessError
  repeat' first
    | with_reducible (first | assumption | apply keeps_answer | apply keeps_presentHub)
    | simp only [keeps_mk_iff]

theorem keeps_setTenant : ∀ {s₀ a0} a1 a2, Keeps s₀ a0 → Keeps s₀ (State.setTenant a0 a1 a2) := by
  intro s₀ a0 a1 a2 h
  unfold State.setTenant
  repeat' first
    | with_reducible (first | assumption)
    | simp only [keeps_mk_iff]

theorem keeps_guarded {s₀ s f : State} (right : Bool) (ini addr : Nat) (h : Keeps s₀ s) (hf : Keeps s₀ f) :
    Keeps s₀ (s.guarded right ini addr f) := by
  unfold State.guarded
  split
  · exact keeps_answer _ h
  · split
    · exact keeps_answer _ hf
    · exact keeps_accessError _ _ _ _ h

theorem keeps_free : ∀ {s₀ a0} a1, Keeps s₀ a0 → Keeps s₀ (State.free a0 a1).1 := by
  intro s₀ a0 a1 h
  unfold State.free
  repeat' first
    | with_reducible (first | assumption | apply keeps_iteP)
    | simp only [keeps_mk_iff]

theorem keeps_send : ∀ {s₀ a0} a1, Keeps s₀ a0 → Keeps s₀ (State.send a0 a1) := by
  intro s₀ a0 a1 h
  unfold State.send
  repeat' first
    | with_reducible (first | assumption)
    | simp only [keeps_mk_iff]

end Sys2Proof.Machine
end

