-- ==== Sys2Proof/Laws/KeepsMemOps.lean ====
section
/-!
SUPPORT. What the operations of `Machine/MemOps.lean` keep (see `Laws/Keeps.lean`): one lemma per operation.
-/
namespace Sys2Proof.Machine

/-- An update of the region table alone. -/
theorem keeps_regions {s₀ s : State} (r : Tab Region) (h : Keeps s₀ s) :
    Keeps s₀ { s with mem := { s.mem with regions := r } } := keeps_mkMem h id

theorem keeps_setRegion {s₀ s : State} (r : Nat) (e : Region) (h : Keeps s₀ s) : Keeps s₀ (s.setRegion r e) :=
  keeps_regions _ h

theorem keeps_acSet : ∀ {s₀ a0} a1 a2, Keeps s₀ a0 → Keeps s₀ (State.acSet a0 a1 a2) := by
  intro s₀ a0 a1 a2 h
  unfold State.acSet
  repeat' first
    | with_reducible (first | assumption)
    | simp only [keeps_mk_iff]

theorem keeps_rawWrite {s₀ s : State} (p : Nat) (data : List Byte) (h : Keeps s₀ s) : Keeps s₀ (s.rawWrite p data) :=
  keeps_mkMem h (fun w => by
    rw [memory_wf_iff] at w ⊢
    exact ⟨tabWf_cellsWrite p data w.1, w.2⟩)

theorem keeps_setWord {s₀ s : State} (n : Nat) (x : WordStat) (h : Keeps s₀ s) : Keeps s₀ (s.setWord n x) :=
  keeps_mkMem h (fun w => by
    rw [memory_wf_iff] at w ⊢
    exact ⟨w.1, tabWf_tabSet _ n x w.2.1, w.2.2⟩)

theorem keeps_upset : ∀ {s₀ a0} a1, Keeps s₀ a0 → Keeps s₀ (State.upset a0 a1) := by
  intro s₀ a0 a1 h
  unfold State.upset
  try dsimp only
  repeat' first
    | with_reducible (first | assumption | refine keeps_fst ?_ (by assumption) | apply keeps_rawWrite
                            | apply keeps_setWord | apply keeps_presentHub | apply keeps_bump | apply keeps_ite)
    | simp only [keeps_mk_iff]
    | with_reducible apply keeps_foldl
    | with_reducible apply keeps_foldlP
    | (intro _ _ _; try dsimp only)
    | (intro _ _; try dsimp only)
    | split

theorem keeps_poisonWord : ∀ {s₀ a0} a1, Keeps s₀ a0 → Keeps s₀ (State.poisonWord a0 a1) := by
  intro s₀ a0 a1 h
  unfold State.poisonWord
  repeat' first
    | with_reducible (first | assumption | apply keeps_setWord | apply keeps_rawWrite)

theorem keeps_targetedScrub : ∀ {s₀ a0} a1 a2, Keeps s₀ a0 → Keeps s₀ (State.targetedScrub a0 a1 a2) := by
  intro s₀ a0 a1 a2 h
  unfold State.targetedScrub
  try dsimp only
  repeat' first
    | with_reducible (first | assumption | refine keeps_fst ?_ (by assumption) | apply keeps_setWord
                            | apply keeps_presentHub | apply keeps_rawWrite | apply keeps_poisonWord | apply keeps_ite)
    | simp only [keeps_mk_iff]
    | split

theorem keeps_detectWord : ∀ {s₀ a0} a1, Keeps s₀ a0 → Keeps s₀ (State.detectWord a0 a1) := by
  intro s₀ a0 a1 h
  unfold State.detectWord
  repeat' first
    | with_reducible (first | assumption | apply keeps_setWord | apply keeps_poisonWord | apply keeps_ite)
    | simp only [keeps_mk_iff]
    | split

theorem keeps_clearWords {s₀ s : State} (p n : Nat) (h : Keeps s₀ s) : Keeps s₀ (s.clearWords p n) :=
  keeps_mkMem h (fun w => by
    rw [memory_wf_iff] at w ⊢
    exact ⟨w.1, tabWf_filter _ _ w.2.1, w.2.2⟩)

theorem keeps_cellWrite : ∀ {s₀ a0} a1 a2, Keeps s₀ a0 → Keeps s₀ (State.cellWrite a0 a1 a2) := by
  intro s₀ a0 a1 a2 h
  unfold State.cellWrite
  try dsimp only
  repeat' first
    | with_reducible (first | assumption | apply keeps_targetedScrub | apply keeps_rawWrite | apply keeps_clearWords)
    | with_reducible apply keeps_foldl
    | with_reducible apply keeps_foldlP
    | (intro _ _ _; try dsimp only)
    | (intro _ _; try dsimp only)

theorem keeps_dropLines : ∀ {s₀ a0} a1 a2 a3, Keeps s₀ a0 → Keeps s₀ (State.dropLines a0 a1 a2 a3) := by
  intro s₀ a0 a1 a2 a3 h
  unfold State.dropLines
  try dsimp only
  repeat' first
    | with_reducible (first | assumption | apply keeps_cellWrite | apply keeps_acSet | apply keeps_ite)
    | simp only [keeps_mk_iff]
    | with_reducible apply keeps_foldl
    | with_reducible apply keeps_foldlP
    | (intro _ _ _; try dsimp only)
    | (intro _ _; try dsimp only)
    | split

theorem keeps_snoop : ∀ {s₀ a0} a1 a2 a3, Keeps s₀ a0 → Keeps s₀ (State.snoop a0 a1 a2 a3) := by
  intro s₀ a0 a1 a2 a3 h
  unfold State.snoop
  try dsimp only
  repeat' first
    | with_reducible (first | assumption | refine keeps_fst ?_ (by assumption) | apply keeps_dropLines
                            | apply keeps_ite)
    | simp only [keeps_mk_iff]
    | split

theorem keeps_decodeWords : ∀ {s₀ a0} a1 a2 a3, Keeps s₀ a0 → Keeps s₀ (State.decodeWords a0 a1 a2 a3).1 := by
  intro s₀ a0 a1 a2 a3 h
  unfold State.decodeWords
  try dsimp only
  repeat' first
    | with_reducible (first | assumption | refine keeps_fst ?_ (by assumption) | apply keeps_targetedScrub
                            | apply keeps_bump | apply keeps_present | apply keeps_setWord | apply keeps_detectWord
                            | apply keeps_ite | apply keeps_iteP)
    | simp only [keeps_mk_iff]
    | with_reducible apply keeps_foldl
    | with_reducible apply keeps_foldlP
    | (intro _ _ _; try dsimp only)
    | (intro _ _; try dsimp only)
    | split

theorem keeps_accessCheck : ∀ {s₀ a0} a1 a2 a3 a4, Keeps s₀ a0 → Keeps s₀ (State.accessCheck a0 a1 a2 a3 a4).1 := by
  intro s₀ a0 a1 a2 a3 a4 h
  unfold State.accessCheck
  try dsimp only
  repeat' first
    | with_reducible (first | assumption | refine keeps_fst ?_ (by assumption) | apply keeps_accessError
                            | apply keeps_answer | apply keeps_bump | apply keeps_present | apply keeps_ite
                            | apply keeps_iteP)
    | simp only [keeps_mk_iff]
    | simp only [keeps_mem_iff]
    | split

theorem keeps_codedError : ∀ {s₀ a0} a1 a2, Keeps s₀ a0 → Keeps s₀ (State.codedError a0 a1 a2) := by
  intro s₀ a0 a1 a2 h
  unfold State.codedError
  try dsimp only
  repeat' first
    | with_reducible (first | assumption | refine keeps_fst ?_ (by assumption) | apply keeps_bump
                            | apply keeps_present | apply keeps_setRegion | apply keeps_ite)
    | simp only [keeps_mk_iff]
    | with_reducible apply keeps_foldl
    | with_reducible apply keeps_foldlP
    | (intro _ _ _; try dsimp only)
    | (intro _ _; try dsimp only)
    | split

theorem keeps_memRead : ∀ {s₀ a0} a1 a2 a3, Keeps s₀ a0 → Keeps s₀ (State.memRead a0 a1 a2 a3).1 := by
  intro s₀ a0 a1 a2 a3 h
  unfold State.memRead
  try dsimp only
  repeat' first
    | with_reducible (first | assumption | refine keeps_fst ?_ (by assumption) | apply keeps_accessCheck
                            | apply keeps_decodeWords | apply keeps_answer | apply keeps_codedError
                            | apply keeps_ite | apply keeps_iteP)
    | simp only [keeps_mk_iff]
    | split

theorem keeps_memWrite : ∀ {s₀ a0} a1 a2 a3, Keeps s₀ a0 → Keeps s₀ (State.memWrite a0 a1 a2 a3).1 := by
  intro s₀ a0 a1 a2 a3 h
  unfold State.memWrite
  try dsimp only
  repeat' first
    | with_reducible (first | assumption | refine keeps_fst ?_ (by assumption) | apply keeps_accessCheck
                            | apply keeps_accessError | apply keeps_snoop | apply keeps_decodeWords
                            | apply keeps_setWord | apply keeps_cellWrite | apply keeps_rawWrite
                            | apply keeps_answer | apply keeps_ite | apply keeps_iteP)
    | simp only [keeps_mk_iff]
    | with_reducible apply keeps_foldl
    | with_reducible apply keeps_foldlP
    | (intro _ _ _; try dsimp only)
    | (intro _ _; try dsimp only)
    | split

theorem keeps_validCode {s₀ s : State} (p n : Nat) (h : Keeps s₀ s) : Keeps s₀ (s.validCode p n) :=
  keeps_mkMem h (fun w => by
    rw [memory_wf_iff] at w ⊢
    exact ⟨w.1, tabWf_filter _ _ w.2.1, w.2.2⟩)

theorem keeps_zeroRange {s₀ s : State} (p n : Nat) (h : Keeps s₀ s) : Keeps s₀ (s.zeroRange p n) :=
  keeps_mkMem h (fun w => by
    rw [memory_wf_iff] at w ⊢
    exact ⟨tabWf_cellsZero p n w.1, tabWf_filter _ _ w.2.1, w.2.2⟩)

theorem keeps_nandRead : ∀ {s₀ a0} a1 a2 a3 a4, Keeps s₀ a0 → Keeps s₀ (State.nandRead a0 a1 a2 a3 a4).1 := by
  intro s₀ a0 a1 a2 a3 a4 h
  unfold State.nandRead
  try dsimp only
  repeat' first
    | with_reducible (first | assumption | apply keeps_bumpBy | apply keeps_presentHub | apply keeps_answer
                            | apply keeps_ite | apply keeps_iteP)
    | simp only [keeps_mk_iff]
    | simp only [keeps_mem_iff]
    | with_reducible apply keeps_foldl
    | with_reducible apply keeps_foldlP
    | (intro _ _ _; try dsimp only)
    | (intro _ _; try dsimp only)
    | split

theorem keeps_nandWrite {s₀ s : State} (p : Nat) (data : List Byte) (h : Keeps s₀ s) : Keeps s₀ (s.nandWrite p data) :=
  keeps_mkMem (keeps_bump64By _ _ h) (fun w => by
    rw [memory_wf_iff] at w ⊢
    exact ⟨w.1, w.2.1, tabWf_cellsWrite _ _ w.2.2.1, w.2.2.2⟩)

theorem keeps_hostWrite {s₀ s : State} (port a : Nat) (data : List Byte) (h : Keeps s₀ s) :
    Keeps s₀ (s.hostWrite port a data) :=
  keeps_mkMem h (fun w => by
    rw [memory_wf_iff] at w ⊢
    exact ⟨w.1, w.2.1, w.2.2.1, tabWf_cellsWrite _ _ w.2.2.2⟩)

theorem keeps_unitRead : ∀ {s₀ a0} a1 a2 a3, Keeps s₀ a0 → Keeps s₀ (State.unitRead a0 a1 a2 a3) := by
  intro s₀ a0 a1 a2 a3 h
  unfold State.unitRead
  try dsimp only
  repeat' first
    | with_reducible (first | assumption | apply keeps_memRead)
    | simp only [keeps_mk_iff]
    | split

theorem keeps_unitReads : ∀ {s₀ a0} a1 a2, Keeps s₀ a0 → Keeps s₀ (State.unitReads a0 a1 a2) := by
  intro s₀ a0 a1 a2 h
  unfold State.unitReads
  repeat' first
    | with_reducible (first | assumption | apply keeps_unitRead)
    | with_reducible apply keeps_foldl
    | with_reducible apply keeps_foldlP
    | (intro _ _ _; try dsimp only)
    | (intro _ _; try dsimp only)

theorem keeps_unitWrite : ∀ {s₀ a0} a1 a2 a3, Keeps s₀ a0 → Keeps s₀ (State.unitWrite a0 a1 a2 a3) := by
  intro s₀ a0 a1 a2 a3 h
  unfold State.unitWrite
  repeat' first
    | with_reducible (first | assumption | apply keeps_memWrite)
    | simp only [keeps_mk_iff]

theorem keeps_hubWrite : ∀ {s₀ a0} a1 a2 a3, Keeps s₀ a0 → Keeps s₀ (State.hubWrite a0 a1 a2 a3) := by
  intro s₀ a0 a1 a2 a3 h
  unfold State.hubWrite
  repeat' first
    | with_reducible (first | assumption | apply keeps_unitWrite)

theorem keeps_memPut : ∀ {s₀ a0} a1 a2 a3 a4, Keeps s₀ a0 → Keeps s₀ (State.memPut a0 a1 a2 a3 a4) := by
  intro s₀ a0 a1 a2 a3 a4 h
  unfold State.memPut
  repeat' first
    | with_reducible (first | assumption | apply keeps_unitWrite)

end Sys2Proof.Machine
end

