-- ==== Sys2Proof/Laws/KeepsSyncOps.lean ====
section
/-!
SUPPORT. What the operations of `Machine/SyncOps.lean` keep (see `Laws/Keeps.lean`): one lemma per operation.
-/
namespace Sys2Proof.Machine

theorem keeps_setObj : ∀ {s₀ a0} a1 a2, Keeps s₀ a0 → Keeps s₀ (State.setObj a0 a1 a2) := by
  intro s₀ a0 a1 a2 h
  unfold State.setObj
  repeat' first
    | with_reducible (first | assumption)
    | simp only [keeps_mk_iff]

theorem keeps_signal : ∀ {s₀ a0} a1 a2 a3, Keeps s₀ a0 → Keeps s₀ (State.signal a0 a1 a2 a3) := by
  intro s₀ a0 a1 a2 a3 h
  unfold State.signal
  repeat' first
    | with_reducible (first | assumption)
    | simp only [keeps_mk_iff]

theorem keeps_signalWord : ∀ {s₀ a0} a1 a2, Keeps s₀ a0 → Keeps s₀ (State.signalWord a0 a1 a2) := by
  intro s₀ a0 a1 a2 h
  unfold State.signalWord
  repeat' first
    | with_reducible (first | assumption | apply keeps_signal | apply keeps_ite)
    | simp only [keeps_mk_iff]
    | split

theorem keeps_sendWait : ∀ {s₀ a0} a1, Keeps s₀ a0 → Keeps s₀ (State.sendWait a0 a1) := by
  intro s₀ a0 a1 h
  unfold State.sendWait
  repeat' first
    | with_reducible (first | assumption)
    | simp only [keeps_mk_iff]

theorem keeps_cancelWaits : ∀ {s₀ a0} a1, Keeps s₀ a0 → Keeps s₀ (State.cancelWaits a0 a1) := by
  intro s₀ a0 a1 h
  unfold State.cancelWaits
  repeat' first
    | with_reducible (first | assumption)
    | simp only [keeps_mk_iff]

theorem keeps_mgmtAttention : ∀ {s₀ a0}, Keeps s₀ a0 → Keeps s₀ (State.mgmtAttention a0) := by
  intro s₀ a0 h
  unfold State.mgmtAttention
  repeat' first
    | with_reducible (first | assumption | apply keeps_send | apply keeps_ite)
    | with_reducible apply keeps_foldl
    | with_reducible apply keeps_foldlP
    | (intro _ _ _; try dsimp only)
    | (intro _ _; try dsimp only)
    | split

theorem keeps_fnAttn : ∀ {s₀ a0} a1 a2, Keeps s₀ a0 → Keeps s₀ (State.fnAttn a0 a1 a2) := by
  intro s₀ a0 a1 a2 h
  unfold State.fnAttn
  repeat' first
    | with_reducible (first | assumption | apply keeps_send | apply keeps_setRbit | apply keeps_ite)
    | split

theorem keeps_tenAttn : ∀ {s₀ a0} a1 a2, Keeps s₀ a0 → Keeps s₀ (State.tenAttn a0 a1 a2) := by
  intro s₀ a0 a1 a2 h
  unfold State.tenAttn
  repeat' first
    | with_reducible (first | assumption | apply keeps_mgmtAttention | apply keeps_fnAttn | apply keeps_ite)
    | split

theorem keeps_ringCount : ∀ {s₀ a0}, Keeps s₀ a0 → Keeps s₀ (State.ringCount a0) := by
  intro s₀ a0 h
  unfold State.ringCount
  try dsimp only
  repeat' first
    | with_reducible (first | assumption | apply keeps_bump)
    | simp only [keeps_mk_iff]

theorem keeps_ringSend : ∀ {s₀ a0} a1 a2 a3, Keeps s₀ a0 → Keeps s₀ (State.ringSend a0 a1 a2 a3) := by
  intro s₀ a0 a1 a2 a3 h
  unfold State.ringSend
  repeat' first
    | with_reducible (first | assumption | apply keeps_send | apply keeps_ringCount | apply keeps_ite)
    | split

end Sys2Proof.Machine
end

