-- ==== Sys2Proof/Laws/KeepsOperands.lean ====
section
/-!
SUPPORT. What the operations of `Machine/Operands.lean` keep (see `Laws/Keeps.lean`): one lemma per operation.
-/
namespace Sys2Proof.Machine

theorem keeps_tileSet : ∀ {s₀ a0} a1 a2, Keeps s₀ a0 → Keeps s₀ (State.tileSet a0 a1 a2) := by
  intro s₀ a0 a1 a2 h
  unfold State.tileSet
  repeat' first
    | with_reducible (first | assumption)
    | simp only [keeps_mk_iff]

theorem keeps_freeBytes : ∀ {s₀ a0} a1, Keeps s₀ a0 → Keeps s₀ (State.freeBytes a0 a1).1 := by
  intro s₀ a0 a1 h
  unfold State.freeBytes
  repeat' first
    | with_reducible (first | assumption | apply keeps_iteP)
    | simp only [keeps_mk_iff]

theorem keeps_undefine : ∀ {s₀ a0} a1, Keeps s₀ a0 → Keeps s₀ (State.undefine a0 a1) := by
  intro s₀ a0 a1 h
  unfold State.undefine
  try dsimp only
  repeat' first
    | with_reducible (first | assumption | refine keeps_fst ?_ (by assumption) | apply keeps_freeBytes
                            | apply keeps_rawWrite)
    | with_reducible apply keeps_foldl
    | with_reducible apply keeps_foldlP
    | (intro _ _ _; try dsimp only)
    | (intro _ _; try dsimp only)
    | split

theorem keeps_tRead : ∀ {s₀ a0} a1 a2 a3 a4, Keeps s₀ a0 → Keeps s₀ (State.tRead a0 a1 a2 a3 a4).1 := by
  intro s₀ a0 a1 a2 a3 a4 h
  unfold State.tRead
  repeat' first
    | with_reducible (first | assumption | apply keeps_memRead | apply keeps_ite | apply keeps_iteP)
    | split

theorem keeps_tWrite : ∀ {s₀ a0} a1 a2 a3 a4, Keeps s₀ a0 → Keeps s₀ (State.tWrite a0 a1 a2 a3 a4).1 := by
  intro s₀ a0 a1 a2 a3 a4 h
  unfold State.tWrite
  repeat' first
    | with_reducible (first | assumption | apply keeps_memWrite | apply keeps_ite | apply keeps_iteP)
    | simp only [keeps_mk_iff]
    | split

theorem keeps_writeRows : ∀ {s₀ a0} a1 a2 a3 a4, Keeps s₀ a0 → Keeps s₀ (writeRows a0 a1 a2 a3 a4).1 := by
  intro s₀ a0 a1 a2 a3 a4 h
  unfold writeRows
  try dsimp only
  repeat' first
    | with_reducible (first | assumption | refine keeps_fst ?_ (by assumption) | apply keeps_tWrite
                            | apply keeps_ite | apply keeps_iteP)
    | with_reducible apply keeps_foldl
    | with_reducible apply keeps_foldlP
    | (intro _ _ _; try dsimp only)
    | (intro _ _; try dsimp only)
    | split

end Sys2Proof.Machine
end

