-- ==== Sys2Proof/Laws/KeepsMatrix.lean ====
section
/-!
SUPPORT. What the operations of `Machine/Matrix.lean` keep (see `Laws/Keeps.lean`): one lemma per operation.
-/
namespace Sys2Proof.Machine

theorem keeps_readRuns : ∀ {s₀ a0} a1 a2 a3 a4, Keeps s₀ a0 → Keeps s₀ (State.readRuns a0 a1 a2 a3 a4).1 := by
  intro s₀ a0 a1 a2 a3 a4 h
  unfold State.readRuns
  try dsimp only
  repeat' first
    | with_reducible (first | assumption | refine keeps_fst ?_ (by assumption) | apply keeps_tRead | apply keeps_iteP)
    | simp only [keeps_mk_iff]
    | with_reducible apply keeps_foldl
    | with_reducible apply keeps_foldlP
    | (intro _ _ _; try dsimp only)
    | (intro _ _; try dsimp only)
    | split

theorem keeps_haloCopy : ∀ {s₀ a0} a1 a2 a3 a4, Keeps s₀ a0 → Keeps s₀ (haloCopy a0 a1 a2 a3 a4).1 := by
  intro s₀ a0 a1 a2 a3 a4 h
  unfold haloCopy
  try dsimp only
  repeat' first
    | with_reducible (first | assumption | refine keeps_fst ?_ (by assumption) | apply keeps_memRead
                            | apply keeps_tWrite | apply keeps_iteP)
    | simp only [keeps_mk_iff]
    | with_reducible apply keeps_foldl
    | with_reducible apply keeps_foldlP
    | (intro _ _ _; try dsimp only)
    | (intro _ _; try dsimp only)
    | split

theorem keeps_sectionRead : ∀ {s₀ a0} a1 a2 a3, Keeps s₀ a0 → Keeps s₀ (State.sectionRead a0 a1 a2 a3).1 := by
  intro s₀ a0 a1 a2 a3 h
  unfold State.sectionRead
  repeat' first
    | with_reducible (first | assumption | refine keeps_fst ?_ (by assumption) | apply keeps_memRead
                            | apply keeps_ite | apply keeps_iteP)
    | simp only [keeps_mk_iff]
    | split

theorem keeps_drainAll : ∀ {s₀ a0} a1 a2 a3 a4 a5 a6, Keeps s₀ a0 → Keeps s₀ (Ran.s (drainAll a0 a1 a2 a3 a4 a5 a6)) := by
  intro s₀ a0 a1 a2 a3 a4 a5 a6 h
  unfold drainAll
  try dsimp only
  repeat' first
    | with_reducible assumption
    | with_reducible refine keeps_fst ?_ (by assumption)
    | with_reducible apply keeps_writeRows
    | with_reducible apply keeps_ite
    | with_reducible apply keeps_iteP
    | with_reducible apply keeps_iteR Ran.s
    | with_reducible apply keeps_iteR AttnAcc.s
    | with_reducible apply keeps_foldl
    | with_reducible apply keeps_foldlP
    | with_reducible apply keeps_foldlR AttnAcc.s
    | with_reducible apply keeps_foldlR HeadRun.s
    | dsimp only
    | (intro _ _ _; try dsimp only)
    | split

theorem keeps_runMma : ∀ {s₀ a0} a1 a2, Keeps s₀ a0 → Keeps s₀ (Ran.s (runMma a0 a1 a2)) := by
  intro s₀ a0 a1 a2 h
  unfold runMma
  try dsimp only
  repeat' first
    | with_reducible assumption
    | with_reducible refine keeps_fst ?_ (by assumption)
    | with_reducible apply keeps_tRead
    | with_reducible apply keeps_drainAll
    | with_reducible apply keeps_ite
    | with_reducible apply keeps_iteP
    | with_reducible apply keeps_iteR Ran.s
    | with_reducible apply keeps_iteR AttnAcc.s
    | with_reducible apply keeps_foldl
    | with_reducible apply keeps_foldlP
    | with_reducible apply keeps_foldlR AttnAcc.s
    | with_reducible apply keeps_foldlR HeadRun.s
    | dsimp only
    | (intro _ _ _; try dsimp only)
    | split

theorem keeps_writeConv : ∀ {s₀ a0} a1 a2 a3 a4, Keeps s₀ a0 → Keeps s₀ (Ran.s (writeConv a0 a1 a2 a3 a4)) := by
  intro s₀ a0 a1 a2 a3 a4 h
  unfold writeConv
  try dsimp only
  repeat' first
    | with_reducible assumption
    | with_reducible refine keeps_fst ?_ (by assumption)
    | with_reducible apply keeps_writeRows
    | with_reducible apply keeps_ite
    | with_reducible apply keeps_iteP
    | with_reducible apply keeps_iteR Ran.s
    | with_reducible apply keeps_iteR AttnAcc.s
    | with_reducible apply keeps_foldl
    | with_reducible apply keeps_foldlP
    | with_reducible apply keeps_foldlR AttnAcc.s
    | with_reducible apply keeps_foldlR HeadRun.s
    | dsimp only
    | (intro _ _ _; try dsimp only)
    | split

theorem keeps_runConv : ∀ {s₀ a0} a1 a2 a3, Keeps s₀ a0 → Keeps s₀ (Ran.s (runConv a0 a1 a2 a3)) := by
  intro s₀ a0 a1 a2 a3 h
  unfold runConv
  try dsimp only
  repeat' first
    | with_reducible assumption
    | with_reducible refine keeps_fst ?_ (by assumption)
    | with_reducible apply keeps_tRead
    | with_reducible apply keeps_readRuns
    | with_reducible apply keeps_drainAll
    | with_reducible apply keeps_writeConv
    | with_reducible apply keeps_ite
    | with_reducible apply keeps_iteP
    | with_reducible apply keeps_iteR Ran.s
    | with_reducible apply keeps_iteR AttnAcc.s
    | with_reducible apply keeps_foldl
    | with_reducible apply keeps_foldlP
    | with_reducible apply keeps_foldlR AttnAcc.s
    | with_reducible apply keeps_foldlR HeadRun.s
    | dsimp only
    | (intro _ _ _; try dsimp only)
    | split

theorem keeps_runXrd : ∀ {s₀ a0} a1 a2, Keeps s₀ a0 → Keeps s₀ (Ran.s (runXrd a0 a1 a2)) := by
  intro s₀ a0 a1 a2 h
  unfold runXrd
  try dsimp only
  repeat' first
    | with_reducible assumption
    | with_reducible refine keeps_fst ?_ (by assumption)
    | with_reducible apply keeps_tRead
    | with_reducible apply keeps_sectionRead
    | with_reducible apply keeps_writeRows
    | with_reducible apply keeps_ite
    | with_reducible apply keeps_iteP
    | with_reducible apply keeps_iteR Ran.s
    | with_reducible apply keeps_iteR AttnAcc.s
    | with_reducible apply keeps_foldl
    | with_reducible apply keeps_foldlP
    | with_reducible apply keeps_foldlR AttnAcc.s
    | with_reducible apply keeps_foldlR HeadRun.s
    | dsimp only
    | (intro _ _ _; try dsimp only)
    | split

end Sys2Proof.Machine
end

