-- ==== Sys2Proof/Laws/KeepsVector.lean ====
section
/-!
SUPPORT. What the operations of `Machine/Vector.lean` keep (see `Laws/Keeps.lean`): one lemma per operation.
-/
namespace Sys2Proof.Machine

theorem keeps_runVop : ∀ {s₀ a0} a1 a2, Keeps s₀ a0 → Keeps s₀ (Ran.s (runVop a0 a1 a2)) := by
  intro s₀ a0 a1 a2 h
  unfold runVop
  try dsimp only
  repeat' first
    | with_reducible assumption
    | with_reducible refine keeps_fst ?_ (by assumption)
    | with_reducible apply keeps_tRead
    | with_reducible apply keeps_tWrite
    | with_reducible apply keeps_writeRows
    | with_reducible apply keeps_ite
    | with_reducible apply keeps_iteP
    | with_reducible apply keeps_iteR Ran.s
    | with_reducible apply keeps_iteR AttnAcc.s
    | with_reducible apply keeps_foldl
    | with_reducible apply keeps_foldlP
    | with_reducible apply keeps_foldlR AttnAcc.s
    | with_reducible apply keeps_foldlR HeadRun.s
    | dsimp only
    | (intro _ _ _; try dsimp only)
    | split

end Sys2Proof.Machine
end

