-- ==== Sys2Proof/Laws/KeepsDma.lean ====
section
/-!
SUPPORT. What the operations of `Machine/Dma.lean` keep (see `Laws/Keeps.lean`): one lemma per operation.
-/
namespace Sys2Proof.Machine

theorem keeps_foldInto : ∀ {s₀ a0} a1 a2 a3 a4, Keeps s₀ a0 → Keeps s₀ (State.foldInto a0 a1 a2 a3 a4) := by
  intro s₀ a0 a1 a2 a3 a4 h
  unfold State.foldInto
  try dsimp only
  repeat' first
    | with_reducible (first | assumption | apply keeps_setReg64)
    | with_reducible apply keeps_foldl
    | with_reducible apply keeps_foldlP
    | (intro _ _ _; try dsimp only)
    | (intro _ _; try dsimp only)

theorem keeps_dmaRead : ∀ {s₀ a0} a1 a2 a3 a4 a5, Keeps s₀ a0 → Keeps s₀ (dmaRead a0 a1 a2 a3 a4 a5).1 := by
  intro s₀ a0 a1 a2 a3 a4 a5 h
  unfold dmaRead
  try dsimp only
  repeat' first
    | with_reducible (first | assumption | apply keeps_nandRead | apply keeps_memRead | apply keeps_ite
                            | apply keeps_iteP)
    | split

theorem keeps_dmaWrite : ∀ {s₀ a0} a1 a2 a3 a4 a5, Keeps s₀ a0 → Keeps s₀ (dmaWrite a0 a1 a2 a3 a4 a5).1 := by
  intro s₀ a0 a1 a2 a3 a4 a5 h
  unfold dmaWrite
  try dsimp only
  repeat' first
    | with_reducible (first | assumption | refine keeps_fst ?_ (by assumption) | apply keeps_nandWrite
                            | apply keeps_memWrite | apply keeps_foldInto | apply keeps_ite | apply keeps_iteP)
    | split

theorem keeps_runDma : ∀ {s₀ a0} a1 a2 a3, Keeps s₀ a0 → Keeps s₀ (Ran.s (runDma a0 a1 a2 a3)) := by
  intro s₀ a0 a1 a2 a3 h
  unfold runDma
  try dsimp only
  repeat' first
    | with_reducible assumption
    | with_reducible refine keeps_fst ?_ (by assumption)
    | with_reducible apply keeps_undefine
    | with_reducible apply keeps_dmaWrite
    | with_reducible apply keeps_dmaRead
    | with_reducible apply keeps_ite
    | with_reducible apply keeps_iteP
    | with_reducible apply keeps_iteR Ran.s
    | with_reducible apply keeps_iteR AttnAcc.s
    | with_reducible apply keeps_foldl
    | with_reducible apply keeps_foldlP
    | with_reducible apply keeps_foldlR AttnAcc.s
    | with_reducible apply keeps_foldlR HeadRun.s
    | dsimp only
    | (intro _ _ _; try dsimp only)
    | split

end Sys2Proof.Machine
end

