-- ==== Sys2Proof/Laws/KeepsAttn.lean ====
section
/-!
SUPPORT. What the operations of `Machine/Attn.lean` keep (see `Laws/Keeps.lean`): one lemma per operation.
-/
namespace Sys2Proof.Machine

theorem keeps_readHead : ∀ {s₀ a0} a1 a2 a3 a4 a5 a6 a7 a8, Keeps s₀ a0 → Keeps s₀ (readHead a0 a1 a2 a3 a4 a5 a6 a7 a8).1 := by
  intro s₀ a0 a1 a2 a3 a4 a5 a6 a7 a8 h
  unfold readHead
  try dsimp only
  repeat' first
    | with_reducible (first | assumption | refine keeps_fst ?_ (by assumption) | apply keeps_memRead
                            | apply keeps_ite | apply keeps_iteP)
    | simp only [keeps_mk_iff]
    | split

theorem keeps_readSummary : ∀ {s₀ a0} a1 a2 a3 a4, Keeps s₀ a0 → Keeps s₀ (readSummary a0 a1 a2 a3 a4).1 := by
  intro s₀ a0 a1 a2 a3 a4 h
  unfold readSummary
  try dsimp only
  repeat' first
    | with_reducible (first | assumption | refine keeps_fst ?_ (by assumption) | apply keeps_memRead | apply keeps_iteP)
    | simp only [keeps_mk_iff]
    | split

theorem keeps_gatherMass : ∀ {s₀ a0} a1 a2, Keeps s₀ a0 → Keeps s₀ (State.gatherMass a0 a1 a2) := by
  intro s₀ a0 a1 a2 h
  unfold State.gatherMass
  repeat' first
    | with_reducible (first | assumption | refine keeps_fst ?_ (by assumption) | apply keeps_ite)
    | simp only [keeps_mk_iff]
    | split

theorem keeps_readBitmap : ∀ {s₀ a0} a1 a2, Keeps s₀ a0 → Keeps s₀ (readBitmap a0 a1 a2).1 := by
  intro s₀ a0 a1 a2 h
  unfold readBitmap
  try dsimp only
  repeat' first
    | with_reducible (first | assumption | refine keeps_fst ?_ (by assumption) | apply keeps_memRead
                            | apply keeps_ite | apply keeps_iteP)
    | simp only [keeps_mk_iff]
    | with_reducible apply keeps_foldl
    | with_reducible apply keeps_foldlP
    | (intro _ _ _; try dsimp only)
    | (intro _ _; try dsimp only)
    | split

theorem keeps_readMeta {s₀ : State} (a : AttnAcc) (x ws n) (h : Keeps s₀ a.s) : Keeps s₀ (a.readMeta x ws n).s := by
  unfold AttnAcc.readMeta
  dsimp only
  have k := keeps_memRead (x.id 4) (a48 ws 20 + 32 * n) 32 h
  repeat' split
  all_goals first | exact h | exact k

theorem keeps_countLate {s₀ : State} (a : AttnAcc) (x n e) (h : Keeps s₀ a.s) : Keeps s₀ (a.countLate x n e).s := by
  unfold AttnAcc.countLate
  split
  · exact keeps_bump _ h
  · exact h

theorem keeps_visitBlock {s₀ : State} (x ws i qs hd) (r : HeadRun) (b) (h : Keeps s₀ r.acc.s) :
    Keeps s₀ (visitBlock x ws i qs hd r b).acc.s := by
  unfold visitBlock
  dsimp only
  have k := keeps_readMeta r.acc x ws (i.page b) h
  repeat' split
  all_goals first
    | exact k
    | exact keeps_readHead _ _ _ _ _ _ _ _ (keeps_readHead _ _ _ _ _ _ _ _ (keeps_countLate _ _ _ _ k))

theorem keeps_scoreBlocks {s₀ : State} (x ws i qs hd) (a : AttnAcc) (h : Keeps s₀ a.s) :
    Keeps s₀ (scoreBlocks x ws i qs hd a).1.s := by
  unfold scoreBlocks
  dsimp only
  have k : Keeps s₀ ((candidates ws i).foldl (fun a b => a.readMeta x ws (i.page b)) a).s :=
    keeps_foldlR AttnAcc.s (fun a b => a.readMeta x ws (i.page b)) _ (fun a _ ha => keeps_readMeta a _ _ _ ha) h
  split
  · exact k
  · refine keeps_foldlR (fun p : AttnAcc × List (Nat × FV) => p.1.s) _ _ (fun p b hp => ?_) k
    try dsimp only
    have r := keeps_readSummary x ws (i.page b) hd hp
    split
    · exact hp
    · split
      · exact r
      · exact r

theorem keeps_attnHead {s₀ : State} (x ws i) (a : AttnAcc) (hi) (h : Keeps s₀ a.s) : Keeps s₀ (attnHead x ws i a hi).s := by
  unfold attnHead
  dsimp only
  split
  · exact h
  · have k : ∀ qs, Keeps s₀ (scoreBlocks x ws i qs (aFirst ws + hi) a).1.s := fun qs =>
      keeps_scoreBlocks _ _ _ _ _ _ h
    have r : ∀ qs (vs : List Nat) (b : AttnAcc) rows, Keeps s₀ b.s →
        Keeps s₀ (vs.foldl (visitBlock x ws i qs (aFirst ws + hi)) ⟨b, rows⟩).acc.s := fun qs vs b rows hb =>
      keeps_foldlR (fun r : HeadRun => r.acc.s) _ _ (fun r b hr => keeps_visitBlock _ _ _ _ _ r b hr) hb
    repeat' split
    all_goals first | exact h | exact k _ | exact r _ _ _ _ (k _) | exact r _ _ _ _ h

theorem keeps_attnWrite {s₀ : State} (x ws i) (a : AttnAcc) (dst) (h : Keeps s₀ a.s) :
    Keeps s₀ (attnWrite x ws i a dst).s := by
  unfold attnWrite
  dsimp only
  have k := fun z => keeps_writeRows x 1 8 (a.outs.map (fun o => (db ws 7 20 0 + o.1, [o.2.2.2])))
    (keeps_writeRows x 1 32 (a.outs.map (fun o => (db ws 6 20 0 + 4 * o.1, [fp32.encode o.2.2.1])))
      (keeps_writeRows x 1 (fmtGet (db ws 13 23 20)).width
        (a.outs.map (fun o => (db ws 5 20 0 + o.1 * upTo 32 (runBytes (fmtGet (db ws 13 23 20)).width (aD ws)), o.2.1)))
        (keeps_undefine [tileArea x (db ws 10 20 0)
          (aWork ws + z)] h)))
  split
  · exact keeps_tWrite _ _ _ _ (keeps_gatherMass _ _ (k _))
  · exact k _

theorem keeps_runAttn : ∀ {s₀ a0} a1 a2, Keeps s₀ a0 → Keeps s₀ (Ran.s (runAttn a0 a1 a2)) := by
  intro s₀ a0 a1 a2 h
  unfold runAttn
  try dsimp only
  repeat' first
    | with_reducible assumption
    | with_reducible refine keeps_fst ?_ (by assumption)
    | with_reducible apply keeps_readBitmap
    | with_reducible apply keeps_tRead
    | with_reducible apply keeps_memRead
    | with_reducible apply keeps_attnHead
    | with_reducible apply keeps_attnWrite
    | with_reducible apply keeps_ite
    | with_reducible apply keeps_iteP
    | with_reducible apply keeps_iteR Ran.s
    | with_reducible apply keeps_iteR AttnAcc.s
    | with_reducible apply keeps_foldl
    | with_reducible apply keeps_foldlP
    | with_reducible apply keeps_foldlR AttnAcc.s
    | with_reducible apply keeps_foldlR HeadRun.s
    | dsimp only
    | (intro _ _ _; try dsimp only)
    | split

end Sys2Proof.Machine
end

