-- ==== Sys2Proof/Laws/KeepsTileOps.lean ====
section
/-!
SUPPORT. What the operations of `Machine/TileOps.lean` keep (see `Laws/Keeps.lean`): one lemma per operation.
-/
namespace Sys2Proof.Machine

theorem keeps_setKernel : ∀ {s₀ a0} a1 a2, Keeps s₀ a0 → Keeps s₀ (State.setKernel a0 a1 a2) := by
  intro s₀ a0 a1 a2 h
  unfold State.setKernel
  repeat' first
    | with_reducible (first | assumption | apply keeps_tileSet)
    | simp only [keeps_mk_iff]

theorem keeps_modKernel : ∀ {s₀ a0} a1 a2, Keeps s₀ a0 → Keeps s₀ (State.modKernel a0 a1 a2) := by
  intro s₀ a0 a1 a2 h
  unfold State.modKernel
  repeat' first
    | with_reducible (first | assumption | apply keeps_tileSet)
    | simp only [keeps_mk_iff]

theorem keeps_setCmd : ∀ {s₀ a0} a1 a2, Keeps s₀ a0 → Keeps s₀ (State.setCmd a0 a1 a2) := by
  intro s₀ a0 a1 a2 h
  unfold State.setCmd
  repeat' first
    | with_reducible (first | assumption | apply keeps_tileSet | apply keeps_ite)
    | simp only [keeps_mk_iff]
    | split

theorem keeps_putStatus : ∀ {s₀ a0} a1 a2 a3 a4 a5, Keeps s₀ a0 → Keeps s₀ (State.putStatus a0 a1 a2 a3 a4 a5) := by
  intro s₀ a0 a1 a2 a3 a4 a5 h
  unfold State.putStatus
  repeat' first
    | with_reducible (first | assumption | apply keeps_setReg | apply keeps_ite)
    | with_reducible apply keeps_foldl
    | with_reducible apply keeps_foldlP
    | (intro _ _ _; try dsimp only)
    | (intro _ _; try dsimp only)
    | split

theorem keeps_addFlags : ∀ {s₀ a0} a1 a2 a3, Keeps s₀ a0 → Keeps s₀ (State.addFlags a0 a1 a2 a3) := by
  intro s₀ a0 a1 a2 a3 h
  unfold State.addFlags
  try dsimp only
  repeat' first
    | with_reducible (first | assumption | apply keeps_setReg | apply keeps_tileSet | apply keeps_bumpBy
                            | apply keeps_modKernel | apply keeps_ite)
    | simp only [keeps_mk_iff]
    | split

theorem keeps_cmdError : ∀ {s₀ a0} a1 a2 a3, Keeps s₀ a0 → Keeps s₀ (State.cmdError a0 a1 a2 a3) := by
  intro s₀ a0 a1 a2 a3 h
  unfold State.cmdError
  try dsimp only
  repeat' first
    | with_reducible (first | assumption | apply keeps_setReg | apply keeps_modKernel | apply keeps_ite)
    | simp only [keeps_mk_iff]
    | split

theorem keeps_tileEnded : ∀ {s₀ a0} a1 a2 a3, Keeps s₀ a0 → Keeps s₀ (State.tileEnded a0 a1 a2 a3) := by
  intro s₀ a0 a1 a2 a3 h
  unfold State.tileEnded
  try dsimp only
  repeat' first
    | with_reducible (first | assumption | apply keeps_ite)
    | simp only [keeps_mk_iff]
    | split

theorem keeps_dropPush : ∀ {s₀ a0} a1 a2, Keeps s₀ a0 → Keeps s₀ (State.dropPush a0 a1 a2) := by
  intro s₀ a0 a1 a2 h
  unfold State.dropPush
  try dsimp only
  repeat' first
    | with_reducible (first | assumption | apply keeps_setRbit | apply keeps_ite)
    | split

theorem keeps_launchPush : ∀ {s₀ a0} a1 a2, Keeps s₀ a0 → Keeps s₀ (State.launchPush a0 a1 a2) := by
  intro s₀ a0 a1 a2 h
  unfold State.launchPush
  try dsimp only
  repeat' first
    | with_reducible (first | assumption | refine keeps_fst ?_ (by assumption) | apply keeps_dropPush
                            | apply keeps_tileSet | apply keeps_ite)
    | simp only [keeps_mk_iff]
    | split

theorem keeps_endKernel : ∀ {s₀ a0} a1 a2, Keeps s₀ a0 → Keeps s₀ (State.endKernel a0 a1 a2) := by
  intro s₀ a0 a1 a2 h
  unfold State.endKernel
  try dsimp only
  repeat' first
    | with_reducible (first | assumption | refine keeps_fst ?_ (by assumption) | apply keeps_memWrite
                            | apply keeps_signalWord | apply keeps_tileSet | apply keeps_tileEnded | apply keeps_ite)
    | simp only [keeps_mk_iff]
    | split

theorem keeps_kernelBegin : ∀ {s₀ a0} a1 a2 a3, Keeps s₀ a0 → Keeps s₀ (State.kernelBegin a0 a1 a2 a3) := by
  intro s₀ a0 a1 a2 a3 h
  unfold State.kernelBegin
  try dsimp only
  repeat' first
    | with_reducible (first | assumption | refine keeps_fst ?_ (by assumption) | apply keeps_memRead
                            | apply keeps_cmdError | apply keeps_modKernel | apply keeps_tileSet
                            | apply keeps_sectionRead | apply keeps_setReg)
    | simp only [keeps_mk_iff]
    | split

theorem keeps_kernelStart : ∀ {s₀ a0} a1, Keeps s₀ a0 → Keeps s₀ (State.kernelStart a0 a1) := by
  intro s₀ a0 a1 h
  unfold State.kernelStart
  try dsimp only
  repeat' first
    | with_reducible (first | assumption | refine keeps_fst ?_ (by assumption) | apply keeps_tileSet
                            | apply keeps_endKernel | apply keeps_cmdError | apply keeps_kernelBegin
                            | apply keeps_modKernel | apply keeps_ite)
    | simp only [keeps_mk_iff]
    | split

theorem keeps_codeFetched : ∀ {s₀ a0} a1, Keeps s₀ a0 → Keeps s₀ (State.codeFetched a0 a1) := by
  intro s₀ a0 a1 h
  unfold State.codeFetched
  try dsimp only
  repeat' first
    | with_reducible (first | assumption | refine keeps_fst ?_ (by assumption) | apply keeps_endKernel
                            | apply keeps_cmdError | apply keeps_sectionRead | apply keeps_tileSet
                            | apply keeps_kernelBegin | apply keeps_setFld | apply keeps_modKernel | apply keeps_ite)
    | simp only [keeps_mk_iff]
    | split

theorem keeps_runCmd : ∀ {s₀ a0} a1 a2, Keeps s₀ a0 → Keeps s₀ (State.runCmd a0 a1 a2) := by
  intro s₀ a0 a1 a2 h
  unfold State.runCmd
  try dsimp only
  repeat' first
    | with_reducible (first | assumption | refine keeps_fst ?_ (by assumption) | apply keeps_drainAll
                            | apply keeps_runMma | apply keeps_writeConv | apply keeps_runConv | apply keeps_runXrd
                            | apply keeps_readMeta | apply keeps_countLate | apply keeps_visitBlock
                            | apply keeps_scoreBlocks | apply keeps_attnHead | apply keeps_attnWrite
                            | apply keeps_runAttn | apply keeps_runVop | apply keeps_runDma | apply keeps_setCmd)
    | simp only [keeps_mk_iff]
    | split

theorem keeps_haloBits : ∀ {s₀ a0} a1 a2 a3, Keeps s₀ a0 → Keeps s₀ (State.haloBits a0 a1 a2 a3) := by
  intro s₀ a0 a1 a2 a3 h
  unfold State.haloBits
  repeat' first
    | with_reducible (first | assumption | apply keeps_setRbit)

theorem keeps_cmdGo : ∀ {s₀ a0} a1 a2, Keeps s₀ a0 → Keeps s₀ (State.cmdGo a0 a1 a2) := by
  intro s₀ a0 a1 a2 h
  unfold State.cmdGo
  try dsimp only
  repeat' first
    | with_reducible (first | assumption | refine keeps_fst ?_ (by assumption) | apply keeps_haloBits
                            | apply keeps_setCmd | apply keeps_sendWait | apply keeps_runCmd | apply keeps_ite)
    | simp only [keeps_mk_iff]
    | split

theorem keeps_tcAdvance : ∀ {s₀ a0} a1, Keeps s₀ a0 → Keeps s₀ (State.tcAdvance a0 a1) := by
  intro s₀ a0 a1 h
  unfold State.tcAdvance
  repeat' first
    | with_reducible (first | assumption | refine keeps_fst ?_ (by assumption) | apply keeps_sendWait
                            | apply keeps_setCmd | apply keeps_cmdGo | apply keeps_ite)
    | simp only [keeps_mk_iff]
    | with_reducible apply keeps_foldl
    | with_reducible apply keeps_foldlP
    | (intro _ _ _; try dsimp only)
    | (intro _ _; try dsimp only)
    | split

theorem keeps_sqFinish : ∀ {s₀ a0} a1 a2, Keeps s₀ a0 → Keeps s₀ (State.sqFinish a0 a1 a2) := by
  intro s₀ a0 a1 a2 h
  unfold State.sqFinish
  try dsimp only
  repeat' first
    | with_reducible (first | assumption | apply keeps_tileSet | apply keeps_modKernel | apply keeps_signalWord)
    | simp only [keeps_mk_iff]

theorem keeps_sqBody : ∀ {s₀ a0} a1 a2, Keeps s₀ a0 → Keeps s₀ (State.sqBody a0 a1 a2) := by
  intro s₀ a0 a1 a2 h
  unfold State.sqBody
  try dsimp only
  repeat' first
    | with_reducible (first | assumption | apply keeps_sqFinish | apply keeps_signal | apply keeps_tileSet
                            | apply keeps_sendWait | apply keeps_ite)
    | simp only [keeps_mk_iff]
    | split

theorem keeps_sqAdvance : ∀ {s₀ a0} a1, Keeps s₀ a0 → Keeps s₀ (State.sqAdvance a0 a1) := by
  intro s₀ a0 a1 h
  unfold State.sqAdvance
  try dsimp only
  repeat' first
    | with_reducible (first | assumption | refine keeps_fst ?_ (by assumption) | apply keeps_sendWait
                            | apply keeps_tileSet | apply keeps_sqBody | apply keeps_ite)
    | simp only [keeps_mk_iff]
    | split

theorem keeps_issue : ∀ {s₀ a0} a1 a2 a3, Keeps s₀ a0 → Keeps s₀ (State.issue a0 a1 a2 a3) := by
  intro s₀ a0 a1 a2 a3 h
  unfold State.issue
  try dsimp only
  repeat' first
    | with_reducible (first | assumption | refine keeps_fst ?_ (by assumption) | apply keeps_tRead
                            | apply keeps_cmdError | apply keeps_sqAdvance | apply keeps_tileSet
                            | apply keeps_tcAdvance | apply keeps_ite)
    | simp only [keeps_mk_iff]
    | split

theorem keeps_undefineDst {s₀ s : State} (c : Cmd) (h : Keeps s₀ s) : Keeps s₀ (s.undefineDst c) := by
  unfold State.undefineDst
  dsimp only
  split
  · refine keeps_mkMem (keeps_freeBytes _ (keeps_undefine _ h)) (fun w => ?_)
    rw [memory_wf_iff] at w ⊢
    exact ⟨w.1, w.2.1, tabWf_cellsWrite _ _ w.2.2.1, w.2.2.2⟩
  · exact keeps_undefine _ h

theorem keeps_busyCount : ∀ {s₀ a0} a1 a2, Keeps s₀ a0 → Keeps s₀ (State.busyCount a0 a1 a2) := by
  intro s₀ a0 a1 a2 h
  unfold State.busyCount
  repeat' first
    | with_reducible (first | assumption | apply keeps_bump64By | apply keeps_ite)
    | with_reducible apply keeps_foldl
    | with_reducible apply keeps_foldlP
    | (intro _ _ _; try dsimp only)
    | (intro _ _; try dsimp only)
    | split

theorem keeps_cmdComplete : ∀ {s₀ a0} a1 a2, Keeps s₀ a0 → Keeps s₀ (State.cmdComplete a0 a1 a2) := by
  intro s₀ a0 a1 a2 h
  unfold State.cmdComplete
  try dsimp only
  repeat' first
    | with_reducible (first | assumption | refine keeps_fst ?_ (by assumption) | apply keeps_busyCount
                            | apply keeps_tileSet | apply keeps_undefineDst | apply keeps_putStatus
                            | apply keeps_addFlags | apply keeps_cmdError | apply keeps_signalWord
                            | apply keeps_modKernel | apply keeps_sqAdvance | apply keeps_tcAdvance | apply keeps_ite)
    | simp only [keeps_mk_iff]
    | split

theorem keeps_headerMet : ∀ {s₀ a0} a1 a2, Keeps s₀ a0 → Keeps s₀ (State.headerMet a0 a1 a2) := by
  intro s₀ a0 a1 a2 h
  unfold State.headerMet
  repeat' first
    | with_reducible (first | assumption | refine keeps_fst ?_ (by assumption) | apply keeps_cmdGo | apply keeps_ite)
    | simp only [keeps_mk_iff]
    | split

theorem keeps_sqMet : ∀ {s₀ a0} a1, Keeps s₀ a0 → Keeps s₀ (State.sqMet a0 a1) := by
  intro s₀ a0 a1 h
  unfold State.sqMet
  repeat' first
    | with_reducible (first | assumption | refine keeps_fst ?_ (by assumption) | apply keeps_sqBody
                            | apply keeps_sqFinish | apply keeps_ite)
    | simp only [keeps_mk_iff]
    | split

theorem keeps_sqTimeout : ∀ {s₀ a0} a1, Keeps s₀ a0 → Keeps s₀ (State.sqTimeout a0 a1) := by
  intro s₀ a0 a1 h
  unfold State.sqTimeout
  repeat' first
    | with_reducible (first | assumption | refine keeps_fst ?_ (by assumption) | apply keeps_cmdError
                            | apply keeps_tileSet)
    | simp only [keeps_mk_iff]
    | split

theorem keeps_haloMet : ∀ {s₀ a0} a1 a2, Keeps s₀ a0 → Keeps s₀ (State.haloMet a0 a1 a2) := by
  intro s₀ a0 a1 a2 h
  unfold State.haloMet
  repeat' first
    | with_reducible (first | assumption | refine keeps_fst ?_ (by assumption) | apply keeps_haloBits
                            | apply keeps_setCmd | apply keeps_ite)
    | simp only [keeps_mk_iff]
    | split

theorem keeps_haloLate : ∀ {s₀ a0} a1 a2, Keeps s₀ a0 → Keeps s₀ (State.haloLate a0 a1 a2) := by
  intro s₀ a0 a1 a2 h
  unfold State.haloLate
  repeat' first
    | with_reducible (first | assumption | refine keeps_fst ?_ (by assumption) | apply keeps_haloBits
                            | apply keeps_setCmd | apply keeps_ite)
    | simp only [keeps_mk_iff]
    | split

theorem keeps_haloFail : ∀ {s₀ a0} a1 a2, Keeps s₀ a0 → Keeps s₀ (State.haloFail a0 a1 a2) := by
  intro s₀ a0 a1 a2 h
  unfold State.haloFail
  repeat' first
    | with_reducible (first | assumption | apply keeps_setCmd | apply keeps_haloBits)
    | simp only [keeps_mk_iff]

theorem keeps_haloMailDone : ∀ {s₀ a0} a1, Keeps s₀ a0 → Keeps s₀ (State.haloMailDone a0 a1) := by
  intro s₀ a0 a1 h
  unfold State.haloMailDone
  try dsimp only
  repeat' first
    | with_reducible (first | assumption | refine keeps_fst ?_ (by assumption) | apply keeps_bump
                            | apply keeps_setCmd | apply keeps_haloCopy | apply keeps_haloFail | apply keeps_runCmd
                            | apply keeps_haloBits | apply keeps_ite)
    | simp only [keeps_mk_iff]
    | split

theorem keeps_haloAltDone : ∀ {s₀ a0} a1, Keeps s₀ a0 → Keeps s₀ (State.haloAltDone a0 a1) := by
  intro s₀ a0 a1 h
  unfold State.haloAltDone
  try dsimp only
  repeat' first
    | with_reducible (first | assumption | refine keeps_fst ?_ (by assumption) | apply keeps_haloCopy
                            | apply keeps_haloFail | apply keeps_bump | apply keeps_runCmd | apply keeps_haloBits
                            | apply keeps_ite)
    | simp only [keeps_mk_iff]
    | split

theorem keeps_abortSlot : ∀ {s₀ a0} a1, Keeps s₀ a0 → Keeps s₀ (State.abortSlot a0 a1) := by
  intro s₀ a0 a1 h
  unfold State.abortSlot
  try dsimp only
  repeat' first
    | with_reducible (first | assumption | refine keeps_fst ?_ (by assumption) | apply keeps_cancelWaits
                            | apply keeps_modKernel | apply keeps_tileSet)
    | simp only [keeps_mk_iff]
    | split

theorem keeps_flushQueue : ∀ {s₀ a0} a1, Keeps s₀ a0 → Keeps s₀ (State.flushQueue a0 a1) := by
  intro s₀ a0 a1 h
  unfold State.flushQueue
  try dsimp only
  repeat' first
    | with_reducible (first | assumption | apply keeps_tileSet | apply keeps_setFld | apply keeps_tileEnded
                            | apply keeps_ite)
    | simp only [keeps_mk_iff]
    | with_reducible apply keeps_foldl
    | with_reducible apply keeps_foldlP
    | (intro _ _ _; try dsimp only)
    | (intro _ _; try dsimp only)
    | split

theorem keeps_abortDone : ∀ {s₀ a0} a1, Keeps s₀ a0 → Keeps s₀ (State.abortDone a0 a1) := by
  intro s₀ a0 a1 h
  unfold State.abortDone
  try dsimp only
  repeat' first
    | with_reducible (first | assumption | refine keeps_fst ?_ (by assumption) | apply keeps_putStatus
                            | apply keeps_busyCount | apply keeps_undefineDst | apply keeps_undefine
                            | apply keeps_haloBits | apply keeps_endKernel | apply keeps_tileSet | apply keeps_ite)
    | simp only [keeps_mk_iff]
    | with_reducible apply keeps_foldl
    | with_reducible apply keeps_foldlP
    | (intro _ _ _; try dsimp only)
    | (intro _ _; try dsimp only)
    | split

theorem keeps_scrubSlot : ∀ {s₀ a0} a1, Keeps s₀ a0 → Keeps s₀ (State.scrubSlot a0 a1) := by
  intro s₀ a0 a1 h
  unfold State.scrubSlot
  try dsimp only
  repeat' first
    | with_reducible (first | assumption | apply keeps_cancelWaits | apply keeps_tileSet | apply keeps_zeroRange
                            | apply keeps_resetRegs)

end Sys2Proof.Machine
end

