-- ==== Sys2Proof/Laws/KeepsTile.lean ====
section
/-!
SUPPORT. What the operations of `Machine/Tile.lean` keep (see `Laws/Keeps.lean`): one lemma per operation.
-/
namespace Sys2Proof.Machine

theorem keeps_pushWindow : ∀ {s₀ a0} a1 a2 a3 a4, Keeps s₀ a0 → Keeps s₀ (State.pushWindow a0 a1 a2 a3 a4) := by
  intro s₀ a0 a1 a2 a3 a4 h
  unfold State.pushWindow
  try dsimp only
  repeat' first
    | with_reducible (first | assumption | apply keeps_guarded | apply keeps_setReg | apply keeps_launchPush)

theorem keeps_execLaunchRecordPush : ∀ {s₀ a6} a0 a1 a2 a3 a4 a5, Keeps s₀ a6 → KeepsO s₀ (execLaunchRecordPush a0 a1 a2 a3 a4 a5 a6) := by
  intro s₀ a6 a0 a1 a2 a3 a4 a5 h
  unfold execLaunchRecordPush
  repeat' first
    | with_reducible (first | assumption | apply keeps_pushWindow | apply keepsO_next)

theorem keeps_execKernelStart : ∀ {s₀ a3} a0 a1 a2, Keeps s₀ a3 → KeepsO s₀ (execKernelStart a0 a1 a2 a3) := by
  intro s₀ a3 a0 a1 a2 h
  unfold execKernelStart
  repeat' first
    | with_reducible (first | assumption | apply keeps_kernelStart | apply keepsO_next)

theorem keeps_execCodeFetchDone : ∀ {s₀ a3} a0 a1 a2, Keeps s₀ a3 → KeepsO s₀ (execCodeFetchDone a0 a1 a2 a3) := by
  intro s₀ a3 a0 a1 a2 h
  unfold execCodeFetchDone
  repeat' first
    | with_reducible (first | assumption | apply keeps_codeFetched | apply keepsO_next)

theorem keeps_kernelEnd : ∀ {s₀ a0} a1, Keeps s₀ a0 → Keeps s₀ (State.kernelEnd a0 a1) := by
  intro s₀ a0 a1 h
  unfold State.kernelEnd
  try dsimp only
  repeat' first
    | with_reducible (first | assumption | refine keeps_fst ?_ (by assumption) | apply keeps_endKernel
                            | apply keeps_ite)
    | simp only [keeps_mk_iff]
    | split

theorem keeps_execKernelEnd : ∀ {s₀ a3} a0 a1 a2, Keeps s₀ a3 → KeepsO s₀ (execKernelEnd a0 a1 a2 a3) := by
  intro s₀ a3 a0 a1 a2 h
  unfold execKernelEnd
  repeat' first
    | with_reducible (first | assumption | apply keeps_kernelEnd | apply keepsO_next)

theorem keeps_execCommandComplete : ∀ {s₀ a4} a0 a1 a2 a3, Keeps s₀ a4 → KeepsO s₀ (execCommandComplete a0 a1 a2 a3 a4) := by
  intro s₀ a4 a0 a1 a2 a3 h
  unfold execCommandComplete
  repeat' first
    | with_reducible (first | assumption | apply keeps_cmdComplete | apply keepsO_next)

theorem keeps_execNop : ∀ {s₀ a4} a0 a1 a2 a3, Keeps s₀ a4 → KeepsO s₀ (execNop a0 a1 a2 a3 a4) := by
  intro s₀ a4 a0 a1 a2 a3 h
  unfold execNop
  try dsimp only
  repeat' first
    | with_reducible (first | assumption | apply keeps_issue | apply keepsO_next)
    | simp only [keeps_mk_iff]
    | split

theorem keeps_execSyncWait : ∀ {s₀ a4} a0 a1 a2 a3, Keeps s₀ a4 → KeepsO s₀ (execSyncWait a0 a1 a2 a3 a4) := by
  intro s₀ a4 a0 a1 a2 a3 h
  unfold execSyncWait
  try dsimp only
  repeat' first
    | with_reducible (first | assumption | apply keeps_issue | apply keepsO_next)
    | simp only [keeps_mk_iff]

theorem keeps_execSyncSignal : ∀ {s₀ a4} a0 a1 a2 a3, Keeps s₀ a4 → KeepsO s₀ (execSyncSignal a0 a1 a2 a3 a4) := by
  intro s₀ a4 a0 a1 a2 a3 h
  unfold execSyncSignal
  try dsimp only
  repeat' first
    | with_reducible (first | assumption | apply keeps_issue | apply keepsO_next)
    | simp only [keeps_mk_iff]

theorem keeps_execMma : ∀ {s₀ a4} a0 a1 a2 a3, Keeps s₀ a4 → KeepsO s₀ (execMma a0 a1 a2 a3 a4) := by
  intro s₀ a4 a0 a1 a2 a3 h
  unfold execMma
  repeat' first
    | with_reducible (first | assumption | apply keeps_issue | apply keepsO_next)
    | simp only [keeps_mk_iff]

theorem keeps_execConv : ∀ {s₀ a4} a0 a1 a2 a3, Keeps s₀ a4 → KeepsO s₀ (execConv a0 a1 a2 a3 a4) := by
  intro s₀ a4 a0 a1 a2 a3 h
  unfold execConv
  repeat' first
    | with_reducible (first | assumption | apply keeps_issue | apply keepsO_next)
    | simp only [keeps_mk_iff]

theorem keeps_execAttn : ∀ {s₀ a4} a0 a1 a2 a3, Keeps s₀ a4 → KeepsO s₀ (execAttn a0 a1 a2 a3 a4) := by
  intro s₀ a4 a0 a1 a2 a3 h
  unfold execAttn
  repeat' first
    | with_reducible (first | assumption | apply keeps_issue | apply keepsO_next)
    | simp only [keeps_mk_iff]

theorem keeps_execXrd : ∀ {s₀ a4} a0 a1 a2 a3, Keeps s₀ a4 → KeepsO s₀ (execXrd a0 a1 a2 a3 a4) := by
  intro s₀ a4 a0 a1 a2 a3 h
  unfold execXrd
  repeat' first
    | with_reducible (first | assumption | apply keeps_issue | apply keepsO_next)
    | simp only [keeps_mk_iff]

theorem keeps_execDma : ∀ {s₀ a6} a0 a1 a2 a3 a4 a5, Keeps s₀ a6 → KeepsO s₀ (execDma a0 a1 a2 a3 a4 a5 a6) := by
  intro s₀ a6 a0 a1 a2 a3 a4 a5 h
  unfold execDma
  repeat' first
    | with_reducible (first | assumption | apply keeps_issue | apply keeps_upset | apply keepsO_next)
    | simp only [keeps_mk_iff]

theorem keeps_execMov : ∀ {s₀ a4} a0 a1 a2 a3, Keeps s₀ a4 → KeepsO s₀ (execMov a0 a1 a2 a3 a4) := by
  intro s₀ a4 a0 a1 a2 a3 h
  unfold execMov
  repeat' first
    | with_reducible (first | assumption | apply keeps_issue | apply keepsO_next)
    | simp only [keeps_mk_iff]

theorem keeps_execCvt : ∀ {s₀ a4} a0 a1 a2 a3, Keeps s₀ a4 → KeepsO s₀ (execCvt a0 a1 a2 a3 a4) := by
  intro s₀ a4 a0 a1 a2 a3 h
  unfold execCvt
  repeat' first
    | with_reducible (first | assumption | apply keeps_issue | apply keepsO_next)
    | simp only [keeps_mk_iff]

theorem keeps_execMxq : ∀ {s₀ a4} a0 a1 a2 a3, Keeps s₀ a4 → KeepsO s₀ (execMxq a0 a1 a2 a3 a4) := by
  intro s₀ a4 a0 a1 a2 a3 h
  unfold execMxq
  repeat' first
    | with_reducible (first | assumption | apply keeps_issue | apply keepsO_next)
    | simp only [keeps_mk_iff]

theorem keeps_execMxd : ∀ {s₀ a4} a0 a1 a2 a3, Keeps s₀ a4 → KeepsO s₀ (execMxd a0 a1 a2 a3 a4) := by
  intro s₀ a4 a0 a1 a2 a3 h
  unfold execMxd
  repeat' first
    | with_reducible (first | assumption | apply keeps_issue | apply keepsO_next)
    | simp only [keeps_mk_iff]

theorem keeps_execAdd : ∀ {s₀ a4} a0 a1 a2 a3, Keeps s₀ a4 → KeepsO s₀ (execAdd a0 a1 a2 a3 a4) := by
  intro s₀ a4 a0 a1 a2 a3 h
  unfold execAdd
  repeat' first
    | with_reducible (first | assumption | apply keeps_issue | apply keepsO_next)
    | simp only [keeps_mk_iff]

theorem keeps_execSub : ∀ {s₀ a4} a0 a1 a2 a3, Keeps s₀ a4 → KeepsO s₀ (execSub a0 a1 a2 a3 a4) := by
  intro s₀ a4 a0 a1 a2 a3 h
  unfold execSub
  repeat' first
    | with_reducible (first | assumption | apply keeps_issue | apply keepsO_next)
    | simp only [keeps_mk_iff]

theorem keeps_execMul : ∀ {s₀ a4} a0 a1 a2 a3, Keeps s₀ a4 → KeepsO s₀ (execMul a0 a1 a2 a3 a4) := by
  intro s₀ a4 a0 a1 a2 a3 h
  unfold execMul
  repeat' first
    | with_reducible (first | assumption | apply keeps_issue | apply keepsO_next)
    | simp only [keeps_mk_iff]

theorem keeps_execDiv : ∀ {s₀ a4} a0 a1 a2 a3, Keeps s₀ a4 → KeepsO s₀ (execDiv a0 a1 a2 a3 a4) := by
  intro s₀ a4 a0 a1 a2 a3 h
  unfold execDiv
  repeat' first
    | with_reducible (first | assumption | apply keeps_issue | apply keepsO_next)
    | simp only [keeps_mk_iff]

theorem keeps_execFma : ∀ {s₀ a4} a0 a1 a2 a3, Keeps s₀ a4 → KeepsO s₀ (execFma a0 a1 a2 a3 a4) := by
  intro s₀ a4 a0 a1 a2 a3 h
  unfold execFma
  repeat' first
    | with_reducible (first | assumption | apply keeps_issue | apply keepsO_next)
    | simp only [keeps_mk_iff]

theorem keeps_execMin : ∀ {s₀ a4} a0 a1 a2 a3, Keeps s₀ a4 → KeepsO s₀ (execMin a0 a1 a2 a3 a4) := by
  intro s₀ a4 a0 a1 a2 a3 h
  unfold execMin
  repeat' first
    | with_reducible (first | assumption | apply keeps_issue | apply keepsO_next)
    | simp only [keeps_mk_iff]

theorem keeps_execMax : ∀ {s₀ a4} a0 a1 a2 a3, Keeps s₀ a4 → KeepsO s₀ (execMax a0 a1 a2 a3 a4) := by
  intro s₀ a4 a0 a1 a2 a3 h
  unfold execMax
  repeat' first
    | with_reducible (first | assumption | apply keeps_issue | apply keepsO_next)
    | simp only [keeps_mk_iff]

theorem keeps_execAbs : ∀ {s₀ a4} a0 a1 a2 a3, Keeps s₀ a4 → KeepsO s₀ (execAbs a0 a1 a2 a3 a4) := by
  intro s₀ a4 a0 a1 a2 a3 h
  unfold execAbs
  repeat' first
    | with_reducible (first | assumption | apply keeps_issue | apply keepsO_next)
    | simp only [keeps_mk_iff]

theorem keeps_execNeg : ∀ {s₀ a4} a0 a1 a2 a3, Keeps s₀ a4 → KeepsO s₀ (execNeg a0 a1 a2 a3 a4) := by
  intro s₀ a4 a0 a1 a2 a3 h
  unfold execNeg
  repeat' first
    | with_reducible (first | assumption | apply keeps_issue | apply keepsO_next)
    | simp only [keeps_mk_iff]

theorem keeps_execSqrt : ∀ {s₀ a4} a0 a1 a2 a3, Keeps s₀ a4 → KeepsO s₀ (execSqrt a0 a1 a2 a3 a4) := by
  intro s₀ a4 a0 a1 a2 a3 h
  unfold execSqrt
  repeat' first
    | with_reducible (first | assumption | apply keeps_issue | apply keepsO_next)
    | simp only [keeps_mk_iff]

theorem keeps_execRecip : ∀ {s₀ a4} a0 a1 a2 a3, Keeps s₀ a4 → KeepsO s₀ (execRecip a0 a1 a2 a3 a4) := by
  intro s₀ a4 a0 a1 a2 a3 h
  unfold execRecip
  repeat' first
    | with_reducible (first | assumption | apply keeps_issue | apply keepsO_next)
    | simp only [keeps_mk_iff]

theorem keeps_execRsqrt : ∀ {s₀ a4} a0 a1 a2 a3, Keeps s₀ a4 → KeepsO s₀ (execRsqrt a0 a1 a2 a3 a4) := by
  intro s₀ a4 a0 a1 a2 a3 h
  unfold execRsqrt
  repeat' first
    | with_reducible (first | assumption | apply keeps_issue | apply keepsO_next)
    | simp only [keeps_mk_iff]

theorem keeps_execExp : ∀ {s₀ a4} a0 a1 a2 a3, Keeps s₀ a4 → KeepsO s₀ (execExp a0 a1 a2 a3 a4) := by
  intro s₀ a4 a0 a1 a2 a3 h
  unfold execExp
  repeat' first
    | with_reducible (first | assumption | apply keeps_issue | apply keepsO_next)
    | simp only [keeps_mk_iff]

theorem keeps_execExp2 : ∀ {s₀ a4} a0 a1 a2 a3, Keeps s₀ a4 → KeepsO s₀ (execExp2 a0 a1 a2 a3 a4) := by
  intro s₀ a4 a0 a1 a2 a3 h
  unfold execExp2
  repeat' first
    | with_reducible (first | assumption | apply keeps_issue | apply keepsO_next)
    | simp only [keeps_mk_iff]

theorem keeps_execLog : ∀ {s₀ a4} a0 a1 a2 a3, Keeps s₀ a4 → KeepsO s₀ (execLog a0 a1 a2 a3 a4) := by
  intro s₀ a4 a0 a1 a2 a3 h
  unfold execLog
  repeat' first
    | with_reducible (first | assumption | apply keeps_issue | apply keepsO_next)
    | simp only [keeps_mk_iff]

theorem keeps_execLog2 : ∀ {s₀ a4} a0 a1 a2 a3, Keeps s₀ a4 → KeepsO s₀ (execLog2 a0 a1 a2 a3 a4) := by
  intro s₀ a4 a0 a1 a2 a3 h
  unfold execLog2
  repeat' first
    | with_reducible (first | assumption | apply keeps_issue | apply keepsO_next)
    | simp only [keeps_mk_iff]

theorem keeps_execExpm1 : ∀ {s₀ a4} a0 a1 a2 a3, Keeps s₀ a4 → KeepsO s₀ (execExpm1 a0 a1 a2 a3 a4) := by
  intro s₀ a4 a0 a1 a2 a3 h
  unfold execExpm1
  repeat' first
    | with_reducible (first | assumption | apply keeps_issue | apply keepsO_next)
    | simp only [keeps_mk_iff]

theorem keeps_execLog1p : ∀ {s₀ a4} a0 a1 a2 a3, Keeps s₀ a4 → KeepsO s₀ (execLog1p a0 a1 a2 a3 a4) := by
  intro s₀ a4 a0 a1 a2 a3 h
  unfold execLog1p
  repeat' first
    | with_reducible (first | assumption | apply keeps_issue | apply keepsO_next)
    | simp only [keeps_mk_iff]

theorem keeps_execSin : ∀ {s₀ a4} a0 a1 a2 a3, Keeps s₀ a4 → KeepsO s₀ (execSin a0 a1 a2 a3 a4) := by
  intro s₀ a4 a0 a1 a2 a3 h
  unfold execSin
  repeat' first
    | with_reducible (first | assumption | apply keeps_issue | apply keepsO_next)
    | simp only [keeps_mk_iff]

theorem keeps_execCos : ∀ {s₀ a4} a0 a1 a2 a3, Keeps s₀ a4 → KeepsO s₀ (execCos a0 a1 a2 a3 a4) := by
  intro s₀ a4 a0 a1 a2 a3 h
  unfold execCos
  repeat' first
    | with_reducible (first | assumption | apply keeps_issue | apply keepsO_next)
    | simp only [keeps_mk_iff]

theorem keeps_execTanh : ∀ {s₀ a4} a0 a1 a2 a3, Keeps s₀ a4 → KeepsO s₀ (execTanh a0 a1 a2 a3 a4) := by
  intro s₀ a4 a0 a1 a2 a3 h
  unfold execTanh
  repeat' first
    | with_reducible (first | assumption | apply keeps_issue | apply keepsO_next)
    | simp only [keeps_mk_iff]

theorem keeps_execSigmoid : ∀ {s₀ a4} a0 a1 a2 a3, Keeps s₀ a4 → KeepsO s₀ (execSigmoid a0 a1 a2 a3 a4) := by
  intro s₀ a4 a0 a1 a2 a3 h
  unfold execSigmoid
  repeat' first
    | with_reducible (first | assumption | apply keeps_issue | apply keepsO_next)
    | simp only [keeps_mk_iff]

theorem keeps_execErf : ∀ {s₀ a4} a0 a1 a2 a3, Keeps s₀ a4 → KeepsO s₀ (execErf a0 a1 a2 a3 a4) := by
  intro s₀ a4 a0 a1 a2 a3 h
  unfold execErf
  repeat' first
    | with_reducible (first | assumption | apply keeps_issue | apply keepsO_next)
    | simp only [keeps_mk_iff]

theorem keeps_execGelu : ∀ {s₀ a4} a0 a1 a2 a3, Keeps s₀ a4 → KeepsO s₀ (execGelu a0 a1 a2 a3 a4) := by
  intro s₀ a4 a0 a1 a2 a3 h
  unfold execGelu
  repeat' first
    | with_reducible (first | assumption | apply keeps_issue | apply keepsO_next)
    | simp only [keeps_mk_iff]

theorem keeps_execCmp : ∀ {s₀ a4} a0 a1 a2 a3, Keeps s₀ a4 → KeepsO s₀ (execCmp a0 a1 a2 a3 a4) := by
  intro s₀ a4 a0 a1 a2 a3 h
  unfold execCmp
  repeat' first
    | with_reducible (first | assumption | apply keeps_issue | apply keepsO_next)
    | simp only [keeps_mk_iff]

theorem keeps_execSel : ∀ {s₀ a4} a0 a1 a2 a3, Keeps s₀ a4 → KeepsO s₀ (execSel a0 a1 a2 a3 a4) := by
  intro s₀ a4 a0 a1 a2 a3 h
  unfold execSel
  repeat' first
    | with_reducible (first | assumption | apply keeps_issue | apply keepsO_next)
    | simp only [keeps_mk_iff]

theorem keeps_execRsum : ∀ {s₀ a4} a0 a1 a2 a3, Keeps s₀ a4 → KeepsO s₀ (execRsum a0 a1 a2 a3 a4) := by
  intro s₀ a4 a0 a1 a2 a3 h
  unfold execRsum
  repeat' first
    | with_reducible (first | assumption | apply keeps_issue | apply keepsO_next)
    | simp only [keeps_mk_iff]

theorem keeps_execRmax : ∀ {s₀ a4} a0 a1 a2 a3, Keeps s₀ a4 → KeepsO s₀ (execRmax a0 a1 a2 a3 a4) := by
  intro s₀ a4 a0 a1 a2 a3 h
  unfold execRmax
  repeat' first
    | with_reducible (first | assumption | apply keeps_issue | apply keepsO_next)
    | simp only [keeps_mk_iff]

theorem keeps_execRmin : ∀ {s₀ a4} a0 a1 a2 a3, Keeps s₀ a4 → KeepsO s₀ (execRmin a0 a1 a2 a3 a4) := by
  intro s₀ a4 a0 a1 a2 a3 h
  unfold execRmin
  repeat' first
    | with_reducible (first | assumption | apply keeps_issue | apply keepsO_next)
    | simp only [keeps_mk_iff]

theorem keeps_execRdot : ∀ {s₀ a4} a0 a1 a2 a3, Keeps s₀ a4 → KeepsO s₀ (execRdot a0 a1 a2 a3 a4) := by
  intro s₀ a4 a0 a1 a2 a3 h
  unfold execRdot
  repeat' first
    | with_reducible (first | assumption | apply keeps_issue | apply keepsO_next)
    | simp only [keeps_mk_iff]

theorem keeps_execSmax : ∀ {s₀ a4} a0 a1 a2 a3, Keeps s₀ a4 → KeepsO s₀ (execSmax a0 a1 a2 a3 a4) := by
  intro s₀ a4 a0 a1 a2 a3 h
  unfold execSmax
  repeat' first
    | with_reducible (first | assumption | apply keeps_issue | apply keepsO_next)
    | simp only [keeps_mk_iff]

theorem keeps_execRmsn : ∀ {s₀ a4} a0 a1 a2 a3, Keeps s₀ a4 → KeepsO s₀ (execRmsn a0 a1 a2 a3 a4) := by
  intro s₀ a4 a0 a1 a2 a3 h
  unfold execRmsn
  repeat' first
    | with_reducible (first | assumption | apply keeps_issue | apply keepsO_next)
    | simp only [keeps_mk_iff]

theorem keeps_execLnrm : ∀ {s₀ a4} a0 a1 a2 a3, Keeps s₀ a4 → KeepsO s₀ (execLnrm a0 a1 a2 a3 a4) := by
  intro s₀ a4 a0 a1 a2 a3 h
  unfold execLnrm
  repeat' first
    | with_reducible (first | assumption | apply keeps_issue | apply keepsO_next)
    | simp only [keeps_mk_iff]

theorem keeps_execIadd : ∀ {s₀ a4} a0 a1 a2 a3, Keeps s₀ a4 → KeepsO s₀ (execIadd a0 a1 a2 a3 a4) := by
  intro s₀ a4 a0 a1 a2 a3 h
  unfold execIadd
  repeat' first
    | with_reducible (first | assumption | apply keeps_issue | apply keepsO_next)
    | simp only [keeps_mk_iff]

theorem keeps_execIsub : ∀ {s₀ a4} a0 a1 a2 a3, Keeps s₀ a4 → KeepsO s₀ (execIsub a0 a1 a2 a3 a4) := by
  intro s₀ a4 a0 a1 a2 a3 h
  unfold execIsub
  repeat' first
    | with_reducible (first | assumption | apply keeps_issue | apply keepsO_next)
    | simp only [keeps_mk_iff]

theorem keeps_execImul : ∀ {s₀ a4} a0 a1 a2 a3, Keeps s₀ a4 → KeepsO s₀ (execImul a0 a1 a2 a3 a4) := by
  intro s₀ a4 a0 a1 a2 a3 h
  unfold execImul
  repeat' first
    | with_reducible (first | assumption | apply keeps_issue | apply keepsO_next)
    | simp only [keeps_mk_iff]

theorem keeps_execIshr : ∀ {s₀ a4} a0 a1 a2 a3, Keeps s₀ a4 → KeepsO s₀ (execIshr a0 a1 a2 a3 a4) := by
  intro s₀ a4 a0 a1 a2 a3 h
  unfold execIshr
  repeat' first
    | with_reducible (first | assumption | apply keeps_issue | apply keepsO_next)
    | simp only [keeps_mk_iff]

theorem keeps_execGath : ∀ {s₀ a4} a0 a1 a2 a3, Keeps s₀ a4 → KeepsO s₀ (execGath a0 a1 a2 a3 a4) := by
  intro s₀ a4 a0 a1 a2 a3 h
  unfold execGath
  repeat' first
    | with_reducible (first | assumption | apply keeps_issue | apply keepsO_next)
    | simp only [keeps_mk_iff]

theorem keeps_execScat : ∀ {s₀ a4} a0 a1 a2 a3, Keeps s₀ a4 → KeepsO s₀ (execScat a0 a1 a2 a3 a4) := by
  intro s₀ a4 a0 a1 a2 a3 h
  unfold execScat
  repeat' first
    | with_reducible (first | assumption | apply keeps_issue | apply keepsO_next)
    | simp only [keeps_mk_iff]

theorem keeps_execScadd : ∀ {s₀ a4} a0 a1 a2 a3, Keeps s₀ a4 → KeepsO s₀ (execScadd a0 a1 a2 a3 a4) := by
  intro s₀ a4 a0 a1 a2 a3 h
  unfold execScadd
  repeat' first
    | with_reducible (first | assumption | apply keeps_issue | apply keepsO_next)
    | simp only [keeps_mk_iff]

theorem keeps_execTcHalt : ∀ {s₀ a5} a0 a1 a2 a3 a4, Keeps s₀ a5 → KeepsO s₀ (execTcHalt a0 a1 a2 a3 a4 a5) := by
  intro s₀ a5 a0 a1 a2 a3 a4 h
  unfold execTcHalt
  try dsimp only
  repeat' first
    | with_reducible (first | assumption | apply keeps_guarded | apply keeps_setRbit | apply keepsO_next)

theorem keeps_tcAbort : ∀ {s₀ a0} a1 a2, Keeps s₀ a0 → Keeps s₀ (State.tcAbort a0 a1 a2) := by
  intro s₀ a0 a1 a2 h
  unfold State.tcAbort
  try dsimp only
  repeat' first
    | with_reducible (first | assumption | refine keeps_fst ?_ (by assumption) | apply keeps_endKernel
                            | apply keeps_setRbit | apply keeps_abortSlot | apply keeps_ite)
    | simp only [keeps_mk_iff]
    | split

theorem keeps_execTcAbort : ∀ {s₀ a5} a0 a1 a2 a3 a4, Keeps s₀ a5 → KeepsO s₀ (execTcAbort a0 a1 a2 a3 a4 a5) := by
  intro s₀ a5 a0 a1 a2 a3 a4 h
  unfold execTcAbort
  repeat' first
    | with_reducible (first | assumption | apply keeps_guarded | apply keeps_tcAbort | apply keepsO_next)

theorem keeps_execTcFlush : ∀ {s₀ a5} a0 a1 a2 a3 a4, Keeps s₀ a5 → KeepsO s₀ (execTcFlush a0 a1 a2 a3 a4 a5) := by
  intro s₀ a5 a0 a1 a2 a3 a4 h
  unfold execTcFlush
  repeat' first
    | with_reducible (first | assumption | apply keeps_guarded | apply keeps_tcAbort | apply keeps_flushQueue
                            | apply keepsO_next)
    | simp only [keeps_mk_iff]

theorem keeps_execAbortComplete : ∀ {s₀ a3} a0 a1 a2, Keeps s₀ a3 → KeepsO s₀ (execAbortComplete a0 a1 a2 a3) := by
  intro s₀ a3 a0 a1 a2 h
  unfold execAbortComplete
  repeat' first
    | with_reducible (first | assumption | apply keeps_abortDone | apply keepsO_next)

theorem keeps_execHaloDeadlineExpiry : ∀ {s₀ a3} a0 a1 a2, Keeps s₀ a3 → KeepsO s₀ (execHaloDeadlineExpiry a0 a1 a2 a3) := by
  intro s₀ a3 a0 a1 a2 h
  unfold execHaloDeadlineExpiry
  try dsimp only
  repeat' first
    | with_reducible (first | assumption | refine keeps_fst ?_ (by assumption) | apply keeps_cancelWaits
                            | apply keeps_haloMet | apply keeps_haloLate | apply keepsO_next)
    | simp only [keeps_mk_iff]
    | split

theorem keeps_execHaloMailboxCopyDone : ∀ {s₀ a3} a0 a1 a2, Keeps s₀ a3 → KeepsO s₀ (execHaloMailboxCopyDone a0 a1 a2 a3) := by
  intro s₀ a3 a0 a1 a2 h
  unfold execHaloMailboxCopyDone
  repeat' first
    | with_reducible (first | assumption | apply keeps_haloMailDone | apply keepsO_next)

theorem keeps_execHaloAltCopyDone : ∀ {s₀ a3} a0 a1 a2, Keeps s₀ a3 → KeepsO s₀ (execHaloAltCopyDone a0 a1 a2 a3) := by
  intro s₀ a3 a0 a1 a2 h
  unfold execHaloAltCopyDone
  repeat' first
    | with_reducible (first | assumption | apply keeps_haloAltDone | apply keepsO_next)

end Sys2Proof.Machine
end

