-- ==== Sys2Proof/Laws/KeepsMemory.lean ====
section
/-!
SUPPORT. What the operations of `Machine/Memory.lean` keep (see `Laws/Keeps.lean`): one lemma per operation.
-/
namespace Sys2Proof.Machine

theorem keeps_execTargetedScrub : ∀ {s₀ a2} a0 a1, Keeps s₀ a2 → KeepsO s₀ (execTargetedScrub a0 a1 a2) := by
  intro s₀ a2 a0 a1 h
  unfold execTargetedScrub
  repeat' first
    | with_reducible (first | assumption | apply keeps_targetedScrub | apply keepsO_next)

theorem keeps_execCorrectionWriteback : ∀ {s₀ a1} a0, Keeps s₀ a1 → KeepsO s₀ (execCorrectionWriteback a0 a1) := by
  intro s₀ a1 a0 h
  unfold execCorrectionWriteback
  try dsimp only
  repeat' first
    | with_reducible (first | assumption | apply keeps_setWord | apply keepsO_next)
    | split

theorem keeps_setPatrol : ∀ {s₀ a0} a1 a2, Keeps s₀ a0 → Keeps s₀ (State.setPatrol a0 a1 a2) := by
  intro s₀ a0 a1 a2 h
  unfold State.setPatrol
  repeat' first
    | with_reducible (first | assumption | refine keeps_fst ?_ (by assumption))
    | simp only [keeps_mk_iff]
    | simp only [keeps_mem_iff]
    | split

theorem keeps_scrubPass : ∀ {s₀ a0} a1, Keeps s₀ a0 → Keeps s₀ (State.scrubPass a0 a1) := by
  intro s₀ a0 a1 h
  unfold State.scrubPass
  try dsimp only
  repeat' first
    | with_reducible (first | assumption | refine keeps_fst ?_ (by assumption) | apply keeps_bumpFld
                            | apply keeps_ite | apply keeps_iteP)
    | simp only [keeps_mk_iff]
    | simp only [keeps_mem_iff]
    | with_reducible apply keeps_foldl
    | with_reducible apply keeps_foldlP
    | (intro _ _ _; try dsimp only)
    | (intro _ _; try dsimp only)
    | split

theorem keeps_execPatrolScrubPassStart : ∀ {s₀ a1} a0, Keeps s₀ a1 → KeepsO s₀ (execPatrolScrubPassStart a0 a1) := by
  intro s₀ a1 a0 h
  unfold execPatrolScrubPassStart
  try dsimp only
  repeat' first
    | with_reducible (first | assumption | apply keeps_setPatrol | apply keepsO_next)
    | split

theorem keeps_patrolWord : ∀ {s₀ a0} a1 a2, Keeps s₀ a0 → Keeps s₀ (State.patrolWord a0 a1 a2) := by
  intro s₀ a0 a1 a2 h
  unfold State.patrolWord
  try dsimp only
  repeat' first
    | with_reducible (first | assumption | apply keeps_targetedScrub | apply keeps_presentHub | apply keeps_setWord
                            | apply keeps_present | apply keeps_poisonWord | apply keeps_ite)
    | simp only [keeps_mk_iff]
    | split

theorem keeps_execPatrolScrubRead : ∀ {s₀ a2} a0 a1, Keeps s₀ a2 → KeepsO s₀ (execPatrolScrubRead a0 a1 a2) := by
  intro s₀ a2 a0 a1 h
  unfold execPatrolScrubRead
  try dsimp only
  repeat' first
    | with_reducible (first | assumption | refine keeps_fst ?_ (by assumption) | apply keeps_scrubPass
                            | apply keeps_setPatrol | apply keeps_upset | apply keeps_patrolWord
                            | apply keepsO_next | apply keeps_ite)
    | simp only [keeps_mk_iff]
    | split

theorem keeps_execLinkFlitError : ∀ {s₀ a4} a0 a1 a2 a3, Keeps s₀ a4 → KeepsO s₀ (execLinkFlitError a0 a1 a2 a3 a4) := by
  intro s₀ a4 a0 a1 a2 a3 h
  unfold execLinkFlitError
  try dsimp only
  repeat' first
    | with_reducible (first | assumption | apply keeps_bumpBy | apply keeps_present | apply keepsO_next)
    | split

theorem keeps_slotMapWrite : ∀ {s₀ a0} a1 a2 a3, Keeps s₀ a0 → Keeps s₀ (State.slotMapWrite a0 a1 a2 a3) := by
  intro s₀ a0 a1 a2 a3 h
  unfold State.slotMapWrite
  try dsimp only
  repeat' first
    | with_reducible (first | assumption | apply keeps_setRbit | apply keeps_setReg64 | apply keeps_tileSet
                            | apply keeps_setReg | apply keeps_ite)
    | simp only [keeps_mk_iff]
    | split

theorem keeps_execClSlotMapWrite : ∀ {s₀ a4} a0 a1 a2 a3, Keeps s₀ a4 → KeepsO s₀ (execClSlotMapWrite a0 a1 a2 a3 a4) := by
  intro s₀ a4 a0 a1 a2 a3 h
  unfold execClSlotMapWrite
  repeat' first
    | with_reducible (first | assumption | apply keeps_guarded | apply keeps_slotMapWrite | apply keepsO_next)

end Sys2Proof.Machine
end

