-- ==== Sys2Proof/Laws/KeepsAcOps.lean ====
section
/-!
SUPPORT. What the operations of `Machine/AcOps.lean` keep (see `Laws/Keeps.lean`): one lemma per operation.
-/
namespace Sys2Proof.Machine

theorem keeps_setAcState : ∀ {s₀ a0} a1 a2, Keeps s₀ a0 → Keeps s₀ (State.setAcState a0 a1 a2) := by
  intro s₀ a0 a1 a2 h
  unfold State.setAcState
  try dsimp only
  repeat' first
    | with_reducible (first | assumption | apply keeps_bump64By | apply keeps_acSet | apply keeps_setFld
                            | apply keeps_ite)
    | simp only [keeps_mk_iff]
    | split

theorem keeps_acIrq : ∀ {s₀ a0} a1 a2, Keeps s₀ a0 → Keeps s₀ (State.acIrq a0 a1 a2) := by
  intro s₀ a0 a1 a2 h
  unfold State.acIrq
  repeat' first
    | with_reducible (first | assumption | apply keeps_setRbit)

theorem keeps_acStop : ∀ {s₀ a0} a1, Keeps s₀ a0 → Keeps s₀ (State.acStop a0 a1) := by
  intro s₀ a0 a1 h
  unfold State.acStop
  repeat' first
    | with_reducible (first | assumption | apply keeps_setAcState | apply keeps_acSet)
    | simp only [keeps_mk_iff]

theorem keeps_acTrap : ∀ {s₀ a0} a1 a2 a3, Keeps s₀ a0 → Keeps s₀ (State.acTrap a0 a1 a2 a3) := by
  intro s₀ a0 a1 a2 a3 h
  unfold State.acTrap
  repeat' first
    | with_reducible (first | assumption | apply keeps_acSet | apply keeps_acStop | apply keeps_ite)
    | split

theorem keeps_acTakeIrq : ∀ {s₀ a0} a1 a2, Keeps s₀ a0 → Keeps s₀ (State.acTakeIrq a0 a1 a2) := by
  intro s₀ a0 a1 a2 h
  unfold State.acTakeIrq
  try dsimp only
  repeat' first
    | with_reducible (first | assumption | refine keeps_fst ?_ (by assumption) | apply keeps_setRbit
                            | apply keeps_acSet | apply keeps_ite)
    | simp only [keeps_mk_iff]
    | split

theorem keeps_acStart : ∀ {s₀ a0} a1, Keeps s₀ a0 → Keeps s₀ (State.acStart a0 a1) := by
  intro s₀ a0 a1 h
  unfold State.acStart
  try dsimp only
  repeat' first
    | with_reducible (first | assumption | refine keeps_fst ?_ (by assumption) | apply keeps_setAcState
                            | apply keeps_setRbit | apply keeps_ite)
    | simp only [keeps_mk_iff]
    | split

theorem keeps_acBoot : ∀ {s₀ a0} a1, Keeps s₀ a0 → Keeps s₀ (State.acBoot a0 a1) := by
  intro s₀ a0 a1 h
  unfold State.acBoot
  try dsimp only
  repeat' first
    | with_reducible (first | assumption | refine keeps_fst ?_ (by assumption) | apply keeps_acSet
                            | apply keeps_setAcState | apply keeps_setRbit | apply keeps_ite)
    | simp only [keeps_mk_iff]
    | split

theorem keeps_acHalt : ∀ {s₀ a0} a1 a2, Keeps s₀ a0 → Keeps s₀ (State.acHalt a0 a1 a2) := by
  intro s₀ a0 a1 a2 h
  unfold State.acHalt
  try dsimp only
  repeat' first
    | with_reducible (first | assumption | apply keeps_setRbit | apply keeps_setAcState | apply keeps_ite)
    | split

theorem keeps_acCancelWait : ∀ {s₀ a0} a1 a2, Keeps s₀ a0 → Keeps s₀ (State.acCancelWait a0 a1 a2) := by
  intro s₀ a0 a1 a2 h
  unfold State.acCancelWait
  try dsimp only
  repeat' first
    | with_reducible (first | assumption | refine keeps_fst ?_ (by assumption) | apply keeps_cancelWaits
                            | apply keeps_setRbit | apply keeps_setFld | apply keeps_ite)
    | simp only [keeps_mk_iff]
    | split

theorem keeps_acCancelWaits : ∀ {s₀ a0} a1, Keeps s₀ a0 → Keeps s₀ (State.acCancelWaits a0 a1) := by
  intro s₀ a0 a1 h
  unfold State.acCancelWaits
  repeat' first
    | with_reducible (first | assumption | apply keeps_acCancelWait)
    | simp only [keeps_mk_iff]
    | with_reducible apply keeps_foldl
    | with_reducible apply keeps_foldlP
    | (intro _ _ _; try dsimp only)
    | (intro _ _; try dsimp only)

theorem keeps_acWriteBack : ∀ {s₀ a0} a1 a2, Keeps s₀ a0 → Keeps s₀ (State.acWriteBack a0 a1 a2) := by
  intro s₀ a0 a1 a2 h
  unfold State.acWriteBack
  repeat' first
    | with_reducible (first | assumption | apply keeps_memWrite | apply keeps_ite)
    | split

theorem keeps_acForget : ∀ {s₀ a0} a1 a2, Keeps s₀ a0 → Keeps s₀ (State.acForget a0 a1 a2) := by
  intro s₀ a0 a1 a2 h
  unfold State.acForget
  repeat' first
    | with_reducible (first | assumption | apply keeps_acSet)
    | simp only [keeps_mk_iff]

theorem keeps_acReset : ∀ {s₀ a0} a1, Keeps s₀ a0 → Keeps s₀ (State.acReset a0 a1) := by
  intro s₀ a0 a1 h
  unfold State.acReset
  try dsimp only
  repeat' first
    | with_reducible (first | assumption | apply keeps_acCancelWaits | apply keeps_acSet | apply keeps_acWriteBack)
    | simp only [keeps_mk_iff]
    | with_reducible apply keeps_foldl
    | with_reducible apply keeps_foldlP
    | (intro _ _ _; try dsimp only)
    | (intro _ _; try dsimp only)

theorem keeps_acResetDone : ∀ {s₀ a0} a1, Keeps s₀ a0 → Keeps s₀ (State.acResetDone a0 a1) := by
  intro s₀ a0 a1 h
  unfold State.acResetDone
  repeat' first
    | with_reducible (first | assumption | apply keeps_acSet | apply keeps_setRbit | apply keeps_setAcState
                            | apply keeps_ite)
    | simp only [keeps_mk_iff]
    | split

theorem keeps_scrubAc : ∀ {s₀ a0} a1, Keeps s₀ a0 → Keeps s₀ (State.scrubAc a0 a1) := by
  intro s₀ a0 a1 h
  unfold State.scrubAc
  try dsimp only
  repeat' first
    | with_reducible (first | assumption | apply keeps_cancelWaits | apply keeps_resetRegs | apply keeps_acSet)
    | simp only [keeps_mk_iff]

theorem keeps_acFail : ∀ {s₀ a0} a1 a2 a3, Keeps s₀ a0 → Keeps s₀ (State.acFail a0 a1 a2 a3) := by
  intro s₀ a0 a1 a2 a3 h
  unfold State.acFail
  repeat' first
    | with_reducible (first | assumption | apply keeps_acIrq | apply keeps_accessError)

theorem keeps_acStored : ∀ {s₀ a0} a1 a2, Keeps s₀ a0 → Keeps s₀ (State.acStored a0 a1 a2) := by
  intro s₀ a0 a1 a2 h
  unfold State.acStored
  repeat' first
    | with_reducible (first | assumption | apply keeps_acTrap | apply keeps_ite)
    | simp only [keeps_mk_iff]
    | split

theorem keeps_acSignal : ∀ {s₀ a0} a1 a2, Keeps s₀ a0 → Keeps s₀ (State.acSignal a0 a1 a2) := by
  intro s₀ a0 a1 a2 h
  unfold State.acSignal
  try dsimp only
  repeat' first
    | with_reducible (first | assumption | apply keeps_answer | apply keeps_signal | apply keeps_acFail
                            | apply keeps_ite)
    | split

theorem keeps_acArm : ∀ {s₀ a0} a1 a2 a3, Keeps s₀ a0 → Keeps s₀ (State.acArm a0 a1 a2 a3) := by
  intro s₀ a0 a1 a2 a3 h
  unfold State.acArm
  try dsimp only
  repeat' first
    | with_reducible (first | assumption | apply keeps_acFail | apply keeps_acCancelWait | apply keeps_setFld
                            | apply keeps_answer | apply keeps_sendWait | apply keeps_ite)
    | simp only [keeps_mk_iff]
    | split

theorem keeps_modJobsOn : ∀ {s₀ a0} a1 a2, Keeps s₀ a0 → Keeps s₀ (State.modJobsOn a0 a1 a2) := by
  intro s₀ a0 a1 a2 h
  unfold State.modJobsOn
  repeat' first
    | with_reducible (first | assumption | apply keeps_ite)
    | simp only [keeps_mk_iff]
    | split

theorem keeps_acWaitDone : ∀ {s₀ a0} a1 a2 a3, Keeps s₀ a0 → Keeps s₀ (State.acWaitDone a0 a1 a2 a3) := by
  intro s₀ a0 a1 a2 a3 h
  unfold State.acWaitDone
  try dsimp only
  repeat' first
    | with_reducible (first | assumption | apply keeps_acSet | apply keeps_modJobsOn | apply keeps_acIrq
                            | apply keeps_setFld | apply keeps_ite)
    | simp only [keeps_mk_iff]
    | split

theorem keeps_acDrop : ∀ {s₀ a0} a1 a2, Keeps s₀ a0 → Keeps s₀ (State.acDrop a0 a1 a2) := by
  intro s₀ a0 a1 a2 h
  unfold State.acDrop
  repeat' first
    | with_reducible (first | assumption | apply keeps_acWriteBack | apply keeps_acForget)

theorem keeps_acRoom : ∀ {s₀ a0} a1, Keeps s₀ a0 → Keeps s₀ (State.acRoom a0 a1) := by
  intro s₀ a0 a1 h
  unfold State.acRoom
  repeat' first
    | with_reducible (first | assumption | refine keeps_fst ?_ (by assumption) | apply keeps_acDrop | apply keeps_ite)
    | simp only [keeps_mk_iff]
    | split

theorem keeps_acLine : ∀ {s₀ a0} a1 a2, Keeps s₀ a0 → Keeps s₀ (State.acLine a0 a1 a2).1 := by
  intro s₀ a0 a1 a2 h
  unfold State.acLine
  try dsimp only
  repeat' first
    | with_reducible (first | assumption | refine keeps_fst ?_ (by assumption) | apply keeps_memRead
                            | apply keeps_acRoom | apply keeps_acSet | apply keeps_iteP)
    | simp only [keeps_mk_iff]
    | split

theorem keeps_acEvict : ∀ {s₀ a0} a1 a2, Keeps s₀ a0 → Keeps s₀ (State.acEvict a0 a1 a2) := by
  intro s₀ a0 a1 a2 h
  unfold State.acEvict
  repeat' first
    | with_reducible (first | assumption | refine keeps_fst ?_ (by assumption) | apply keeps_acDrop)
    | simp only [keeps_mk_iff]
    | with_reducible apply keeps_foldl
    | with_reducible apply keeps_foldlP
    | (intro _ _ _; try dsimp only)
    | (intro _ _; try dsimp only)
    | split

theorem keeps_acLoadCached : ∀ {s₀ a0} a1 a2 a3, Keeps s₀ a0 → Keeps s₀ (State.acLoadCached a0 a1 a2 a3).1 := by
  intro s₀ a0 a1 a2 a3 h
  unfold State.acLoadCached
  try dsimp only
  repeat' first
    | with_reducible (first | assumption | refine keeps_fst ?_ (by assumption) | apply keeps_acLine | apply keeps_iteP)
    | simp only [keeps_mk_iff]
    | with_reducible apply keeps_foldl
    | with_reducible apply keeps_foldlP
    | (intro _ _ _; try dsimp only)
    | (intro _ _; try dsimp only)
    | split

theorem keeps_acStoreCached : ∀ {s₀ a0} a1 a2 a3, Keeps s₀ a0 → Keeps s₀ (State.acStoreCached a0 a1 a2 a3).1 := by
  intro s₀ a0 a1 a2 a3 h
  unfold State.acStoreCached
  try dsimp only
  repeat' first
    | with_reducible (first | assumption | refine keeps_fst ?_ (by assumption) | apply keeps_dropLines
                            | apply keeps_acLine | apply keeps_acSet | apply keeps_ite | apply keeps_iteP)
    | simp only [keeps_mk_iff]
    | with_reducible apply keeps_foldl
    | with_reducible apply keeps_foldlP
    | (intro _ _ _; try dsimp only)
    | (intro _ _; try dsimp only)
    | split

theorem keeps_cboClean : ∀ {s₀ a0} a1 a2, Keeps s₀ a0 → Keeps s₀ (State.cboClean a0 a1 a2) := by
  intro s₀ a0 a1 a2 h
  unfold State.cboClean
  try dsimp only
  repeat' first
    | with_reducible (first | assumption | refine keeps_fst ?_ (by assumption) | apply keeps_acSet
                            | apply keeps_acWriteBack | apply keeps_ite)
    | simp only [keeps_mk_iff]
    | split

theorem keeps_cboFlush : ∀ {s₀ a0} a1 a2, Keeps s₀ a0 → Keeps s₀ (State.cboFlush a0 a1 a2) := by
  intro s₀ a0 a1 a2 h
  unfold State.cboFlush
  repeat' first
    | with_reducible (first | assumption | apply keeps_acEvict)

theorem keeps_cboInval : ∀ {s₀ a0} a1 a2, Keeps s₀ a0 → Keeps s₀ (State.cboInval a0 a1 a2) := by
  intro s₀ a0 a1 a2 h
  unfold State.cboInval
  repeat' first
    | with_reducible (first | assumption | apply keeps_acForget)

end Sys2Proof.Machine
end

