-- ==== Sys2Proof/Laws/KeepsAppCore.lean ====
section
/-!
SUPPORT. What the operations of `Machine/AppCore.lean` keep (see `Laws/Keeps.lean`): one lemma per operation.
-/
namespace Sys2Proof.Machine

theorem keeps_execAcStart : ∀ {s₀ a4} a0 a1 a2 a3, Keeps s₀ a4 → KeepsO s₀ (execAcStart a0 a1 a2 a3 a4) := by
  intro s₀ a4 a0 a1 a2 a3 h
  unfold execAcStart
  repeat' first
    | with_reducible (first | assumption | apply keeps_guarded | apply keeps_acStart | apply keepsO_next)

theorem keeps_execAcBootDone : ∀ {s₀ a3} a0 a1 a2, Keeps s₀ a3 → KeepsO s₀ (execAcBootDone a0 a1 a2 a3) := by
  intro s₀ a3 a0 a1 a2 h
  unfold execAcBootDone
  repeat' first
    | with_reducible (first | assumption | apply keeps_acBoot | apply keepsO_next)

theorem keeps_execAcHalt : ∀ {s₀ a5} a0 a1 a2 a3 a4, Keeps s₀ a5 → KeepsO s₀ (execAcHalt a0 a1 a2 a3 a4 a5) := by
  intro s₀ a5 a0 a1 a2 a3 a4 h
  unfold execAcHalt
  repeat' first
    | with_reducible (first | assumption | apply keeps_guarded | apply keeps_acHalt | apply keepsO_next)

theorem keeps_execAcReset : ∀ {s₀ a4} a0 a1 a2 a3, Keeps s₀ a4 → KeepsO s₀ (execAcReset a0 a1 a2 a3 a4) := by
  intro s₀ a4 a0 a1 a2 a3 h
  unfold execAcReset
  repeat' first
    | with_reducible (first | assumption | apply keeps_guarded | apply keeps_acReset | apply keepsO_next)

theorem keeps_execAcResetDone : ∀ {s₀ a3} a0 a1 a2, Keeps s₀ a3 → KeepsO s₀ (execAcResetDone a0 a1 a2 a3) := by
  intro s₀ a3 a0 a1 a2 h
  unfold execAcResetDone
  repeat' first
    | with_reducible (first | assumption | apply keeps_acResetDone | apply keepsO_next)

theorem keeps_execAcSigObjWrite : ∀ {s₀ a4} a0 a1 a2 a3, Keeps s₀ a4 → KeepsO s₀ (execAcSigObjWrite a0 a1 a2 a3 a4) := by
  intro s₀ a4 a0 a1 a2 a3 h
  unfold execAcSigObjWrite
  repeat' first
    | with_reducible (first | assumption | apply keeps_acStored | apply keeps_acSignal | apply keepsO_next)

theorem keeps_execAcWaitArm : ∀ {s₀ a5} a0 a1 a2 a3 a4, Keeps s₀ a5 → KeepsO s₀ (execAcWaitArm a0 a1 a2 a3 a4 a5) := by
  intro s₀ a5 a0 a1 a2 a3 a4 h
  unfold execAcWaitArm
  repeat' first
    | with_reducible (first | assumption | apply keeps_acStored | apply keeps_acArm | apply keepsO_next)

theorem keeps_acMsgIn : ∀ {s₀ a0} a1 a2, Keeps s₀ a0 → Keeps s₀ (State.acMsgIn a0 a1 a2) := by
  intro s₀ a0 a1 a2 h
  unfold State.acMsgIn
  repeat' first
    | with_reducible (first | assumption | apply keeps_acIrq | apply keeps_setReg)

theorem keeps_execAcMsgInWrite : ∀ {s₀ a5} a0 a1 a2 a3 a4, Keeps s₀ a5 → KeepsO s₀ (execAcMsgInWrite a0 a1 a2 a3 a4 a5) := by
  intro s₀ a5 a0 a1 a2 a3 a4 h
  unfold execAcMsgInWrite
  repeat' first
    | with_reducible (first | assumption | apply keeps_guarded | apply keeps_acMsgIn | apply keepsO_next)

theorem keeps_acMsgOut : ∀ {s₀ a0} a1 a2, Keeps s₀ a0 → Keeps s₀ (State.acMsgOut a0 a1 a2) := by
  intro s₀ a0 a1 a2 h
  unfold State.acMsgOut
  repeat' first
    | with_reducible (first | assumption | apply keeps_fnAttn | apply keeps_mgmtAttention | apply keeps_setReg)

theorem keeps_execAcMsgOutWrite : ∀ {s₀ a4} a0 a1 a2 a3, Keeps s₀ a4 → KeepsO s₀ (execAcMsgOutWrite a0 a1 a2 a3 a4) := by
  intro s₀ a4 a0 a1 a2 a3 h
  unfold execAcMsgOutWrite
  repeat' first
    | with_reducible (first | assumption | apply keeps_answer | apply keeps_acMsgOut | apply keepsO_next)
    | split

theorem keeps_execAcInterrupt : ∀ {s₀ a3} a0 a1 a2, Keeps s₀ a3 → KeepsO s₀ (execAcInterrupt a0 a1 a2 a3) := by
  intro s₀ a3 a0 a1 a2 h
  unfold execAcInterrupt
  repeat' first
    | with_reducible (first | assumption | apply keeps_acTakeIrq | apply keepsO_next)

theorem keeps_execStimecmpExpiry : ∀ {s₀ a3} a0 a1 a2, Keeps s₀ a3 → KeepsO s₀ (execStimecmpExpiry a0 a1 a2 a3) := by
  intro s₀ a3 a0 a1 a2 h
  unfold execStimecmpExpiry
  repeat' first
    | with_reducible (first | assumption | apply keeps_acTakeIrq | apply keepsO_next)

theorem keeps_acService {s₀ s f : State} (x : AcCore) (h : Keeps s₀ s) (hf : Keeps s₀ f) : Keeps s₀ (s.acService x f) := by
  unfold State.acService
  split
  · exact h
  · split
    · exact keeps_acTrap _ _ _ h
    · exact hf

theorem keeps_execHaltSelf : ∀ {s₀ a3} a0 a1 a2, Keeps s₀ a3 → KeepsO s₀ (execHaltSelf a0 a1 a2 a3) := by
  intro s₀ a3 a0 a1 a2 h
  unfold execHaltSelf
  repeat' first
    | with_reducible (first | assumption | apply keeps_acService | apply keeps_acStop | apply keepsO_next)

theorem keeps_execReadOwnIdentity : ∀ {s₀ a3} a0 a1 a2, Keeps s₀ a3 → KeepsO s₀ (execReadOwnIdentity a0 a1 a2 a3) := by
  intro s₀ a3 a0 a1 a2 h
  unfold execReadOwnIdentity
  repeat' first
    | with_reducible (first | assumption | apply keeps_acService | apply keeps_answer | apply keepsO_next)

theorem keeps_execReportFatal : ∀ {s₀ a4} a0 a1 a2 a3, Keeps s₀ a4 → KeepsO s₀ (execReportFatal a0 a1 a2 a3 a4) := by
  intro s₀ a4 a0 a1 a2 a3 h
  unfold execReportFatal
  repeat' first
    | with_reducible (first | assumption | apply keeps_acService | apply keeps_answer | apply keeps_send
                            | apply keepsO_next)

theorem keeps_execCboClean : ∀ {s₀ a4} a0 a1 a2 a3, Keeps s₀ a4 → KeepsO s₀ (execCboClean a0 a1 a2 a3 a4) := by
  intro s₀ a4 a0 a1 a2 a3 h
  unfold execCboClean
  repeat' first
    | with_reducible (first | assumption | apply keeps_cboClean | apply keepsO_next)
    | split

theorem keeps_execCboFlush : ∀ {s₀ a4} a0 a1 a2 a3, Keeps s₀ a4 → KeepsO s₀ (execCboFlush a0 a1 a2 a3 a4) := by
  intro s₀ a4 a0 a1 a2 a3 h
  unfold execCboFlush
  repeat' first
    | with_reducible (first | assumption | apply keeps_cboFlush | apply keepsO_next)
    | split

theorem keeps_execCboInval : ∀ {s₀ a4} a0 a1 a2 a3, Keeps s₀ a4 → KeepsO s₀ (execCboInval a0 a1 a2 a3 a4) := by
  intro s₀ a4 a0 a1 a2 a3 h
  unfold execCboInval
  repeat' first
    | with_reducible (first | assumption | apply keeps_cboInval | apply keepsO_next)
    | split

end Sys2Proof.Machine
end

