-- ==== Sys2Proof/Laws/KeepsSync.lean ====
section
/-!
SUPPORT. What the operations of `Machine/Sync.lean` keep (see `Laws/Keeps.lean`): one lemma per operation.
-/
namespace Sys2Proof.Machine

theorem keeps_setBar : ∀ {s₀ a0} a1 a2, Keeps s₀ a0 → Keeps s₀ (State.setBar a0 a1 a2) := by
  intro s₀ a0 a1 a2 h
  unfold State.setBar
  repeat' first
    | with_reducible (first | assumption)
    | simp only [keeps_mk_iff]

theorem keeps_barWatch : ∀ {s₀ a0} a1, Keeps s₀ a0 → Keeps s₀ (State.barWatch a0 a1) := by
  intro s₀ a0 a1 h
  unfold State.barWatch
  try dsimp only
  repeat' first
    | with_reducible (first | assumption | refine keeps_fst ?_ (by assumption) | apply keeps_setBar | apply keeps_ite)
    | simp only [keeps_mk_iff]
    | with_reducible apply keeps_foldl
    | with_reducible apply keeps_foldlP
    | (intro _ _ _; try dsimp only)
    | (intro _ _; try dsimp only)
    | split

theorem keeps_barBreak : ∀ {s₀ a0} a1, Keeps s₀ a0 → Keeps s₀ (State.barBreak a0 a1) := by
  intro s₀ a0 a1 h
  unfold State.barBreak
  repeat' first
    | with_reducible (first | assumption | apply keeps_tenAttn | apply keeps_setBar | apply keeps_setFld)

theorem keeps_ringDecide : ∀ {s₀ a0} a1, Keeps s₀ a0 → Keeps s₀ (State.ringDecide a0 a1) := by
  intro s₀ a0 a1 h
  unfold State.ringDecide
  try dsimp only
  repeat' first
    | with_reducible (first | assumption | apply keeps_ringSend | apply keeps_setBar | apply keeps_ite)
    | simp only [keeps_mk_iff]
    | split

theorem keeps_ringReport : ∀ {s₀ a0} a1, Keeps s₀ a0 → Keeps s₀ (State.ringReport a0 a1) := by
  intro s₀ a0 a1 h
  unfold State.ringReport
  try dsimp only
  repeat' first
    | with_reducible (first | assumption | refine keeps_fst ?_ (by assumption) | apply keeps_setBar
                            | apply keeps_ringDecide | apply keeps_ringSend | apply keeps_ite)
    | simp only [keeps_mk_iff]
    | split

theorem keeps_noteCommit : ∀ {s₀ a0} a1, Keeps s₀ a0 → Keeps s₀ (State.noteCommit a0 a1) := by
  intro s₀ a0 a1 h
  unfold State.noteCommit
  repeat' first
    | with_reducible (first | assumption)
    | simp only [keeps_mk_iff]

theorem keeps_waitMet : ∀ {s₀ a0} a1, Keeps s₀ a0 → Keeps s₀ (State.waitMet a0 a1) := by
  intro s₀ a0 a1 h
  unfold State.waitMet
  repeat' first
    | with_reducible (first | assumption | refine keeps_fst ?_ (by assumption) | apply keeps_headerMet
                            | apply keeps_sqMet | apply keeps_haloMet | apply keeps_acWaitDone)
    | simp only [keeps_mk_iff]
    | split

theorem keeps_waitLate : ∀ {s₀ a0} a1, Keeps s₀ a0 → Keeps s₀ (State.waitLate a0 a1) := by
  intro s₀ a0 a1 h
  unfold State.waitLate
  repeat' first
    | with_reducible (first | assumption | refine keeps_fst ?_ (by assumption) | apply keeps_sqTimeout
                            | apply keeps_haloLate | apply keeps_acWaitDone)
    | simp only [keeps_mk_iff]
    | split

theorem keeps_testWaits : ∀ {s₀ a0} a1, Keeps s₀ a0 → Keeps s₀ (State.testWaits a0 a1) := by
  intro s₀ a0 a1 h
  unfold State.testWaits
  try dsimp only
  repeat' first
    | with_reducible (first | assumption | apply keeps_waitMet)
    | simp only [keeps_mk_iff]
    | with_reducible apply keeps_foldl
    | with_reducible apply keeps_foldlP
    | (intro _ _ _; try dsimp only)
    | (intro _ _; try dsimp only)

theorem keeps_saturated : ∀ {s₀ a0} a1 a2, Keeps s₀ a0 → Keeps s₀ (State.saturated a0 a1 a2) := by
  intro s₀ a0 a1 a2 h
  unfold State.saturated
  try dsimp only
  repeat' first
    | with_reducible (first | assumption | apply keeps_bump | apply keeps_present | apply keeps_setRbit
                            | apply keeps_ite)
    | split

theorem keeps_notePlaced : ∀ {s₀ a0} a1, Keeps s₀ a0 → Keeps s₀ (State.notePlaced a0 a1) := by
  intro s₀ a0 a1 h
  unfold State.notePlaced
  try dsimp only
  repeat' first
    | with_reducible (first | assumption | apply keeps_ite)
    | simp only [keeps_mk_iff]
    | split

theorem keeps_notePlacedOn : ∀ {s₀ a0} a1, Keeps s₀ a0 → Keeps s₀ (State.notePlacedOn a0 a1) := by
  intro s₀ a0 a1 h
  unfold State.notePlacedOn
  repeat' first
    | with_reducible (first | assumption | apply keeps_notePlaced | apply keeps_ite)
    | with_reducible apply keeps_foldl
    | with_reducible apply keeps_foldlP
    | (intro _ _ _; try dsimp only)
    | (intro _ _; try dsimp only)
    | split

theorem keeps_commitOp : ∀ {s₀ a0} a1, Keeps s₀ a0 → Keeps s₀ (State.commitOp a0 a1) := by
  intro s₀ a0 a1 h
  unfold State.commitOp
  try dsimp only
  repeat' first
    | with_reducible (first | assumption | apply keeps_setObj | apply keeps_noteCommit | apply keeps_saturated
                            | apply keeps_notePlacedOn | apply keeps_testWaits | apply keeps_barBreak
                            | apply keeps_ringReport | apply keeps_barWatch | apply keeps_ite)
    | with_reducible apply keeps_foldl
    | with_reducible apply keeps_foldlP
    | (intro _ _ _; try dsimp only)
    | (intro _ _; try dsimp only)
    | split

theorem keeps_commitTurn : ∀ {s₀ a0} a1, Keeps s₀ a0 → Keeps s₀ (State.commitTurn a0 a1) := by
  intro s₀ a0 a1 h
  unfold State.commitTurn
  repeat' first
    | with_reducible (first | assumption | refine keeps_fst ?_ (by assumption) | apply keeps_commitOp | apply keeps_ite)
    | simp only [keeps_mk_iff]
    | split

theorem keeps_arriveOp : ∀ {s₀ a0} a1, Keeps s₀ a0 → Keeps s₀ (State.arriveOp a0 a1) := by
  intro s₀ a0 a1 h
  unfold State.arriveOp
  repeat' first
    | with_reducible (first | assumption | apply keeps_commitOp | apply keeps_commitTurn | apply keeps_ite)
    | simp only [keeps_mk_iff]
    | split

theorem keeps_execSignalCommit : ∀ {s₀ a1} a0, Keeps s₀ a1 → KeepsO s₀ (execSignalCommit a0 a1) := by
  intro s₀ a1 a0 h
  unfold execSignalCommit
  repeat' first
    | with_reducible (first | assumption | refine keeps_fst ?_ (by assumption) | apply keeps_arriveOp
                            | apply keeps_commitTurn | apply keepsO_next)
    | simp only [keeps_mk_iff]
    | split

theorem keeps_registerWait : ∀ {s₀ a0} a1, Keeps s₀ a0 → Keeps s₀ (State.registerWait a0 a1) := by
  intro s₀ a0 a1 h
  unfold State.registerWait
  try dsimp only
  repeat' first
    | with_reducible (first | assumption | apply keeps_waitMet | apply keeps_ite)
    | simp only [keeps_mk_iff]
    | split

theorem keeps_execWaitRegister : ∀ {s₀ a1} a0, Keeps s₀ a1 → KeepsO s₀ (execWaitRegister a0 a1) := by
  intro s₀ a1 a0 h
  unfold execWaitRegister
  repeat' first
    | with_reducible (first | assumption | refine keeps_fst ?_ (by assumption) | apply keeps_registerWait
                            | apply keepsO_next)
    | simp only [keeps_mk_iff]
    | split

theorem keeps_execWaitTimeout : ∀ {s₀ a1} a0, Keeps s₀ a1 → KeepsO s₀ (execWaitTimeout a0 a1) := by
  intro s₀ a1 a0 h
  unfold execWaitTimeout
  repeat' first
    | with_reducible (first | assumption | refine keeps_fst ?_ (by assumption) | apply keeps_waitLate
                            | apply keepsO_next | apply keeps_ite)
    | simp only [keeps_mk_iff]
    | split

theorem keeps_execSyncValueWrite : ∀ {s₀ a5} a0 a1 a2 a3 a4, Keeps s₀ a5 → KeepsO s₀ (execSyncValueWrite a0 a1 a2 a3 a4 a5) := by
  intro s₀ a5 a0 a1 a2 a3 a4 h
  unfold execSyncValueWrite
  repeat' first
    | with_reducible (first | assumption | apply keeps_guarded | apply keeps_arriveOp | apply keepsO_next)

theorem keeps_barCtrlWrite : ∀ {s₀ a0} a1 a2, Keeps s₀ a0 → Keeps s₀ (State.barCtrlWrite a0 a1 a2) := by
  intro s₀ a0 a1 a2 h
  unfold State.barCtrlWrite
  try dsimp only
  repeat' first
    | with_reducible (first | assumption | apply keeps_setReg | apply keeps_setBar | apply keeps_setFld
                            | apply keeps_ringReport | apply keeps_barWatch | apply keeps_ite)
    | split

theorem keeps_execBarrierContextEnable : ∀ {s₀ a3} a0 a1 a2, Keeps s₀ a3 → KeepsO s₀ (execBarrierContextEnable a0 a1 a2 a3) := by
  intro s₀ a3 a0 a1 a2 h
  unfold execBarrierContextEnable
  repeat' first
    | with_reducible (first | assumption | apply keeps_guarded | apply keeps_barCtrlWrite | apply keepsO_next)

theorem keeps_barRelease : ∀ {s₀ a0} a1, Keeps s₀ a0 → Keeps s₀ (State.barRelease a0 a1) := by
  intro s₀ a0 a1 h
  unfold State.barRelease
  try dsimp only
  repeat' first
    | with_reducible (first | assumption | apply keeps_setReg | apply keeps_setBar | apply keeps_arriveOp
                            | apply keeps_ringDecide | apply keeps_ringReport)
    | simp only [keeps_mk_iff]
    | with_reducible apply keeps_foldl
    | with_reducible apply keeps_foldlP
    | (intro _ _ _; try dsimp only)
    | (intro _ _; try dsimp only)

theorem keeps_execBarrierReleaseCommit : ∀ {s₀ a1} a0, Keeps s₀ a1 → KeepsO s₀ (execBarrierReleaseCommit a0 a1) := by
  intro s₀ a1 a0 h
  unfold execBarrierReleaseCommit
  repeat' first
    | with_reducible (first | assumption | refine keeps_fst ?_ (by assumption) | apply keeps_barRelease
                            | apply keepsO_next | apply keeps_ite)
    | simp only [keeps_mk_iff]
    | split

theorem keeps_execRingBarrierReleaseCommit : ∀ {s₀ a1} a0, Keeps s₀ a1 → KeepsO s₀ (execRingBarrierReleaseCommit a0 a1) := by
  intro s₀ a1 a0 h
  unfold execRingBarrierReleaseCommit
  repeat' first
    | with_reducible (first | assumption | refine keeps_fst ?_ (by assumption) | apply keeps_barRelease
                            | apply keepsO_next | apply keeps_ite)
    | simp only [keeps_mk_iff]
    | split

theorem keeps_execBarrierContextTimeout : ∀ {s₀ a1} a0, Keeps s₀ a1 → KeepsO s₀ (execBarrierContextTimeout a0 a1) := by
  intro s₀ a1 a0 h
  unfold execBarrierContextTimeout
  repeat' first
    | with_reducible (first | assumption | apply keeps_barBreak | apply keepsO_next)
    | split

end Sys2Proof.Machine
end

