-- ==== Sys2Proof/Laws/KeepsPhase.lean ====
section
/-!
SUPPORT. What the operations of `Machine/Phase.lean` keep (see `Laws/Keeps.lean`): one lemma per operation.
-/
namespace Sys2Proof.Machine

theorem keeps_stepEnd : ∀ {s₀ a0} a1, Keeps s₀ a0 → Keeps s₀ (State.stepEnd a0 a1) := by
  intro s₀ a0 a1 h
  unfold State.stepEnd
  try dsimp only
  repeat' first
    | with_reducible (first | assumption | apply keeps_setFld | apply keeps_setReg64 | apply keeps_ite)
    | simp only [keeps_mk_iff]
    | split

theorem keeps_phaseStep : ∀ {s₀ a0}, Keeps s₀ a0 → Keeps s₀ (State.phaseStep a0) := by
  intro s₀ a0 h
  unfold State.phaseStep
  repeat' first
    | with_reducible (first | assumption | apply keeps_stepEnd | apply keeps_ite)
    | split

theorem keeps_setLock : ∀ {s₀ a0} a1, Keeps s₀ a0 → Keeps s₀ (State.setLock a0 a1) := by
  intro s₀ a0 a1 h
  unfold State.setLock
  repeat' first
    | with_reducible (first | assumption | apply keeps_phaseStep | apply keeps_setFld)

theorem keeps_setPhase : ∀ {s₀ a0} a1 a2, Keeps s₀ a0 → Keeps s₀ (State.setPhase a0 a1 a2) := by
  intro s₀ a0 a1 a2 h
  unfold State.setPhase
  repeat' first
    | with_reducible (first | assumption | apply keeps_setReg)

theorem keeps_stepPhase : ∀ {s₀ a0} a1, Keeps s₀ a0 → Keeps s₀ (State.stepPhase a0 a1) := by
  intro s₀ a0 a1 h
  unfold State.stepPhase
  try dsimp only
  repeat' first
    | with_reducible (first | assumption | apply keeps_setPhase | apply keeps_ite)
    | split

theorem keeps_thyRestart : ∀ {s₀ a0}, Keeps s₀ a0 → Keeps s₀ (State.thyRestart a0) := by
  intro s₀ a0 h
  unfold State.thyRestart
  try dsimp only
  repeat' first
    | with_reducible (first | assumption | apply keeps_setLock | apply keeps_setRbit | apply keeps_setReg64)
    | simp only [keeps_mk_iff]
    | split

theorem keeps_thyResume : ∀ {s₀ a0}, Keeps s₀ a0 → Keeps s₀ (State.thyResume a0) := by
  intro s₀ a0 h
  unfold State.thyResume
  repeat' first
    | with_reducible (first | assumption | apply keeps_thyRestart | apply keeps_ite)
    | split

theorem keeps_checkLock : ∀ {s₀ a0}, Keeps s₀ a0 → Keeps s₀ (State.checkLock a0) := by
  intro s₀ a0 h
  unfold State.checkLock
  repeat' first
    | with_reducible (first | assumption | apply keeps_setLock | apply keeps_ite)
    | split

theorem keeps_declareLost : ∀ {s₀ a0}, Keeps s₀ a0 → Keeps s₀ (State.declareLost a0) := by
  intro s₀ a0 h
  unfold State.declareLost
  try dsimp only
  repeat' first
    | with_reducible (first | assumption | apply keeps_presentHub | apply keeps_bump | apply keeps_setLock
                            | apply keeps_ite)
    | simp only [keeps_mk_iff]
    | split

theorem keeps_estimate : ∀ {s₀ a0}, Keeps s₀ a0 → Keeps s₀ (State.estimate a0) := by
  intro s₀ a0 h
  unfold State.estimate
  try dsimp only
  repeat' first
    | with_reducible (first | assumption | apply keeps_setReg64 | apply keeps_ite)
    | with_reducible apply keeps_foldl
    | with_reducible apply keeps_foldlP
    | (intro _ _ _; try dsimp only)
    | (intro _ _; try dsimp only)
    | split

theorem keeps_takeCount : ∀ {s₀ a0} a1 a2, Keeps s₀ a0 → Keeps s₀ (State.takeCount a0 a1 a2) := by
  intro s₀ a0 a1 a2 h
  unfold State.takeCount
  try dsimp only
  repeat' first
    | with_reducible (first | assumption | apply keeps_thyResume | apply keeps_setRbit | apply keeps_stepPhase
                            | apply keeps_checkLock | apply keeps_estimate | apply keeps_ite)
    | simp only [keeps_mk_iff]
    | split

theorem keeps_quadError : ∀ {s₀ a0}, Keeps s₀ a0 → Keeps s₀ (State.quadError a0) := by
  intro s₀ a0 h
  unfold State.quadError
  try dsimp only
  repeat' first
    | with_reducible (first | assumption | apply keeps_presentHub | apply keeps_bump | apply keeps_declareLost
                            | apply keeps_ite)
    | simp only [keeps_mk_iff]
    | split

theorem keeps_takePulse : ∀ {s₀ a0} a1, Keeps s₀ a0 → Keeps s₀ (State.takePulse a0 a1) := by
  intro s₀ a0 a1 h
  unfold State.takePulse
  try dsimp only
  repeat' first
    | with_reducible (first | assumption | apply keeps_thyResume | apply keeps_setRbit | apply keeps_setPhase
                            | apply keeps_setReg64 | apply keeps_checkLock | apply keeps_ite)
    | simp only [keeps_mk_iff]
    | split

theorem keeps_phaseEdge : ∀ {s₀ a0} a1 a2 a3 a4, Keeps s₀ a0 → Keeps s₀ (State.phaseEdge a0 a1 a2 a3 a4) := by
  intro s₀ a0 a1 a2 a3 a4 h
  unfold State.phaseEdge
  try dsimp only
  repeat' first
    | with_reducible (first | assumption | refine keeps_fst ?_ (by assumption) | apply keeps_quadError
                            | apply keeps_takeCount | apply keeps_takePulse | apply keeps_ite)
    | simp only [keeps_mk_iff]
    | split

theorem keeps_zEdge : ∀ {s₀ a0}, Keeps s₀ a0 → Keeps s₀ (State.zEdge a0) := by
  intro s₀ a0 h
  unfold State.zEdge
  try dsimp only
  repeat' first
    | with_reducible (first | assumption | apply keeps_setPhase | apply keeps_setReg | apply keeps_bump
                            | apply keeps_checkLock | apply keeps_ite)
    | simp only [keeps_mk_iff]
    | split

theorem keeps_synthCount : ∀ {s₀ a0}, Keeps s₀ a0 → Keeps s₀ (State.synthCount a0) := by
  intro s₀ a0 h
  unfold State.synthCount
  repeat' first
    | with_reducible (first | assumption | apply keeps_stepPhase | apply keeps_ite)
    | simp only [keeps_mk_iff]
    | split

theorem keeps_timeMessage : ∀ {s₀ a0} a1 a2 a3 a4, Keeps s₀ a0 → Keeps s₀ (State.timeMessage a0 a1 a2 a3 a4).1 := by
  intro s₀ a0 a1 a2 a3 a4 h
  unfold State.timeMessage
  try dsimp only
  repeat' first
    | with_reducible (first | assumption | apply keeps_ite | apply keeps_iteP)
    | simp only [keeps_mk_iff]
    | split

theorem keeps_tickTime : ∀ {s₀ a0}, Keeps s₀ a0 → Keeps s₀ (State.tickTime a0) := by
  intro s₀ a0 h
  unfold State.tickTime
  try dsimp only
  repeat' first
    | with_reducible (first | assumption | apply keeps_ite)
    | simp only [keeps_mk_iff]
    | split

end Sys2Proof.Machine
end

