-- ==== Sys2Proof/Laws/KeepsLog.lean ====
section
/-!
SUPPORT. What the operations of `Machine/Log.lean` keep (see `Laws/Keeps.lean`): one lemma per operation.
-/
namespace Sys2Proof.Machine

theorem keeps_logBounds : ∀ {s₀ a0}, Keeps s₀ a0 → Keeps s₀ (State.logBounds a0) := by
  intro s₀ a0 h
  unfold State.logBounds
  try dsimp only
  repeat' first
    | with_reducible (first | assumption | apply keeps_setReg64)
    | with_reducible apply keeps_foldl
    | with_reducible apply keeps_foldlP
    | (intro _ _ _; try dsimp only)
    | (intro _ _; try dsimp only)

theorem keeps_logPut : ∀ {s₀ a0} a1, Keeps s₀ a0 → Keeps s₀ (State.logPut a0 a1) := by
  intro s₀ a0 a1 h
  unfold State.logPut
  try dsimp only
  repeat' first
    | with_reducible (first | assumption | apply keeps_memWrite | apply keeps_logBounds | apply keeps_ite)
    | simp only [keeps_mk_iff]
    | split

theorem keeps_logPlace : ∀ {s₀ a0} a1, Keeps s₀ a0 → Keeps s₀ (State.logPlace a0 a1).1 := by
  intro s₀ a0 a1 h
  unfold State.logPlace
  try dsimp only
  repeat' first
    | with_reducible (first | assumption | apply keeps_logPut | apply keeps_ite | apply keeps_iteP)
    | simp only [keeps_mk_iff]
    | split

theorem keeps_logFlush : ∀ {s₀ a0} a1, Keeps s₀ a0 → Keeps s₀ (State.logFlush a0 a1) := by
  intro s₀ a0 a1 h
  induction a1 generalizing a0
  · unfold State.logFlush
    try dsimp only
    repeat' first
      | with_reducible (first | assumption | refine keeps_fst ?_ (by assumption) | apply keeps_logPlace
                              | apply keeps_ite)
      | simp only [keeps_mk_iff]
      | split
  · rename_i ih
    unfold State.logFlush
    try dsimp only
    repeat' first
      | with_reducible (first | assumption | apply ih | refine keeps_fst ?_ (by assumption) | apply keeps_logPlace
                              | apply keeps_ite)
      | simp only [keeps_mk_iff]
      | split

theorem keeps_logAppend : ∀ {s₀ a0} a1, Keeps s₀ a0 → Keeps s₀ (State.logAppend a0 a1) := by
  intro s₀ a0 a1 h
  unfold State.logAppend
  try dsimp only
  repeat' first
    | with_reducible (first | assumption | apply keeps_logFlush)
    | simp only [keeps_mk_iff]

theorem keeps_logSeq : ∀ {s₀ a0} a1 a2, Keeps s₀ a0 → Keeps s₀ (State.logSeq a0 a1 a2).1 := by
  intro s₀ a0 a1 a2 h
  unfold State.logSeq
  try dsimp only
  repeat' first
    | with_reducible (first | assumption | apply keeps_iteP)
    | simp only [keeps_mk_iff]

theorem keeps_logData : ∀ {s₀ a0} a1 a2 a3 a4, Keeps s₀ a0 → Keeps s₀ (State.logData a0 a1 a2 a3 a4) := by
  intro s₀ a0 a1 a2 a3 a4 h
  unfold State.logData
  repeat' first
    | with_reducible (first | assumption | apply keeps_bump | apply keeps_logAppend | apply keeps_ite)
    | simp only [keeps_mk_iff]
    | split

theorem keeps_logRecord : ∀ {s₀ a0} a1 a2 a3 a4 a5, Keeps s₀ a0 → Keeps s₀ (State.logRecord a0 a1 a2 a3 a4 a5) := by
  intro s₀ a0 a1 a2 a3 a4 a5 h
  unfold State.logRecord
  try dsimp only
  repeat' first
    | with_reducible (first | assumption | refine keeps_fst ?_ (by assumption) | apply keeps_logSeq
                            | apply keeps_logData | apply keeps_ite)
    | simp only [keeps_mk_iff]
    | split

theorem keeps_logConfig : ∀ {s₀ a0} a1 a2, Keeps s₀ a0 → Keeps s₀ (State.logConfig a0 a1 a2) := by
  intro s₀ a0 a1 a2 h
  unfold State.logConfig
  repeat' first
    | with_reducible (first | assumption | apply keeps_logRecord)

theorem keeps_pace : ∀ {s₀ a0} a1 a2 a3, Keeps s₀ a0 → Keeps s₀ (State.pace a0 a1 a2 a3) := by
  intro s₀ a0 a1 a2 a3 h
  unfold State.pace
  try dsimp only
  repeat' first
    | with_reducible (first | assumption | apply keeps_setReg64 | apply keeps_setReg | apply keeps_ite)
    | simp only [keeps_mk_iff]
    | split

theorem keeps_replayTake : ∀ {s₀ a0} a1 a2, Keeps s₀ a0 → Keeps s₀ (State.replayTake a0 a1 a2).1 := by
  intro s₀ a0 a1 a2 h
  unfold State.replayTake
  try dsimp only
  repeat' first
    | with_reducible (first | assumption | refine keeps_fst ?_ (by assumption) | apply keeps_unitReads
                            | apply keeps_ite | apply keeps_iteP)
    | simp only [keeps_mk_iff]
    | split

theorem keeps_replayStart : ∀ {s₀ a0} a1 a2 a3 a4, Keeps s₀ a0 → Keeps s₀ (State.replayStart a0 a1 a2 a3 a4) := by
  intro s₀ a0 a1 a2 a3 a4 h
  unfold State.replayStart
  try dsimp only
  repeat' first
    | with_reducible (first | assumption | refine keeps_fst ?_ (by assumption) | apply keeps_setReg64)
    | simp only [keeps_mk_iff]
    | split

theorem keeps_replayCompare : ∀ {s₀ a0} a1 a2 a3 a4 a5, Keeps s₀ a0 → Keeps s₀ (State.replayCompare a0 a1 a2 a3 a4 a5) := by
  intro s₀ a0 a1 a2 a3 a4 a5 h
  unfold State.replayCompare
  try dsimp only
  repeat' first
    | with_reducible (first | assumption | refine keeps_fst ?_ (by assumption) | apply keeps_send | apply keeps_ite)
    | simp only [keeps_mk_iff]
    | split

theorem keeps_stepDone : ∀ {s₀ a0} a1 a2 a3 a4 a5 a6, Keeps s₀ a0 → Keeps s₀ (State.stepDone a0 a1 a2 a3 a4 a5 a6) := by
  intro s₀ a0 a1 a2 a3 a4 a5 a6 h
  unfold State.stepDone
  try dsimp only
  repeat' first
    | with_reducible (first | assumption | refine keeps_fst ?_ (by assumption) | apply keeps_setReg64
                            | apply keeps_replayCompare | apply keeps_logRecord | apply keeps_pace | apply keeps_ite)
    | simp only [keeps_mk_iff]
    | split

theorem keeps_execPhaseSample : ∀ {s₀ a1} a0, Keeps s₀ a1 → KeepsO s₀ (execPhaseSample a0 a1) := by
  intro s₀ a1 a0 h
  unfold execPhaseSample
  try dsimp only
  repeat' first
    | with_reducible (first | assumption | apply keeps_replayTake | apply keeps_logRecord | apply keepsO_next
                            | apply keeps_ite)
    | simp only [keeps_mk_iff]
    | split

theorem keeps_execLogSegmentCopy : ∀ {s₀ a0}, Keeps s₀ a0 → KeepsO s₀ (execLogSegmentCopy a0) := by
  intro s₀ a0 h
  unfold execLogSegmentCopy
  try dsimp only
  repeat' first
    | with_reducible (first | assumption | refine keeps_fst ?_ (by assumption) | apply keeps_memRead
                            | apply keeps_nandWrite | apply keeps_logBounds | apply keeps_logFlush
                            | apply keepsO_next | apply keeps_ite)
    | simp only [keeps_mk_iff]
    | split

theorem keeps_execLogGapRecord : ∀ {s₀ a0}, Keeps s₀ a0 → KeepsO s₀ (execLogGapRecord a0) := by
  intro s₀ a0 h
  unfold execLogGapRecord
  try dsimp only
  repeat' first
    | with_reducible (first | assumption | apply keeps_logRecord | apply keepsO_next | apply keeps_ite)
    | simp only [keeps_mk_iff]
    | split

theorem keeps_execReplayStart : ∀ {s₀ a5} a0 a1 a2 a3 a4, Keeps s₀ a5 → KeepsO s₀ (execReplayStart a0 a1 a2 a3 a4 a5) := by
  intro s₀ a5 a0 a1 a2 a3 a4 h
  unfold execReplayStart
  repeat' first
    | with_reducible (first | assumption | apply keeps_guarded | apply keeps_replayStart | apply keepsO_next)

end Sys2Proof.Machine
end

