-- ==== Sys2Proof/Laws/KeepsJobs.lean ====
section
/-!
SUPPORT. What the operations of `Machine/Jobs.lean` keep (see `Laws/Keeps.lean`): one lemma per operation.
-/
namespace Sys2Proof.Machine

theorem keeps_setJob : ∀ {s₀ a0} a1, Keeps s₀ a0 → Keeps s₀ (State.setJob a0 a1) := by
  intro s₀ a0 a1 h
  unfold State.setJob
  repeat' first
    | with_reducible (first | assumption | apply keeps_ite)
    | simp only [keeps_mk_iff]
    | split

theorem keeps_jobReject : ∀ {s₀ a0} a1 a2, Keeps s₀ a0 → Keeps s₀ (State.jobReject a0 a1 a2) := by
  intro s₀ a0 a1 a2 h
  unfold State.jobReject
  try dsimp only
  repeat' first
    | with_reducible (first | assumption | apply keeps_setReg | apply keeps_ite)
    | split

theorem keeps_jobAccept : ∀ {s₀ a0} a1 a2 a3, Keeps s₀ a0 → Keeps s₀ (State.jobAccept a0 a1 a2 a3) := by
  intro s₀ a0 a1 a2 a3 h
  unfold State.jobAccept
  try dsimp only
  repeat' first
    | with_reducible (first | assumption | apply keeps_setReg64 | apply keeps_ite)
    | simp only [keeps_mk_iff]
    | with_reducible apply keeps_foldl
    | with_reducible apply keeps_foldlP
    | (intro _ _ _; try dsimp only)
    | (intro _ _; try dsimp only)
    | split

theorem keeps_jobSubmit : ∀ {s₀ a0} a1 a2 a3, Keeps s₀ a0 → Keeps s₀ (State.jobSubmit a0 a1 a2 a3) := by
  intro s₀ a0 a1 a2 a3 h
  unfold State.jobSubmit
  repeat' first
    | with_reducible (first | assumption | refine keeps_fst ?_ (by assumption) | apply keeps_jobAccept
                            | apply keeps_jobReject)
    | simp only [keeps_mk_iff]
    | split

theorem keeps_setClaim : ∀ {s₀ a0} a1 a2, Keeps s₀ a0 → Keeps s₀ (State.setClaim a0 a1 a2) := by
  intro s₀ a0 a1 a2 h
  unfold State.setClaim
  repeat' first
    | with_reducible (first | assumption)
    | simp only [keeps_mk_iff]

theorem keeps_claimLapse : ∀ {s₀ a0} a1, Keeps s₀ a0 → Keeps s₀ (State.claimLapse a0 a1) := by
  intro s₀ a0 a1 h
  unfold State.claimLapse
  repeat' first
    | with_reducible (first | assumption | refine keeps_fst ?_ (by assumption) | apply keeps_jobReject
                            | apply keeps_setRegWords | apply keeps_setClaim | apply keeps_ite)
    | simp only [keeps_mk_iff]
    | split

theorem keeps_jobWindowWrite : ∀ {s₀ a0} a1 a2 a3 a4 a5, Keeps s₀ a0 → Keeps s₀ (State.jobWindowWrite a0 a1 a2 a3 a4 a5) := by
  intro s₀ a0 a1 a2 a3 a4 a5 h
  unfold State.jobWindowWrite
  try dsimp only
  repeat' first
    | with_reducible (first | assumption | refine keeps_fst ?_ (by assumption) | apply keeps_claimLapse
                            | apply keeps_answer | apply keeps_jobReject | apply keeps_accessError
                            | apply keeps_setClaim | apply keeps_setReg | apply keeps_jobSubmit | apply keeps_ite)
    | simp only [keeps_mk_iff]
    | split

theorem keeps_execJobSubmit : ∀ {s₀ a5} a0 a1 a2 a3 a4, Keeps s₀ a5 → KeepsO s₀ (execJobSubmit a0 a1 a2 a3 a4 a5) := by
  intro s₀ a5 a0 a1 a2 a3 a4 h
  unfold execJobSubmit
  repeat' first
    | with_reducible (first | assumption | apply keeps_jobWindowWrite | apply keepsO_next)

theorem keeps_execJobWindowClaimLapse : ∀ {s₀ a2} a0 a1, Keeps s₀ a2 → KeepsO s₀ (execJobWindowClaimLapse a0 a1 a2) := by
  intro s₀ a2 a0 a1 h
  unfold execJobWindowClaimLapse
  repeat' first
    | with_reducible (first | assumption | apply keeps_claimLapse | apply keepsO_next)

theorem keeps_pushTile : ∀ {s₀ a0} a1 a2 a3 a4, Keeps s₀ a0 → Keeps s₀ (State.pushTile a0 a1 a2 a3 a4) := by
  intro s₀ a0 a1 a2 a3 a4 h
  unfold State.pushTile
  repeat' first
    | with_reducible (first | assumption | apply keeps_launchPush | apply keeps_setJob)
    | simp only [keeps_mk_iff]

theorem keeps_tilePush : ∀ {s₀ a0} a1 a2, Keeps s₀ a0 → Keeps s₀ (State.tilePush a0 a1 a2) := by
  intro s₀ a0 a1 a2 h
  unfold State.tilePush
  repeat' first
    | with_reducible (first | assumption | refine keeps_fst ?_ (by assumption) | apply keeps_pushTile | apply keeps_ite)
    | simp only [keeps_mk_iff]
    | split

theorem keeps_execTilePush : ∀ {s₀ a3} a0 a1 a2, Keeps s₀ a3 → KeepsO s₀ (execTilePush a0 a1 a2 a3) := by
  intro s₀ a3 a0 a1 a2 h
  unfold execTilePush
  repeat' first
    | with_reducible (first | assumption | apply keeps_tilePush | apply keepsO_next)

theorem keeps_execTileClaim : ∀ {s₀ a2} a0 a1, Keeps s₀ a2 → KeepsO s₀ (execTileClaim a0 a1 a2) := by
  intro s₀ a2 a0 a1 h
  unfold execTileClaim
  try dsimp only
  repeat' first
    | with_reducible (first | assumption | refine keeps_fst ?_ (by assumption) | apply keeps_setJob | apply keepsO_next)
    | simp only [keeps_mk_iff]
    | split

end Sys2Proof.Machine
end

