-- ==== Sys2Proof/Laws/KeepsFp1.lean ====
section
/-!
SUPPORT. What the operations of `Machine/Fp1.lean` keep (see `Laws/Keeps.lean`): one lemma per operation.
-/
namespace Sys2Proof.Machine

theorem keeps_setFlow : ∀ {s₀ a0} a1 a2, Keeps s₀ a0 → Keeps s₀ (State.setFlow a0 a1 a2) := by
  intro s₀ a0 a1 a2 h
  unfold State.setFlow
  repeat' first
    | with_reducible (first | assumption)
    | simp only [keeps_mk_iff]

theorem keeps_safeRead : ∀ {s₀ a0} a1, Keeps s₀ a0 → Keeps s₀ (State.safeRead a0 a1) := by
  intro s₀ a0 a1 h
  unfold State.safeRead
  repeat' first
    | with_reducible (first | assumption | apply keeps_unitRead)

theorem keeps_fp1Queue : ∀ {s₀ a0} a1, Keeps s₀ a0 → Keeps s₀ (State.fp1Queue a0 a1) := by
  intro s₀ a0 a1 h
  unfold State.fp1Queue
  try dsimp only
  repeat' first
    | with_reducible (first | assumption | refine keeps_fst ?_ (by assumption) | apply keeps_setFlow)
    | simp only [keeps_mk_iff]
    | split

theorem keeps_flowDecide : ∀ {s₀ a0} a1 a2 a3 a4, Keeps s₀ a0 → Keeps s₀ (State.flowDecide a0 a1 a2 a3 a4).1 := by
  intro s₀ a0 a1 a2 a3 a4 h
  unfold State.flowDecide
  try dsimp only
  repeat' first
    | with_reducible (first | assumption | refine keeps_fst ?_ (by assumption) | apply keeps_setFld
                            | apply keeps_memRead | apply keeps_freeBytes | apply keeps_bump | apply keeps_safeRead
                            | apply keeps_setFlow | apply keeps_signalWord | apply keeps_ite | apply keeps_iteP)
    | simp only [keeps_mk_iff]
    | split

theorem keeps_flowDeadline : ∀ {s₀ a0} a1 a2 a3, Keeps s₀ a0 → Keeps s₀ (State.flowDeadline a0 a1 a2 a3).1 := by
  intro s₀ a0 a1 a2 a3 h
  unfold State.flowDeadline
  try dsimp only
  repeat' first
    | with_reducible (first | assumption | refine keeps_fst ?_ (by assumption) | apply keeps_bump
                            | apply keeps_flowDecide | apply keeps_setFlow | apply keeps_ite | apply keeps_iteP)
    | simp only [keeps_mk_iff]
    | split

theorem keeps_flowRelease : ∀ {s₀ a0} a1 a2 a3, Keeps s₀ a0 → Keeps s₀ (State.flowRelease a0 a1 a2 a3).1 := by
  intro s₀ a0 a1 a2 a3 h
  unfold State.flowRelease
  try dsimp only
  repeat' first
    | with_reducible (first | assumption | refine keeps_fst ?_ (by assumption) | apply keeps_flowDecide
                            | apply keeps_setFlow | apply keeps_fp1Queue | apply keeps_ite | apply keeps_iteP)
    | simp only [keeps_mk_iff]
    | split

theorem keeps_flowForce : ∀ {s₀ a0} a1 a2, Keeps s₀ a0 → Keeps s₀ (State.flowForce a0 a1 a2) := by
  intro s₀ a0 a1 a2 h
  unfold State.flowForce
  try dsimp only
  repeat' first
    | with_reducible (first | assumption | refine keeps_fst ?_ (by assumption) | apply keeps_setFld
                            | apply keeps_setFlow | apply keeps_fp1Queue | apply keeps_safeRead | apply keeps_ite)
    | simp only [keeps_mk_iff]
    | split

theorem keeps_forceFlows : ∀ {s₀ a0} a1 a2, Keeps s₀ a0 → Keeps s₀ (State.forceFlows a0 a1 a2) := by
  intro s₀ a0 a1 a2 h
  unfold State.forceFlows
  repeat' first
    | with_reducible (first | assumption | apply keeps_flowForce)
    | with_reducible apply keeps_foldl
    | with_reducible apply keeps_foldlP
    | (intro _ _ _; try dsimp only)
    | (intro _ _; try dsimp only)

theorem keeps_flowUnforce : ∀ {s₀ a0} a1, Keeps s₀ a0 → Keeps s₀ (State.flowUnforce a0 a1) := by
  intro s₀ a0 a1 h
  unfold State.flowUnforce
  repeat' first
    | with_reducible (first | assumption | apply keeps_setRbit | apply keeps_setFlow | apply keeps_ite)
    | simp only [keeps_mk_iff]
    | split

theorem keeps_execSafePeriodExpiry : ∀ {s₀ a1} a0, Keeps s₀ a1 → KeepsO s₀ (execSafePeriodExpiry a0 a1) := by
  intro s₀ a1 a0 h
  unfold execSafePeriodExpiry
  try dsimp only
  repeat' first
    | with_reducible (first | assumption | refine keeps_fst ?_ (by assumption) | apply keeps_fp1Queue
                            | apply keeps_safeRead | apply keepsO_next | apply keeps_ite)
    | split

theorem keeps_execFlowForce : ∀ {s₀ a2} a0 a1, Keeps s₀ a2 → KeepsO s₀ (execFlowForce a0 a1 a2) := by
  intro s₀ a2 a0 a1 h
  unfold execFlowForce
  repeat' first
    | with_reducible (first | assumption | apply keeps_guarded | apply keeps_flowForce | apply keepsO_next)

theorem keeps_execFlowUnforce : ∀ {s₀ a2} a0 a1, Keeps s₀ a2 → KeepsO s₀ (execFlowUnforce a0 a1 a2) := by
  intro s₀ a2 a0 a1 h
  unfold execFlowUnforce
  repeat' first
    | with_reducible (first | assumption | apply keeps_guarded | apply keeps_flowUnforce | apply keepsO_next)

theorem keeps_flowDescWrite : ∀ {s₀ a0} a1 a2 a3, Keeps s₀ a0 → Keeps s₀ (State.flowDescWrite a0 a1 a2 a3) := by
  intro s₀ a0 a1 a2 a3 h
  unfold State.flowDescWrite
  try dsimp only
  repeat' first
    | with_reducible (first | assumption | apply keeps_setRbit | apply keeps_setFlow | apply keeps_setReg
                            | apply keeps_ite)
    | simp only [keeps_mk_iff]
    | split

theorem keeps_execFlowDescWrite : ∀ {s₀ a4} a0 a1 a2 a3, Keeps s₀ a4 → KeepsO s₀ (execFlowDescWrite a0 a1 a2 a3 a4) := by
  intro s₀ a4 a0 a1 a2 a3 h
  unfold execFlowDescWrite
  repeat' first
    | with_reducible (first | assumption | apply keeps_guarded | apply keeps_flowDescWrite | apply keepsO_next)

theorem keeps_execFrameTxStart : ∀ {s₀ a0}, Keeps s₀ a0 → KeepsO s₀ (execFrameTxStart a0) := by
  intro s₀ a0 h
  unfold execFrameTxStart
  try dsimp only
  repeat' first
    | with_reducible (first | assumption | refine keeps_fst ?_ (by assumption) | apply keeps_setReg64
                            | apply keeps_bump | apply keeps_setFlow | apply keeps_send | apply keepsO_next
                            | apply keeps_ite)
    | simp only [keeps_mk_iff]
    | split

theorem keeps_execFrameTxEnd : ∀ {s₀ a0}, Keeps s₀ a0 → KeepsO s₀ (execFrameTxEnd a0) := by
  intro s₀ a0 h
  unfold execFrameTxEnd
  repeat' first
    | with_reducible (first | assumption | refine keeps_fst ?_ (by assumption) | apply keepsO_next | apply keeps_ite)
    | simp only [keeps_mk_iff]
    | split

theorem keeps_gclChange : ∀ {s₀ a0}, Keeps s₀ a0 → Keeps s₀ (State.gclChange a0) := by
  intro s₀ a0 h
  unfold State.gclChange
  try dsimp only
  repeat' first
    | with_reducible (first | assumption)
    | simp only [keeps_mk_iff]

theorem keeps_execGclChange : ∀ {s₀ a2} a0 a1, Keeps s₀ a2 → KeepsO s₀ (execGclChange a0 a1 a2) := by
  intro s₀ a2 a0 a1 h
  unfold execGclChange
  repeat' first
    | with_reducible (first | assumption | apply keeps_guarded | apply keeps_gclChange | apply keeps_setFld
                            | apply keepsO_next)
    | simp only [keeps_mk_iff]

theorem keeps_execGclBaseTime : ∀ {s₀ a0}, Keeps s₀ a0 → KeepsO s₀ (execGclBaseTime a0) := by
  intro s₀ a0 h
  unfold execGclBaseTime
  repeat' first
    | with_reducible (first | assumption | refine keeps_fst ?_ (by assumption) | apply keeps_setRbit
                            | apply keepsO_next | apply keeps_ite)
    | simp only [keeps_mk_iff]
    | split

theorem keeps_filterPut : ∀ {s₀ a0} a1 a2, Keeps s₀ a0 → Keeps s₀ (State.filterPut a0 a1 a2) := by
  intro s₀ a0 a1 a2 h
  unfold State.filterPut
  try dsimp only
  repeat' first
    | with_reducible (first | assumption | apply keeps_memWrite | apply keeps_signal | apply keeps_ite)
    | simp only [keeps_mk_iff]
    | split

theorem keeps_fp1Deliver : ∀ {s₀ a0} a1 a2 a3, Keeps s₀ a0 → Keeps s₀ (State.fp1Deliver a0 a1 a2 a3) := by
  intro s₀ a0 a1 a2 a3 h
  unfold State.fp1Deliver
  try dsimp only
  repeat' first
    | with_reducible (first | assumption | refine keeps_fst ?_ (by assumption) | apply keeps_logSeq
                            | apply keeps_logData | apply keeps_filterPut)
    | split

theorem keeps_execFp1RxFrame : ∀ {s₀ a2} a0 a1, Keeps s₀ a2 → KeepsO s₀ (execFp1RxFrame a0 a1 a2) := by
  intro s₀ a2 a0 a1 h
  unfold execFp1RxFrame
  try dsimp only
  repeat' first
    | with_reducible (first | assumption | refine keeps_fst ?_ (by assumption) | apply keeps_replayTake
                            | apply keeps_filterPut | apply keeps_bump | apply keeps_fp1Deliver | apply keepsO_next
                            | apply keeps_ite)
    | simp only [keeps_mk_iff]
    | with_reducible apply keeps_foldl
    | with_reducible apply keeps_foldlP
    | (intro _ _ _; try dsimp only)
    | (intro _ _; try dsimp only)
    | split

end Sys2Proof.Machine
end

