-- ==== Sys2Proof/Laws/KeepsPipe.lean ====
section
/-!
SUPPORT. What the operations of `Machine/Pipe.lean` keep (see `Laws/Keeps.lean`): one lemma per operation.
-/
namespace Sys2Proof.Machine

theorem keeps_stepClear : ∀ {s₀ a0} a1, Keeps s₀ a0 → Keeps s₀ (State.stepClear a0 a1) := by
  intro s₀ a0 a1 h
  unfold State.stepClear
  try dsimp only
  repeat' first
    | with_reducible (first | assumption | apply keeps_setFlow)
    | simp only [keeps_mk_iff]
    | with_reducible apply keeps_foldl
    | with_reducible apply keeps_foldlP
    | (intro _ _ _; try dsimp only)
    | (intro _ _; try dsimp only)

theorem keeps_jobEnd : ∀ {s₀ a0} a1 a2, Keeps s₀ a0 → Keeps s₀ (State.jobEnd a0 a1 a2) := by
  intro s₀ a0 a1 a2 h
  unfold State.jobEnd
  try dsimp only
  repeat' first
    | with_reducible (first | assumption | refine keeps_fst ?_ (by assumption) | apply keeps_memWrite
                            | apply keeps_signalWord | apply keeps_stepClear | apply keeps_stepDone | apply keeps_ite)
    | simp only [keeps_mk_iff]
    | split

theorem keeps_execJobEnd : ∀ {s₀ a3} a0 a1 a2, Keeps s₀ a3 → KeepsO s₀ (execJobEnd a0 a1 a2 a3) := by
  intro s₀ a3 a0 a1 a2 h
  unfold execJobEnd
  repeat' first
    | with_reducible (first | assumption | apply keeps_jobEnd | apply keepsO_next)

end Sys2Proof.Machine
end

