-- ==== Sys2Proof/Laws/KeepsThyme.lean ====
section
/-!
SUPPORT. What the operations of `Machine/Thyme.lean` keep (see `Laws/Keeps.lean`): one lemma per operation.
-/
namespace Sys2Proof.Machine

theorem keeps_setEvt : ∀ {s₀ a0} a1 a2, Keeps s₀ a0 → Keeps s₀ (State.setEvt a0 a1 a2) := by
  intro s₀ a0 a1 a2 h
  unfold State.setEvt
  repeat' first
    | with_reducible (first | assumption)
    | simp only [keeps_mk_iff]

theorem keeps_thyTake : ∀ {s₀ a0} a1 a2, Keeps s₀ a0 → Keeps s₀ (State.thyTake a0 a1 a2).1 := by
  intro s₀ a0 a1 a2 h
  unfold State.thyTake
  try dsimp only
  repeat' first
    | with_reducible (first | assumption | refine keeps_fst ?_ (by assumption) | apply keeps_replayTake
                            | apply keeps_setEvt | apply keeps_bumpBy | apply keeps_bump | apply keeps_ite
                            | apply keeps_iteP)
    | simp only [keeps_mk_iff]
    | split

theorem keeps_thyFired : ∀ {s₀ a0} a1 a2, Keeps s₀ a0 → Keeps s₀ (State.thyFired a0 a1 a2) := by
  intro s₀ a0 a1 a2 h
  unfold State.thyFired
  try dsimp only
  repeat' first
    | with_reducible (first | assumption | refine keeps_fst ?_ (by assumption) | apply keeps_logRecord
                            | apply keeps_ite)
    | simp only [keeps_mk_iff]
    | split

theorem keeps_execEventSignal : ∀ {s₀ a1} a0, Keeps s₀ a1 → KeepsO s₀ (execEventSignal a0 a1) := by
  intro s₀ a1 a0 h
  unfold execEventSignal
  repeat' first
    | with_reducible (first | assumption | refine keeps_fst ?_ (by assumption) | apply keeps_thyTake
                            | apply keeps_thyFired | apply keepsO_next)
    | simp only [keeps_mk_iff]
    | split

theorem keeps_execEventDeadline : ∀ {s₀ a1} a0, Keeps s₀ a1 → KeepsO s₀ (execEventDeadline a0 a1) := by
  intro s₀ a1 a0 h
  unfold execEventDeadline
  try dsimp only
  repeat' first
    | with_reducible (first | assumption | refine keeps_fst ?_ (by assumption) | apply keeps_thyTake
                            | apply keeps_flowDeadline | apply keeps_thyFired | apply keepsO_next)
    | simp only [keeps_mk_iff]
    | split

theorem keeps_execEventRelease : ∀ {s₀ a1} a0, Keeps s₀ a1 → KeepsO s₀ (execEventRelease a0 a1) := by
  intro s₀ a1 a0 h
  unfold execEventRelease
  try dsimp only
  repeat' first
    | with_reducible (first | assumption | refine keeps_fst ?_ (by assumption) | apply keeps_thyTake
                            | apply keeps_flowRelease | apply keeps_thyFired | apply keepsO_next)
    | simp only [keeps_mk_iff]
    | split

theorem keeps_evtIndexWrite : ∀ {s₀ a0} a1, Keeps s₀ a0 → Keeps s₀ (State.evtIndexWrite a0 a1) := by
  intro s₀ a0 a1 h
  unfold State.evtIndexWrite
  try dsimp only
  repeat' first
    | with_reducible (first | assumption | apply keeps_setRegWords | apply keeps_setReg)

theorem keeps_evtCommit : ∀ {s₀ a0}, Keeps s₀ a0 → Keeps s₀ (State.evtCommit a0) := by
  intro s₀ a0 h
  unfold State.evtCommit
  try dsimp only
  repeat' first
    | with_reducible (first | assumption | refine keeps_fst ?_ (by assumption) | apply keeps_setEvt)
    | simp only [keeps_mk_iff]
    | split

theorem keeps_execThyEvtIndexWrite : ∀ {s₀ a2} a0 a1, Keeps s₀ a2 → KeepsO s₀ (execThyEvtIndexWrite a0 a1 a2) := by
  intro s₀ a2 a0 a1 h
  unfold execThyEvtIndexWrite
  repeat' first
    | with_reducible (first | assumption | apply keeps_guarded | apply keeps_evtIndexWrite | apply keepsO_next)

theorem keeps_execThyEvtCommit : ∀ {s₀ a2} a0 a1, Keeps s₀ a2 → KeepsO s₀ (execThyEvtCommit a0 a1 a2) := by
  intro s₀ a2 a0 a1 h
  unfold execThyEvtCommit
  repeat' first
    | with_reducible (first | assumption | apply keeps_guarded | apply keeps_evtCommit | apply keepsO_next)
    | split

theorem keeps_evtInstall : ∀ {s₀ a0} a1 a2 a3, Keeps s₀ a0 → Keeps s₀ (State.evtInstall a0 a1 a2 a3) := by
  intro s₀ a0 a1 a2 a3 h
  unfold State.evtInstall
  try dsimp only
  repeat' first
    | with_reducible (first | assumption | refine keeps_fst ?_ (by assumption) | apply keeps_setEvt)
    | simp only [keeps_mk_iff]
    | with_reducible apply keeps_foldl
    | with_reducible apply keeps_foldlP
    | (intro _ _ _; try dsimp only)
    | (intro _ _; try dsimp only)
    | split

theorem keeps_evtRemove : ∀ {s₀ a0} a1 a2, Keeps s₀ a0 → Keeps s₀ (State.evtRemove a0 a1 a2) := by
  intro s₀ a0 a1 a2 h
  unfold State.evtRemove
  repeat' first
    | with_reducible (first | assumption)
    | simp only [keeps_mk_iff]

theorem keeps_thyFreeze : ∀ {s₀ a0}, Keeps s₀ a0 → Keeps s₀ (State.thyFreeze a0) := by
  intro s₀ a0 h
  unfold State.thyFreeze
  try dsimp only
  repeat' first
    | with_reducible (first | assumption | refine keeps_fst ?_ (by assumption) | apply keeps_setReg
                            | apply keeps_setPhase)
    | split

theorem keeps_thySrcWrite : ∀ {s₀ a0} a1, Keeps s₀ a0 → Keeps s₀ (State.thySrcWrite a0 a1) := by
  intro s₀ a0 a1 h
  unfold State.thySrcWrite
  try dsimp only
  repeat' first
    | with_reducible (first | assumption | refine keeps_fst ?_ (by assumption) | apply keeps_setReg
                            | apply keeps_thyFreeze | apply keeps_thyRestart | apply keeps_ite)
    | simp only [keeps_mk_iff]
    | split

theorem keeps_execThySrcWrite : ∀ {s₀ a2} a0 a1, Keeps s₀ a2 → KeepsO s₀ (execThySrcWrite a0 a1 a2) := by
  intro s₀ a2 a0 a1 h
  unfold execThySrcWrite
  repeat' first
    | with_reducible (first | assumption | apply keeps_guarded | apply keeps_thySrcWrite | apply keepsO_next)

theorem keeps_execPhaseCountEdge : ∀ {s₀ a4} a0 a1 a2 a3, Keeps s₀ a4 → KeepsO s₀ (execPhaseCountEdge a0 a1 a2 a3 a4) := by
  intro s₀ a4 a0 a1 a2 a3 h
  unfold execPhaseCountEdge
  try dsimp only
  repeat' first
    | with_reducible (first | assumption | apply keeps_phaseEdge | apply keeps_forceFlows | apply keepsO_next)
    | split

theorem keeps_execZEdge : ∀ {s₀ a1} a0, Keeps s₀ a1 → KeepsO s₀ (execZEdge a0 a1) := by
  intro s₀ a1 a0 h
  unfold execZEdge
  repeat' first
    | with_reducible (first | assumption | apply keeps_zEdge | apply keepsO_next)
    | split

theorem keeps_execSynthCount : ∀ {s₀ a0}, Keeps s₀ a0 → KeepsO s₀ (execSynthCount a0) := by
  intro s₀ a0 h
  unfold execSynthCount
  repeat' first
    | with_reducible (first | assumption | apply keeps_synthCount | apply keepsO_next)

theorem keeps_execPhaseLoss : ∀ {s₀ a0}, Keeps s₀ a0 → KeepsO s₀ (execPhaseLoss a0) := by
  intro s₀ a0 h
  unfold execPhaseLoss
  repeat' first
    | with_reducible (first | assumption | apply keeps_forceFlows | apply keeps_declareLost | apply keepsO_next)
    | split

theorem keeps_thyHoldover : ∀ {s₀ a0} a1, Keeps s₀ a0 → Keeps s₀ (State.thyHoldover a0 a1) := by
  intro s₀ a0 a1 h
  unfold State.thyHoldover
  repeat' first
    | with_reducible (first | assumption | apply keeps_setLock | apply keeps_ite)
    | split

theorem keeps_asMessage : ∀ {s₀ a0} a1 a2 a3, Keeps s₀ a0 → Keeps s₀ (State.asMessage a0 a1 a2 a3) := by
  intro s₀ a0 a1 a2 a3 h
  unfold State.asMessage
  try dsimp only
  repeat' first
    | with_reducible (first | assumption | refine keeps_fst ?_ (by assumption) | apply keeps_thyResume
                            | apply keeps_timeMessage | apply keeps_setLock | apply keeps_ite)
    | simp only [keeps_mk_iff]
    | split

theorem keeps_fp1Sync : ∀ {s₀ a0} a1 a2, Keeps s₀ a0 → Keeps s₀ (State.fp1Sync a0 a1 a2) := by
  intro s₀ a0 a1 a2 h
  unfold State.fp1Sync
  try dsimp only
  repeat' first
    | with_reducible (first | assumption | apply keeps_setReg64 | apply keeps_asMessage | apply keeps_setFld
                            | apply keeps_ite)
    | simp only [keeps_mk_iff]
    | split

end Sys2Proof.Machine
end

