-- ==== Sys2Proof/Laws/KeepsHostOps.lean ====
section
/-!
SUPPORT. What the operations of `Machine/HostOps.lean` keep (see `Laws/Keeps.lean`): one lemma per operation.
-/
namespace Sys2Proof.Machine

theorem keeps_setPort : ∀ {s₀ a0} a1 a2, Keeps s₀ a0 → Keeps s₀ (State.setPort a0 a1 a2) := by
  intro s₀ a0 a1 a2 h
  unfold State.setPort
  repeat' first
    | with_reducible (first | assumption)
    | simp only [keeps_mk_iff]

theorem keeps_rbUpdate : ∀ {s₀ a0} a1, Keeps s₀ a0 → Keeps s₀ (State.rbUpdate a0 a1) := by
  intro s₀ a0 a1 h
  unfold State.rbUpdate
  try dsimp only
  repeat' first
    | with_reducible (first | assumption | apply keeps_setFld | apply keeps_setRbit)

theorem keeps_rbAll : ∀ {s₀ a0}, Keeps s₀ a0 → Keeps s₀ (State.rbAll a0) := by
  intro s₀ a0 h
  unfold State.rbAll
  repeat' first
    | with_reducible (first | assumption | apply keeps_rbUpdate)
    | with_reducible apply keeps_foldl
    | with_reducible apply keeps_foldlP
    | (intro _ _ _; try dsimp only)
    | (intro _ _; try dsimp only)

theorem keeps_cqError : ∀ {s₀ a0} a1 a2, Keeps s₀ a0 → Keeps s₀ (State.cqError a0 a1 a2) := by
  intro s₀ a0 a1 a2 h
  unfold State.cqError
  repeat' first
    | with_reducible (first | assumption | apply keeps_fnAttn | apply keeps_setFld)

theorem keeps_cqWrite : ∀ {s₀ a0} a1 a2 a3, Keeps s₀ a0 → Keeps s₀ (State.cqWrite a0 a1 a2 a3) := by
  intro s₀ a0 a1 a2 a3 h
  unfold State.cqWrite
  try dsimp only
  repeat' first
    | with_reducible (first | assumption | apply keeps_hostWrite | apply keeps_send | apply keeps_ite)
    | simp only [keeps_mk_iff]
    | split

theorem keeps_postCq : ∀ {s₀ a0} a1 a2 a3, Keeps s₀ a0 → Keeps s₀ (State.postCq a0 a1 a2 a3) := by
  intro s₀ a0 a1 a2 a3 h
  unfold State.postCq
  try dsimp only
  repeat' first
    | with_reducible (first | assumption | refine keeps_fst ?_ (by assumption) | apply keeps_cqWrite
                            | apply keeps_bump | apply keeps_cqError | apply keeps_ite)
    | simp only [keeps_mk_iff]
    | split

theorem keeps_heldPost : ∀ {s₀ a0} a1, Keeps s₀ a0 → Keeps s₀ (State.heldPost a0 a1) := by
  intro s₀ a0 a1 h
  unfold State.heldPost
  repeat' first
    | with_reducible (first | assumption | refine keeps_fst ?_ (by assumption) | apply keeps_cqWrite)
    | simp only [keeps_mk_iff]
    | split

theorem keeps_sqDoorbell : ∀ {s₀ a0} a1 a2 a3, Keeps s₀ a0 → Keeps s₀ (State.sqDoorbell a0 a1 a2 a3) := by
  intro s₀ a0 a1 a2 a3 h
  unfold State.sqDoorbell
  try dsimp only
  repeat' first
    | with_reducible (first | assumption | apply keeps_fnAttn | apply keeps_setFld | apply keeps_ite)
    | simp only [keeps_mk_iff]
    | split

theorem keeps_cqDoorbell : ∀ {s₀ a0} a1 a2 a3, Keeps s₀ a0 → Keeps s₀ (State.cqDoorbell a0 a1 a2 a3) := by
  intro s₀ a0 a1 a2 a3 h
  unfold State.cqDoorbell
  try dsimp only
  repeat' first
    | with_reducible (first | assumption | apply keeps_cqError | apply keeps_ite)
    | simp only [keeps_mk_iff]
    | split

theorem keeps_queueCtl : ∀ {s₀ a0} a1 a2 a3 a4, Keeps s₀ a0 → Keeps s₀ (State.queueCtl a0 a1 a2 a3 a4) := by
  intro s₀ a0 a1 a2 a3 a4 h
  unfold State.queueCtl
  try dsimp only
  repeat' first
    | with_reducible (first | assumption | apply keeps_setReg | apply keeps_ite)
    | simp only [keeps_mk_iff]
    | split

theorem keeps_fetch : ∀ {s₀ a0} a1 a2, Keeps s₀ a0 → Keeps s₀ (State.fetch a0 a1 a2).1 := by
  intro s₀ a0 a1 a2 h
  unfold State.fetch
  try dsimp only
  repeat' first
    | with_reducible (first | assumption | refine keeps_fst ?_ (by assumption) | apply keeps_setFld
                            | apply keeps_ite | apply keeps_iteP)
    | simp only [keeps_mk_iff]
    | split

theorem keeps_setHostCmd : ∀ {s₀ a0} a1, Keeps s₀ a0 → Keeps s₀ (State.setHostCmd a0 a1) := by
  intro s₀ a0 a1 h
  unfold State.setHostCmd
  repeat' first
    | with_reducible (first | assumption | apply keeps_ite)
    | simp only [keeps_mk_iff]
    | split

theorem keeps_cmdResult : ∀ {s₀ a0} a1 a2 a3 a4, Keeps s₀ a0 → Keeps s₀ (State.cmdResult a0 a1 a2 a3 a4) := by
  intro s₀ a0 a1 a2 a3 a4 h
  unfold State.cmdResult
  repeat' first
    | with_reducible (first | assumption | apply keeps_setHostCmd)
    | simp only [keeps_mk_iff]

theorem keeps_dropHostCmd : ∀ {s₀ a0} a1, Keeps s₀ a0 → Keeps s₀ (State.dropHostCmd a0 a1) := by
  intro s₀ a0 a1 h
  unfold State.dropHostCmd
  repeat' first
    | with_reducible (first | assumption)
    | simp only [keeps_mk_iff]

theorem keeps_completeCmd : ∀ {s₀ a0} a1 a2 a3 a4, Keeps s₀ a0 → Keeps s₀ (State.completeCmd a0 a1 a2 a3 a4) := by
  intro s₀ a0 a1 a2 a3 a4 h
  unfold State.completeCmd
  try dsimp only
  repeat' first
    | with_reducible (first | assumption | apply keeps_postCq | apply keeps_dropHostCmd)

end Sys2Proof.Machine
end

