-- ==== Sys2Proof/Laws/KeepsKvp.lean ====
section
/-!
SUPPORT. What the operations of `Machine/Kvp.lean` keep (see `Laws/Keeps.lean`): one lemma per operation.
-/
namespace Sys2Proof.Machine

theorem keeps_setEntry : ∀ {s₀ a0} a1 a2, Keeps s₀ a0 → Keeps s₀ (State.setEntry a0 a1 a2) := by
  intro s₀ a0 a1 a2 h
  unfold State.setEntry
  repeat' first
    | with_reducible (first | assumption | apply keeps_hubWrite)

theorem keeps_modEntry : ∀ {s₀ a0} a1 a2, Keeps s₀ a0 → Keeps s₀ (State.modEntry a0 a1 a2) := by
  intro s₀ a0 a1 a2 h
  unfold State.modEntry
  repeat' first
    | with_reducible (first | assumption | apply keeps_setEntry | apply keeps_unitRead)

theorem keeps_setReq : ∀ {s₀ a0} a1 a2, Keeps s₀ a0 → Keeps s₀ (State.setReq a0 a1 a2) := by
  intro s₀ a0 a1 a2 h
  unfold State.setReq
  repeat' first
    | with_reducible (first | assumption)
    | simp only [keeps_mk_iff]

theorem keeps_modReq : ∀ {s₀ a0} a1 a2, Keeps s₀ a0 → Keeps s₀ (State.modReq a0 a1 a2) := by
  intro s₀ a0 a1 a2 h
  unfold State.modReq
  repeat' first
    | with_reducible (first | assumption | apply keeps_setReq)

theorem keeps_setLane : ∀ {s₀ a0} a1 a2 a3, Keeps s₀ a0 → Keeps s₀ (State.setLane a0 a1 a2 a3) := by
  intro s₀ a0 a1 a2 a3 h
  unfold State.setLane
  repeat' first
    | with_reducible (first | assumption | refine keeps_fst ?_ (by assumption))
    | simp only [keeps_mk_iff]
    | split

theorem keeps_modLane : ∀ {s₀ a0} a1 a2 a3, Keeps s₀ a0 → Keeps s₀ (State.modLane a0 a1 a2 a3) := by
  intro s₀ a0 a1 a2 a3 h
  unfold State.modLane
  repeat' first
    | with_reducible (first | assumption | refine keeps_fst ?_ (by assumption) | apply keeps_setLane)
    | simp only [keeps_mk_iff]
    | split

theorem keeps_readPages : ∀ {s₀ a0} a1 a2, Keeps s₀ a0 → Keeps s₀ (State.readPages a0 a1 a2) := by
  intro s₀ a0 a1 a2 h
  unfold State.readPages
  repeat' first
    | with_reducible (first | assumption | apply keeps_unitReads)

theorem keeps_setPage : ∀ {s₀ a0} a1 a2 a3, Keeps s₀ a0 → Keeps s₀ (State.setPage a0 a1 a2 a3) := by
  intro s₀ a0 a1 a2 a3 h
  unfold State.setPage
  repeat' first
    | with_reducible (first | assumption | apply keeps_unitWrite)

theorem keeps_modPage : ∀ {s₀ a0} a1 a2 a3, Keeps s₀ a0 → Keeps s₀ (State.modPage a0 a1 a2 a3) := by
  intro s₀ a0 a1 a2 a3 h
  unfold State.modPage
  repeat' first
    | with_reducible (first | assumption | apply keeps_setPage | apply keeps_readPages)

theorem keeps_setSlots : ∀ {s₀ a0} a1 a2 a3, Keeps s₀ a0 → Keeps s₀ (State.setSlots a0 a1 a2 a3) := by
  intro s₀ a0 a1 a2 a3 h
  unfold State.setSlots
  try dsimp only
  repeat' first
    | with_reducible (first | assumption | refine keeps_fst ?_ (by assumption) | apply keeps_setReg | apply keeps_ite)
    | simp only [keeps_mk_iff]
    | split

theorem keeps_takeSlot : ∀ {s₀ a0} a1 a2, Keeps s₀ a0 → Keeps s₀ (State.takeSlot a0 a1 a2).1 := by
  intro s₀ a0 a1 a2 h
  unfold State.takeSlot
  repeat' first
    | with_reducible (first | assumption | refine keeps_fst ?_ (by assumption) | apply keeps_setSlots
                            | apply keeps_iteP)
    | simp only [keeps_mk_iff]
    | split

theorem keeps_dropSlot : ∀ {s₀ a0} a1 a2 a3, Keeps s₀ a0 → Keeps s₀ (State.dropSlot a0 a1 a2 a3) := by
  intro s₀ a0 a1 a2 a3 h
  unfold State.dropSlot
  repeat' first
    | with_reducible (first | assumption | apply keeps_setSlots)
    | split

theorem keeps_kvpStatus : ∀ {s₀ a0}, Keeps s₀ a0 → Keeps s₀ (State.kvpStatus a0) := by
  intro s₀ a0 h
  unfold State.kvpStatus
  try dsimp only
  repeat' first
    | with_reducible (first | assumption | refine keeps_fst ?_ (by assumption) | apply keeps_setReg)
    | simp only [keeps_mk_iff]
    | split

theorem keeps_freePage : ∀ {s₀ a0} a1 a2, Keeps s₀ a0 → Keeps s₀ (State.freePage a0 a1 a2) := by
  intro s₀ a0 a1 a2 h
  unfold State.freePage
  try dsimp only
  repeat' first
    | with_reducible (first | assumption | apply keeps_readPages | apply keeps_dropSlot | apply keeps_kvpStatus
                            | apply keeps_setPage)
    | simp only [keeps_mk_iff]
    | with_reducible apply keeps_foldl
    | with_reducible apply keeps_foldlP
    | (intro _ _ _; try dsimp only)
    | (intro _ _; try dsimp only)

theorem keeps_unrefPage : ∀ {s₀ a0} a1 a2, Keeps s₀ a0 → Keeps s₀ (State.unrefPage a0 a1 a2) := by
  intro s₀ a0 a1 a2 h
  unfold State.unrefPage
  try dsimp only
  repeat' first
    | with_reducible (first | assumption | apply keeps_freePage | apply keeps_setPage | apply keeps_readPages
                            | apply keeps_ite)
    | simp only [keeps_mk_iff]
    | split

theorem keeps_listPut : ∀ {s₀ a0} a1 a2 a3 a4, Keeps s₀ a0 → Keeps s₀ (State.listPut a0 a1 a2 a3 a4) := by
  intro s₀ a0 a1 a2 a3 a4 h
  unfold State.listPut
  try dsimp only
  repeat' first
    | with_reducible (first | assumption | apply keeps_memPut)

theorem keeps_readLists : ∀ {s₀ a0} a1 a2, Keeps s₀ a0 → Keeps s₀ (State.readLists a0 a1 a2) := by
  intro s₀ a0 a1 a2 h
  unfold State.readLists
  try dsimp only
  repeat' first
    | with_reducible (first | assumption | apply keeps_unitReads)

theorem keeps_allocPage : ∀ {s₀ a0} a1 a2 a3 a4, Keeps s₀ a0 → Keeps s₀ (State.allocPage a0 a1 a2 a3 a4) := by
  intro s₀ a0 a1 a2 a3 a4 h
  unfold State.allocPage
  try dsimp only
  repeat' first
    | with_reducible (first | assumption | refine keeps_fst ?_ (by assumption) | apply keeps_takeSlot
                            | apply keeps_setPage | apply keeps_readPages | apply keeps_listPut)
    | simp only [keeps_mk_iff]
    | split

theorem keeps_summarise : ∀ {s₀ a0} a1 a2 a3, Keeps s₀ a0 → Keeps s₀ (State.summarise a0 a1 a2 a3).1 := by
  intro s₀ a0 a1 a2 a3 h
  unfold State.summarise
  try dsimp only
  repeat' first
    | with_reducible (first | assumption | refine keeps_fst ?_ (by assumption) | apply keeps_readPages
                            | apply keeps_memRead | apply keeps_memWrite | apply keeps_bump | apply keeps_ite
                            | apply keeps_iteP)
    | simp only [keeps_mk_iff]
    | with_reducible apply keeps_foldl
    | with_reducible apply keeps_foldlP
    | (intro _ _ _; try dsimp only)
    | (intro _ _; try dsimp only)
    | split

theorem keeps_summaryDone : ∀ {s₀ a0} a1 a2 a3, Keeps s₀ a0 → Keeps s₀ (State.summaryDone a0 a1 a2 a3) := by
  intro s₀ a0 a1 a2 a3 h
  unfold State.summaryDone
  try dsimp only
  repeat' first
    | with_reducible (first | assumption | refine keeps_fst ?_ (by assumption) | apply keeps_summarise
                            | apply keeps_kvpStatus | apply keeps_setLane | apply keeps_ite)
    | simp only [keeps_mk_iff]
    | with_reducible apply keeps_foldl
    | with_reducible apply keeps_foldlP
    | (intro _ _ _; try dsimp only)
    | (intro _ _; try dsimp only)
    | split

theorem keeps_execSummaryDone : ∀ {s₀ a3} a0 a1 a2, Keeps s₀ a3 → KeepsO s₀ (execSummaryDone a0 a1 a2 a3) := by
  intro s₀ a3 a0 a1 a2 h
  unfold execSummaryDone
  repeat' first
    | with_reducible (first | assumption | apply keeps_summaryDone | apply keepsO_next)

theorem keeps_foldMass : ∀ {s₀ a0} a1 a2 a3, Keeps s₀ a0 → Keeps s₀ (State.foldMass a0 a1 a2 a3) := by
  intro s₀ a0 a1 a2 a3 h
  unfold State.foldMass
  try dsimp only
  repeat' first
    | with_reducible (first | assumption | refine keeps_fst ?_ (by assumption) | apply keeps_readPages
                            | apply keeps_setPage)
    | simp only [keeps_mk_iff]
    | with_reducible apply keeps_foldl
    | with_reducible apply keeps_foldlP
    | (intro _ _ _; try dsimp only)
    | (intro _ _; try dsimp only)
    | split

theorem keeps_evictLayer : ∀ {s₀ a0} a1 a2 a3 a4 a5, Keeps s₀ a0 → Keeps s₀ (State.evictLayer a0 a1 a2 a3 a4 a5) := by
  intro s₀ a0 a1 a2 a3 a4 a5 h
  induction a5 generalizing a0 a1 a2 a3 a4
  · unfold State.evictLayer
    try dsimp only
    repeat' first
      | with_reducible (first | assumption | refine keeps_fst ?_ (by assumption) | apply keeps_readPages
                              | apply keeps_unrefPage | apply keeps_listPut | apply keeps_readLists
                              | apply keeps_bump | apply keeps_ite)
      | simp only [keeps_mk_iff]
      | with_reducible apply keeps_foldl
      | with_reducible apply keeps_foldlP
      | (intro _ _ _; try dsimp only)
      | (intro _ _; try dsimp only)
      | split
  · rename_i ih
    unfold State.evictLayer
    try dsimp only
    repeat' first
      | with_reducible (first | assumption | apply ih | refine keeps_fst ?_ (by assumption) | apply keeps_readPages
                              | apply keeps_unrefPage | apply keeps_listPut | apply keeps_readLists
                              | apply keeps_bump | apply keeps_ite)
      | simp only [keeps_mk_iff]
      | with_reducible apply keeps_foldl
      | with_reducible apply keeps_foldlP
      | (intro _ _ _; try dsimp only)
      | (intro _ _; try dsimp only)
      | split

theorem keeps_evictReq : ∀ {s₀ a0} a1 a2, Keeps s₀ a0 → Keeps s₀ (State.evictReq a0 a1 a2) := by
  intro s₀ a0 a1 a2 h
  unfold State.evictReq
  try dsimp only
  repeat' first
    | with_reducible (first | assumption | apply keeps_unitRead | apply keeps_evictLayer | apply keeps_ite)
    | with_reducible apply keeps_foldl
    | with_reducible apply keeps_foldlP
    | (intro _ _ _; try dsimp only)
    | (intro _ _; try dsimp only)
    | split

theorem keeps_startMove : ∀ {s₀ a0} a1 a2 a3 a4, Keeps s₀ a0 → Keeps s₀ (State.startMove a0 a1 a2 a3 a4).1 := by
  intro s₀ a0 a1 a2 a3 a4 h
  unfold State.startMove
  try dsimp only
  repeat' first
    | with_reducible (first | assumption | refine keeps_fst ?_ (by assumption) | apply keeps_takeSlot
                            | apply keeps_setPage | apply keeps_readPages | apply keeps_kvpStatus | apply keeps_ite
                            | apply keeps_iteP)
    | simp only [keeps_mk_iff]
    | split

theorem keeps_moveDone : ∀ {s₀ a0} a1, Keeps s₀ a0 → Keeps s₀ (State.moveDone a0 a1) := by
  intro s₀ a0 a1 h
  unfold State.moveDone
  try dsimp only
  repeat' first
    | with_reducible (first | assumption | refine keeps_fst ?_ (by assumption) | apply keeps_readPages
                            | apply keeps_memRead | apply keeps_memWrite | apply keeps_setPage | apply keeps_bump
                            | apply keeps_modLane | apply keeps_kvpStatus | apply keeps_ite)
    | simp only [keeps_mk_iff]
    | split

theorem keeps_pauseMoves : ∀ {s₀ a0} a1 a2, Keeps s₀ a0 → Keeps s₀ (State.pauseMoves a0 a1 a2) := by
  intro s₀ a0 a1 a2 h
  unfold State.pauseMoves
  try dsimp only
  repeat' first
    | with_reducible (first | assumption | refine keeps_fst ?_ (by assumption) | apply keeps_readLists
                            | apply keeps_readPages | apply keeps_startMove | apply keeps_bump | apply keeps_ite)
    | with_reducible apply keeps_foldl
    | with_reducible apply keeps_foldlP
    | (intro _ _ _; try dsimp only)
    | (intro _ _; try dsimp only)
    | split

theorem keeps_pausedMove : ∀ {s₀ a0}, Keeps s₀ a0 → Keeps s₀ (State.pausedMove a0) := by
  intro s₀ a0 h
  unfold State.pausedMove
  repeat' first
    | with_reducible (first | assumption | apply keeps_pauseMoves | apply keeps_ite)
    | with_reducible apply keeps_foldl
    | with_reducible apply keeps_foldlP
    | (intro _ _ _; try dsimp only)
    | (intro _ _; try dsimp only)
    | split

theorem keeps_walkerGo : ∀ {s₀ a0} a1 a2 a3, Keeps s₀ a0 → Keeps s₀ (State.walkerGo a0 a1 a2 a3) := by
  intro s₀ a0 a1 a2 a3 h
  induction a3 generalizing a0 a1 a2
  · unfold State.walkerGo
    try dsimp only
    repeat' first
      | with_reducible (first | assumption | refine keeps_fst ?_ (by assumption) | apply keeps_readPages
                              | apply keeps_startMove | apply keeps_setLane | apply keeps_ite)
      | simp only [keeps_mk_iff]
      | split
  · rename_i ih
    unfold State.walkerGo
    try dsimp only
    repeat' first
      | with_reducible (first | assumption | apply ih | refine keeps_fst ?_ (by assumption) | apply keeps_readPages
                              | apply keeps_startMove | apply keeps_setLane | apply keeps_ite)
      | simp only [keeps_mk_iff]
      | split

theorem keeps_execPrefetchMoveStart : ∀ {s₀ a2} a0 a1, Keeps s₀ a2 → KeepsO s₀ (execPrefetchMoveStart a0 a1 a2) := by
  intro s₀ a2 a0 a1 h
  unfold execPrefetchMoveStart
  repeat' first
    | with_reducible (first | assumption | refine keeps_fst ?_ (by assumption) | apply keeps_walkerGo
                            | apply keepsO_next)
    | simp only [keeps_mk_iff]
    | split

theorem keeps_execPageMoveDone : ∀ {s₀ a1} a0, Keeps s₀ a1 → KeepsO s₀ (execPageMoveDone a0 a1) := by
  intro s₀ a1 a0 h
  unfold execPageMoveDone
  repeat' first
    | with_reducible (first | assumption | apply keeps_pausedMove | apply keeps_moveDone | apply keepsO_next)

theorem keeps_spill : ∀ {s₀ a0} a1 a2 a3, Keeps s₀ a0 → Keeps s₀ (State.spill a0 a1 a2 a3) := by
  intro s₀ a0 a1 a2 a3 h
  unfold State.spill
  try dsimp only
  repeat' first
    | with_reducible (first | assumption | refine keeps_fst ?_ (by assumption) | apply keeps_readPages
                            | apply keeps_startMove | apply keeps_bump | apply keeps_ite)
    | with_reducible apply keeps_foldl
    | with_reducible apply keeps_foldlP
    | (intro _ _ _; try dsimp only)
    | (intro _ _; try dsimp only)
    | split

end Sys2Proof.Machine
end

