-- ==== Sys2Proof/Laws/KeepsLovage.lean ====
section
/-!
SUPPORT. What the operations of `Machine/Lovage.lean` keep (see `Laws/Keeps.lean`): one lemma per operation.
-/
namespace Sys2Proof.Machine

theorem keeps_setNode : ∀ {s₀ a0} a1 a2 a3, Keeps s₀ a0 → Keeps s₀ (State.setNode a0 a1 a2 a3) := by
  intro s₀ a0 a1 a2 a3 h
  unfold State.setNode
  repeat' first
    | with_reducible (first | assumption | apply keeps_unitWrite)

theorem keeps_readNodes : ∀ {s₀ a0} a1 a2, Keeps s₀ a0 → Keeps s₀ (State.readNodes a0 a1 a2) := by
  intro s₀ a0 a1 a2 h
  unfold State.readNodes
  repeat' first
    | with_reducible (first | assumption | apply keeps_unitReads)

theorem keeps_modNode : ∀ {s₀ a0} a1 a2 a3, Keeps s₀ a0 → Keeps s₀ (State.modNode a0 a1 a2 a3) := by
  intro s₀ a0 a1 a2 a3 h
  unfold State.modNode
  repeat' first
    | with_reducible (first | assumption | apply keeps_setNode | apply keeps_readNodes)

theorem keeps_lovWalk : ∀ {s₀ a0} a1 a2 a3 a4 a5 a6 a7 a8, Keeps s₀ a0 → Keeps s₀ (State.lovWalk a0 a1 a2 a3 a4 a5 a6 a7 a8).1 := by
  intro s₀ a0 a1 a2 a3 a4 a5 a6 a7 a8 h
  induction a7 generalizing a0 a1 a2 a3 a4 a5 a6 a8
  · unfold State.lovWalk
    try dsimp only
    repeat' first
      | with_reducible (first | assumption | refine keeps_fst ?_ (by assumption) | apply keeps_readNodes
                              | apply keeps_bump | apply keeps_ite | apply keeps_iteP)
      | split
  · rename_i ih
    unfold State.lovWalk
    try dsimp only
    repeat' first
      | with_reducible (first | assumption | apply ih | refine keeps_fst ?_ (by assumption) | apply keeps_readNodes
                              | apply keeps_bump | apply keeps_ite | apply keeps_iteP)
      | split

theorem keeps_lovFind : ∀ {s₀ a0} a1 a2 a3 a4 a5 a6, Keeps s₀ a0 → Keeps s₀ (State.lovFind a0 a1 a2 a3 a4 a5 a6).1 := by
  intro s₀ a0 a1 a2 a3 a4 a5 a6 h
  unfold State.lovFind
  try dsimp only
  repeat' first
    | with_reducible (first | assumption | apply keeps_lovWalk | apply keeps_unitRead | apply keeps_iteP)

theorem keeps_pinNode : ∀ {s₀ a0} a1 a2, Keeps s₀ a0 → Keeps s₀ (State.pinNode a0 a1 a2) := by
  intro s₀ a0 a1 a2 h
  unfold State.pinNode
  repeat' first
    | with_reducible (first | assumption | apply keeps_modNode)
    | simp only [keeps_mk_iff]

theorem keeps_unpinNode : ∀ {s₀ a0} a1 a2, Keeps s₀ a0 → Keeps s₀ (State.unpinNode a0 a1 a2) := by
  intro s₀ a0 a1 a2 h
  unfold State.unpinNode
  repeat' first
    | with_reducible (first | assumption | apply keeps_modNode)
    | simp only [keeps_mk_iff]

theorem keeps_unpinChain : ∀ {s₀ a0} a1 a2 a3, Keeps s₀ a0 → Keeps s₀ (State.unpinChain a0 a1 a2 a3) := by
  intro s₀ a0 a1 a2 a3 h
  induction a2 generalizing a0 a1 a3
  · unfold State.unpinChain
    try dsimp only
    repeat' first
      | with_reducible (first | assumption | apply keeps_unpinNode | apply keeps_ite)
      | split
  · rename_i ih
    unfold State.unpinChain
    try dsimp only
    repeat' first
      | with_reducible (first | assumption | apply ih | apply keeps_unpinNode | apply keeps_ite)
      | split

theorem keeps_readTokens : ∀ {s₀ a0} a1 a2, Keeps s₀ a0 → Keeps s₀ (State.readTokens a0 a1 a2) := by
  intro s₀ a0 a1 a2 h
  unfold State.readTokens
  repeat' first
    | with_reducible (first | assumption | apply keeps_unitReads)

theorem keeps_lovStatus : ∀ {s₀ a0}, Keeps s₀ a0 → Keeps s₀ (State.lovStatus a0) := by
  intro s₀ a0 h
  unfold State.lovStatus
  repeat' first
    | with_reducible (first | assumption | apply keeps_setReg)

theorem keeps_lookupGo : ∀ {s₀ a0} a1 a2 a3 a4 a5 a6, Keeps s₀ a0 → Keeps s₀ (State.lookupGo a0 a1 a2 a3 a4 a5 a6).1 := by
  intro s₀ a0 a1 a2 a3 a4 a5 a6 h
  induction a2 generalizing a0 a1 a3 a4 a5 a6
  · unfold State.lookupGo
    try dsimp only
    repeat' first
      | with_reducible (first | assumption | refine keeps_fst ?_ (by assumption) | apply keeps_pinNode
                              | apply keeps_readTokens | apply keeps_lovFind | apply keeps_bump | apply keeps_ite
                              | apply keeps_iteP)
      | simp only [keeps_mk_iff]
      | split
  · rename_i ih
    unfold State.lookupGo
    try dsimp only
    repeat' first
      | with_reducible (first | assumption | apply ih | refine keeps_fst ?_ (by assumption) | apply keeps_pinNode
                              | apply keeps_readTokens | apply keeps_lovFind | apply keeps_bump | apply keeps_ite
                              | apply keeps_iteP)
      | simp only [keeps_mk_iff]
      | split

theorem keeps_lookupEnd : ∀ {s₀ a0} a1, Keeps s₀ a0 → Keeps s₀ (State.lookupEnd a0 a1) := by
  intro s₀ a0 a1 h
  unfold State.lookupEnd
  try dsimp only
  repeat' first
    | with_reducible (first | assumption | refine keeps_fst ?_ (by assumption) | apply keeps_lookupGo
                            | apply keeps_bump | apply keeps_modReq | apply keeps_modEntry | apply keeps_lovStatus)
    | simp only [keeps_mk_iff]
    | split

theorem keeps_execLookupStart : ∀ {s₀ a0}, Keeps s₀ a0 → KeepsO s₀ (execLookupStart a0) := by
  intro s₀ a0 h
  unfold execLookupStart
  repeat' first
    | with_reducible (first | assumption | refine keeps_fst ?_ (by assumption) | apply keeps_lovStatus
                            | apply keeps_modReq | apply keepsO_next)
    | simp only [keeps_mk_iff]
    | split

theorem keeps_execLookupEnd : ∀ {s₀ a1} a0, Keeps s₀ a1 → KeepsO s₀ (execLookupEnd a0 a1) := by
  intro s₀ a1 a0 h
  unfold execLookupEnd
  repeat' first
    | with_reducible (first | assumption | apply keeps_lookupEnd | apply keepsO_next)

theorem keeps_lookupAttach : ∀ {s₀ a0} a1 a2, Keeps s₀ a0 → Keeps s₀ (State.lookupAttach a0 a1 a2) := by
  intro s₀ a0 a1 a2 h
  unfold State.lookupAttach
  try dsimp only
  repeat' first
    | with_reducible (first | assumption | apply keeps_unitRead | apply keeps_readNodes | apply keeps_modPage
                            | apply keeps_listPut | apply keeps_modEntry | apply keeps_modReq | apply keeps_ite)
    | simp only [keeps_mk_iff]
    | with_reducible apply keeps_foldl
    | with_reducible apply keeps_foldlP
    | (intro _ _ _; try dsimp only)
    | (intro _ _; try dsimp only)
    | split

theorem keeps_insertGo : ∀ {s₀ a0} a1 a2 a3, Keeps s₀ a0 → Keeps s₀ (State.insertGo a0 a1 a2 a3) := by
  intro s₀ a0 a1 a2 a3 h
  induction a3 generalizing a0 a1 a2
  · unfold State.insertGo
    try dsimp only
    repeat' first
      | with_reducible (first | assumption | refine keeps_fst ?_ (by assumption) | apply keeps_pinNode
                              | apply keeps_readNodes | apply keeps_readLists | apply keeps_setNode
                              | apply keeps_readTokens | apply keeps_lovFind | apply keeps_modNode
                              | apply keeps_modEntry | apply keeps_bump | apply keeps_memPut | apply keeps_setReg
                              | apply keeps_modPage | apply keeps_ite)
      | simp only [keeps_mk_iff]
      | with_reducible apply keeps_foldl
      | with_reducible apply keeps_foldlP
      | (intro _ _ _; try dsimp only)
      | (intro _ _; try dsimp only)
      | split
  · rename_i ih
    unfold State.insertGo
    try dsimp only
    repeat' first
      | with_reducible (first | assumption | apply ih | refine keeps_fst ?_ (by assumption) | apply keeps_pinNode
                              | apply keeps_readNodes | apply keeps_readLists | apply keeps_setNode
                              | apply keeps_readTokens | apply keeps_lovFind | apply keeps_modNode
                              | apply keeps_modEntry | apply keeps_bump | apply keeps_memPut | apply keeps_setReg
                              | apply keeps_modPage | apply keeps_ite)
      | simp only [keeps_mk_iff]
      | with_reducible apply keeps_foldl
      | with_reducible apply keeps_foldlP
      | (intro _ _ _; try dsimp only)
      | (intro _ _; try dsimp only)
      | split

theorem keeps_unlinkNode : ∀ {s₀ a0} a1 a2 a3 a4, Keeps s₀ a0 → Keeps s₀ (State.unlinkNode a0 a1 a2 a3 a4) := by
  intro s₀ a0 a1 a2 a3 a4 h
  induction a3 generalizing a0 a1 a2 a4
  · unfold State.unlinkNode
    try dsimp only
    repeat' first
      | with_reducible (first | assumption | apply keeps_unitRead | apply keeps_memPut | apply keeps_ite)
      | split
  · rename_i ih
    unfold State.unlinkNode
    try dsimp only
    repeat' first
      | with_reducible (first | assumption | apply ih | apply keeps_unitRead | apply keeps_memPut | apply keeps_ite)
      | split

theorem keeps_reclaimNode : ∀ {s₀ a0} a1 a2 a3, Keeps s₀ a0 → Keeps s₀ (State.reclaimNode a0 a1 a2 a3) := by
  intro s₀ a0 a1 a2 a3 h
  unfold State.reclaimNode
  try dsimp only
  repeat' first
    | with_reducible (first | assumption | apply keeps_unlinkNode | apply keeps_unitRead | apply keeps_unrefPage
                            | apply keeps_modNode | apply keeps_setReg | apply keeps_bump | apply keeps_ite)
    | simp only [keeps_mk_iff]
    | with_reducible apply keeps_foldl
    | with_reducible apply keeps_foldlP
    | (intro _ _ _; try dsimp only)
    | (intro _ _; try dsimp only)
    | split

theorem keeps_reclaimGo : ∀ {s₀ a0} a1 a2, Keeps s₀ a0 → Keeps s₀ (State.reclaimGo a0 a1 a2) := by
  intro s₀ a0 a1 a2 h
  induction a2 generalizing a0 a1
  · unfold State.reclaimGo
    try dsimp only
    repeat' first
      | with_reducible (first | assumption | refine keeps_fst ?_ (by assumption) | apply keeps_readNodes
                              | apply keeps_reclaimNode | apply keeps_ite)
      | simp only [keeps_mk_iff]
      | split
  · rename_i ih
    unfold State.reclaimGo
    try dsimp only
    repeat' first
      | with_reducible (first | assumption | apply ih | refine keeps_fst ?_ (by assumption) | apply keeps_readNodes
                              | apply keeps_reclaimNode | apply keeps_ite)
      | simp only [keeps_mk_iff]
      | split

theorem keeps_reclaim : ∀ {s₀ a0} a1, Keeps s₀ a0 → Keeps s₀ (State.reclaim a0 a1) := by
  intro s₀ a0 a1 h
  unfold State.reclaim
  repeat' first
    | with_reducible (first | assumption | apply keeps_reclaimGo | apply keeps_ite)
    | split

theorem keeps_lovFormat : ∀ {s₀ a0} a1, Keeps s₀ a0 → Keeps s₀ (State.lovFormat a0 a1) := by
  intro s₀ a0 a1 h
  unfold State.lovFormat
  try dsimp only
  repeat' first
    | with_reducible (first | assumption | apply keeps_unitWrite | apply keeps_setReg | apply keeps_ite)
    | simp only [keeps_mk_iff]
    | with_reducible apply keeps_foldl
    | with_reducible apply keeps_foldlP
    | (intro _ _ _; try dsimp only)
    | (intro _ _; try dsimp only)
    | split

end Sys2Proof.Machine
end

