-- ==== Sys2Proof/Laws/KeepsServe.lean ====
section
/-!
SUPPORT. What the operations of `Machine/Serve.lean` keep (see `Laws/Keeps.lean`): one lemma per operation.
-/
namespace Sys2Proof.Machine

theorem keeps_postServe : ∀ {s₀ a0} a1 a2 a3, Keeps s₀ a0 → Keeps s₀ (State.postServe a0 a1 a2 a3) := by
  intro s₀ a0 a1 a2 a3 h
  unfold State.postServe
  try dsimp only
  repeat' first
    | with_reducible (first | assumption | refine keeps_fst ?_ (by assumption) | apply keeps_unitWrite
                            | apply keeps_postCq | apply keeps_ite)
    | simp only [keeps_mk_iff]
    | split

theorem keeps_postReq : ∀ {s₀ a0} a1 a2 a3 a4, Keeps s₀ a0 → Keeps s₀ (State.postReq a0 a1 a2 a3 a4) := by
  intro s₀ a0 a1 a2 a3 a4 h
  unfold State.postReq
  repeat' first
    | with_reducible (first | assumption | apply keeps_postServe)

theorem keeps_reject : ∀ {s₀ a0} a1 a2 a3 a4 a5, Keeps s₀ a0 → Keeps s₀ (State.reject a0 a1 a2 a3 a4 a5) := by
  intro s₀ a0 a1 a2 a3 a4 a5 h
  unfold State.reject
  repeat' first
    | with_reducible (first | assumption | apply keeps_postServe | apply keeps_bump)

theorem keeps_postAccepted : ∀ {s₀ a0} a1, Keeps s₀ a0 → Keeps s₀ (State.postAccepted a0 a1) := by
  intro s₀ a0 a1 h
  unfold State.postAccepted
  try dsimp only
  repeat' first
    | with_reducible (first | assumption | apply keeps_postReq | apply keeps_modReq | apply keeps_ite)
    | simp only [keeps_mk_iff]
    | split

theorem keeps_liveCount : ∀ {s₀ a0} a1, Keeps s₀ a0 → Keeps s₀ (State.liveCount a0 a1) := by
  intro s₀ a0 a1 h
  unfold State.liveCount
  try dsimp only
  repeat' first
    | with_reducible (first | assumption | apply keeps_setReg | apply keeps_setFld)

theorem keeps_inboxAdd : ∀ {s₀ a0} a1 a2, Keeps s₀ a0 → Keeps s₀ (State.inboxAdd a0 a1 a2) := by
  intro s₀ a0 a1 a2 h
  unfold State.inboxAdd
  try dsimp only
  repeat' first
    | with_reducible (first | assumption | apply keeps_reject | apply keeps_bump | apply keeps_ite)
    | simp only [keeps_mk_iff]
    | split

theorem keeps_serveArrive : ∀ {s₀ a0} a1 a2, Keeps s₀ a0 → Keeps s₀ (State.serveArrive a0 a1 a2) := by
  intro s₀ a0 a1 a2 h
  unfold State.serveArrive
  repeat' first
    | with_reducible (first | assumption | refine keeps_fst ?_ (by assumption) | apply keeps_inboxAdd
                            | apply keeps_fetch | apply keeps_completeCmd | apply keeps_dropHostCmd | apply keeps_ite)
    | simp only [keeps_mk_iff]
    | split

theorem keeps_execSubmit : ∀ {s₀ a1} a0, Keeps s₀ a1 → KeepsO s₀ (execSubmit a0 a1) := by
  intro s₀ a1 a0 h
  unfold execSubmit
  repeat' first
    | with_reducible (first | assumption | apply keeps_serveArrive | apply keepsO_next)

theorem keeps_execCancel : ∀ {s₀ a1} a0, Keeps s₀ a1 → KeepsO s₀ (execCancel a0 a1) := by
  intro s₀ a1 a0 h
  unfold execCancel
  repeat' first
    | with_reducible (first | assumption | apply keeps_serveArrive | apply keepsO_next)

theorem keeps_execPause : ∀ {s₀ a1} a0, Keeps s₀ a1 → KeepsO s₀ (execPause a0 a1) := by
  intro s₀ a1 a0 h
  unfold execPause
  repeat' first
    | with_reducible (first | assumption | apply keeps_serveArrive | apply keepsO_next)

theorem keeps_execResume : ∀ {s₀ a1} a0, Keeps s₀ a1 → KeepsO s₀ (execResume a0 a1) := by
  intro s₀ a1 a0 h
  unfold execResume
  repeat' first
    | with_reducible (first | assumption | apply keeps_serveArrive | apply keepsO_next)

theorem keeps_setFills : ∀ {s₀ a0} a1 a2, Keeps s₀ a0 → Keeps s₀ (State.setFills a0 a1 a2) := by
  intro s₀ a0 a1 a2 h
  unfold State.setFills
  try dsimp only
  repeat' first
    | with_reducible (first | assumption | apply keeps_readLists | apply keeps_modPage)
    | simp only [keeps_mk_iff]
    | with_reducible apply keeps_foldl
    | with_reducible apply keeps_foldlP
    | (intro _ _ _; try dsimp only)
    | (intro _ _; try dsimp only)

theorem keeps_acceptReq : ∀ {s₀ a0} a1 a2 a3 a4 a5, Keeps s₀ a0 → Keeps s₀ (State.acceptReq a0 a1 a2 a3 a4 a5) := by
  intro s₀ a0 a1 a2 a3 a4 a5 h
  unfold State.acceptReq
  try dsimp only
  repeat' first
    | with_reducible (first | assumption | refine keeps_fst ?_ (by assumption) | apply keeps_unitRead
                            | apply keeps_modReq | apply keeps_modEntry | apply keeps_unitWrite | apply keeps_bump
                            | apply keeps_setEntry | apply keeps_setFills | apply keeps_postReq | apply keeps_ite)
    | simp only [keeps_mk_iff]
    | split

theorem keeps_doSubmit : ∀ {s₀ a0} a1 a2 a3 a4, Keeps s₀ a0 → Keeps s₀ (State.doSubmit a0 a1 a2 a3 a4) := by
  intro s₀ a0 a1 a2 a3 a4 h
  unfold State.doSubmit
  try dsimp only
  repeat' first
    | with_reducible (first | assumption | refine keeps_fst ?_ (by assumption) | apply keeps_unitReads
                            | apply keeps_setReq | apply keeps_setEntry | apply keeps_postAccepted
                            | apply keeps_liveCount | apply keeps_bump | apply keeps_reject | apply keeps_ite)
    | simp only [keeps_mk_iff]
    | split

theorem keeps_pauseReq : ∀ {s₀ a0} a1 a2 a3, Keeps s₀ a0 → Keeps s₀ (State.pauseReq a0 a1 a2 a3) := by
  intro s₀ a0 a1 a2 a3 h
  unfold State.pauseReq
  try dsimp only
  repeat' first
    | with_reducible (first | assumption | apply keeps_modEntry | apply keeps_pauseMoves | apply keeps_postReq
                            | apply keeps_ite)
    | simp only [keeps_mk_iff]
    | split

theorem keeps_doCancel : ∀ {s₀ a0} a1 a2, Keeps s₀ a0 → Keeps s₀ (State.doCancel a0 a1 a2) := by
  intro s₀ a0 a1 a2 h
  unfold State.doCancel
  repeat' first
    | with_reducible (first | assumption | refine keeps_fst ?_ (by assumption) | apply keeps_modReq | apply keeps_bump)
    | simp only [keeps_mk_iff]
    | split

theorem keeps_doPause : ∀ {s₀ a0} a1 a2 a3 a4 a5, Keeps s₀ a0 → Keeps s₀ (State.doPause a0 a1 a2 a3 a4 a5) := by
  intro s₀ a0 a1 a2 a3 a4 a5 h
  unfold State.doPause
  try dsimp only
  repeat' first
    | with_reducible (first | assumption | refine keeps_fst ?_ (by assumption) | apply keeps_reject
                            | apply keeps_modReq | apply keeps_pauseReq | apply keeps_ite)
    | simp only [keeps_mk_iff]
    | split

theorem keeps_doResume : ∀ {s₀ a0} a1 a2 a3 a4 a5 a6, Keeps s₀ a0 → Keeps s₀ (State.doResume a0 a1 a2 a3 a4 a5 a6) := by
  intro s₀ a0 a1 a2 a3 a4 a5 a6 h
  unfold State.doResume
  try dsimp only
  repeat' first
    | with_reducible (first | assumption | refine keeps_fst ?_ (by assumption) | apply keeps_reject
                            | apply keeps_modReq | apply keeps_setEntry | apply keeps_postAccepted
                            | apply keeps_postReq | apply keeps_ite)
    | simp only [keeps_mk_iff]
    | split

theorem keeps_doCmd {s₀ s : State} (t m ts : Nat) (before : List InCmd) (c : InCmd) (h : Keeps s₀ s) :
    ∀ r, s.doCmd t m ts before c = some r → Keeps s₀ r := by
  unfold State.doCmd
  generalize s.lane t m = l
  generalize (match l with | some l => l.step | none => 0) = step
  intro r e
  dsimp only at e
  by_cases c0 : c.op = 0
  · rw [if_pos c0] at e
    split at e
    · exact Option.some.inj e ▸ keeps_doSubmit _ _ _ _ h
    · exact absurd e.symm (Option.some_ne_none r)
  · rw [if_neg c0] at e
    split at e
    · split at e
      · exact absurd e.symm (Option.some_ne_none r)
      · split at e
        · split at e
          · exact Option.some.inj e ▸ keeps_doCancel _ _ h
          · exact Option.some.inj e ▸ keeps_reject _ _ _ _ _ h
        · split at e
          · exact Option.some.inj e ▸ keeps_doPause _ _ _ _ _ h
          · exact Option.some.inj e ▸ keeps_doResume _ _ _ _ _ _ h
    · split at e
      · exact absurd e.symm (Option.some_ne_none r)
      · exact Option.some.inj e ▸ keeps_reject _ _ _ _ _ h

theorem keeps_bdCommands {s₀ s : State} (t m ts : Nat) (h : Keeps s₀ s) : Keeps s₀ (s.bdCommands t m ts) := by
  unfold State.bdCommands
  try dsimp only
  simp only [keeps_mk_iff]
  refine keeps_foldlP _ _ (fun a c ha => ?_) h
  try dsimp only
  repeat' split
  · exact ha
  · exact keeps_doCmd _ _ _ _ _ ha _ (by assumption)
  · exact ha

theorem keeps_deadlineReq : ∀ {s₀ a0} a1 a2 a3, Keeps s₀ a0 → Keeps s₀ (State.deadlineReq a0 a1 a2 a3) := by
  intro s₀ a0 a1 a2 a3 h
  unfold State.deadlineReq
  try dsimp only
  repeat' first
    | with_reducible (first | assumption | refine keeps_fst ?_ (by assumption) | apply keeps_modReq
                            | apply keeps_bump | apply keeps_ite)
    | simp only [keeps_mk_iff]
    | split

theorem keeps_serveProv : ∀ {s₀ a0} a1 a2, Keeps s₀ a0 → Keeps s₀ (State.serveProv a0 a1 a2) := by
  intro s₀ a0 a1 a2 h
  unfold State.serveProv
  try dsimp only
  repeat' first
    | with_reducible (first | assumption | refine keeps_fst ?_ (by assumption) | apply keeps_unitWrite
                            | apply keeps_unitReads)
    | simp only [keeps_mk_iff]
    | split

theorem keeps_dropReq : ∀ {s₀ a0} a1 a2, Keeps s₀ a0 → Keeps s₀ (State.dropReq a0 a1 a2) := by
  intro s₀ a0 a1 a2 h
  unfold State.dropReq
  try dsimp only
  repeat' first
    | with_reducible (first | assumption | refine keeps_fst ?_ (by assumption) | apply keeps_unrefPage
                            | apply keeps_readLists | apply keeps_unpinChain | apply keeps_unpinNode
                            | apply keeps_liveCount | apply keeps_lovStatus | apply keeps_setReq | apply keeps_modEntry)
    | simp only [keeps_mk_iff]
    | with_reducible apply keeps_foldl
    | with_reducible apply keeps_foldlP
    | (intro _ _ _; try dsimp only)
    | (intro _ _; try dsimp only)
    | split

theorem keeps_releaseReq : ∀ {s₀ a0} a1 a2 a3 a4, Keeps s₀ a0 → Keeps s₀ (State.releaseReq a0 a1 a2 a3 a4) := by
  intro s₀ a0 a1 a2 a3 a4 h
  unfold State.releaseReq
  try dsimp only
  repeat' first
    | with_reducible (first | assumption | refine keeps_fst ?_ (by assumption) | apply keeps_pauseReq
                            | apply keeps_modReq | apply keeps_bump | apply keeps_serveProv | apply keeps_dropReq
                            | apply keeps_postReq | apply keeps_ite)
    | simp only [keeps_mk_iff]
    | split

theorem keeps_scan : ∀ {s₀ a0} a1 a2 a3 a4 a5 a6, Keeps s₀ a0 → Keeps s₀ (State.scan a0 a1 a2 a3 a4 a5 a6).1 := by
  intro s₀ a0 a1 a2 a3 a4 a5 a6 h
  induction a3 generalizing a0 a1 a2 a4 a5 a6
  · unfold State.scan
    try dsimp only
    repeat' first
      | with_reducible (first | assumption | refine keeps_fst ?_ (by assumption) | apply keeps_modReq
                              | apply keeps_allocPage | apply keeps_ite | apply keeps_iteP)
      | simp only [keeps_mk_iff]
      | with_reducible apply keeps_foldl
      | with_reducible apply keeps_foldlP
      | (intro _ _ _; try dsimp only)
      | (intro _ _; try dsimp only)
      | split
  · rename_i ih
    unfold State.scan
    try dsimp only
    repeat' first
      | with_reducible (first | assumption | apply ih | refine keeps_fst ?_ (by assumption) | apply keeps_modReq
                              | apply keeps_allocPage | apply keeps_ite | apply keeps_iteP)
      | simp only [keeps_mk_iff]
      | with_reducible apply keeps_foldl
      | with_reducible apply keeps_foldlP
      | (intro _ _ _; try dsimp only)
      | (intro _ _; try dsimp only)
      | split

theorem keeps_bdBatch : ∀ {s₀ a0} a1 a2, Keeps s₀ a0 → Keeps s₀ (State.bdBatch a0 a1 a2) := by
  intro s₀ a0 a1 a2 h
  unfold State.bdBatch
  try dsimp only
  repeat' first
    | with_reducible (first | assumption | refine keeps_fst ?_ (by assumption) | apply keeps_scan
                            | apply keeps_modEntry | apply keeps_setLane | apply keeps_unitWrite | apply keeps_ite)
    | simp only [keeps_mk_iff]
    | with_reducible apply keeps_foldl
    | with_reducible apply keeps_foldlP
    | (intro _ _ _; try dsimp only)
    | (intro _ _; try dsimp only)
    | split

theorem keeps_bdSpill : ∀ {s₀ a0} a1 a2 a3, Keeps s₀ a0 → Keeps s₀ (State.bdSpill a0 a1 a2 a3) := by
  intro s₀ a0 a1 a2 a3 h
  unfold State.bdSpill
  try dsimp only
  repeat' first
    | with_reducible (first | assumption | refine keeps_fst ?_ (by assumption) | apply keeps_readLists
                            | apply keeps_spill | apply keeps_modPage | apply keeps_walkerGo | apply keeps_modLane
                            | apply keeps_ite)
    | simp only [keeps_mk_iff]
    | with_reducible apply keeps_foldl
    | with_reducible apply keeps_foldlP
    | (intro _ _ _; try dsimp only)
    | (intro _ _; try dsimp only)
    | split

theorem keeps_bdLaunch : ∀ {s₀ a0} a1 a2, Keeps s₀ a0 → Keeps s₀ (State.bdLaunch a0 a1 a2) := by
  intro s₀ a0 a1 a2 h
  unfold State.bdLaunch
  try dsimp only
  repeat' first
    | with_reducible (first | assumption | refine keeps_fst ?_ (by assumption) | apply keeps_jobSubmit
                            | apply keeps_kvpStatus | apply keeps_setLane | apply keeps_ite)
    | simp only [keeps_mk_iff]
    | split

theorem keeps_bdResult : ∀ {s₀ a0} a1 a2, Keeps s₀ a0 → Keeps s₀ (State.bdResult a0 a1 a2) := by
  intro s₀ a0 a1 a2 h
  unfold State.bdResult
  try dsimp only
  repeat' first
    | with_reducible (first | assumption | refine keeps_fst ?_ (by assumption) | apply keeps_unitRead
                            | apply keeps_bump | apply keeps_modReq | apply keeps_modEntry | apply keeps_setLane
                            | apply keeps_acceptReq | apply keeps_ite)
    | simp only [keeps_mk_iff]
    | with_reducible apply keeps_foldl
    | with_reducible apply keeps_foldlP
    | (intro _ _ _; try dsimp only)
    | (intro _ _; try dsimp only)
    | split

theorem keeps_bdKvp : ∀ {s₀ a0} a1 a2 a3, Keeps s₀ a0 → Keeps s₀ (State.bdKvp a0 a1 a2 a3) := by
  intro s₀ a0 a1 a2 a3 h
  unfold State.bdKvp
  try dsimp only
  repeat' first
    | with_reducible (first | assumption | refine keeps_fst ?_ (by assumption) | apply keeps_readPages
                            | apply keeps_setPage | apply keeps_foldMass | apply keeps_evictReq
                            | apply keeps_kvpStatus | apply keeps_modLane | apply keeps_ite)
    | simp only [keeps_mk_iff]
    | with_reducible apply keeps_foldl
    | with_reducible apply keeps_foldlP
    | (intro _ _ _; try dsimp only)
    | (intro _ _; try dsimp only)
    | split

theorem keeps_bdLovage : ∀ {s₀ a0} a1 a2, Keeps s₀ a0 → Keeps s₀ (State.bdLovage a0 a1 a2) := by
  intro s₀ a0 a1 a2 h
  unfold State.bdLovage
  try dsimp only
  repeat' first
    | with_reducible (first | assumption | refine keeps_fst ?_ (by assumption) | apply keeps_insertGo
                            | apply keeps_postAccepted | apply keeps_lookupAttach | apply keeps_reclaim
                            | apply keeps_ite)
    | simp only [keeps_mk_iff]
    | with_reducible apply keeps_foldl
    | with_reducible apply keeps_foldlP
    | (intro _ _ _; try dsimp only)
    | (intro _ _; try dsimp only)
    | split

theorem keeps_boundary : ∀ {s₀ a0} a1 a2 a3 a4, Keeps s₀ a0 → Keeps s₀ (State.boundary a0 a1 a2 a3 a4) := by
  intro s₀ a0 a1 a2 a3 a4 h
  unfold State.boundary
  try dsimp only
  repeat' first
    | with_reducible (first | assumption | refine keeps_fst ?_ (by assumption) | apply keeps_dropSlot
                            | apply keeps_setLane | apply keeps_modReq | apply keeps_bdResult
                            | apply keeps_bdCommands | apply keeps_deadlineReq | apply keeps_releaseReq
                            | apply keeps_bdKvp | apply keeps_bdLovage | apply keeps_bdBatch | apply keeps_modLane
                            | apply keeps_pausedMove | apply keeps_bdSpill | apply keeps_bdLaunch | apply keeps_ite)
    | simp only [keeps_mk_iff]
    | with_reducible apply keeps_foldl
    | with_reducible apply keeps_foldlP
    | (intro _ _ _; try dsimp only)
    | (intro _ _; try dsimp only)
    | split

theorem keeps_execStepBoundary : ∀ {s₀ a3} a0 a1 a2, Keeps s₀ a3 → KeepsO s₀ (execStepBoundary a0 a1 a2 a3) := by
  intro s₀ a3 a0 a1 a2 h
  unfold execStepBoundary
  try dsimp only
  repeat' first
    | with_reducible (first | assumption | refine keeps_fst ?_ (by assumption) | apply keeps_boundary
                            | apply keepsO_next | apply keeps_ite)
    | simp only [keeps_mk_iff]
    | split

theorem keeps_execEmptyBoundary : ∀ {s₀ a3} a0 a1 a2, Keeps s₀ a3 → KeepsO s₀ (execEmptyBoundary a0 a1 a2 a3) := by
  intro s₀ a3 a0 a1 a2 h
  unfold execEmptyBoundary
  repeat' first
    | with_reducible (first | assumption | refine keeps_fst ?_ (by assumption) | apply keeps_boundary
                            | apply keepsO_next | apply keeps_ite)
    | simp only [keeps_mk_iff]
    | split

theorem keeps_stopLanes : ∀ {s₀ a0} a1, Keeps s₀ a0 → Keeps s₀ (State.stopLanes a0 a1) := by
  intro s₀ a0 a1 h
  unfold State.stopLanes
  try dsimp only
  repeat' first
    | with_reducible (first | assumption | apply keeps_kvpStatus | apply keeps_setFld)
    | simp only [keeps_mk_iff]

theorem keeps_startLanes : ∀ {s₀ a0} a1, Keeps s₀ a0 → Keeps s₀ (State.startLanes a0 a1) := by
  intro s₀ a0 a1 h
  unfold State.startLanes
  try dsimp only
  repeat' first
    | with_reducible (first | assumption | apply keeps_lovFormat | apply keeps_stopLanes | apply keeps_setSlots
                            | apply keeps_unitRead | apply keeps_setLane | apply keeps_setFld | apply keeps_ite)
    | with_reducible apply keeps_foldl
    | with_reducible apply keeps_foldlP
    | (intro _ _ _; try dsimp only)
    | (intro _ _; try dsimp only)
    | split

theorem keeps_modelCount : ∀ {s₀ a0} a1 a2, Keeps s₀ a0 → Keeps s₀ (State.modelCount a0 a1 a2) := by
  intro s₀ a0 a1 a2 h
  unfold State.modelCount
  repeat' first
    | with_reducible (first | assumption | apply keeps_setRbit | apply keeps_startLanes | apply keeps_setReg
                            | apply keeps_ite)
    | split

theorem keeps_execRqtModelCountWrite : ∀ {s₀ a3} a0 a1 a2, Keeps s₀ a3 → KeepsO s₀ (execRqtModelCountWrite a0 a1 a2 a3) := by
  intro s₀ a3 a0 a1 a2 h
  unfold execRqtModelCountWrite
  repeat' first
    | with_reducible (first | assumption | apply keeps_guarded | apply keeps_modelCount | apply keepsO_next)

theorem keeps_serveDrop : ∀ {s₀ a0} a1, Keeps s₀ a0 → Keeps s₀ (State.serveDrop a0 a1) := by
  intro s₀ a0 a1 h
  unfold State.serveDrop
  try dsimp only
  repeat' first
    | with_reducible (first | assumption | apply keeps_dropReq)
    | simp only [keeps_mk_iff]
    | with_reducible apply keeps_foldl
    | with_reducible apply keeps_foldlP
    | (intro _ _ _; try dsimp only)
    | (intro _ _; try dsimp only)

end Sys2Proof.Machine
end

