-- ==== Sys2Proof/Laws/KeepsView.lean ====
section
/-!
SUPPORT. What the operations of `Machine/View.lean` keep (see `Laws/Keeps.lean`): one lemma per operation.
-/
namespace Sys2Proof.Machine

theorem keeps_writeView : ∀ {s₀ a0} a1 a2 a3 a4 a5, Keeps s₀ a0 → Keeps s₀ (State.writeView a0 a1 a2 a3 a4 a5).1 := by
  intro s₀ a0 a1 a2 a3 a4 a5 h
  unfold State.writeView
  try dsimp only
  repeat' first
    | with_reducible (first | assumption | apply keeps_memWrite | apply keeps_ite | apply keeps_iteP)
    | with_reducible apply keeps_foldl
    | with_reducible apply keeps_foldlP
    | (intro _ _ _; try dsimp only)
    | (intro _ _; try dsimp only)
    | split

end Sys2Proof.Machine
end

