-- ==== Sys2Proof/Laws/KeepsVideo.lean ====
section
/-!
SUPPORT. What the operations of `Machine/Video.lean` keep (see `Laws/Keeps.lean`): one lemma per operation.
-/
namespace Sys2Proof.Machine

theorem keeps_setDctx : ∀ {s₀ a0} a1 a2, Keeps s₀ a0 → Keeps s₀ (State.setDctx a0 a1 a2) := by
  intro s₀ a0 a1 a2 h
  unfold State.setDctx
  repeat' first
    | with_reducible (first | assumption)
    | simp only [keeps_mk_iff]

theorem keeps_modDctx : ∀ {s₀ a0} a1 a2, Keeps s₀ a0 → Keeps s₀ (State.modDctx a0 a1 a2) := by
  intro s₀ a0 a1 a2 h
  unfold State.modDctx
  repeat' first
    | with_reducible (first | assumption | apply keeps_setDctx)

theorem keeps_setDstate : ∀ {s₀ a0} a1 a2, Keeps s₀ a0 → Keeps s₀ (State.setDstate a0 a1 a2) := by
  intro s₀ a0 a1 a2 h
  unfold State.setDstate
  repeat' first
    | with_reducible (first | assumption | apply keeps_setFld)

theorem keeps_setDerr : ∀ {s₀ a0} a1 a2, Keeps s₀ a0 → Keeps s₀ (State.setDerr a0 a1 a2) := by
  intro s₀ a0 a1 a2 h
  unfold State.setDerr
  repeat' first
    | with_reducible (first | assumption | apply keeps_setFld)

theorem keeps_dcount : ∀ {s₀ a0} a1 a2, Keeps s₀ a0 → Keeps s₀ (State.dcount a0 a1 a2) := by
  intro s₀ a0 a1 a2 h
  unfold State.dcount
  repeat' first
    | with_reducible (first | assumption | apply keeps_bump)

theorem keeps_inputLost : ∀ {s₀ a0} a1, Keeps s₀ a0 → Keeps s₀ (State.inputLost a0 a1) := by
  intro s₀ a0 a1 h
  unfold State.inputLost
  repeat' first
    | with_reducible (first | assumption | apply keeps_ite)
    | simp only [keeps_mk_iff]
    | split

theorem keeps_fp0Send : ∀ {s₀ a0} a1 a2, Keeps s₀ a0 → Keeps s₀ (State.fp0Send a0 a1 a2) := by
  intro s₀ a0 a1 a2 h
  unfold State.fp0Send
  repeat' first
    | with_reducible (first | assumption | apply keeps_send | apply keeps_bump | apply keeps_ite)
    | split

theorem keeps_vidStatus : ∀ {s₀ a0}, Keeps s₀ a0 → Keeps s₀ (State.vidStatus a0) := by
  intro s₀ a0 h
  unfold State.vidStatus
  try dsimp only
  repeat' first
    | with_reducible (first | assumption | apply keeps_setReg)
    | with_reducible apply keeps_foldl
    | with_reducible apply keeps_foldlP
    | (intro _ _ _; try dsimp only)
    | (intro _ _; try dsimp only)

theorem keeps_overDrop : ∀ {s₀ a0} a1 a2, Keeps s₀ a0 → Keeps s₀ (State.overDrop a0 a1 a2) := by
  intro s₀ a0 a1 a2 h
  unfold State.overDrop
  repeat' first
    | with_reducible (first | assumption | apply keeps_inputLost | apply keeps_modDctx)
    | simp only [keeps_mk_iff]

theorem keeps_dropPic : ∀ {s₀ a0} a1 a2, Keeps s₀ a0 → Keeps s₀ (State.dropPic a0 a1 a2) := by
  intro s₀ a0 a1 a2 h
  unfold State.dropPic
  try dsimp only
  repeat' first
    | with_reducible (first | assumption | refine keeps_fst ?_ (by assumption) | apply keeps_dcount
                            | apply keeps_modDctx)
    | simp only [keeps_mk_iff]
    | split

theorem keeps_closeAu : ∀ {s₀ a0} a1 a2 a3, Keeps s₀ a0 → Keeps s₀ (State.closeAu a0 a1 a2 a3) := by
  intro s₀ a0 a1 a2 a3 h
  unfold State.closeAu
  try dsimp only
  repeat' first
    | with_reducible (first | assumption | apply keeps_dcount | apply keeps_bumpBy | apply keeps_overDrop
                            | apply keeps_dropPic | apply keeps_setDctx | apply keeps_ite)
    | simp only [keeps_mk_iff]
    | split

theorem keeps_closeDue : ∀ {s₀ a0} a1 a2 a3, Keeps s₀ a0 → Keeps s₀ (State.closeDue a0 a1 a2 a3) := by
  intro s₀ a0 a1 a2 a3 h
  induction a3 generalizing a0 a1 a2
  · unfold State.closeDue
    try dsimp only
    repeat' first
      | with_reducible (first | assumption | refine keeps_fst ?_ (by assumption) | apply keeps_closeAu)
      | simp only [keeps_mk_iff]
      | split
  · rename_i ih
    unfold State.closeDue
    try dsimp only
    repeat' first
      | with_reducible (first | assumption | apply ih | refine keeps_fst ?_ (by assumption) | apply keeps_closeAu)
      | simp only [keeps_mk_iff]
      | split

theorem keeps_closeComplete : ∀ {s₀ a0} a1 a2 a3, Keeps s₀ a0 → Keeps s₀ (State.closeComplete a0 a1 a2 a3) := by
  intro s₀ a0 a1 a2 a3 h
  induction a3 generalizing a0 a1 a2
  · unfold State.closeComplete
    try dsimp only
    repeat' first
      | with_reducible (first | assumption | refine keeps_fst ?_ (by assumption) | apply keeps_closeAu)
      | simp only [keeps_mk_iff]
      | split
  · rename_i ih
    unfold State.closeComplete
    try dsimp only
    repeat' first
      | with_reducible (first | assumption | apply ih | refine keeps_fst ?_ (by assumption) | apply keeps_closeAu)
      | simp only [keeps_mk_iff]
      | split

theorem keeps_packetIn : ∀ {s₀ a0} a1 a2 a3 a4 a5, Keeps s₀ a0 → Keeps s₀ (State.packetIn a0 a1 a2 a3 a4 a5) := by
  intro s₀ a0 a1 a2 a3 a4 a5 h
  unfold State.packetIn
  try dsimp only
  repeat' first
    | with_reducible (first | assumption | refine keeps_fst ?_ (by assumption) | apply keeps_closeDue
                            | apply keeps_setReg64 | apply keeps_dcount | apply keeps_modDctx | apply keeps_setDctx
                            | apply keeps_closeComplete | apply keeps_ite)
    | simp only [keeps_mk_iff]
    | split

theorem keeps_rtcpIn : ∀ {s₀ a0} a1 a2, Keeps s₀ a0 → Keeps s₀ (State.rtcpIn a0 a1 a2) := by
  intro s₀ a0 a1 a2 h
  unfold State.rtcpIn
  try dsimp only
  repeat' first
    | with_reducible (first | assumption | apply keeps_setReg64 | apply keeps_ite)
    | split

theorem keeps_udpIn : ∀ {s₀ a0} a1 a2, Keeps s₀ a0 → Keeps s₀ (State.udpIn a0 a1 a2) := by
  intro s₀ a0 a1 a2 h
  unfold State.udpIn
  try dsimp only
  repeat' first
    | with_reducible (first | assumption | refine keeps_fst ?_ (by assumption) | apply keeps_logRecord
                            | apply keeps_packetIn | apply keeps_rtcpIn | apply keeps_bump | apply keeps_ite)
    | simp only [keeps_mk_iff]
    | split

theorem keeps_replayPacket : ∀ {s₀ a0}, Keeps s₀ a0 → Keeps s₀ (State.replayPacket a0) := by
  intro s₀ a0 h
  unfold State.replayPacket
  repeat' first
    | with_reducible (first | assumption | refine keeps_fst ?_ (by assumption) | apply keeps_replayTake
                            | apply keeps_packetIn | apply keeps_ite)
    | simp only [keeps_mk_iff]
    | split

theorem keeps_execUdpDatagramRx : ∀ {s₀ a2} a0 a1, Keeps s₀ a2 → KeepsO s₀ (execUdpDatagramRx a0 a1 a2) := by
  intro s₀ a2 a0 a1 h
  unfold execUdpDatagramRx
  try dsimp only
  repeat' first
    | with_reducible (first | assumption | refine keeps_fst ?_ (by assumption) | apply keeps_replayPacket
                            | apply keeps_bump64By | apply keeps_bump | apply keeps_udpIn | apply keepsO_next
                            | apply keeps_ite)
    | simp only [keeps_mk_iff]
    | split

theorem keeps_execAuReorderTimeout : ∀ {s₀ a1} a0, Keeps s₀ a1 → KeepsO s₀ (execAuReorderTimeout a0 a1) := by
  intro s₀ a1 a0 h
  unfold execAuReorderTimeout
  repeat' first
    | with_reducible (first | assumption | apply keeps_closeDue | apply keepsO_next)
    | split

theorem keeps_execRtcpReceiverReport : ∀ {s₀ a1} a0, Keeps s₀ a1 → KeepsO s₀ (execRtcpReceiverReport a0 a1) := by
  intro s₀ a1 a0 h
  unfold execRtcpReceiverReport
  repeat' first
    | with_reducible (first | assumption | apply keeps_fp0Send | apply keeps_modDctx | apply keepsO_next
                            | apply keeps_ite)
    | simp only [keeps_mk_iff]
    | split

theorem keeps_modRtsp : ∀ {s₀ a0} a1 a2, Keeps s₀ a0 → Keeps s₀ (State.modRtsp a0 a1 a2) := by
  intro s₀ a0 a1 a2 h
  unfold State.modRtsp
  repeat' first
    | with_reducible (first | assumption | apply keeps_modDctx)
    | simp only [keeps_mk_iff]

theorem keeps_rtspRequest : ∀ {s₀ a0} a1 a2 a3, Keeps s₀ a0 → Keeps s₀ (State.rtspRequest a0 a1 a2 a3) := by
  intro s₀ a0 a1 a2 a3 h
  unfold State.rtspRequest
  try dsimp only
  repeat' first
    | with_reducible (first | assumption | apply keeps_fp0Send)
    | simp only [keeps_mk_iff]
    | split

theorem keeps_rtspGo : ∀ {s₀ a0} a1 a2, Keeps s₀ a0 → Keeps s₀ (State.rtspGo a0 a1 a2) := by
  intro s₀ a0 a1 a2 h
  unfold State.rtspGo
  repeat' first
    | with_reducible (first | assumption | apply keeps_rtspRequest | apply keeps_modRtsp)
    | simp only [keeps_mk_iff]
    | split

theorem keeps_rtspConnect : ∀ {s₀ a0} a1, Keeps s₀ a0 → Keeps s₀ (State.rtspConnect a0 a1) := by
  intro s₀ a0 a1 h
  unfold State.rtspConnect
  repeat' first
    | with_reducible (first | assumption | apply keeps_rtspGo | apply keeps_setDstate | apply keeps_modRtsp)
    | simp only [keeps_mk_iff]

theorem keeps_rtspLost : ∀ {s₀ a0} a1 a2, Keeps s₀ a0 → Keeps s₀ (State.rtspLost a0 a1 a2) := by
  intro s₀ a0 a1 a2 h
  unfold State.rtspLost
  try dsimp only
  repeat' first
    | with_reducible (first | assumption | apply keeps_setDerr | apply keeps_rtspRequest | apply keeps_setDstate
                            | apply keeps_modRtsp)
    | simp only [keeps_mk_iff]

theorem keeps_joinReport : ∀ {s₀ a0} a1 a2, Keeps s₀ a0 → Keeps s₀ (State.joinReport a0 a1 a2) := by
  intro s₀ a0 a1 a2 h
  unfold State.joinReport
  repeat' first
    | with_reducible (first | assumption | refine keeps_fst ?_ (by assumption) | apply keeps_fp0Send | apply keeps_ite)
    | simp only [keeps_mk_iff]
    | split

theorem keeps_joinGroup : ∀ {s₀ a0} a1, Keeps s₀ a0 → Keeps s₀ (State.joinGroup a0 a1) := by
  intro s₀ a0 a1 h
  unfold State.joinGroup
  repeat' first
    | with_reducible (first | assumption | refine keeps_fst ?_ (by assumption) | apply keeps_joinReport
                            | apply keeps_modRtsp)
    | simp only [keeps_mk_iff]
    | split

theorem keeps_rtspReply : ∀ {s₀ a0} a1 a2, Keeps s₀ a0 → Keeps s₀ (State.rtspReply a0 a1 a2) := by
  intro s₀ a0 a1 a2 h
  unfold State.rtspReply
  try dsimp only
  repeat' first
    | with_reducible (first | assumption | refine keeps_fst ?_ (by assumption) | apply keeps_rtspGo
                            | apply keeps_modRtsp | apply keeps_rtspLost | apply keeps_modDctx
                            | apply keeps_joinGroup | apply keeps_setDstate | apply keeps_ite)
    | simp only [keeps_mk_iff]
    | split

theorem keeps_execRtspResponse : ∀ {s₀ a2} a0 a1, Keeps s₀ a2 → KeepsO s₀ (execRtspResponse a0 a1 a2) := by
  intro s₀ a2 a0 a1 h
  unfold execRtspResponse
  repeat' first
    | with_reducible (first | assumption | apply keeps_rtspReply | apply keepsO_next)

theorem keeps_execRtspKeepalive : ∀ {s₀ a1} a0, Keeps s₀ a1 → KeepsO s₀ (execRtspKeepalive a0 a1) := by
  intro s₀ a1 a0 h
  unfold execRtspKeepalive
  try dsimp only
  repeat' first
    | with_reducible (first | assumption | apply keeps_rtspRequest | apply keeps_modRtsp | apply keepsO_next
                            | apply keeps_ite)
    | simp only [keeps_mk_iff]
    | split

theorem keeps_execRtspSessionLost : ∀ {s₀ a1} a0, Keeps s₀ a1 → KeepsO s₀ (execRtspSessionLost a0 a1) := by
  intro s₀ a1 a0 h
  unfold execRtspSessionLost
  repeat' first
    | with_reducible (first | assumption | apply keeps_rtspLost | apply keepsO_next)
    | split

theorem keeps_execRtspRetry : ∀ {s₀ a1} a0, Keeps s₀ a1 → KeepsO s₀ (execRtspRetry a0 a1) := by
  intro s₀ a1 a0 h
  unfold execRtspRetry
  repeat' first
    | with_reducible (first | assumption | apply keeps_rtspConnect | apply keeps_dcount | apply keepsO_next)
    | split

theorem keeps_execStreamSilence : ∀ {s₀ a1} a0, Keeps s₀ a1 → KeepsO s₀ (execStreamSilence a0 a1) := by
  intro s₀ a1 a0 h
  unfold execStreamSilence
  try dsimp only
  repeat' first
    | with_reducible (first | assumption | apply keeps_modDctx | apply keeps_rtspLost | apply keeps_setDerr
                            | apply keepsO_next | apply keeps_ite)
    | simp only [keeps_mk_iff]
    | split

theorem keeps_decAdmit : ∀ {s₀ a0}, Keeps s₀ a0 → Keeps s₀ (State.decAdmit a0) := by
  intro s₀ a0 h
  unfold State.decAdmit
  try dsimp only
  repeat' first
    | with_reducible (first | assumption | refine keeps_fst ?_ (by assumption) | apply keeps_setReg)
    | split

theorem keeps_decodeOpen : ∀ {s₀ a0} a1, Keeps s₀ a0 → Keeps s₀ (State.decodeOpen a0 a1) := by
  intro s₀ a0 a1 h
  unfold State.decodeOpen
  try dsimp only
  repeat' first
    | with_reducible (first | assumption | refine keeps_fst ?_ (by assumption) | apply keeps_setFld
                            | apply keeps_resetRegs | apply keeps_setReg | apply keeps_unitRead
                            | apply keeps_setDctx | apply keeps_decAdmit | apply keeps_rtspConnect
                            | apply keeps_setDstate | apply keeps_ite)
    | simp only [keeps_mk_iff]
    | split

theorem keeps_execDecodeOpen : ∀ {s₀ a2} a0 a1, Keeps s₀ a2 → KeepsO s₀ (execDecodeOpen a0 a1 a2) := by
  intro s₀ a2 a0 a1 h
  unfold execDecodeOpen
  repeat' first
    | with_reducible (first | assumption | apply keeps_guarded | apply keeps_decodeOpen | apply keepsO_next)

theorem keeps_decodeClose : ∀ {s₀ a0} a1, Keeps s₀ a0 → Keeps s₀ (State.decodeClose a0 a1) := by
  intro s₀ a0 a1 h
  unfold State.decodeClose
  try dsimp only
  repeat' first
    | with_reducible (first | assumption | apply keeps_vidStatus | apply keeps_modDctx | apply keeps_ite)
    | simp only [keeps_mk_iff]
    | with_reducible apply keeps_foldl
    | with_reducible apply keeps_foldlP
    | (intro _ _ _; try dsimp only)
    | (intro _ _; try dsimp only)
    | split

theorem keeps_execDecodeClose : ∀ {s₀ a2} a0 a1, Keeps s₀ a2 → KeepsO s₀ (execDecodeClose a0 a1 a2) := by
  intro s₀ a2 a0 a1 h
  unfold execDecodeClose
  repeat' first
    | with_reducible (first | assumption | apply keeps_guarded | apply keeps_decodeClose | apply keepsO_next)

theorem keeps_dropSignals : ∀ {s₀ a0} a1, Keeps s₀ a0 → Keeps s₀ (State.dropSignals a0 a1) := by
  intro s₀ a0 a1 h
  unfold State.dropSignals
  repeat' first
    | with_reducible (first | assumption)
    | simp only [keeps_mk_iff]

theorem keeps_decodeClosed : ∀ {s₀ a0} a1, Keeps s₀ a0 → Keeps s₀ (State.decodeClosed a0 a1) := by
  intro s₀ a0 a1 h
  unfold State.decodeClosed
  repeat' first
    | with_reducible (first | assumption | apply keeps_decAdmit | apply keeps_dropSignals | apply keeps_setDctx
                            | apply keeps_setDstate | apply keeps_ite)
    | split

theorem keeps_setEctx : ∀ {s₀ a0} a1 a2, Keeps s₀ a0 → Keeps s₀ (State.setEctx a0 a1 a2) := by
  intro s₀ a0 a1 a2 h
  unfold State.setEctx
  repeat' first
    | with_reducible (first | assumption)
    | simp only [keeps_mk_iff]

theorem keeps_feedEnc : ∀ {s₀ a0} a1 a2, Keeps s₀ a0 → Keeps s₀ (State.feedEnc a0 a1 a2) := by
  intro s₀ a0 a1 a2 h
  induction a2 generalizing a0 a1
  · unfold State.feedEnc
    try dsimp only
    repeat' first
      | with_reducible (first | assumption | refine keeps_fst ?_ (by assumption) | apply keeps_setEctx
                              | apply keeps_setDctx | apply keeps_bump | apply keeps_ite)
      | simp only [keeps_mk_iff]
      | with_reducible apply keeps_foldl
      | with_reducible apply keeps_foldlP
      | (intro _ _ _; try dsimp only)
      | (intro _ _; try dsimp only)
      | split
  · rename_i ih
    unfold State.feedEnc
    try dsimp only
    repeat' first
      | with_reducible (first | assumption | apply ih | refine keeps_fst ?_ (by assumption) | apply keeps_setEctx
                              | apply keeps_setDctx | apply keeps_bump | apply keeps_ite)
      | simp only [keeps_mk_iff]
      | with_reducible apply keeps_foldl
      | with_reducible apply keeps_foldlP
      | (intro _ _ _; try dsimp only)
      | (intro _ _; try dsimp only)
      | split

theorem keeps_chooseWindows : ∀ {s₀ a0} a1 a2, Keeps s₀ a0 → Keeps s₀ (State.chooseWindows a0 a1 a2) := by
  intro s₀ a0 a1 a2 h
  induction a2 generalizing a0 a1
  · unfold State.chooseWindows
    try dsimp only
    repeat' first
      | with_reducible (first | assumption | refine keeps_fst ?_ (by assumption) | apply keeps_setDctx
                              | apply keeps_bumpBy | apply keeps_ite)
      | simp only [keeps_mk_iff]
      | split
  · rename_i ih
    unfold State.chooseWindows
    try dsimp only
    repeat' first
      | with_reducible (first | assumption | apply ih | refine keeps_fst ?_ (by assumption) | apply keeps_setDctx
                              | apply keeps_bumpBy | apply keeps_ite)
      | simp only [keeps_mk_iff]
      | split

theorem keeps_picsMoved : ∀ {s₀ a0} a1, Keeps s₀ a0 → Keeps s₀ (State.picsMoved a0 a1) := by
  intro s₀ a0 a1 h
  unfold State.picsMoved
  try dsimp only
  repeat' first
    | with_reducible (first | assumption | apply keeps_feedEnc | apply keeps_chooseWindows)

theorem keeps_settle : ∀ {s₀ a0} a1, Keeps s₀ a0 → Keeps s₀ (State.settle a0 a1) := by
  intro s₀ a0 a1 h
  unfold State.settle
  repeat' first
    | with_reducible (first | assumption | apply keeps_picsMoved | apply keeps_closeDue | apply keeps_ite)
    | split

theorem keeps_showPics : ∀ {s₀ a0} a1 a2 a3, Keeps s₀ a0 → Keeps s₀ (State.showPics a0 a1 a2 a3) := by
  intro s₀ a0 a1 a2 a3 h
  unfold State.showPics
  try dsimp only
  repeat' first
    | with_reducible (first | assumption | refine keeps_fst ?_ (by assumption) | apply keeps_setDctx | apply keeps_ite)
    | simp only [keeps_mk_iff]
    | with_reducible apply keeps_foldl
    | with_reducible apply keeps_foldlP
    | (intro _ _ _; try dsimp only)
    | (intro _ _; try dsimp only)
    | split

theorem keeps_headersParsed : ∀ {s₀ a0} a1, Keeps s₀ a0 → Keeps s₀ (State.headersParsed a0 a1) := by
  intro s₀ a0 a1 h
  unfold State.headersParsed
  try dsimp only
  repeat' first
    | with_reducible (first | assumption | refine keeps_fst ?_ (by assumption) | apply keeps_setDctx
                            | apply keeps_picsMoved | apply keeps_dropPic | apply keeps_modDctx
                            | apply keeps_setDerr | apply keeps_setDstate | apply keeps_overDrop
                            | apply keeps_showPics | apply keeps_ite)
    | simp only [keeps_mk_iff]
    | split

theorem keeps_execHeadersParsed : ∀ {s₀ a1} a0, Keeps s₀ a1 → KeepsO s₀ (execHeadersParsed a0 a1) := by
  intro s₀ a1 a0 h
  unfold execHeadersParsed
  repeat' first
    | with_reducible (first | assumption | apply keeps_headersParsed | apply keepsO_next)
    | split

theorem keeps_decoderStart : ∀ {s₀ a0}, Keeps s₀ a0 → Keeps s₀ (State.decoderStart a0) := by
  intro s₀ a0 h
  unfold State.decoderStart
  try dsimp only
  repeat' first
    | with_reducible (first | assumption | refine keeps_fst ?_ (by assumption) | apply keeps_modDctx
                            | apply keeps_vidStatus | apply keeps_ite)
    | simp only [keeps_mk_iff]
    | split

theorem keeps_execDecoderStart : ∀ {s₀ a0}, Keeps s₀ a0 → KeepsO s₀ (execDecoderStart a0) := by
  intro s₀ a0 h
  unfold execDecoderStart
  repeat' first
    | with_reducible (first | assumption | apply keeps_decoderStart | apply keepsO_next)
    | split

theorem keeps_dropBad : ∀ {s₀ a0} a1 a2, Keeps s₀ a0 → Keeps s₀ (State.dropBad a0 a1 a2) := by
  intro s₀ a0 a1 a2 h
  unfold State.dropBad
  try dsimp only
  repeat' first
    | with_reducible (first | assumption | refine keeps_fst ?_ (by assumption) | apply keeps_dropPic
                            | apply keeps_modDctx | apply keeps_ite)
    | simp only [keeps_mk_iff]
    | with_reducible apply keeps_foldl
    | with_reducible apply keeps_foldlP
    | (intro _ _ _; try dsimp only)
    | (intro _ _; try dsimp only)
    | split

theorem keeps_decodeDone : ∀ {s₀ a0} a1, Keeps s₀ a0 → Keeps s₀ (State.decodeDone a0 a1) := by
  intro s₀ a0 a1 h
  unfold State.decodeDone
  try dsimp only
  repeat' first
    | with_reducible (first | assumption | refine keeps_fst ?_ (by assumption) | apply keeps_vidStatus
                            | apply keeps_undefine | apply keeps_picsMoved | apply keeps_dropBad
                            | apply keeps_dcount | apply keeps_setDerr | apply keeps_modDctx | apply keeps_ite)
    | simp only [keeps_mk_iff]
    | split

theorem keeps_execDecodeDone : ∀ {s₀ a1} a0, Keeps s₀ a1 → KeepsO s₀ (execDecodeDone a0 a1) := by
  intro s₀ a1 a0 h
  unfold execDecodeDone
  repeat' first
    | with_reducible (first | assumption | apply keeps_decodeDone | apply keepsO_next)

theorem keeps_preTake : ∀ {s₀ a0}, Keeps s₀ a0 → Keeps s₀ (State.preTake a0) := by
  intro s₀ a0 h
  unfold State.preTake
  try dsimp only
  repeat' first
    | with_reducible (first | assumption | refine keeps_fst ?_ (by assumption) | apply keeps_modDctx
                            | apply keeps_inputLost | apply keeps_dcount | apply keeps_vidStatus | apply keeps_ite)
    | simp only [keeps_mk_iff]
    | split

theorem keeps_preStart : ∀ {s₀ a0}, Keeps s₀ a0 → Keeps s₀ (State.preStart a0) := by
  intro s₀ a0 h
  unfold State.preStart
  repeat' first
    | with_reducible (first | assumption | apply keeps_preTake | apply keeps_settle)
    | with_reducible apply keeps_foldl
    | with_reducible apply keeps_foldlP
    | (intro _ _ _; try dsimp only)
    | (intro _ _; try dsimp only)

theorem keeps_execPreprocessStart : ∀ {s₀ a0}, Keeps s₀ a0 → KeepsO s₀ (execPreprocessStart a0) := by
  intro s₀ a0 h
  unfold execPreprocessStart
  repeat' first
    | with_reducible (first | assumption | apply keeps_preStart | apply keepsO_next)
    | split

theorem keeps_viewWritten : ∀ {s₀ a0} a1, Keeps s₀ a0 → Keeps s₀ (State.viewWritten a0 a1) := by
  intro s₀ a0 a1 h
  unfold State.viewWritten
  try dsimp only
  repeat' first
    | with_reducible (first | assumption | refine keeps_fst ?_ (by assumption) | apply keeps_writeView
                            | apply keeps_bumpBy)
    | simp only [keeps_mk_iff]
    | split

theorem keeps_execViewWritten : ∀ {s₀ a1} a0, Keeps s₀ a1 → KeepsO s₀ (execViewWritten a0 a1) := by
  intro s₀ a1 a0 h
  unfold execViewWritten
  repeat' first
    | with_reducible (first | assumption | apply keeps_viewWritten | apply keepsO_next)

theorem keeps_recordWrite : ∀ {s₀ a0} a1, Keeps s₀ a0 → Keeps s₀ (State.recordWrite a0 a1) := by
  intro s₀ a0 a1 h
  unfold State.recordWrite
  try dsimp only
  repeat' first
    | with_reducible (first | assumption | refine keeps_fst ?_ (by assumption) | apply keeps_memWrite
                            | apply keeps_signal | apply keeps_dcount | apply keeps_modDctx | apply keeps_vidStatus
                            | apply keeps_ite)
    | simp only [keeps_mk_iff]
    | split

theorem keeps_execPictureRecordWrite : ∀ {s₀ a1} a0, Keeps s₀ a1 → KeepsO s₀ (execPictureRecordWrite a0 a1) := by
  intro s₀ a1 a0 h
  unfold execPictureRecordWrite
  repeat' first
    | with_reducible (first | assumption | apply keeps_recordWrite | apply keepsO_next)

theorem keeps_execEventIngest : ∀ {s₀ a1} a0, Keeps s₀ a1 → KeepsO s₀ (execEventIngest a0 a1) := by
  intro s₀ a1 a0 h
  unfold execEventIngest
  try dsimp only
  repeat' first
    | with_reducible (first | assumption | refine keeps_fst ?_ (by assumption) | apply keeps_thyTake
                            | apply keeps_modDctx | apply keeps_chooseWindows | apply keeps_thyFired
                            | apply keepsO_next)
    | simp only [keeps_mk_iff]
    | with_reducible apply keeps_foldl
    | with_reducible apply keeps_foldlP
    | (intro _ _ _; try dsimp only)
    | (intro _ _; try dsimp only)
    | split

theorem keeps_execFieldPortLinkUp : ∀ {s₀ a2} a0 a1, Keeps s₀ a2 → KeepsO s₀ (execFieldPortLinkUp a0 a1 a2) := by
  intro s₀ a2 a0 a1 h
  unfold execFieldPortLinkUp
  try dsimp only
  repeat' first
    | with_reducible (first | assumption | apply keeps_setRbit | apply keeps_setFld | apply keepsO_next
                            | apply keeps_ite)
    | split

theorem keeps_linkLost : ∀ {s₀ a0} a1, Keeps s₀ a0 → Keeps s₀ (State.linkLost a0 a1) := by
  intro s₀ a0 a1 h
  unfold State.linkLost
  try dsimp only
  repeat' first
    | with_reducible (first | assumption | apply keeps_setRbit | apply keeps_setFld | apply keeps_thyHoldover
                            | apply keeps_ite)
    | simp only [keeps_mk_iff]
    | split

theorem keeps_execFieldPortLinkDown : ∀ {s₀ a1} a0, Keeps s₀ a1 → KeepsO s₀ (execFieldPortLinkDown a0 a1) := by
  intro s₀ a1 a0 h
  unfold execFieldPortLinkDown
  repeat' first
    | with_reducible (first | assumption | apply keeps_linkLost | apply keepsO_next)

theorem keeps_execArpNeighbourRequest : ∀ {s₀ a1} a0, Keeps s₀ a1 → KeepsO s₀ (execArpNeighbourRequest a0 a1) := by
  intro s₀ a1 a0 h
  unfold execArpNeighbourRequest
  try dsimp only
  repeat' first
    | with_reducible (first | assumption | refine keeps_fst ?_ (by assumption) | apply keeps_fp0Send
                            | apply keeps_joinReport | apply keepsO_next | apply keeps_ite)
    | simp only [keeps_mk_iff]
    | split

end Sys2Proof.Machine
end

