-- ==== Sys2Proof/Laws/KeepsEncode.lean ====
section
/-!
SUPPORT. What the operations of `Machine/Encode.lean` keep (see `Laws/Keeps.lean`): one lemma per operation.
-/
namespace Sys2Proof.Machine

theorem keeps_encAdmit : ∀ {s₀ a0}, Keeps s₀ a0 → Keeps s₀ (State.encAdmit a0) := by
  intro s₀ a0 h
  unfold State.encAdmit
  repeat' first
    | with_reducible (first | assumption | apply keeps_setReg)

theorem keeps_encodeOpen : ∀ {s₀ a0} a1, Keeps s₀ a0 → Keeps s₀ (State.encodeOpen a0 a1) := by
  intro s₀ a0 a1 h
  unfold State.encodeOpen
  try dsimp only
  repeat' first
    | with_reducible (first | assumption | refine keeps_fst ?_ (by assumption) | apply keeps_setFld
                            | apply keeps_resetRegs | apply keeps_free | apply keeps_setEctx | apply keeps_setReg
                            | apply keeps_encAdmit | apply keeps_notePlaced | apply keeps_ite)
    | simp only [keeps_mk_iff]
    | split

theorem keeps_execEncodeOpen : ∀ {s₀ a2} a0 a1, Keeps s₀ a2 → KeepsO s₀ (execEncodeOpen a0 a1 a2) := by
  intro s₀ a2 a0 a1 h
  unfold execEncodeOpen
  repeat' first
    | with_reducible (first | assumption | apply keeps_guarded | apply keeps_encodeOpen | apply keepsO_next)

theorem keeps_encodeClose : ∀ {s₀ a0} a1, Keeps s₀ a0 → Keeps s₀ (State.encodeClose a0 a1) := by
  intro s₀ a0 a1 h
  unfold State.encodeClose
  try dsimp only
  repeat' first
    | with_reducible (first | assumption | apply keeps_vidStatus | apply keeps_setEctx | apply keeps_ite)
    | simp only [keeps_mk_iff]
    | with_reducible apply keeps_foldl
    | with_reducible apply keeps_foldlP
    | (intro _ _ _; try dsimp only)
    | (intro _ _; try dsimp only)
    | split

theorem keeps_execEncodeClose : ∀ {s₀ a2} a0 a1, Keeps s₀ a2 → KeepsO s₀ (execEncodeClose a0 a1 a2) := by
  intro s₀ a2 a0 a1 h
  unfold execEncodeClose
  repeat' first
    | with_reducible (first | assumption | apply keeps_guarded | apply keeps_encodeClose | apply keepsO_next)

theorem keeps_encodeClosed : ∀ {s₀ a0} a1, Keeps s₀ a0 → Keeps s₀ (State.encodeClosed a0 a1) := by
  intro s₀ a0 a1 h
  unfold State.encodeClosed
  repeat' first
    | with_reducible (first | assumption | apply keeps_encAdmit | apply keeps_dropSignals | apply keeps_setEctx
                            | apply keeps_setFld | apply keeps_ite)
    | split

theorem keeps_execContextClosed : ∀ {s₀ a2} a0 a1, Keeps s₀ a2 → KeepsO s₀ (execContextClosed a0 a1 a2) := by
  intro s₀ a2 a0 a1 h
  unfold execContextClosed
  try dsimp only
  repeat' first
    | with_reducible (first | assumption | apply keeps_vidStatus | apply keeps_encodeClosed
                            | apply keeps_decodeClosed | apply keepsO_next | apply keeps_ite)
    | split

theorem keeps_readSource : ∀ {s₀ a0} a1 a2 a3, Keeps s₀ a0 → Keeps s₀ (State.readSource a0 a1 a2 a3).1 := by
  intro s₀ a0 a1 a2 a3 h
  unfold State.readSource
  try dsimp only
  repeat' first
    | with_reducible (first | assumption | refine keeps_fst ?_ (by assumption) | apply keeps_memRead
                            | apply keeps_ite | apply keeps_iteP)
    | simp only [keeps_mk_iff]
    | with_reducible apply keeps_foldl
    | with_reducible apply keeps_foldlP
    | (intro _ _ _; try dsimp only)
    | (intro _ _; try dsimp only)
    | split

theorem keeps_encodeStart : ∀ {s₀ a0}, Keeps s₀ a0 → Keeps s₀ (State.encodeStart a0) := by
  intro s₀ a0 h
  unfold State.encodeStart
  try dsimp only
  repeat' first
    | with_reducible (first | assumption | refine keeps_fst ?_ (by assumption) | apply keeps_setEctx
                            | apply keeps_vidStatus | apply keeps_readSource | apply keeps_signal
                            | apply keeps_bump | apply keeps_ite)
    | simp only [keeps_mk_iff]
    | split

theorem keeps_execEncodeStart : ∀ {s₀ a0}, Keeps s₀ a0 → KeepsO s₀ (execEncodeStart a0) := by
  intro s₀ a0 h
  unfold execEncodeStart
  repeat' first
    | with_reducible (first | assumption | apply keeps_encodeStart | apply keepsO_next)
    | split

theorem keeps_ringWrite : ∀ {s₀ a0} a1 a2 a3 a4 a5, Keeps s₀ a0 → Keeps s₀ (State.ringWrite a0 a1 a2 a3 a4 a5) := by
  intro s₀ a0 a1 a2 a3 a4 a5 h
  unfold State.ringWrite
  try dsimp only
  repeat' first
    | with_reducible (first | assumption | apply keeps_memWrite | apply keeps_ite)
    | split

theorem keeps_extClose : ∀ {s₀ a0} a1, Keeps s₀ a0 → Keeps s₀ (State.extClose a0 a1) := by
  intro s₀ a0 a1 h
  unfold State.extClose
  try dsimp only
  repeat' first
    | with_reducible (first | assumption | apply keeps_nandWrite | apply keeps_bump | apply keeps_setEctx)
    | simp only [keeps_mk_iff]

theorem keeps_recorder : ∀ {s₀ a0} a1 a2 a3, Keeps s₀ a0 → Keeps s₀ (State.recorder a0 a1 a2 a3) := by
  intro s₀ a0 a1 a2 a3 h
  unfold State.recorder
  try dsimp only
  repeat' first
    | with_reducible (first | assumption | apply keeps_extClose | apply keeps_nandWrite | apply keeps_setEctx
                            | apply keeps_ite)
    | simp only [keeps_mk_iff]
    | split

theorem keeps_rtpSend : ∀ {s₀ a0} a1 a2 a3, Keeps s₀ a0 → Keeps s₀ (State.rtpSend a0 a1 a2 a3) := by
  intro s₀ a0 a1 a2 a3 h
  induction a3 generalizing a0 a1 a2
  · unfold State.rtpSend
    try dsimp only
    repeat' first
      | with_reducible (first | assumption | apply keeps_setEctx | apply keeps_fp0Send)
      | simp only [keeps_mk_iff]
      | with_reducible apply keeps_foldl
      | with_reducible apply keeps_foldlP
      | (intro _ _ _; try dsimp only)
      | (intro _ _; try dsimp only)
      | split
  · rename_i ih
    unfold State.rtpSend
    try dsimp only
    repeat' first
      | with_reducible (first | assumption | apply ih | apply keeps_setEctx | apply keeps_fp0Send)
      | simp only [keeps_mk_iff]
      | with_reducible apply keeps_foldl
      | with_reducible apply keeps_foldlP
      | (intro _ _ _; try dsimp only)
      | (intro _ _; try dsimp only)
      | split

theorem keeps_encodeDone : ∀ {s₀ a0} a1, Keeps s₀ a0 → Keeps s₀ (State.encodeDone a0 a1) := by
  intro s₀ a0 a1 h
  unfold State.encodeDone
  try dsimp only
  repeat' first
    | with_reducible (first | assumption | refine keeps_fst ?_ (by assumption) | apply keeps_vidStatus
                            | apply keeps_setReg | apply keeps_bump64By | apply keeps_bump | apply keeps_bumpBy
                            | apply keeps_setEctx | apply keeps_ringWrite | apply keeps_recorder
                            | apply keeps_signal | apply keeps_rtpSend | apply keeps_ite)
    | simp only [keeps_mk_iff]
    | split

theorem keeps_execEncodeDone : ∀ {s₀ a1} a0, Keeps s₀ a1 → KeepsO s₀ (execEncodeDone a0 a1) := by
  intro s₀ a1 a0 h
  unfold execEncodeDone
  repeat' first
    | with_reducible (first | assumption | apply keeps_encodeDone | apply keepsO_next)

end Sys2Proof.Machine
end

