-- ==== Sys2Proof/Laws/KeepsSageOps.lean ====
section
/-!
SUPPORT. What the operations of `Machine/SageOps.lean` keep (see `Laws/Keeps.lean`): one lemma per operation.
-/
namespace Sys2Proof.Machine

theorem keeps_newKey : ∀ {s₀ a0}, Keeps s₀ a0 → Keeps s₀ (State.newKey a0).1 := by
  intro s₀ a0 h
  unfold State.newKey
  repeat' first
    | with_reducible (first | assumption | apply keeps_ite | apply keeps_iteP)
    | simp only [keeps_mk_iff]
    | split

theorem keeps_setMemKey : ∀ {s₀ a0} a1 a2 a3, Keeps s₀ a0 → Keeps s₀ (State.setMemKey a0 a1 a2 a3) := by
  intro s₀ a0 a1 a2 a3 h
  unfold State.setMemKey
  repeat' first
    | with_reducible (first | assumption)
    | simp only [keeps_mk_iff]

theorem keeps_createKeys : ∀ {s₀ a0} a1, Keeps s₀ a0 → Keeps s₀ (State.createKeys a0 a1) := by
  intro s₀ a0 a1 h
  unfold State.createKeys
  try dsimp only
  repeat' first
    | with_reducible (first | assumption | refine keeps_fst ?_ (by assumption) | apply keeps_newKey
                            | apply keeps_setMemKey | apply keeps_ite)
    | simp only [keeps_mk_iff]
    | split

theorem keeps_destroyKeys : ∀ {s₀ a0} a1, Keeps s₀ a0 → Keeps s₀ (State.destroyKeys a0 a1) := by
  intro s₀ a0 a1 h
  unfold State.destroyKeys
  try dsimp only
  repeat' first
    | with_reducible (first | assumption | apply keeps_setMemKey | apply keeps_setReg | apply keeps_ite)
    | simp only [keeps_mk_iff]
    | split

theorem keeps_leaseRaise : ∀ {s₀ a0} a1, Keeps s₀ a0 → Keeps s₀ (State.leaseRaise a0 a1) := by
  intro s₀ a0 a1 h
  unfold State.leaseRaise
  repeat' first
    | with_reducible (first | assumption | apply keeps_setReg64 | apply keeps_ite)
    | split

theorem keeps_leaseTick : ∀ {s₀ a0}, Keeps s₀ a0 → Keeps s₀ (State.leaseTick a0) := by
  intro s₀ a0 h
  unfold State.leaseTick
  try dsimp only
  repeat' first
    | with_reducible (first | assumption | apply keeps_bump64By | apply keeps_ite)
    | simp only [keeps_mk_iff]
    | split

theorem keeps_leaseStore : ∀ {s₀ a0}, Keeps s₀ a0 → Keeps s₀ (State.leaseStore a0) := by
  intro s₀ a0 h
  unfold State.leaseStore
  repeat' first
    | with_reducible (first | assumption)
    | simp only [keeps_mk_iff]

theorem keeps_leaseTai : ∀ {s₀ a0}, Keeps s₀ a0 → Keeps s₀ (State.leaseTai a0) := by
  intro s₀ a0 h
  unfold State.leaseTai
  repeat' first
    | with_reducible (first | assumption | apply keeps_leaseRaise | apply keeps_setRbit | apply keeps_ite)
    | split

theorem keeps_consentRegs : ∀ {s₀ a0}, Keeps s₀ a0 → Keeps s₀ (State.consentRegs a0) := by
  intro s₀ a0 h
  unfold State.consentRegs
  try dsimp only
  repeat' first
    | with_reducible (first | assumption | apply keeps_setFld)
    | with_reducible apply keeps_foldl
    | with_reducible apply keeps_foldlP
    | (intro _ _ _; try dsimp only)
    | (intro _ _; try dsimp only)

theorem keeps_debugResume : ∀ {s₀ a0} a1, Keeps s₀ a0 → Keeps s₀ (State.debugResume a0 a1) := by
  intro s₀ a0 a1 h
  unfold State.debugResume
  try dsimp only
  repeat' first
    | with_reducible (first | assumption | refine keeps_fst ?_ (by assumption) | apply keeps_setRbit
                            | apply keeps_setFld | apply keeps_ite)
    | simp only [keeps_mk_iff]
    | split

theorem keeps_endConsent : ∀ {s₀ a0} a1, Keeps s₀ a0 → Keeps s₀ (State.endConsent a0 a1) := by
  intro s₀ a0 a1 h
  unfold State.endConsent
  try dsimp only
  repeat' first
    | with_reducible (first | assumption | refine keeps_fst ?_ (by assumption) | apply keeps_debugResume
                            | apply keeps_consentRegs)
    | simp only [keeps_mk_iff]
    | with_reducible apply keeps_foldl
    | with_reducible apply keeps_foldlP
    | (intro _ _ _; try dsimp only)
    | (intro _ _; try dsimp only)
    | split

theorem keeps_endConsentsOf : ∀ {s₀ a0} a1, Keeps s₀ a0 → Keeps s₀ (State.endConsentsOf a0 a1) := by
  intro s₀ a0 a1 h
  unfold State.endConsentsOf
  repeat' first
    | with_reducible (first | assumption | apply keeps_endConsent)
    | with_reducible apply keeps_foldl
    | with_reducible apply keeps_foldlP
    | (intro _ _ _; try dsimp only)
    | (intro _ _; try dsimp only)

theorem keeps_freshNonce : ∀ {s₀ a0}, Keeps s₀ a0 → Keeps s₀ (State.freshNonce a0).1 := by
  intro s₀ a0 h
  unfold State.freshNonce
  try dsimp only
  repeat' first
    | with_reducible (first | assumption | refine keeps_fst ?_ (by assumption) | apply keeps_free | apply keeps_iteP)
    | simp only [keeps_mk_iff]
    | split

theorem keeps_setTdi : ∀ {s₀ a0} a1 a2, Keeps s₀ a0 → Keeps s₀ (State.setTdi a0 a1 a2) := by
  intro s₀ a0 a1 a2 h
  unfold State.setTdi
  repeat' first
    | with_reducible (first | assumption)
    | simp only [keeps_mk_iff]

theorem keeps_setIde : ∀ {s₀ a0} a1, Keeps s₀ a0 → Keeps s₀ (State.setIde a0 a1) := by
  intro s₀ a0 a1 h
  unfold State.setIde
  repeat' first
    | with_reducible (first | assumption)
    | simp only [keeps_mk_iff]

theorem keeps_unmarkWeights : ∀ {s₀ a0} a1, Keeps s₀ a0 → Keeps s₀ (State.unmarkWeights a0 a1) := by
  intro s₀ a0 a1 h
  unfold State.unmarkWeights
  try dsimp only
  repeat' first
    | with_reducible (first | assumption | refine keeps_fst ?_ (by assumption) | apply keeps_setRegion)
    | simp only [keeps_mk_iff]
    | with_reducible apply keeps_foldl
    | with_reducible apply keeps_foldlP
    | (intro _ _ _; try dsimp only)
    | (intro _ _; try dsimp only)
    | split

theorem keeps_dropWeights : ∀ {s₀ a0} a1, Keeps s₀ a0 → Keeps s₀ (State.dropWeights a0 a1) := by
  intro s₀ a0 a1 h
  unfold State.dropWeights
  try dsimp only
  repeat' first
    | with_reducible (first | assumption | apply keeps_unmarkWeights)
    | simp only [keeps_mk_iff]
    | with_reducible apply keeps_foldl
    | with_reducible apply keeps_foldlP
    | (intro _ _ _; try dsimp only)
    | (intro _ _; try dsimp only)

end Sys2Proof.Machine
end

