-- ==== Sys2Proof/Laws/KeepsImage.lean ====
section
/-!
SUPPORT. What the operations of `Machine/Image.lean` keep (see `Laws/Keeps.lean`): one lemma per operation.
-/
namespace Sys2Proof.Machine

theorem keeps_imgInstall : ∀ {s₀ a0} a1 a2 a3 a4, Keeps s₀ a0 → Keeps s₀ (State.imgInstall a0 a1 a2 a3 a4) := by
  intro s₀ a0 a1 a2 a3 a4 h
  unfold State.imgInstall
  try dsimp only
  repeat' first
    | with_reducible (first | assumption | refine keeps_fst ?_ (by assumption) | apply keeps_memWrite
                            | apply keeps_evtInstall | apply keeps_ite)
    | simp only [keeps_mk_iff]
    | with_reducible apply keeps_foldl
    | with_reducible apply keeps_foldlP
    | (intro _ _ _; try dsimp only)
    | (intro _ _; try dsimp only)
    | split

theorem keeps_imgLoad : ∀ {s₀ a0} a1 a2, Keeps s₀ a0 → Keeps s₀ (State.imgLoad a0 a1 a2).1 := by
  intro s₀ a0 a1 a2 h
  unfold State.imgLoad
  try dsimp only
  repeat' first
    | with_reducible (first | assumption | refine keeps_fst ?_ (by assumption) | apply keeps_imgInstall
                            | apply keeps_iteP)
    | simp only [keeps_mk_iff]
    | split

theorem keeps_imgUnload : ∀ {s₀ a0} a1 a2, Keeps s₀ a0 → Keeps s₀ (State.imgUnload a0 a1 a2) := by
  intro s₀ a0 a1 a2 h
  unfold State.imgUnload
  repeat' first
    | with_reducible (first | assumption | apply keeps_evtRemove)
    | simp only [keeps_mk_iff]

theorem keeps_imgDrop : ∀ {s₀ a0} a1, Keeps s₀ a0 → Keeps s₀ (State.imgDrop a0 a1) := by
  intro s₀ a0 a1 h
  unfold State.imgDrop
  repeat' first
    | with_reducible (first | assumption | apply keeps_imgUnload)
    | with_reducible apply keeps_foldl
    | with_reducible apply keeps_foldlP
    | (intro _ _ _; try dsimp only)
    | (intro _ _; try dsimp only)

end Sys2Proof.Machine
end

