-- ==== Sys2Proof/Laws/KeepsTenancy.lean ====
section
/-!
SUPPORT. What the operations of `Machine/Tenancy.lean` keep (see `Laws/Keeps.lean`): one lemma per operation.
-/
namespace Sys2Proof.Machine

theorem keeps_takeRegions : ∀ {s₀ a0} a1 a2, Keeps s₀ a0 → Keeps s₀ (State.takeRegions a0 a1 a2) := by
  intro s₀ a0 a1 a2 h
  induction a2 generalizing a0 a1
  · unfold State.takeRegions
    try dsimp only
    repeat' first
      | with_reducible (first | assumption | refine keeps_fst ?_ (by assumption) | apply keeps_setTenant
                              | apply keeps_free | apply keeps_setRegion | apply keeps_ite)
      | simp only [keeps_mk_iff]
      | split
  · rename_i ih
    unfold State.takeRegions
    try dsimp only
    repeat' first
      | with_reducible (first | assumption | apply ih | refine keeps_fst ?_ (by assumption) | apply keeps_setTenant
                              | apply keeps_free | apply keeps_setRegion | apply keeps_ite)
      | simp only [keeps_mk_iff]
      | split

theorem keeps_activate : ∀ {s₀ a0} a1 a2, Keeps s₀ a0 → Keeps s₀ (State.activate a0 a1 a2) := by
  intro s₀ a0 a1 a2 h
  unfold State.activate
  try dsimp only
  repeat' first
    | with_reducible (first | assumption | apply keeps_setFld | apply keeps_setTenant | apply keeps_createKeys
                            | apply keeps_takeRegions | apply keeps_ite)
    | simp only [keeps_mk_iff]
    | split

theorem keeps_serveOpening : ∀ {s₀ a0}, Keeps s₀ a0 → Keeps s₀ (State.serveOpening a0) := by
  intro s₀ a0 h
  unfold State.serveOpening
  try dsimp only
  repeat' first
    | with_reducible (first | assumption | apply keeps_takeRegions)
    | with_reducible apply keeps_foldl
    | with_reducible apply keeps_foldlP
    | (intro _ _ _; try dsimp only)
    | (intro _ _; try dsimp only)

theorem keeps_execTenantActivate : ∀ {s₀ a2} a0 a1, Keeps s₀ a2 → KeepsO s₀ (execTenantActivate a0 a1 a2) := by
  intro s₀ a2 a0 a1 h
  unfold execTenantActivate
  repeat' first
    | with_reducible (first | assumption | apply keeps_guarded | apply keeps_activate | apply keepsO_next)

theorem keeps_execRegionZeroed : ∀ {s₀ a1} a0, Keeps s₀ a1 → KeepsO s₀ (execRegionZeroed a0 a1) := by
  intro s₀ a1 a0 h
  unfold execRegionZeroed
  try dsimp only
  repeat' first
    | with_reducible (first | assumption | apply keeps_serveOpening | apply keeps_setRegion | apply keeps_zeroRange
                            | apply keepsO_next | apply keeps_ite)
    | split

theorem keeps_dropJobs : ∀ {s₀ a0} a1, Keeps s₀ a0 → Keeps s₀ (State.dropJobs a0 a1) := by
  intro s₀ a0 a1 h
  unfold State.dropJobs
  repeat' first
    | with_reducible (first | assumption)
    | simp only [keeps_mk_iff]

theorem keeps_abortTenant : ∀ {s₀ a0} a1, Keeps s₀ a0 → Keeps s₀ (State.abortTenant a0 a1) := by
  intro s₀ a0 a1 h
  unfold State.abortTenant
  repeat' first
    | with_reducible (first | assumption | apply keeps_abortDone | apply keeps_flushQueue | apply keeps_abortSlot)
    | simp only [keeps_mk_iff]
    | with_reducible apply keeps_foldl
    | with_reducible apply keeps_foldlP
    | (intro _ _ _; try dsimp only)
    | (intro _ _; try dsimp only)

theorem keeps_closeStreams : ∀ {s₀ a0} a1, Keeps s₀ a0 → Keeps s₀ (State.closeStreams a0 a1) := by
  intro s₀ a0 a1 h
  unfold State.closeStreams
  try dsimp only
  repeat' first
    | with_reducible (first | assumption | apply keeps_decodeClosed | apply keeps_decodeClose
                            | apply keeps_encodeClosed | apply keeps_encodeClose | apply keeps_vidStatus)
    | with_reducible apply keeps_foldl
    | with_reducible apply keeps_foldlP
    | (intro _ _ _; try dsimp only)
    | (intro _ _; try dsimp only)

theorem keeps_clearFunction : ∀ {s₀ a0} a1, Keeps s₀ a0 → Keeps s₀ (State.clearFunction a0 a1) := by
  intro s₀ a0 a1 h
  unfold State.clearFunction
  try dsimp only
  repeat' first
    | with_reducible (first | assumption | refine keeps_fst ?_ (by assumption) | apply keeps_resetRegs
                            | apply keeps_setReg)
    | simp only [keeps_mk_iff]
    | split

theorem keeps_resetCounters {s₀ s : State} (a b : Nat) (h : Keeps s₀ s) : Keeps s₀ (s.resetCounters a b) :=
  keeps_mkRegs h (regsWf_filter _)

theorem keeps_teardownStop : ∀ {s₀ a0} a1, Keeps s₀ a0 → Keeps s₀ (State.teardownStop a0 a1) := by
  intro s₀ a0 a1 h
  unfold State.teardownStop
  try dsimp only
  repeat' first
    | with_reducible (first | assumption | apply keeps_dropJobs | apply keeps_abortTenant
                            | apply keeps_barCtrlWrite | apply keeps_serveDrop | apply keeps_forceFlows
                            | apply keeps_closeStreams | apply keeps_ite)
    | simp only [keeps_mk_iff]
    | with_reducible apply keeps_foldl
    | with_reducible apply keeps_foldlP
    | (intro _ _ _; try dsimp only)
    | (intro _ _; try dsimp only)
    | split

theorem keeps_teardownClear : ∀ {s₀ a0} a1, Keeps s₀ a0 → Keeps s₀ (State.teardownClear a0 a1) := by
  intro s₀ a0 a1 h
  unfold State.teardownClear
  try dsimp only
  repeat' first
    | with_reducible (first | assumption | apply keeps_scrubAc | apply keeps_scrubSlot | apply keeps_zeroRange
                            | apply keeps_dropWeights | apply keeps_imgDrop | apply keeps_stopLanes
                            | apply keeps_kvpStatus | apply keeps_resetCounters | apply keeps_ite)
    | simp only [keeps_mk_iff]
    | simp only [keeps_mem_iff]
    | with_reducible apply keeps_foldl
    | with_reducible apply keeps_foldlP
    | (intro _ _ _; try dsimp only)
    | (intro _ _; try dsimp only)
    | split

theorem keeps_teardown : ∀ {s₀ a0} a1, Keeps s₀ a0 → Keeps s₀ (State.teardown a0 a1) := by
  intro s₀ a0 a1 h
  unfold State.teardown
  try dsimp only
  repeat' first
    | with_reducible (first | assumption | apply keeps_endConsentsOf | apply keeps_setTenant
                            | apply keeps_clearFunction | apply keeps_teardownStop | apply keeps_destroyKeys
                            | apply keeps_teardownClear | apply keeps_ite)
    | simp only [keeps_mk_iff]
    | split

theorem keeps_execTenantTeardown : ∀ {s₀ a2} a0 a1, Keeps s₀ a2 → KeepsO s₀ (execTenantTeardown a0 a1 a2) := by
  intro s₀ a2 a0 a1 h
  unfold execTenantTeardown
  repeat' first
    | with_reducible (first | assumption | apply keeps_guarded | apply keeps_setFld | apply keeps_teardown
                            | apply keepsO_next)
    | simp only [keeps_mk_iff]
    | split

theorem keeps_execScrubEnd : ∀ {s₀ a2} a0 a1, Keeps s₀ a2 → KeepsO s₀ (execScrubEnd a0 a1 a2) := by
  intro s₀ a2 a0 a1 h
  unfold execScrubEnd
  try dsimp only
  repeat' first
    | with_reducible (first | assumption | apply keeps_presentHub | apply keeps_setTenant | apply keeps_fnAttn
                            | apply keeps_setTdi | apply keeps_bump | apply keeps_activate | apply keepsO_next
                            | apply keeps_ite)
    | simp only [keeps_mk_iff]
    | split

theorem keeps_teardownPort : ∀ {s₀ a0} a1 a2, Keeps s₀ a0 → Keeps s₀ (State.teardownPort a0 a1 a2) := by
  intro s₀ a0 a1 a2 h
  unfold State.teardownPort
  repeat' first
    | with_reducible (first | assumption | apply keeps_teardown | apply keeps_ite)
    | with_reducible apply keeps_foldl
    | with_reducible apply keeps_foldlP
    | (intro _ _ _; try dsimp only)
    | (intro _ _; try dsimp only)
    | split

theorem keeps_flr : ∀ {s₀ a0} a1, Keeps s₀ a0 → Keeps s₀ (State.flr a0 a1) := by
  intro s₀ a0 a1 h
  unfold State.flr
  try dsimp only
  repeat' first
    | with_reducible (first | assumption | apply keeps_bump | apply keeps_teardown | apply keeps_clearFunction
                            | apply keeps_dropJobs | apply keeps_abortTenant | apply keeps_acResetDone
                            | apply keeps_acReset | apply keeps_serveDrop | apply keeps_closeStreams | apply keeps_ite)
    | with_reducible apply keeps_foldl
    | with_reducible apply keeps_foldlP
    | (intro _ _ _; try dsimp only)
    | (intro _ _; try dsimp only)
    | split

theorem keeps_execFlr : ∀ {s₀ a1} a0, Keeps s₀ a1 → KeepsO s₀ (execFlr a0 a1) := by
  intro s₀ a1 a0 h
  unfold execFlr
  try dsimp only
  repeat' first
    | with_reducible (first | assumption | apply keeps_flr | apply keepsO_next | apply keeps_ite)
    | split

end Sys2Proof.Machine
end

