-- ==== Sys2Proof/Laws/KeepsHost.lean ====
section
/-!
SUPPORT. What the operations of `Machine/Host.lean` keep (see `Laws/Keeps.lean`): one lemma per operation.
-/
namespace Sys2Proof.Machine

theorem keeps_execPcieLinkUp : ∀ {s₀ a4} a0 a1 a2 a3, Keeps s₀ a4 → KeepsO s₀ (execPcieLinkUp a0 a1 a2 a3 a4) := by
  intro s₀ a4 a0 a1 a2 a3 h
  unfold execPcieLinkUp
  try dsimp only
  repeat' first
    | with_reducible (first | assumption | apply keeps_setFld | apply keeps_setRbit | apply keeps_rbUpdate
                            | apply keeps_setPort | apply keepsO_next | apply keeps_ite)
    | simp only [keeps_mk_iff]
    | split

theorem keeps_linkOut : ∀ {s₀ a0} a1, Keeps s₀ a0 → Keeps s₀ (State.linkOut a0 a1) := by
  intro s₀ a0 a1 h
  unfold State.linkOut
  try dsimp only
  repeat' first
    | with_reducible (first | assumption | apply keeps_rbUpdate | apply keeps_setFld)

theorem keeps_execPcieLinkDown : ∀ {s₀ a1} a0, Keeps s₀ a1 → KeepsO s₀ (execPcieLinkDown a0 a1) := by
  intro s₀ a1 a0 h
  unfold execPcieLinkDown
  repeat' first
    | with_reducible (first | assumption | apply keeps_linkOut | apply keeps_setPort | apply keeps_bump
                            | apply keepsO_next | apply keeps_ite)
    | simp only [keeps_mk_iff]
    | split

theorem keeps_mgmtReset : ∀ {s₀ a0} a1, Keeps s₀ a0 → Keeps s₀ (State.mgmtReset a0 a1) := by
  intro s₀ a0 a1 h
  unfold State.mgmtReset
  repeat' first
    | with_reducible (first | assumption)
    | simp only [keeps_mk_iff]

theorem keeps_portReset : ∀ {s₀ a0} a1, Keeps s₀ a0 → Keeps s₀ (State.portReset a0 a1) := by
  intro s₀ a0 a1 h
  unfold State.portReset
  try dsimp only
  repeat' first
    | with_reducible (first | assumption | apply keeps_bump | apply keeps_linkOut | apply keeps_setPort
                            | apply keeps_mgmtReset | apply keeps_teardownPort)
    | simp only [keeps_mk_iff]

theorem keeps_execLinkDownTimeout : ∀ {s₀ a1} a0, Keeps s₀ a1 → KeepsO s₀ (execLinkDownTimeout a0 a1) := by
  intro s₀ a1 a0 h
  unfold execLinkDownTimeout
  repeat' first
    | with_reducible (first | assumption | refine keeps_fst ?_ (by assumption) | apply keeps_portReset
                            | apply keepsO_next)
    | simp only [keeps_mk_iff]
    | split

theorem keeps_execHotReset : ∀ {s₀ a1} a0, Keeps s₀ a1 → KeepsO s₀ (execHotReset a0 a1) := by
  intro s₀ a1 a0 h
  unfold execHotReset
  repeat' first
    | with_reducible (first | assumption | apply keeps_portReset | apply keepsO_next)
    | split

theorem keeps_setCfg : ∀ {s₀ a0} a1 a2 a3 a4, Keeps s₀ a0 → Keeps s₀ (State.setCfg a0 a1 a2 a3 a4) := by
  intro s₀ a0 a1 a2 a3 a4 h
  unfold State.setCfg
  repeat' first
    | with_reducible (first | assumption)
    | simp only [keeps_mk_iff]

theorem keeps_vfOff : ∀ {s₀ a0} a1, Keeps s₀ a0 → Keeps s₀ (State.vfOff a0 a1) := by
  intro s₀ a0 a1 h
  unfold State.vfOff
  repeat' first
    | with_reducible (first | assumption | apply keeps_teardownPort | apply keeps_setCfg)

theorem keeps_execVfEnableClear : ∀ {s₀ a1} a0, Keeps s₀ a1 → KeepsO s₀ (execVfEnableClear a0 a1) := by
  intro s₀ a1 a0 h
  unfold execVfEnableClear
  repeat' first
    | with_reducible (first | assumption | apply keeps_vfOff | apply keepsO_next)
    | split

theorem keeps_execManagementFlr : ∀ {s₀ a1} a0, Keeps s₀ a1 → KeepsO s₀ (execManagementFlr a0 a1) := by
  intro s₀ a1 a0 h
  unfold execManagementFlr
  repeat' first
    | with_reducible (first | assumption | apply keeps_vfOff | apply keeps_mgmtReset | apply keeps_bump
                            | apply keepsO_next)
    | split

theorem keeps_tdiError : ∀ {s₀ a0} a1, Keeps s₀ a0 → Keeps s₀ (State.tdiError a0 a1) := by
  intro s₀ a0 a1 h
  unfold State.tdiError
  repeat' first
    | with_reducible (first | assumption | apply keeps_teardown | apply keeps_setTdi | apply keeps_ite)
    | simp only [keeps_mk_iff]
    | split

theorem keeps_execConfigWrite : ∀ {s₀ a3} a0 a1 a2, Keeps s₀ a3 → KeepsO s₀ (execConfigWrite a0 a1 a2 a3) := by
  intro s₀ a3 a0 a1 a2 h
  unfold execConfigWrite
  try dsimp only
  repeat' first
    | with_reducible (first | assumption | refine keeps_fst ?_ (by assumption) | apply keeps_setCfg
                            | apply keeps_tdiError | apply keeps_vfOff | apply keepsO_next | apply keeps_ite)
    | simp only [keeps_mk_iff]
    | split

theorem keeps_devRead : ∀ {s₀ a0} a1 a2 a3 a4, Keeps s₀ a0 → Keeps s₀ (State.devRead a0 a1 a2 a3 a4).1 := by
  intro s₀ a0 a1 a2 a3 a4 h
  unfold State.devRead
  try dsimp only
  repeat' first
    | with_reducible (first | assumption | refine keeps_fst ?_ (by assumption) | apply keeps_memRead | apply keeps_iteP)
    | simp only [keeps_mk_iff]
    | with_reducible apply keeps_foldl
    | with_reducible apply keeps_foldlP
    | (intro _ _ _; try dsimp only)
    | (intro _ _; try dsimp only)
    | split

theorem keeps_devWrite : ∀ {s₀ a0} a1 a2 a3 a4, Keeps s₀ a0 → Keeps s₀ (State.devWrite a0 a1 a2 a3 a4).1 := by
  intro s₀ a0 a1 a2 a3 a4 h
  unfold State.devWrite
  repeat' first
    | with_reducible (first | assumption | refine keeps_fst ?_ (by assumption) | apply keeps_memWrite
                            | apply keeps_iteP)
    | simp only [keeps_mk_iff]
    | with_reducible apply keeps_foldl
    | with_reducible apply keeps_foldlP
    | (intro _ _ _; try dsimp only)
    | (intro _ _; try dsimp only)
    | split

theorem keeps_execBar2Access : ∀ {s₀ a4} a0 a1 a2 a3, Keeps s₀ a4 → KeepsO s₀ (execBar2Access a0 a1 a2 a3 a4) := by
  intro s₀ a4 a0 a1 a2 a3 h
  unfold execBar2Access
  try dsimp only
  repeat' first
    | with_reducible (first | assumption | refine keeps_fst ?_ (by assumption) | apply keeps_answer
                            | apply keeps_bump | apply keeps_devRead | apply keeps_devWrite | apply keepsO_next
                            | apply keeps_ite)
    | simp only [keeps_mk_iff]
    | split

theorem keeps_execSqDoorbell : ∀ {s₀ a3} a0 a1 a2, Keeps s₀ a3 → KeepsO s₀ (execSqDoorbell a0 a1 a2 a3) := by
  intro s₀ a3 a0 a1 a2 h
  unfold execSqDoorbell
  repeat' first
    | with_reducible (first | assumption | apply keeps_sqDoorbell | apply keepsO_next)

theorem keeps_execCqDoorbell : ∀ {s₀ a3} a0 a1 a2, Keeps s₀ a3 → KeepsO s₀ (execCqDoorbell a0 a1 a2 a3) := by
  intro s₀ a3 a0 a1 a2 h
  unfold execCqDoorbell
  repeat' first
    | with_reducible (first | assumption | apply keeps_cqDoorbell | apply keepsO_next)

theorem keeps_hostCmd : ∀ {s₀ a0} a1 a2 a3, Keeps s₀ a0 → (∀ t x, Keeps s₀ t → Keeps s₀ (a3 t x)) → Keeps s₀ (State.hostCmd a0 a1 a2 a3) := by
  intro s₀ a0 a1 a2 a3 h ha3
  unfold State.hostCmd
  repeat' first
    | with_reducible (first | assumption | refine keeps_fst ?_ (by assumption) | apply ha3 | apply keeps_fetch
                            | apply keeps_cmdResult | apply keeps_ite)
    | simp only [keeps_mk_iff]
    | split

theorem keeps_execHostNop : ∀ {s₀ a1} a0, Keeps s₀ a1 → KeepsO s₀ (execHostNop a0 a1) := by
  intro s₀ a1 a0 h
  unfold execHostNop
  repeat' first
    | with_reducible (first | assumption | refine keeps_fst ?_ (by assumption) | apply keeps_fetch
                            | apply keeps_completeCmd | apply keepsO_next)
    | simp only [keeps_mk_iff]
    | split

theorem keeps_execLoadImage : ∀ {s₀ a1} a0, Keeps s₀ a1 → KeepsO s₀ (execLoadImage a0 a1) := by
  intro s₀ a1 a0 h
  unfold execLoadImage
  try dsimp only
  repeat' first
    | with_reducible (first | assumption | refine keeps_fst ?_ (by assumption) | apply keeps_hostCmd
                            | apply keeps_cmdResult | apply keeps_memRead | apply keeps_imgLoad | apply keepsO_next
                            | apply keeps_ite)
    | simp only [keeps_mk_iff]
    | (intro _ _ _; try dsimp only)
    | (intro _ _; try dsimp only)
    | split

theorem keeps_unloadTry : ∀ {s₀ a0} a1, Keeps s₀ a0 → Keeps s₀ (State.unloadTry a0 a1) := by
  intro s₀ a0 a1 h
  unfold State.unloadTry
  try dsimp only
  repeat' first
    | with_reducible (first | assumption | apply keeps_cmdResult | apply keeps_imgUnload | apply keeps_ite)
    | split

theorem keeps_execUnloadImage : ∀ {s₀ a1} a0, Keeps s₀ a1 → KeepsO s₀ (execUnloadImage a0 a1) := by
  intro s₀ a1 a0 h
  unfold execUnloadImage
  repeat' first
    | with_reducible (first | assumption | apply keeps_hostCmd | apply keeps_cmdResult | apply keeps_unloadTry
                            | apply keepsO_next | apply keeps_ite)
    | (intro _ _ _; try dsimp only)
    | (intro _ _; try dsimp only)
    | split

theorem keeps_execJob : ∀ {s₀ a1} a0, Keeps s₀ a1 → KeepsO s₀ (execJob a0 a1) := by
  intro s₀ a1 a0 h
  unfold execJob
  try dsimp only
  repeat' first
    | with_reducible (first | assumption | refine keeps_fst ?_ (by assumption) | apply keeps_hostCmd
                            | apply keeps_cmdResult | apply keeps_setHostCmd | apply keeps_jobAccept
                            | apply keeps_jobReject | apply keepsO_next | apply keeps_ite)
    | simp only [keeps_mk_iff]
    | (intro _ _ _; try dsimp only)
    | (intro _ _; try dsimp only)
    | split

theorem keeps_execCopyIn : ∀ {s₀ a1} a0, Keeps s₀ a1 → KeepsO s₀ (execCopyIn a0 a1) := by
  intro s₀ a1 a0 h
  unfold execCopyIn
  try dsimp only
  repeat' first
    | with_reducible (first | assumption | refine keeps_fst ?_ (by assumption) | apply keeps_hostCmd
                            | apply keeps_cmdResult | apply keeps_devWrite | apply keepsO_next | apply keeps_ite)
    | (intro _ _ _; try dsimp only)
    | (intro _ _; try dsimp only)
    | split

theorem keeps_execCopyOut : ∀ {s₀ a1} a0, Keeps s₀ a1 → KeepsO s₀ (execCopyOut a0 a1) := by
  intro s₀ a1 a0 h
  unfold execCopyOut
  try dsimp only
  repeat' first
    | with_reducible (first | assumption | refine keeps_fst ?_ (by assumption) | apply keeps_hostCmd
                            | apply keeps_cmdResult | apply keeps_devRead | apply keeps_hostWrite
                            | apply keepsO_next | apply keeps_ite)
    | simp only [keeps_mk_iff]
    | (intro _ _ _; try dsimp only)
    | (intro _ _; try dsimp only)
    | split

theorem keeps_putDesc : ∀ {s₀ a0} a1 a2, Keeps s₀ a0 → Keeps s₀ (State.putDesc a0 a1 a2) := by
  intro s₀ a0 a1 a2 h
  unfold State.putDesc
  repeat' first
    | with_reducible (first | assumption | apply keeps_setRegWords)

theorem keeps_execStreamOpen : ∀ {s₀ a1} a0, Keeps s₀ a1 → KeepsO s₀ (execStreamOpen a0 a1) := by
  intro s₀ a1 a0 h
  unfold execStreamOpen
  try dsimp only
  repeat' first
    | with_reducible (first | assumption | refine keeps_fst ?_ (by assumption) | apply keeps_hostCmd
                            | apply keeps_cmdResult | apply keeps_memRead | apply keeps_setFld
                            | apply keeps_putDesc | apply keeps_decodeOpen | apply keeps_encodeOpen
                            | apply keepsO_next | apply keeps_ite)
    | simp only [keeps_mk_iff]
    | (intro _ _ _; try dsimp only)
    | (intro _ _; try dsimp only)
    | split

theorem keeps_execStreamClose : ∀ {s₀ a1} a0, Keeps s₀ a1 → KeepsO s₀ (execStreamClose a0 a1) := by
  intro s₀ a1 a0 h
  unfold execStreamClose
  try dsimp only
  repeat' first
    | with_reducible (first | assumption | apply keeps_hostCmd | apply keeps_cmdResult | apply keeps_decodeClose
                            | apply keeps_encodeClose | apply keepsO_next | apply keeps_ite)
    | (intro _ _ _; try dsimp only)
    | (intro _ _; try dsimp only)
    | split

theorem keeps_execPartitionInfo : ∀ {s₀ a1} a0, Keeps s₀ a1 → KeepsO s₀ (execPartitionInfo a0 a1) := by
  intro s₀ a1 a0 h
  unfold execPartitionInfo
  try dsimp only
  repeat' first
    | with_reducible (first | assumption | apply keeps_hostCmd | apply keeps_cmdResult | apply keeps_hostWrite
                            | apply keepsO_next | apply keeps_ite)
    | (intro _ _ _; try dsimp only)
    | (intro _ _; try dsimp only)
    | split

theorem keeps_cmdPoll : ∀ {s₀ a0} a1, Keeps s₀ a0 → Keeps s₀ (State.cmdPoll a0 a1) := by
  intro s₀ a0 a1 h
  unfold State.cmdPoll
  try dsimp only
  repeat' first
    | with_reducible (first | assumption | refine keeps_fst ?_ (by assumption) | apply keeps_unloadTry
                            | apply keeps_memWrite | apply keeps_cmdResult | apply keeps_ite)
    | simp only [keeps_mk_iff]
    | split

theorem keeps_execHostCommandComplete : ∀ {s₀ a2} a0 a1, Keeps s₀ a2 → KeepsO s₀ (execHostCommandComplete a0 a1 a2) := by
  intro s₀ a2 a0 a1 h
  unfold execHostCommandComplete
  try dsimp only
  repeat' first
    | with_reducible (first | assumption | refine keeps_fst ?_ (by assumption) | apply keeps_cmdPoll
                            | apply keeps_completeCmd | apply keepsO_next | apply keeps_ite)
    | simp only [keeps_mk_iff]
    | split

theorem keeps_execHeldCompletionPost : ∀ {s₀ a1} a0, Keeps s₀ a1 → KeepsO s₀ (execHeldCompletionPost a0 a1) := by
  intro s₀ a1 a0 h
  unfold execHeldCompletionPost
  repeat' first
    | with_reducible (first | assumption | apply keeps_heldPost | apply keepsO_next)

end Sys2Proof.Machine
end

