-- ==== Sys2Proof/Laws/KeepsWeights.lean ====
section
/-!
SUPPORT. What the operations of `Machine/Weights.lean` keep (see `Laws/Keeps.lean`): one lemma per operation.
-/
namespace Sys2Proof.Machine

theorem keeps_pkgRead : ∀ {s₀ a0} a1 a2 a3 a4 a5 a6, Keeps s₀ a0 → Keeps s₀ (State.pkgRead a0 a1 a2 a3 a4 a5 a6).1 := by
  intro s₀ a0 a1 a2 a3 a4 a5 a6 h
  unfold State.pkgRead
  try dsimp only
  repeat' first
    | with_reducible (first | assumption | refine keeps_fst ?_ (by assumption) | apply keeps_devRead
                            | apply keeps_nandRead | apply keeps_ite | apply keeps_iteP)
    | split

theorem keeps_wFailed : ∀ {s₀ a0}, Keeps s₀ a0 → Keeps s₀ (State.wFailed a0) := by
  intro s₀ a0 h
  unfold State.wFailed
  repeat' first
    | with_reducible (first | assumption | apply keeps_bump)

theorem keeps_wStart : ∀ {s₀ a0} a1 a2 a3 a4 a5 a6 a7, Keeps s₀ a0 → Keeps s₀ (State.wStart a0 a1 a2 a3 a4 a5 a6 a7).1 := by
  intro s₀ a0 a1 a2 a3 a4 a5 a6 a7 h
  unfold State.wStart
  try dsimp only
  repeat' first
    | with_reducible (first | assumption | refine keeps_fst ?_ (by assumption) | apply keeps_wFailed
                            | apply keeps_pkgRead | apply keeps_bump | apply keeps_ite | apply keeps_iteP)
    | simp only [keeps_mk_iff]
    | split

theorem keeps_wResult : ∀ {s₀ a0} a1 a2 a3 a4, Keeps s₀ a0 → Keeps s₀ (State.wResult a0 a1 a2 a3 a4) := by
  intro s₀ a0 a1 a2 a3 a4 h
  unfold State.wResult
  try dsimp only
  repeat' first
    | with_reducible (first | assumption | refine keeps_fst ?_ (by assumption) | apply keeps_cmdResult
                            | apply keeps_presentHub | apply keeps_setRbit | apply keeps_ite)
    | simp only [keeps_mk_iff]
    | split

theorem keeps_wFail : ∀ {s₀ a0} a1 a2 a3, Keeps s₀ a0 → Keeps s₀ (State.wFail a0 a1 a2 a3) := by
  intro s₀ a0 a1 a2 a3 h
  unfold State.wFail
  try dsimp only
  repeat' first
    | with_reducible (first | assumption | refine keeps_fst ?_ (by assumption) | apply keeps_undefine
                            | apply keeps_wResult | apply keeps_wFailed | apply keeps_ite)
    | simp only [keeps_mk_iff]
    | with_reducible apply keeps_foldl
    | with_reducible apply keeps_foldlP
    | (intro _ _ _; try dsimp only)
    | (intro _ _; try dsimp only)
    | split

theorem keeps_wDone : ∀ {s₀ a0} a1, Keeps s₀ a0 → Keeps s₀ (State.wDone a0 a1) := by
  intro s₀ a0 a1 h
  unfold State.wDone
  try dsimp only
  repeat' first
    | with_reducible (first | assumption | refine keeps_fst ?_ (by assumption) | apply keeps_wFail
                            | apply keeps_setRegion | apply keeps_wResult | apply keeps_bump | apply keeps_ite)
    | simp only [keeps_mk_iff]
    | with_reducible apply keeps_foldl
    | with_reducible apply keeps_foldlP
    | (intro _ _ _; try dsimp only)
    | (intro _ _; try dsimp only)
    | split

theorem keeps_wNext : ∀ {s₀ a0} a1 a2, Keeps s₀ a0 → Keeps s₀ (State.wNext a0 a1 a2) := by
  intro s₀ a0 a1 a2 h
  unfold State.wNext
  try dsimp only
  repeat' first
    | with_reducible (first | assumption | refine keeps_fst ?_ (by assumption) | apply keeps_wFail
                            | apply keeps_pkgRead | apply keeps_devWrite | apply keeps_wDone | apply keeps_ite)
    | simp only [keeps_mk_iff]
    | split

theorem keeps_execWeightBlockLoad : ∀ {s₀ a2} a0 a1, Keeps s₀ a2 → KeepsO s₀ (execWeightBlockLoad a0 a1 a2) := by
  intro s₀ a2 a0 a1 h
  unfold execWeightBlockLoad
  repeat' first
    | with_reducible (first | assumption | refine keeps_fst ?_ (by assumption) | apply keeps_wNext | apply keepsO_next)
    | simp only [keeps_mk_iff]
    | split

theorem keeps_execLoadWeights : ∀ {s₀ a2} a0 a1, Keeps s₀ a2 → KeepsO s₀ (execLoadWeights a0 a1 a2) := by
  intro s₀ a2 a0 a1 h
  unfold execLoadWeights
  repeat' first
    | with_reducible (first | assumption | refine keeps_fst ?_ (by assumption) | apply keeps_hostCmd
                            | apply keeps_cmdResult | apply keeps_wStart | apply keepsO_next | apply keeps_ite)
    | simp only [keeps_mk_iff]
    | (intro _ _ _; try dsimp only)
    | (intro _ _; try dsimp only)
    | split

theorem keeps_execUnloadWeights : ∀ {s₀ a1} a0, Keeps s₀ a1 → KeepsO s₀ (execUnloadWeights a0 a1) := by
  intro s₀ a1 a0 h
  unfold execUnloadWeights
  try dsimp only
  repeat' first
    | with_reducible (first | assumption | refine keeps_fst ?_ (by assumption) | apply keeps_hostCmd
                            | apply keeps_cmdResult | apply keeps_unmarkWeights | apply keepsO_next | apply keeps_ite)
    | simp only [keeps_mk_iff]
    | (intro _ _ _; try dsimp only)
    | (intro _ _; try dsimp only)
    | split

end Sys2Proof.Machine
end

