-- ==== Sys2Proof/Laws/KeepsSage.lean ====
section
/-!
SUPPORT. What the operations of `Machine/Sage.lean` keep (see `Laws/Keeps.lean`): one lemma per operation.
-/
namespace Sys2Proof.Machine

theorem keeps_spdmReply : ∀ {s₀ a0} a1 a2 a3, Keeps s₀ a0 → Keeps s₀ (State.spdmReply a0 a1 a2 a3) := by
  intro s₀ a0 a1 a2 a3 h
  unfold State.spdmReply
  repeat' first
    | with_reducible (first | assumption | apply keeps_send | apply keeps_ite)
    | simp only [keeps_mk_iff]
    | split

theorem keeps_spdmError : ∀ {s₀ a0} a1 a2, Keeps s₀ a0 → Keeps s₀ (State.spdmError a0 a1 a2) := by
  intro s₀ a0 a1 a2 h
  unfold State.spdmError
  repeat' first
    | with_reducible (first | assumption | apply keeps_send)
    | simp only [keeps_mk_iff]

theorem keeps_spdm : ∀ {s₀ a0} a1 a2, Keeps s₀ a0 → (∀ t, Keeps s₀ t → Keeps s₀ (a2 t)) → Keeps s₀ (State.spdm a0 a1 a2) := by
  intro s₀ a0 a1 a2 h ha2
  unfold State.spdm
  repeat' first
    | with_reducible (first | assumption | refine keeps_fst ?_ (by assumption) | apply ha2 | apply keeps_ite)
    | split

theorem keeps_setSession : ∀ {s₀ a0} a1, Keeps s₀ a0 → Keeps s₀ (State.setSession a0 a1) := by
  intro s₀ a0 a1 h
  unfold State.setSession
  repeat' first
    | with_reducible (first | assumption | apply keeps_ite)
    | simp only [keeps_mk_iff]
    | split

theorem keeps_endSession : ∀ {s₀ a0} a1 a2, Keeps s₀ a0 → Keeps s₀ (State.endSession a0 a1 a2) := by
  intro s₀ a0 a1 a2 h
  unfold State.endSession
  repeat' first
    | with_reducible (first | assumption)
    | simp only [keeps_mk_iff]

theorem keeps_inSession : ∀ {s₀ a0} a1 a2 a3, Keeps s₀ a0 → (∀ t x, Keeps s₀ t → Keeps s₀ (a3 t x)) → Keeps s₀ (State.inSession a0 a1 a2 a3) := by
  intro s₀ a0 a1 a2 a3 h ha3
  unfold State.inSession
  try dsimp only
  repeat' first
    | with_reducible (first | assumption | refine keeps_fst ?_ (by assumption) | apply ha3 | apply keeps_spdm
                            | apply keeps_setSession | apply keeps_spdmError | apply keeps_ite)
    | simp only [keeps_mk_iff]
    | (intro _ _ _; try dsimp only)
    | (intro _ _; try dsimp only)
    | split

theorem keeps_execSpdmGetVersion : ∀ {s₀ a1} a0, Keeps s₀ a1 → KeepsO s₀ (execSpdmGetVersion a0 a1) := by
  intro s₀ a1 a0 h
  unfold execSpdmGetVersion
  repeat' first
    | with_reducible (first | assumption | apply keeps_spdmReply | apply keepsO_next)
    | split

theorem keeps_execSpdmGetCapabilities : ∀ {s₀ a1} a0, Keeps s₀ a1 → KeepsO s₀ (execSpdmGetCapabilities a0 a1) := by
  intro s₀ a1 a0 h
  unfold execSpdmGetCapabilities
  repeat' first
    | with_reducible (first | assumption | apply keeps_spdm | apply keeps_spdmReply | apply keepsO_next)
    | (intro _ _ _; try dsimp only)
    | (intro _ _; try dsimp only)

theorem keeps_execNegotiateAlgorithms : ∀ {s₀ a1} a0, Keeps s₀ a1 → KeepsO s₀ (execNegotiateAlgorithms a0 a1) := by
  intro s₀ a1 a0 h
  unfold execNegotiateAlgorithms
  repeat' first
    | with_reducible (first | assumption | apply keeps_spdm | apply keeps_spdmReply | apply keepsO_next)
    | (intro _ _ _; try dsimp only)
    | (intro _ _; try dsimp only)

theorem keeps_execGetDigests : ∀ {s₀ a1} a0, Keeps s₀ a1 → KeepsO s₀ (execGetDigests a0 a1) := by
  intro s₀ a1 a0 h
  unfold execGetDigests
  repeat' first
    | with_reducible (first | assumption | apply keeps_spdm | apply keeps_spdmReply | apply keepsO_next)
    | (intro _ _ _; try dsimp only)
    | (intro _ _; try dsimp only)

theorem keeps_execGetCertificate : ∀ {s₀ a4} a0 a1 a2 a3, Keeps s₀ a4 → KeepsO s₀ (execGetCertificate a0 a1 a2 a3 a4) := by
  intro s₀ a4 a0 a1 a2 a3 h
  unfold execGetCertificate
  repeat' first
    | with_reducible (first | assumption | apply keeps_spdm | apply keeps_spdmError | apply keeps_spdmReply
                            | apply keepsO_next | apply keeps_ite)
    | (intro _ _ _; try dsimp only)
    | (intro _ _; try dsimp only)
    | split

theorem keeps_execChallenge : ∀ {s₀ a3} a0 a1 a2, Keeps s₀ a3 → KeepsO s₀ (execChallenge a0 a1 a2 a3) := by
  intro s₀ a3 a0 a1 a2 h
  unfold execChallenge
  try dsimp only
  repeat' first
    | with_reducible (first | assumption | apply keeps_spdm | apply keeps_spdmError | apply keeps_spdmReply
                            | apply keepsO_next | apply keeps_ite)
    | (intro _ _ _; try dsimp only)
    | (intro _ _; try dsimp only)
    | split

theorem keeps_execGetMeasurements : ∀ {s₀ a4} a0 a1 a2 a3, Keeps s₀ a4 → KeepsO s₀ (execGetMeasurements a0 a1 a2 a3 a4) := by
  intro s₀ a4 a0 a1 a2 a3 h
  unfold execGetMeasurements
  try dsimp only
  repeat' first
    | with_reducible (first | assumption | apply keeps_spdm | apply keeps_spdmError | apply keeps_spdmReply
                            | apply keepsO_next | apply keeps_ite)
    | (intro _ _ _; try dsimp only)
    | (intro _ _; try dsimp only)
    | split

theorem keeps_execKeyExchange : ∀ {s₀ a2} a0 a1, Keeps s₀ a2 → KeepsO s₀ (execKeyExchange a0 a1 a2) := by
  intro s₀ a2 a0 a1 h
  unfold execKeyExchange
  try dsimp only
  repeat' first
    | with_reducible (first | assumption | refine keeps_fst ?_ (by assumption) | apply keeps_spdm
                            | apply keeps_spdmError | apply keeps_newKey | apply keeps_spdmReply | apply keeps_bump
                            | apply keepsO_next | apply keeps_ite)
    | simp only [keeps_mk_iff]
    | (intro _ _ _; try dsimp only)
    | (intro _ _; try dsimp only)
    | split

theorem keeps_execFinish : ∀ {s₀ a3} a0 a1 a2, Keeps s₀ a3 → KeepsO s₀ (execFinish a0 a1 a2 a3) := by
  intro s₀ a3 a0 a1 a2 h
  unfold execFinish
  repeat' first
    | with_reducible (first | assumption | refine keeps_fst ?_ (by assumption) | apply keeps_spdm
                            | apply keeps_spdmError | apply keeps_spdmReply | apply keeps_setSession
                            | apply keeps_endSession | apply keepsO_next | apply keeps_ite)
    | simp only [keeps_mk_iff]
    | (intro _ _ _; try dsimp only)
    | (intro _ _; try dsimp only)
    | split

theorem keeps_execHeartbeat : ∀ {s₀ a2} a0 a1, Keeps s₀ a2 → KeepsO s₀ (execHeartbeat a0 a1 a2) := by
  intro s₀ a2 a0 a1 h
  unfold execHeartbeat
  repeat' first
    | with_reducible (first | assumption | apply keeps_inSession | apply keeps_spdmReply | apply keepsO_next)
    | (intro _ _ _; try dsimp only)
    | (intro _ _; try dsimp only)

theorem keeps_execKeyUpdate : ∀ {s₀ a2} a0 a1, Keeps s₀ a2 → KeepsO s₀ (execKeyUpdate a0 a1 a2) := by
  intro s₀ a2 a0 a1 h
  unfold execKeyUpdate
  repeat' first
    | with_reducible (first | assumption | apply keeps_inSession | apply keeps_spdmReply | apply keeps_setSession
                            | apply keepsO_next)
    | simp only [keeps_mk_iff]
    | (intro _ _ _; try dsimp only)
    | (intro _ _; try dsimp only)

theorem keeps_execEndSession : ∀ {s₀ a2} a0 a1, Keeps s₀ a2 → KeepsO s₀ (execEndSession a0 a1 a2) := by
  intro s₀ a2 a0 a1 h
  unfold execEndSession
  repeat' first
    | with_reducible (first | assumption | apply keeps_inSession | apply keeps_spdmReply | apply keeps_endSession
                            | apply keepsO_next)
    | (intro _ _ _; try dsimp only)
    | (intro _ _; try dsimp only)

theorem keeps_execSpdmSessionTimeout : ∀ {s₀ a2} a0 a1, Keeps s₀ a2 → KeepsO s₀ (execSpdmSessionTimeout a0 a1 a2) := by
  intro s₀ a2 a0 a1 h
  unfold execSpdmSessionTimeout
  repeat' first
    | with_reducible (first | assumption | refine keeps_fst ?_ (by assumption) | apply keeps_endSession
                            | apply keepsO_next)
    | simp only [keeps_mk_iff]
    | split

theorem keeps_execChunkGet : ∀ {s₀ a1} a0, Keeps s₀ a1 → KeepsO s₀ (execChunkGet a0 a1) := by
  intro s₀ a1 a0 h
  unfold execChunkGet
  repeat' first
    | with_reducible (first | assumption | refine keeps_fst ?_ (by assumption) | apply keeps_spdm
                            | apply keeps_spdmError | apply keeps_send | apply keepsO_next)
    | simp only [keeps_mk_iff]
    | (intro _ _ _; try dsimp only)
    | (intro _ _; try dsimp only)
    | split

theorem keeps_execGetReport : ∀ {s₀ a4} a0 a1 a2 a3, Keeps s₀ a4 → KeepsO s₀ (execGetReport a0 a1 a2 a3 a4) := by
  intro s₀ a4 a0 a1 a2 a3 h
  unfold execGetReport
  try dsimp only
  repeat' first
    | with_reducible (first | assumption | apply keeps_inSession | apply keeps_spdmReply | apply keeps_spdmError
                            | apply keepsO_next | apply keeps_ite)
    | (intro _ _ _; try dsimp only)
    | (intro _ _; try dsimp only)
    | split

theorem keeps_execGetNonce : ∀ {s₀ a1} a0, Keeps s₀ a1 → KeepsO s₀ (execGetNonce a0 a1) := by
  intro s₀ a1 a0 h
  unfold execGetNonce
  try dsimp only
  repeat' first
    | with_reducible (first | assumption | refine keeps_fst ?_ (by assumption) | apply keeps_spdm
                            | apply keeps_freshNonce | apply keeps_spdmReply | apply keepsO_next)
    | (intro _ _ _; try dsimp only)
    | (intro _ _; try dsimp only)
    | split

theorem keeps_putCrate : ∀ {s₀ a0} a1, Keeps s₀ a0 → Keeps s₀ (State.putCrate a0 a1).1 := by
  intro s₀ a0 a1 h
  unfold State.putCrate
  try dsimp only
  repeat' first
    | with_reducible (first | assumption | refine keeps_fst ?_ (by assumption) | apply keeps_bump
                            | apply keeps_setRegWords | apply keeps_setReg | apply keeps_setReg64
                            | apply keeps_leaseRaise | apply keeps_ite | apply keeps_iteP)
    | simp only [keeps_mk_iff]
    | split

theorem keeps_execPutCrate : ∀ {s₀ a3} a0 a1 a2, Keeps s₀ a3 → KeepsO s₀ (execPutCrate a0 a1 a2 a3) := by
  intro s₀ a3 a0 a1 a2 h
  unfold execPutCrate
  try dsimp only
  repeat' first
    | with_reducible (first | assumption | refine keeps_fst ?_ (by assumption) | apply keeps_inSession
                            | apply keeps_putCrate | apply keeps_spdmReply | apply keepsO_next)
    | (intro _ _ _; try dsimp only)
    | (intro _ _; try dsimp only)
    | split

theorem keeps_setConsentKey : ∀ {s₀ a0} a1 a2 a3, Keeps s₀ a0 → Keeps s₀ (State.setConsentKey a0 a1 a2 a3) := by
  intro s₀ a0 a1 a2 a3 h
  unfold State.setConsentKey
  try dsimp only
  repeat' first
    | with_reducible (first | assumption | apply keeps_spdmReply | apply keeps_setRegWords | apply keeps_ite)
    | split

theorem keeps_execSetConsentKey : ∀ {s₀ a4} a0 a1 a2 a3, Keeps s₀ a4 → KeepsO s₀ (execSetConsentKey a0 a1 a2 a3 a4) := by
  intro s₀ a4 a0 a1 a2 a3 h
  unfold execSetConsentKey
  repeat' first
    | with_reducible (first | assumption | apply keeps_inSession | apply keeps_setConsentKey | apply keepsO_next)
    | (intro _ _ _; try dsimp only)
    | (intro _ _; try dsimp only)

theorem keeps_execChunkSend : ∀ {s₀ a4} a0 a1 a2 a3, Keeps s₀ a4 → KeepsO s₀ (execChunkSend a0 a1 a2 a3 a4) := by
  intro s₀ a4 a0 a1 a2 a3 h
  unfold execChunkSend
  try dsimp only
  repeat' first
    | with_reducible (first | assumption | refine keeps_fst ?_ (by assumption) | apply keeps_inSession
                            | apply keeps_spdmError | apply keeps_spdmReply | apply keeps_putCrate
                            | apply keeps_setConsentKey | apply keepsO_next | apply keeps_ite)
    | simp only [keeps_mk_iff]
    | (intro _ _ _; try dsimp only)
    | (intro _ _; try dsimp only)
    | split

theorem keeps_execTdispGetVersion : ∀ {s₀ a2} a0 a1, Keeps s₀ a2 → KeepsO s₀ (execTdispGetVersion a0 a1 a2) := by
  intro s₀ a2 a0 a1 h
  unfold execTdispGetVersion
  repeat' first
    | with_reducible (first | assumption | apply keeps_inSession | apply keeps_spdmReply | apply keepsO_next)
    | (intro _ _ _; try dsimp only)
    | (intro _ _; try dsimp only)

theorem keeps_execTdispGetCapabilities : ∀ {s₀ a2} a0 a1, Keeps s₀ a2 → KeepsO s₀ (execTdispGetCapabilities a0 a1 a2) := by
  intro s₀ a2 a0 a1 h
  unfold execTdispGetCapabilities
  repeat' first
    | with_reducible (first | assumption | apply keeps_inSession | apply keeps_spdmReply | apply keepsO_next)
    | (intro _ _ _; try dsimp only)
    | (intro _ _; try dsimp only)

theorem keeps_tdisp : ∀ {s₀ a0} a1 a2 a3 a4, Keeps s₀ a0 → (∀ t x, Keeps s₀ t → Keeps s₀ (a4 t x)) → Keeps s₀ (State.tdisp a0 a1 a2 a3 a4) := by
  intro s₀ a0 a1 a2 a3 a4 h ha4
  unfold State.tdisp
  repeat' first
    | with_reducible (first | assumption | apply ha4 | apply keeps_inSession | apply keeps_spdmReply | apply keeps_ite)
    | (intro _ _ _; try dsimp only)
    | (intro _ _; try dsimp only)
    | split

theorem keeps_execLockInterface : ∀ {s₀ a3} a0 a1 a2, Keeps s₀ a3 → KeepsO s₀ (execLockInterface a0 a1 a2 a3) := by
  intro s₀ a3 a0 a1 a2 h
  unfold execLockInterface
  try dsimp only
  repeat' first
    | with_reducible (first | assumption | refine keeps_fst ?_ (by assumption) | apply keeps_tdisp
                            | apply keeps_spdmReply | apply keeps_free | apply keeps_setTdi
                            | apply keeps_setSession | apply keepsO_next | apply keeps_ite)
    | simp only [keeps_mk_iff]
    | (intro _ _ _; try dsimp only)
    | (intro _ _; try dsimp only)
    | split

theorem keeps_execGetDeviceInterfaceReport : ∀ {s₀ a3} a0 a1 a2, Keeps s₀ a3 → KeepsO s₀ (execGetDeviceInterfaceReport a0 a1 a2 a3) := by
  intro s₀ a3 a0 a1 a2 h
  unfold execGetDeviceInterfaceReport
  repeat' first
    | with_reducible (first | assumption | apply keeps_tdisp | apply keeps_spdmReply | apply keepsO_next
                            | apply keeps_ite)
    | simp only [keeps_mk_iff]
    | (intro _ _ _; try dsimp only)
    | (intro _ _; try dsimp only)
    | split

theorem keeps_execGetDeviceInterfaceState : ∀ {s₀ a3} a0 a1 a2, Keeps s₀ a3 → KeepsO s₀ (execGetDeviceInterfaceState a0 a1 a2 a3) := by
  intro s₀ a3 a0 a1 a2 h
  unfold execGetDeviceInterfaceState
  repeat' first
    | with_reducible (first | assumption | apply keeps_tdisp | apply keeps_spdmReply | apply keepsO_next)
    | (intro _ _ _; try dsimp only)
    | (intro _ _; try dsimp only)

theorem keeps_execStartInterface : ∀ {s₀ a3} a0 a1 a2, Keeps s₀ a3 → KeepsO s₀ (execStartInterface a0 a1 a2 a3) := by
  intro s₀ a3 a0 a1 a2 h
  unfold execStartInterface
  repeat' first
    | with_reducible (first | assumption | apply keeps_tdisp | apply keeps_spdmReply | apply keeps_setTdi
                            | apply keepsO_next | apply keeps_ite)
    | simp only [keeps_mk_iff]
    | (intro _ _ _; try dsimp only)
    | (intro _ _; try dsimp only)
    | split

theorem keeps_execStopInterface : ∀ {s₀ a3} a0 a1 a2, Keeps s₀ a3 → KeepsO s₀ (execStopInterface a0 a1 a2 a3) := by
  intro s₀ a3 a0 a1 a2 h
  unfold execStopInterface
  repeat' first
    | with_reducible (first | assumption | apply keeps_tdisp | apply keeps_spdmReply | apply keeps_teardown
                            | apply keepsO_next)
    | (intro _ _ _; try dsimp only)
    | (intro _ _; try dsimp only)

theorem keeps_execIdeKeyProg : ∀ {s₀ a8} a0 a1 a2 a3 a4 a5 a6 a7, Keeps s₀ a8 → KeepsO s₀ (execIdeKeyProg a0 a1 a2 a3 a4 a5 a6 a7 a8) := by
  intro s₀ a8 a0 a1 a2 a3 a4 a5 a6 a7 h
  unfold execIdeKeyProg
  try dsimp only
  repeat' first
    | with_reducible (first | assumption | refine keeps_fst ?_ (by assumption) | apply keeps_tdisp
                            | apply keeps_spdmReply | apply keeps_setIde | apply keepsO_next | apply keeps_ite)
    | simp only [keeps_mk_iff]
    | (intro _ _ _; try dsimp only)
    | (intro _ _; try dsimp only)
    | split

theorem keeps_execIdeKSetGo : ∀ {s₀ a4} a0 a1 a2 a3, Keeps s₀ a4 → KeepsO s₀ (execIdeKSetGo a0 a1 a2 a3 a4) := by
  intro s₀ a4 a0 a1 a2 a3 h
  unfold execIdeKSetGo
  repeat' first
    | with_reducible (first | assumption | refine keeps_fst ?_ (by assumption) | apply keeps_inSession
                            | apply keeps_spdmReply | apply keeps_setIde | apply keeps_spdmError
                            | apply keepsO_next | apply keeps_ite)
    | simp only [keeps_mk_iff]
    | (intro _ _ _; try dsimp only)
    | (intro _ _; try dsimp only)
    | split

theorem keeps_execIdeKSetStop : ∀ {s₀ a3} a0 a1 a2, Keeps s₀ a3 → KeepsO s₀ (execIdeKSetStop a0 a1 a2 a3) := by
  intro s₀ a3 a0 a1 a2 h
  unfold execIdeKSetStop
  repeat' first
    | with_reducible (first | assumption | apply keeps_inSession | apply keeps_spdmReply | apply keepsO_next)
    | simp only [keeps_mk_iff]
    | (intro _ _ _; try dsimp only)
    | (intro _ _; try dsimp only)

theorem keeps_rotate : ∀ {s₀ a0} a1, Keeps s₀ a0 → Keeps s₀ (State.rotate a0 a1).1 := by
  intro s₀ a0 a1 h
  unfold State.rotate
  try dsimp only
  repeat' first
    | with_reducible (first | assumption | refine keeps_fst ?_ (by assumption) | apply keeps_setFld
                            | apply keeps_newKey | apply keeps_setMemKey | apply keeps_setRbit | apply keeps_setReg
                            | apply keeps_ite | apply keeps_iteP)
    | split

theorem keeps_execRotate : ∀ {s₀ a2} a0 a1, Keeps s₀ a2 → KeepsO s₀ (execRotate a0 a1 a2) := by
  intro s₀ a2 a0 a1 h
  unfold execRotate
  try dsimp only
  repeat' first
    | with_reducible (first | assumption | refine keeps_fst ?_ (by assumption) | apply keeps_guarded
                            | apply keeps_rotate | apply keeps_inSession | apply keeps_spdmReply | apply keepsO_next)
    | simp only [keeps_mk_iff]
    | (intro _ _ _; try dsimp only)
    | (intro _ _; try dsimp only)
    | split

theorem keeps_sweepUnit : ∀ {s₀ a0} a1 a2, Keeps s₀ a0 → Keeps s₀ (State.sweepUnit a0 a1 a2) := by
  intro s₀ a0 a1 a2 h
  unfold State.sweepUnit
  try dsimp only
  repeat' first
    | with_reducible (first | assumption | refine keeps_fst ?_ (by assumption) | apply keeps_decodeWords
                            | apply keeps_clearWords | apply keeps_setRegion | apply keeps_setReg | apply keeps_ite)
    | simp only [keeps_mk_iff]
    | split

theorem keeps_execRotationSweepUnit : ∀ {s₀ a2} a0 a1, Keeps s₀ a2 → KeepsO s₀ (execRotationSweepUnit a0 a1 a2) := by
  intro s₀ a2 a0 a1 h
  unfold execRotationSweepUnit
  repeat' first
    | with_reducible (first | assumption | apply keeps_sweepUnit | apply keepsO_next)

theorem keeps_execOldKeyDestroy : ∀ {s₀ a1} a0, Keeps s₀ a1 → KeepsO s₀ (execOldKeyDestroy a0 a1) := by
  intro s₀ a1 a0 h
  unfold execOldKeyDestroy
  try dsimp only
  repeat' first
    | with_reducible (first | assumption | apply keeps_setMemKey | apply keeps_bump | apply keeps_setRbit
                            | apply keepsO_next | apply keeps_ite)
    | split

theorem keeps_execLeaseClockStore : ∀ {s₀ a0}, Keeps s₀ a0 → KeepsO s₀ (execLeaseClockStore a0) := by
  intro s₀ a0 h
  unfold execLeaseClockStore
  repeat' first
    | with_reducible (first | assumption | apply keeps_leaseStore | apply keepsO_next)
    | split

theorem keeps_execAsSyncMessage : ∀ {s₀ a2} a0 a1, Keeps s₀ a2 → KeepsO s₀ (execAsSyncMessage a0 a1 a2) := by
  intro s₀ a2 a0 a1 h
  unfold execAsSyncMessage
  repeat' first
    | with_reducible (first | assumption | apply keeps_leaseTai | apply keeps_fp1Sync | apply keepsO_next)

theorem keeps_consentSubmit : ∀ {s₀ a0} a1, Keeps s₀ a0 → Keeps s₀ (State.consentSubmit a0 a1).1 := by
  intro s₀ a0 a1 h
  unfold State.consentSubmit
  try dsimp only
  repeat' first
    | with_reducible (first | assumption | refine keeps_fst ?_ (by assumption) | apply keeps_bump
                            | apply keeps_endConsentsOf | apply keeps_consentRegs | apply keeps_ite | apply keeps_iteP)
    | simp only [keeps_mk_iff]
    | split

theorem keeps_consentCtrl : ∀ {s₀ a0}, Keeps s₀ a0 → Keeps s₀ (State.consentCtrl a0) := by
  intro s₀ a0 h
  unfold State.consentCtrl
  try dsimp only
  repeat' first
    | with_reducible (first | assumption | refine keeps_fst ?_ (by assumption) | apply keeps_unitRead
                            | apply keeps_consentSubmit | apply keeps_bump | apply keeps_setFld | apply keeps_ite)
    | split

theorem keeps_execConsentSubmit : ∀ {s₀ a1} a0, Keeps s₀ a1 → KeepsO s₀ (execConsentSubmit a0 a1) := by
  intro s₀ a1 a0 h
  unfold execConsentSubmit
  repeat' first
    | with_reducible (first | assumption | apply keeps_guarded | apply keeps_consentCtrl | apply keepsO_next)

theorem keeps_execConsentRevoke : ∀ {s₀ a2} a0 a1, Keeps s₀ a2 → KeepsO s₀ (execConsentRevoke a0 a1 a2) := by
  intro s₀ a2 a0 a1 h
  unfold execConsentRevoke
  repeat' first
    | with_reducible (first | assumption | apply keeps_guarded | apply keeps_endConsent | apply keeps_setFld
                            | apply keepsO_next)

theorem keeps_nonceCtrl : ∀ {s₀ a0}, Keeps s₀ a0 → Keeps s₀ (State.nonceCtrl a0) := by
  intro s₀ a0 h
  unfold State.nonceCtrl
  try dsimp only
  repeat' first
    | with_reducible (first | assumption | refine keeps_fst ?_ (by assumption) | apply keeps_freshNonce
                            | apply keeps_setRegWords)
    | split

theorem keeps_execNewNonce : ∀ {s₀ a1} a0, Keeps s₀ a1 → KeepsO s₀ (execNewNonce a0 a1) := by
  intro s₀ a1 a0 h
  unfold execNewNonce
  repeat' first
    | with_reducible (first | assumption | apply keeps_guarded | apply keeps_nonceCtrl | apply keepsO_next)

theorem keeps_execConsentExpiry : ∀ {s₀ a1} a0, Keeps s₀ a1 → KeepsO s₀ (execConsentExpiry a0 a1) := by
  intro s₀ a1 a0 h
  unfold execConsentExpiry
  repeat' first
    | with_reducible (first | assumption | refine keeps_fst ?_ (by assumption) | apply keeps_endConsent
                            | apply keepsO_next)
    | simp only [keeps_mk_iff]
    | split

theorem keeps_execNonceExpiry : ∀ {s₀ a0}, Keeps s₀ a0 → KeepsO s₀ (execNonceExpiry a0) := by
  intro s₀ a0 h
  unfold execNonceExpiry
  repeat' first
    | with_reducible (first | assumption | refine keeps_fst ?_ (by assumption) | apply keepsO_next)
    | simp only [keeps_mk_iff]
    | split

theorem keeps_execEntropyHealthFailure : ∀ {s₀ a0}, Keeps s₀ a0 → KeepsO s₀ (execEntropyHealthFailure a0) := by
  intro s₀ a0 h
  unfold execEntropyHealthFailure
  try dsimp only
  repeat' first
    | with_reducible (first | assumption | apply keeps_presentHub | apply keeps_setFld | apply keepsO_next)
    | simp only [keeps_mk_iff]

end Sys2Proof.Machine
end

