-- ==== Sys2Proof/Laws/KeepsDillOps.lean ====
section
/-!
SUPPORT. What the operations of `Machine/DillOps.lean` keep (see `Laws/Keeps.lean`): one lemma per operation.
-/
namespace Sys2Proof.Machine

theorem keeps_addTrigger : ∀ {s₀ a0} a1, Keeps s₀ a0 → Keeps s₀ (State.addTrigger a0 a1) := by
  intro s₀ a0 a1 h
  unfold State.addTrigger
  repeat' first
    | with_reducible (first | assumption)
    | simp only [keeps_mk_iff]

theorem keeps_dillTrigger : ∀ {s₀ a0} a1 a2 a3, Keeps s₀ a0 → Keeps s₀ (State.dillTrigger a0 a1 a2 a3) := by
  intro s₀ a0 a1 a2 a3 h
  unfold State.dillTrigger
  try dsimp only
  repeat' first
    | with_reducible (first | assumption | apply keeps_addTrigger | apply keeps_ringSend | apply keeps_ite)
    | simp only [keeps_mk_iff]
    | split

end Sys2Proof.Machine
end

