-- ==== Sys2Proof/Laws/KeepsSorrel.lean ====
section
/-!
SUPPORT. What the operations of `Machine/Sorrel.lean` keep (see `Laws/Keeps.lean`): one lemma per operation.
-/
namespace Sys2Proof.Machine

theorem keeps_addFence : ∀ {s₀ a0} a1, Keeps s₀ a0 → Keeps s₀ (State.addFence a0 a1) := by
  intro s₀ a0 a1 h
  unfold State.addFence
  try dsimp only
  repeat' first
    | with_reducible (first | assumption | apply keeps_ite)
    | simp only [keeps_mk_iff]
    | split

theorem keeps_fenceSlot : ∀ {s₀ a0} a1 a2 a3, Keeps s₀ a0 → Keeps s₀ (State.fenceSlot a0 a1 a2 a3) := by
  intro s₀ a0 a1 a2 a3 h
  unfold State.fenceSlot
  repeat' first
    | with_reducible (first | assumption | apply keeps_abortSlot | apply keeps_addFence)

theorem keeps_fenceCore : ∀ {s₀ a0} a1 a2 a3, Keeps s₀ a0 → Keeps s₀ (State.fenceCore a0 a1 a2 a3) := by
  intro s₀ a0 a1 a2 a3 h
  unfold State.fenceCore
  repeat' first
    | with_reducible (first | assumption | apply keeps_acResetDone | apply keeps_acReset | apply keeps_addFence)

theorem keeps_fenceUnit : ∀ {s₀ a0} a1, Keeps s₀ a0 → Keeps s₀ (State.fenceUnit a0 a1) := by
  intro s₀ a0 a1 h
  unfold State.fenceUnit
  try dsimp only
  repeat' first
    | with_reducible (first | assumption | apply keeps_fenceSlot | apply keeps_fenceCore | apply keeps_addFence
                            | apply keeps_setRbit | apply keeps_ite)
    | simp only [keeps_mk_iff]
    | simp only [keeps_mem_iff]
    | with_reducible apply keeps_foldl
    | with_reducible apply keeps_foldlP
    | (intro _ _ _; try dsimp only)
    | (intro _ _; try dsimp only)
    | split

theorem keeps_setQuiet : ∀ {s₀ a0} a1 a2, Keeps s₀ a0 → Keeps s₀ (State.setQuiet a0 a1 a2) := by
  intro s₀ a0 a1 a2 h
  unfold State.setQuiet
  repeat' first
    | with_reducible (first | assumption | apply keeps_ite)
    | simp only [keeps_mk_iff]
    | split

theorem keeps_stormRoll : ∀ {s₀ a0}, Keeps s₀ a0 → Keeps s₀ (State.stormRoll a0) := by
  intro s₀ a0 h
  unfold State.stormRoll
  repeat' first
    | with_reducible (first | assumption | apply keeps_ite)
    | simp only [keeps_mk_iff]
    | split

theorem keeps_storm : ∀ {s₀ a0} a1, Keeps s₀ a0 → Keeps s₀ (State.storm a0 a1) := by
  intro s₀ a0 a1 h
  unfold State.storm
  try dsimp only
  repeat' first
    | with_reducible (first | assumption | apply keeps_stormRoll | apply keeps_bump | apply keeps_ite)
    | simp only [keeps_mk_iff]
    | split

theorem keeps_fatal : ∀ {s₀ a0} a1, Keeps s₀ a0 → Keeps s₀ (State.fatal a0 a1) := by
  intro s₀ a0 a1 h
  unfold State.fatal
  try dsimp only
  repeat' first
    | with_reducible (first | assumption | apply keeps_setRbit | apply keeps_fenceUnit | apply keeps_ite)
    | simp only [keeps_mk_iff]
    | split

theorem keeps_faultAttention : ∀ {s₀ a0} a1, Keeps s₀ a0 → Keeps s₀ (State.faultAttention a0 a1) := by
  intro s₀ a0 a1 h
  unfold State.faultAttention
  try dsimp only
  repeat' first
    | with_reducible (first | assumption | refine keeps_fst ?_ (by assumption) | apply keeps_fnAttn
                            | apply keeps_mgmtAttention)
    | simp only [keeps_mk_iff]
    | split

theorem keeps_degradedExit : ∀ {s₀ a0} a1, Keeps s₀ a0 → Keeps s₀ (State.degradedExit a0 a1) := by
  intro s₀ a0 a1 h
  unfold State.degradedExit
  try dsimp only
  repeat' first
    | with_reducible (first | assumption | refine keeps_fst ?_ (by assumption) | apply keeps_setQuiet
                            | apply keeps_bumpFld | apply keeps_setRbit | apply keeps_ite)
    | simp only [keeps_mk_iff]
    | split

theorem keeps_classify : ∀ {s₀ a0} a1, Keeps s₀ a0 → Keeps s₀ (State.classify a0 a1) := by
  intro s₀ a0 a1 h
  unfold State.classify
  try dsimp only
  repeat' first
    | with_reducible (first | assumption | refine keeps_fst ?_ (by assumption) | apply keeps_bumpBy
                            | apply keeps_bump | apply keeps_setRbit | apply keeps_setRegWords
                            | apply keeps_setQuiet | apply keeps_degradedExit | apply keeps_storm
                            | apply keeps_dillTrigger | apply keeps_fatal | apply keeps_forceFlows
                            | apply keeps_modJobsOn | apply keeps_faultAttention | apply keeps_ite)
    | simp only [keeps_mk_iff]
    | split

theorem keeps_execErrorClassify : ∀ {s₀ a0}, Keeps s₀ a0 → KeepsO s₀ (execErrorClassify a0) := by
  intro s₀ a0 h
  unfold execErrorClassify
  repeat' first
    | with_reducible (first | assumption | refine keeps_fst ?_ (by assumption) | apply keeps_classify
                            | apply keepsO_next | apply keeps_ite)
    | simp only [keeps_mk_iff]
    | split

theorem keeps_execFaultNPulseEnd : ∀ {s₀ a0}, Keeps s₀ a0 → KeepsO s₀ (execFaultNPulseEnd a0) := by
  intro s₀ a0 h
  unfold execFaultNPulseEnd
  repeat' first
    | with_reducible (first | assumption | refine keeps_fst ?_ (by assumption) | apply keepsO_next)
    | simp only [keeps_mk_iff]
    | split

theorem keeps_drain : ∀ {s₀ a0} a1, Keeps s₀ a0 → Keeps s₀ (State.drain a0 a1) := by
  intro s₀ a0 a1 h
  unfold State.drain
  try dsimp only
  repeat' first
    | with_reducible (first | assumption | apply keeps_hubWrite | apply keeps_setReg)
    | simp only [keeps_mk_iff]

theorem keeps_ackWrite : ∀ {s₀ a0} a1 a2, Keeps s₀ a0 → Keeps s₀ (State.ackWrite a0 a1 a2) := by
  intro s₀ a0 a1 a2 h
  unfold State.ackWrite
  try dsimp only
  repeat' first
    | with_reducible (first | assumption | apply keeps_drain | apply keeps_ite)
    | simp only [keeps_mk_iff]
    | with_reducible apply keeps_foldl
    | with_reducible apply keeps_foldlP
    | (intro _ _ _; try dsimp only)
    | (intro _ _; try dsimp only)
    | split

theorem keeps_ackEnd : ∀ {s₀ a0}, Keeps s₀ a0 → Keeps s₀ (State.ackEnd a0) := by
  intro s₀ a0 h
  unfold State.ackEnd
  try dsimp only
  repeat' first
    | with_reducible (first | assumption | apply keeps_setReg | apply keeps_ite)
    | simp only [keeps_mk_iff]
    | with_reducible apply keeps_foldl
    | with_reducible apply keeps_foldlP
    | (intro _ _ _; try dsimp only)
    | (intro _ _; try dsimp only)
    | split

theorem keeps_execSrlAckWrite : ∀ {s₀ a2} a0 a1, Keeps s₀ a2 → KeepsO s₀ (execSrlAckWrite a0 a1 a2) := by
  intro s₀ a2 a0 a1 h
  unfold execSrlAckWrite
  repeat' first
    | with_reducible (first | assumption | apply keeps_guarded | apply keeps_ackWrite | apply keepsO_next)

theorem keeps_wdogKick : ∀ {s₀ a0} a1, Keeps s₀ a0 → Keeps s₀ (State.wdogKick a0 a1) := by
  intro s₀ a0 a1 h
  unfold State.wdogKick
  try dsimp only
  repeat' first
    | with_reducible (first | assumption | apply keeps_ite)
    | simp only [keeps_mk_iff]
    | split

theorem keeps_wdogWrite : ∀ {s₀ a0} a1 a2, Keeps s₀ a0 → Keeps s₀ (State.wdogWrite a0 a1 a2) := by
  intro s₀ a0 a1 a2 h
  unfold State.wdogWrite
  repeat' first
    | with_reducible (first | assumption | apply keeps_wdogKick | apply keeps_ite)
    | with_reducible apply keeps_foldl
    | with_reducible apply keeps_foldlP
    | (intro _ _ _; try dsimp only)
    | (intro _ _; try dsimp only)
    | split

theorem keeps_execSrlWdogKick : ∀ {s₀ a2} a0 a1, Keeps s₀ a2 → KeepsO s₀ (execSrlWdogKick a0 a1 a2) := by
  intro s₀ a2 a0 a1 h
  unfold execSrlWdogKick
  repeat' first
    | with_reducible (first | assumption | apply keeps_guarded | apply keeps_wdogWrite | apply keepsO_next)

theorem keeps_execMgmtWatchdogExpiry : ∀ {s₀ a1} a0, Keeps s₀ a1 → KeepsO s₀ (execMgmtWatchdogExpiry a0 a1) := by
  intro s₀ a1 a0 h
  unfold execMgmtWatchdogExpiry
  try dsimp only
  repeat' first
    | with_reducible (first | assumption | apply keeps_presentHub | apply keepsO_next | apply keeps_ite)
    | simp only [keeps_mk_iff]
    | split

theorem keeps_execStormWindowStart : ∀ {s₀ a0}, Keeps s₀ a0 → KeepsO s₀ (execStormWindowStart a0) := by
  intro s₀ a0 h
  unfold execStormWindowStart
  repeat' first
    | with_reducible (first | assumption | apply keeps_stormRoll | apply keepsO_next)

theorem keeps_execDegradedExit : ∀ {s₀ a1} a0, Keeps s₀ a1 → KeepsO s₀ (execDegradedExit a0 a1) := by
  intro s₀ a1 a0 h
  unfold execDegradedExit
  repeat' first
    | with_reducible (first | assumption | apply keeps_degradedExit | apply keepsO_next)

theorem keeps_execDilTriggerWrite : ∀ {s₀ a2} a0 a1, Keeps s₀ a2 → KeepsO s₀ (execDilTriggerWrite a0 a1 a2) := by
  intro s₀ a2 a0 a1 h
  unfold execDilTriggerWrite
  repeat' first
    | with_reducible (first | assumption | apply keeps_guarded | apply keeps_dillTrigger | apply keepsO_next)

theorem keeps_execDilTimerExpiry : ∀ {s₀ a0}, Keeps s₀ a0 → KeepsO s₀ (execDilTimerExpiry a0) := by
  intro s₀ a0 h
  unfold execDilTimerExpiry
  try dsimp only
  repeat' first
    | with_reducible (first | assumption | apply keeps_dillTrigger | apply keepsO_next | apply keeps_ite)
    | simp only [keeps_mk_iff]
    | split

theorem keeps_latchNow : ∀ {s₀ a0} a1, Keeps s₀ a0 → Keeps s₀ (State.latchNow a0 a1) := by
  intro s₀ a0 a1 h
  unfold State.latchNow
  try dsimp only
  repeat' first
    | with_reducible (first | assumption | apply keeps_bump | apply keeps_setRbit | apply keeps_ite)
    | simp only [keeps_mk_iff]
    | split

theorem keeps_execSnapshotLatch : ∀ {s₀ a0}, Keeps s₀ a0 → KeepsO s₀ (execSnapshotLatch a0) := by
  intro s₀ a0 h
  unfold execSnapshotLatch
  repeat' first
    | with_reducible (first | assumption | refine keeps_fst ?_ (by assumption) | apply keeps_latchNow
                            | apply keepsO_next)
    | simp only [keeps_mk_iff]
    | split

theorem keeps_execSnapshotCopyDone : ∀ {s₀ a0}, Keeps s₀ a0 → KeepsO s₀ (execSnapshotCopyDone a0) := by
  intro s₀ a0 h
  unfold execSnapshotCopyDone
  try dsimp only
  repeat' first
    | with_reducible (first | assumption | refine keeps_fst ?_ (by assumption) | apply keeps_hubWrite
                            | apply keeps_bump | apply keeps_setReg64 | apply keeps_setReg | apply keepsO_next)
    | simp only [keeps_mk_iff]
    | split

theorem keeps_ckptStart : ∀ {s₀ a0} a1 a2, Keeps s₀ a0 → Keeps s₀ (State.ckptStart a0 a1 a2) := by
  intro s₀ a0 a1 a2 h
  unfold State.ckptStart
  try dsimp only
  repeat' first
    | with_reducible (first | assumption | refine keeps_fst ?_ (by assumption) | apply keeps_bump | apply keeps_ite)
    | simp only [keeps_mk_iff]
    | split

theorem keeps_execEventSnapshot : ∀ {s₀ a1} a0, Keeps s₀ a1 → KeepsO s₀ (execEventSnapshot a0 a1) := by
  intro s₀ a1 a0 h
  unfold execEventSnapshot
  try dsimp only
  repeat' first
    | with_reducible (first | assumption | refine keeps_fst ?_ (by assumption) | apply keeps_thyTake
                            | apply keeps_dillTrigger | apply keeps_ckptStart | apply keeps_thyFired
                            | apply keepsO_next | apply keeps_ite)
    | simp only [keeps_mk_iff]
    | split

theorem keeps_readRegions : ∀ {s₀ a0} a1, Keeps s₀ a0 → Keeps s₀ (State.readRegions a0 a1).1 := by
  intro s₀ a0 a1 h
  induction a1 generalizing a0
  · unfold State.readRegions
    try dsimp only
    repeat' first
      | with_reducible (first | assumption | refine keeps_fst ?_ (by assumption) | apply keeps_devRead
                              | apply keeps_iteP)
      | simp only [keeps_mk_iff]
      | split
  · rename_i ih
    unfold State.readRegions
    try dsimp only
    repeat' first
      | with_reducible (first | assumption | apply ih | refine keeps_fst ?_ (by assumption) | apply keeps_devRead
                              | apply keeps_iteP)
      | simp only [keeps_mk_iff]
      | split

theorem keeps_ckptDone : ∀ {s₀ a0} a1, Keeps s₀ a0 → Keeps s₀ (State.ckptDone a0 a1) := by
  intro s₀ a0 a1 h
  unfold State.ckptDone
  try dsimp only
  repeat' first
    | with_reducible (first | assumption | refine keeps_fst ?_ (by assumption) | apply keeps_readRegions
                            | apply keeps_bump | apply keeps_devWrite | apply keeps_signal)
    | simp only [keeps_mk_iff]
    | split

theorem keeps_execCheckpointDone : ∀ {s₀ a0}, Keeps s₀ a0 → KeepsO s₀ (execCheckpointDone a0) := by
  intro s₀ a0 h
  unfold execCheckpointDone
  repeat' first
    | with_reducible (first | assumption | refine keeps_fst ?_ (by assumption) | apply keeps_ckptDone
                            | apply keepsO_next)
    | simp only [keeps_mk_iff]
    | split

end Sys2Proof.Machine
end

