-- ==== Sys2Proof/Laws/KeepsRingOps.lean ====
section
/-!
SUPPORT. What the operations of `Machine/RingOps.lean` keep (see `Laws/Keeps.lean`): one lemma per operation.
-/
namespace Sys2Proof.Machine

theorem keeps_setRing : ∀ {s₀ a0} a1, Keeps s₀ a0 → Keeps s₀ (State.setRing a0 a1) := by
  intro s₀ a0 a1 h
  unfold State.setRing
  repeat' first
    | with_reducible (first | assumption | apply keeps_setFld)

theorem keeps_ringClose : ∀ {s₀ a0} a1, Keeps s₀ a0 → Keeps s₀ (State.ringClose a0 a1) := by
  intro s₀ a0 a1 h
  unfold State.ringClose
  try dsimp only
  repeat' first
    | with_reducible (first | assumption | apply keeps_setFld | apply keeps_setRbit | apply keeps_setRing)
    | simp only [keeps_mk_iff]

theorem keeps_ringLeave : ∀ {s₀ a0} a1, Keeps s₀ a0 → Keeps s₀ (State.ringLeave a0 a1) := by
  intro s₀ a0 a1 h
  unfold State.ringLeave
  try dsimp only
  repeat' first
    | with_reducible (first | assumption | apply keeps_ringClose | apply keeps_barBreak | apply keeps_setLock
                            | apply keeps_ite)
    | with_reducible apply keeps_foldl
    | with_reducible apply keeps_foldlP
    | (intro _ _ _; try dsimp only)
    | (intro _ _; try dsimp only)
    | split

theorem keeps_ringJoin : ∀ {s₀ a0}, Keeps s₀ a0 → Keeps s₀ (State.ringJoin a0) := by
  intro s₀ a0 h
  unfold State.ringJoin
  try dsimp only
  repeat' first
    | with_reducible (first | assumption | apply keeps_setRbit | apply keeps_setRing | apply keeps_ite)
    | simp only [keeps_mk_iff]
    | split

end Sys2Proof.Machine
end

