-- ==== Sys2Proof/Laws/KeepsBoot.lean ====
section
/-!
SUPPORT. What the operations of `Machine/Boot.lean` keep (see `Laws/Keeps.lean`): one lemma per operation.
-/
namespace Sys2Proof.Machine

theorem keeps_rwpSet : ∀ {s₀ a0} a1 a2, Keeps s₀ a0 → Keeps s₀ (State.rwpSet a0 a1 a2) := by
  intro s₀ a0 a1 a2 h
  unfold State.rwpSet
  repeat' first
    | with_reducible (first | assumption | apply keeps_setReg)
    | simp only [keeps_mk_iff]

theorem keeps_rwpApply : ∀ {s₀ a0} a1, Keeps s₀ a0 → Keeps s₀ (State.rwpApply a0 a1) := by
  intro s₀ a0 a1 h
  unfold State.rwpApply
  repeat' first
    | with_reducible (first | assumption | apply keeps_rwpSet)
    | with_reducible apply keeps_foldl
    | with_reducible apply keeps_foldlP
    | (intro _ _ _; try dsimp only)
    | (intro _ _; try dsimp only)

theorem keeps_snapshotStore : ∀ {s₀ a0} a1, Keeps s₀ a0 → Keeps s₀ (State.snapshotStore a0 a1) := by
  intro s₀ a0 a1 h
  unfold State.snapshotStore
  try dsimp only
  repeat' first
    | with_reducible (first | assumption | apply keeps_unitRead | apply keeps_bump)
    | simp only [keeps_mk_iff]

theorem keeps_nvsStore : ∀ {s₀ a0}, Keeps s₀ a0 → Keeps s₀ (State.nvsStore a0) := by
  intro s₀ a0 h
  unfold State.nvsStore
  try dsimp only
  repeat' first
    | with_reducible (first | assumption | apply keeps_setRbit | apply keeps_snapshotStore | apply keeps_ite)
    | simp only [keeps_mk_iff]
    | split

theorem keeps_execNvsStore : ∀ {s₀ a1} a0, Keeps s₀ a1 → KeepsO s₀ (execNvsStore a0 a1) := by
  intro s₀ a1 a0 h
  unfold execNvsStore
  repeat' first
    | with_reducible (first | assumption | apply keeps_guarded | apply keeps_nvsStore | apply keepsO_next)

theorem keeps_execNvsStoreDone : ∀ {s₀ a1} a0, Keeps s₀ a1 → KeepsO s₀ (execNvsStoreDone a0 a1) := by
  intro s₀ a1 a0 h
  unfold execNvsStoreDone
  try dsimp only
  repeat' first
    | with_reducible (first | assumption | refine keeps_fst ?_ (by assumption) | apply keeps_setRbit
                            | apply keeps_bump | apply keeps_setReg | apply keepsO_next | apply keeps_ite)
    | simp only [keeps_mk_iff]
    | split

theorem keeps_execNvsDefaults : ∀ {s₀ a1} a0, Keeps s₀ a1 → KeepsO s₀ (execNvsDefaults a0 a1) := by
  intro s₀ a1 a0 h
  unfold execNvsDefaults
  repeat' first
    | with_reducible (first | assumption | apply keeps_guarded | apply keeps_setRbit | apply keepsO_next)
    | simp only [keeps_mk_iff]

theorem keeps_execCounterSnapshot : ∀ {s₀ a0}, Keeps s₀ a0 → KeepsO s₀ (execCounterSnapshot a0) := by
  intro s₀ a0 h
  unfold execCounterSnapshot
  try dsimp only
  repeat' first
    | with_reducible (first | assumption | apply keeps_snapshotStore | apply keepsO_next | apply keeps_ite)
    | simp only [keeps_mk_iff]
    | split

theorem keeps_linksDown : ∀ {s₀ a0}, Keeps s₀ a0 → Keeps s₀ (State.linksDown a0) := by
  intro s₀ a0 h
  unfold State.linksDown
  try dsimp only
  repeat' first
    | with_reducible (first | assumption | apply keeps_linkOut | apply keeps_setRbit)
    | with_reducible apply keeps_foldl
    | with_reducible apply keeps_foldlP
    | (intro _ _ _; try dsimp only)
    | (intro _ _; try dsimp only)

theorem keeps_resetHold : ∀ {s₀ a0}, Keeps s₀ a0 → Keeps s₀ (State.resetHold a0) := by
  intro s₀ a0 h
  unfold State.resetHold
  try dsimp only
  repeat' first
    | with_reducible (first | assumption | apply keeps_linksDown | apply keeps_ringClose | apply keeps_forceFlows
                            | apply keeps_rbAll)
    | simp only [keeps_mk_iff]

theorem keeps_moduleReset : ∀ {s₀ a0}, Keeps s₀ a0 → Keeps s₀ (State.moduleReset a0) := by
  intro s₀ a0 h
  unfold State.moduleReset
  try dsimp only
  repeat' first
    | with_reducible (first | assumption | apply keeps_forceFlows | apply keeps_snapshotStore
                            | apply keeps_leaseStore | apply keeps_resetHold | apply keeps_ite)
    | split

theorem keeps_execModuleReset : ∀ {s₀ a1} a0, Keeps s₀ a1 → KeepsO s₀ (execModuleReset a0 a1) := by
  intro s₀ a1 a0 h
  unfold execModuleReset
  repeat' first
    | with_reducible (first | assumption | apply keeps_moduleReset | apply keepsO_next)
    | split

theorem keeps_bootState {s₀ s : State} (h : Keeps s₀ s) : Keeps s₀ s.bootState := by
  unfold State.bootState
  dsimp only
  rw [keeps_mk_iff, keeps_mk_iff]
  refine keeps_setReg64 _ _ ?_
  have base : Keeps s₀ { s with
      regs := s.regs.filter (fun e => keptRegs.any (fun r => decide (r.1 ≤ e.1) && decide (e.1 < r.2)))
      mem := { nand := s.mem.nand, host := s.mem.host } } :=
    ⟨h.pending, fun w => by
      have := (memory_wf_iff _).1 (h.mem w)
      exact (memory_wf_iff _).2 ⟨rfl, rfl, this.2.2⟩, fun w => regsWf_filter _ (h.regs w)⟩
  split
  · exact keeps_setReg _ _ (keeps_setRbit _ _ _ (keeps_rwpApply _ ⟨base.pending, base.mem, base.regs⟩))
  · exact keeps_setRbit _ _ _ ⟨base.pending, base.mem, base.regs⟩

theorem keeps_execInternalResetRelease : ∀ {s₀ a0}, Keeps s₀ a0 → KeepsO s₀ (execInternalResetRelease a0) := by
  intro s₀ a0 h
  unfold execInternalResetRelease
  repeat' first
    | with_reducible (first | assumption | apply keeps_bootState | apply keepsO_next | apply keeps_ite)
    | split

theorem keeps_execPerstNAssert : ∀ {s₀ a1} a0, Keeps s₀ a1 → KeepsO s₀ (execPerstNAssert a0 a1) := by
  intro s₀ a1 a0 h
  unfold execPerstNAssert
  try dsimp only
  repeat' first
    | with_reducible (first | assumption | apply keeps_setPort | apply keeps_moduleReset | apply keeps_rbUpdate
                            | apply keeps_portReset | apply keepsO_next | apply keeps_ite)
    | simp only [keeps_mk_iff]
    | split

theorem keeps_execPerstNDeassert : ∀ {s₀ a1} a0, Keeps s₀ a1 → KeepsO s₀ (execPerstNDeassert a0 a1) := by
  intro s₀ a1 a0 h
  unfold execPerstNDeassert
  try dsimp only
  repeat' first
    | with_reducible (first | assumption | apply keeps_setPort | apply keeps_bootState | apply keeps_rbUpdate
                            | apply keepsO_next | apply keeps_ite)
    | simp only [keeps_mk_iff]
    | split

end Sys2Proof.Machine
end

