-- ==== Sys2Proof/Laws/KeepsStart.lean ====
section
/-!
SUPPORT. What the operations of `Machine/Start.lean` keep (see `Laws/Keeps.lean`): one lemma per operation.
-/
namespace Sys2Proof.Machine

theorem keeps_startFailed : ∀ {s₀ a0} a1, Keeps s₀ a0 → Keeps s₀ (State.startFailed a0 a1) := by
  intro s₀ a0 a1 h
  unfold State.startFailed
  repeat' first
    | with_reducible (first | assumption | apply keeps_setRbit)

theorem keeps_setBank : ∀ {s₀ a0} a1 a2, Keeps s₀ a0 → Keeps s₀ (State.setBank a0 a1 a2) := by
  intro s₀ a0 a1 a2 h
  unfold State.setBank
  repeat' first
    | with_reducible (first | assumption | apply keeps_setFld)

theorem keeps_chooseBank : ∀ {s₀ a0} a1, Keeps s₀ a0 → Keeps s₀ (State.chooseBank a0 a1).1 := by
  intro s₀ a0 a1 h
  unfold State.chooseBank
  try dsimp only
  repeat' first
    | with_reducible (first | assumption | apply keeps_setBank | apply keeps_startFailed | apply keeps_bump
                            | apply keeps_setFld | apply keeps_presentHub | apply keeps_ite | apply keeps_iteP)
    | simp only [keeps_mk_iff]
    | split

theorem keeps_restoreCounters : ∀ {s₀ a0}, Keeps s₀ a0 → Keeps s₀ (State.restoreCounters a0) := by
  intro s₀ a0 h
  unfold State.restoreCounters
  try dsimp only
  repeat' first
    | with_reducible (first | assumption | refine keeps_fst ?_ (by assumption) | apply keeps_setFld
                            | apply keeps_setReg64)
    | simp only [keeps_mk_iff]
    | split

theorem keeps_showVersions : ∀ {s₀ a0}, Keeps s₀ a0 → Keeps s₀ (State.showVersions a0) := by
  intro s₀ a0 h
  unfold State.showVersions
  repeat' first
    | with_reducible (first | assumption | refine keeps_fst ?_ (by assumption) | apply keeps_setReg)
    | simp only [keeps_mk_iff]
    | with_reducible apply keeps_foldl
    | with_reducible apply keeps_foldlP
    | (intro _ _ _; try dsimp only)
    | (intro _ _; try dsimp only)
    | split

theorem keeps_firmwareStart : ∀ {s₀ a0} a1, Keeps s₀ a0 → Keeps s₀ (State.firmwareStart a0 a1) := by
  intro s₀ a0 a1 h
  unfold State.firmwareStart
  try dsimp only
  repeat' first
    | with_reducible (first | assumption | apply keeps_restoreCounters | apply keeps_showVersions
                            | apply keeps_setFld | apply keeps_setRegWords | apply keeps_wdogKick
                            | apply keeps_stepEnd | apply keeps_ite)
    | simp only [keeps_mk_iff]
    | split

theorem keeps_execFirmwareVerifyDone : ∀ {s₀ a3} a0 a1 a2, Keeps s₀ a3 → KeepsO s₀ (execFirmwareVerifyDone a0 a1 a2 a3) := by
  intro s₀ a3 a0 a1 a2 h
  unfold execFirmwareVerifyDone
  try dsimp only
  repeat' first
    | with_reducible (first | assumption | refine keeps_fst ?_ (by assumption) | apply keeps_setRbit
                            | apply keeps_bump | apply keeps_setFld | apply keeps_presentHub
                            | apply keeps_chooseBank | apply keeps_rbAll | apply keeps_firmwareStart
                            | apply keepsO_next | apply keeps_ite)
    | simp only [keeps_mk_iff]
    | split

theorem keeps_memStep : ∀ {s₀ a0}, Keeps s₀ a0 → Keeps s₀ (State.memStep a0) := by
  intro s₀ a0 h
  unfold State.memStep
  repeat' first
    | with_reducible (first | assumption | apply keeps_stepEnd | apply keeps_ite)
    | split

theorem keeps_execHbmTrainingDone : ∀ {s₀ a2} a0 a1, Keeps s₀ a2 → KeepsO s₀ (execHbmTrainingDone a0 a1 a2) := by
  intro s₀ a2 a0 a1 h
  unfold execHbmTrainingDone
  repeat' first
    | with_reducible (first | assumption | apply keeps_memStep | apply keeps_setRbit | apply keeps_validCode
                            | apply keeps_fenceUnit | apply keepsO_next | apply keeps_ite)
    | split

theorem keeps_lpFailed : ∀ {s₀ a0}, Keeps s₀ a0 → Keeps s₀ (State.lpFailed a0) := by
  intro s₀ a0 h
  unfold State.lpFailed
  try dsimp only
  repeat' first
    | with_reducible (first | assumption | apply keeps_takeRegions | apply keeps_setTenant | apply keeps_ite)
    | simp only [keeps_mk_iff]
    | split

theorem keeps_execLpddrTrainingDone : ∀ {s₀ a1} a0, Keeps s₀ a1 → KeepsO s₀ (execLpddrTrainingDone a0 a1) := by
  intro s₀ a1 a0 h
  unfold execLpddrTrainingDone
  repeat' first
    | with_reducible (first | assumption | apply keeps_memStep | apply keeps_setRbit | apply keeps_validCode
                            | apply keeps_lpFailed | apply keeps_startFailed | apply keepsO_next | apply keeps_ite)
    | split

theorem keeps_execNandReady : ∀ {s₀ a0}, Keeps s₀ a0 → KeepsO s₀ (execNandReady a0) := by
  intro s₀ a0 h
  unfold execNandReady
  repeat' first
    | with_reducible (first | assumption | apply keeps_memStep | apply keeps_setRbit | apply keepsO_next
                            | apply keeps_ite)
    | split

theorem keeps_cfgTake : ∀ {s₀ a0} a1, Keeps s₀ a0 → Keeps s₀ (State.cfgTake a0 a1) := by
  intro s₀ a0 a1 h
  unfold State.cfgTake
  try dsimp only
  repeat' first
    | with_reducible (first | assumption | apply keeps_setRegWords | apply keeps_ite)
    | simp only [keeps_mk_iff]
    | split

theorem keeps_execConfigReadDone : ∀ {s₀ a2} a0 a1, Keeps s₀ a2 → KeepsO s₀ (execConfigReadDone a0 a1 a2) := by
  intro s₀ a2 a0 a1 h
  unfold execConfigReadDone
  try dsimp only
  repeat' first
    | with_reducible (first | assumption | refine keeps_fst ?_ (by assumption) | apply keeps_cfgTake
                            | apply keeps_presentHub | apply keeps_startFailed | apply keeps_ringJoin
                            | apply keeps_phaseStep | apply keeps_thyRestart | apply keeps_stepEnd
                            | apply keepsO_next | apply keeps_ite)
    | simp only [keeps_mk_iff]
    | split

theorem keeps_loadFailed : ∀ {s₀ a0}, Keeps s₀ a0 → Keeps s₀ (State.loadFailed a0) := by
  intro s₀ a0 h
  unfold State.loadFailed
  repeat' first
    | with_reducible (first | assumption | apply keeps_presentHub | apply keeps_startFailed)

theorem keeps_activate0 : ∀ {s₀ a0}, Keeps s₀ a0 → Keeps s₀ (State.activate0 a0) := by
  intro s₀ a0 h
  unfold State.activate0
  try dsimp only
  repeat' first
    | with_reducible (first | assumption | apply keeps_setFld | apply keeps_activate | apply keeps_presentHub
                            | apply keeps_startFailed | apply keeps_stepEnd | apply keeps_ite)
    | simp only [keeps_mk_iff]
    | split

theorem keeps_loadStanding : ∀ {s₀ a0}, Keeps s₀ a0 → Keeps s₀ (State.loadStanding a0) := by
  intro s₀ a0 h
  unfold State.loadStanding
  try dsimp only
  repeat' first
    | with_reducible (first | assumption | refine keeps_fst ?_ (by assumption) | apply keeps_putCrate
                            | apply keeps_imgLoad | apply keeps_loadFailed | apply keeps_ite)
    | simp only [keeps_mk_iff]
    | with_reducible apply keeps_foldl
    | with_reducible apply keeps_foldlP
    | (intro _ _ _; try dsimp only)
    | (intro _ _; try dsimp only)
    | split

theorem keeps_loadPackages : ∀ {s₀ a0} a1 a2, Keeps s₀ a0 → Keeps s₀ (State.loadPackages a0 a1 a2) := by
  intro s₀ a0 a1 a2 h
  induction a2 generalizing a0 a1
  · unfold State.loadPackages
    try dsimp only
    repeat' first
      | with_reducible (first | assumption | refine keeps_fst ?_ (by assumption) | apply keeps_wStart
                              | apply keeps_stage | apply keeps_stepEnd | apply keeps_loadFailed | apply keeps_ite)
      | simp only [keeps_mk_iff]
      | split
  · rename_i ih
    unfold State.loadPackages
    try dsimp only
    repeat' first
      | with_reducible (first | assumption | apply ih | refine keeps_fst ?_ (by assumption) | apply keeps_wStart
                              | apply keeps_stage | apply keeps_stepEnd | apply keeps_loadFailed | apply keeps_ite)
      | simp only [keeps_mk_iff]
      | split

theorem keeps_execStandingLoad : ∀ {s₀ a1} a0, Keeps s₀ a1 → KeepsO s₀ (execStandingLoad a0 a1) := by
  intro s₀ a1 a0 h
  unfold execStandingLoad
  try dsimp only
  repeat' first
    | with_reducible (first | assumption | apply keeps_activate0 | apply keeps_loadStanding
                            | apply keeps_loadPackages | apply keepsO_next | apply keeps_ite)
    | with_reducible apply keeps_foldl
    | with_reducible apply keeps_foldlP
    | (intro _ _ _; try dsimp only)
    | (intro _ _; try dsimp only)
    | split

theorem keeps_execJoinWaitExpiry : ∀ {s₀ a0}, Keeps s₀ a0 → KeepsO s₀ (execJoinWaitExpiry a0) := by
  intro s₀ a0 h
  unfold execJoinWaitExpiry
  repeat' first
    | with_reducible (first | assumption | apply keeps_stepEnd | apply keeps_startFailed | apply keepsO_next
                            | apply keeps_ite)
    | split

theorem keeps_execLockWaitExpiry : ∀ {s₀ a0}, Keeps s₀ a0 → KeepsO s₀ (execLockWaitExpiry a0) := by
  intro s₀ a0 h
  unfold execLockWaitExpiry
  repeat' first
    | with_reducible (first | assumption | apply keeps_stepEnd | apply keeps_forceFlows | apply keeps_startFailed
                            | apply keepsO_next | apply keeps_ite)
    | split

theorem keeps_openStreams : ∀ {s₀ a0} a1, Keeps s₀ a0 → Keeps s₀ (State.openStreams a0 a1) := by
  intro s₀ a0 a1 h
  unfold State.openStreams
  try dsimp only
  repeat' first
    | with_reducible (first | assumption | apply keeps_decodeOpen | apply keeps_putDesc | apply keeps_encodeOpen
                            | apply keeps_ite)
    | with_reducible apply keeps_foldl
    | with_reducible apply keeps_foldlP
    | (intro _ _ _; try dsimp only)
    | (intro _ _; try dsimp only)
    | split

theorem keeps_openFp1 : ∀ {s₀ a0} a1, Keeps s₀ a0 → Keeps s₀ (State.openFp1 a0 a1) := by
  intro s₀ a0 a1 h
  unfold State.openFp1
  try dsimp only
  repeat' first
    | with_reducible (first | assumption | apply keeps_flowDescWrite | apply keeps_flowForce
                            | apply keeps_setRegWords | apply keeps_ite)
    | simp only [keeps_mk_iff]
    | with_reducible apply keeps_foldl
    | with_reducible apply keeps_foldlP
    | (intro _ _ _; try dsimp only)
    | (intro _ _; try dsimp only)
    | split

theorem keeps_openServing : ∀ {s₀ a0} a1, Keeps s₀ a0 → Keeps s₀ (State.openServing a0 a1) := by
  intro s₀ a0 a1 h
  unfold State.openServing
  try dsimp only
  repeat' first
    | with_reducible (first | assumption | apply keeps_setReg64 | apply keeps_hubWrite | apply keeps_ite)
    | simp only [keeps_mk_iff]
    | split

theorem keeps_startEntry : ∀ {s₀ a0} a1, Keeps s₀ a0 → Keeps s₀ (State.startEntry a0 a1) := by
  intro s₀ a0 a1 h
  unfold State.startEntry
  try dsimp only
  repeat' first
    | with_reducible (first | assumption | refine keeps_fst ?_ (by assumption) | apply keeps_jobSubmit
                            | apply keeps_acStart | apply keeps_setReg64 | apply keeps_setReg | apply keeps_ite)
    | simp only [keeps_mk_iff]
    | split

theorem keeps_pipelines : ∀ {s₀ a0}, Keeps s₀ a0 → Keeps s₀ (State.pipelines a0) := by
  intro s₀ a0 h
  unfold State.pipelines
  try dsimp only
  repeat' first
    | with_reducible (first | assumption | apply keeps_openServing | apply keeps_openFp1 | apply keeps_openStreams
                            | apply keeps_startEntry | apply keeps_logConfig | apply keeps_activate | apply keeps_ite)
    | simp only [keeps_mk_iff]
    | with_reducible apply keeps_foldl
    | with_reducible apply keeps_foldlP
    | (intro _ _ _; try dsimp only)
    | (intro _ _; try dsimp only)
    | split

theorem keeps_execPipelineStart : ∀ {s₀ a0}, Keeps s₀ a0 → KeepsO s₀ (execPipelineStart a0) := by
  intro s₀ a0 h
  unfold execPipelineStart
  try dsimp only
  repeat' first
    | with_reducible (first | assumption | apply keeps_stepEnd | apply keeps_pipelines | apply keeps_rbAll
                            | apply keepsO_next | apply keeps_ite)
    | simp only [keeps_mk_iff]
    | split

theorem keeps_execTrialStartTimeout : ∀ {s₀ a0}, Keeps s₀ a0 → KeepsO s₀ (execTrialStartTimeout a0) := by
  intro s₀ a0 h
  unfold execTrialStartTimeout
  repeat' first
    | with_reducible (first | assumption | apply keeps_resetHold | apply keeps_setBank | apply keepsO_next
                            | apply keeps_ite)
    | split

theorem keeps_execFirmwareWatchdogExpiry : ∀ {s₀ a0}, Keeps s₀ a0 → KeepsO s₀ (execFirmwareWatchdogExpiry a0) := by
  intro s₀ a0 h
  unfold execFirmwareWatchdogExpiry
  repeat' first
    | with_reducible (first | assumption | apply keeps_resetHold | apply keeps_setBank | apply keepsO_next
                            | apply keeps_ite)
    | split

theorem keeps_execTrialGood : ∀ {s₀ a0}, Keeps s₀ a0 → KeepsO s₀ (execTrialGood a0) := by
  intro s₀ a0 h
  unfold execTrialGood
  try dsimp only
  repeat' first
    | with_reducible (first | assumption | refine keeps_fst ?_ (by assumption) | apply keeps_setBank
                            | apply keeps_setReg | apply keeps_setFld | apply keepsO_next | apply keeps_ite)
    | simp only [keeps_mk_iff]
    | with_reducible apply keeps_foldl
    | with_reducible apply keeps_foldlP
    | (intro _ _ _; try dsimp only)
    | (intro _ _; try dsimp only)
    | split

end Sys2Proof.Machine
end

