-- ==== Sys2Proof/Laws/KeepsUpdate.lean ====
section
/-!
SUPPORT. What the operations of `Machine/Update.lean` keep (see `Laws/Keeps.lean`): one lemma per operation.
-/
namespace Sys2Proof.Machine

theorem keeps_setUpd : ∀ {s₀ a0} a1, Keeps s₀ a0 → Keeps s₀ (State.setUpd a0 a1) := by
  intro s₀ a0 a1 h
  unfold State.setUpd
  repeat' first
    | with_reducible (first | assumption | apply keeps_setFld)

theorem keeps_updErr : ∀ {s₀ a0} a1, Keeps s₀ a0 → Keeps s₀ (State.updErr a0 a1) := by
  intro s₀ a0 a1 h
  unfold State.updErr
  repeat' first
    | with_reducible (first | assumption | apply keeps_setFld)

theorem keeps_updOp : ∀ {s₀ a0} a1 a2 a3, Keeps s₀ a0 → (∀ t, Keeps s₀ t → Keeps s₀ (a3 t).1) → Keeps s₀ (State.updOp a0 a1 a2 a3) := by
  intro s₀ a0 a1 a2 a3 h ha3
  unfold State.updOp
  try dsimp only
  repeat' first
    | (have e := ha3 _ h; simp_all; done)
    | with_reducible (first | assumption | refine keeps_fst ?_ (by assumption) | apply ha3 | apply keeps_updErr
                            | apply keeps_spdmReply | apply keeps_ite)
    | simp only [keeps_mk_iff]
    | split

theorem keeps_updDrop : ∀ {s₀ a0}, Keeps s₀ a0 → Keeps s₀ (State.updDrop a0) := by
  intro s₀ a0 h
  unfold State.updDrop
  try dsimp only
  repeat' first
    | with_reducible (first | assumption | apply keeps_setRegWords | apply keeps_setReg | apply keeps_setUpd)
    | simp only [keeps_mk_iff]
    | split

theorem keeps_prefixChecks : ∀ {s₀ a0} a1, Keeps s₀ a0 → Keeps s₀ (State.prefixChecks a0 a1).1 := by
  intro s₀ a0 a1 h
  unfold State.prefixChecks
  repeat' first
    | with_reducible (first | assumption | refine keeps_fst ?_ (by assumption) | apply keeps_bump | apply keeps_ite
                            | apply keeps_iteP)
    | simp only [keeps_mk_iff]
    | split

theorem keeps_unitStore : ∀ {s₀ a0} a1 a2, Keeps s₀ a0 → Keeps s₀ (State.unitStore a0 a1 a2) := by
  intro s₀ a0 a1 a2 h
  unfold State.unitStore
  try dsimp only
  repeat' first
    | with_reducible (first | assumption | apply keeps_setFld | apply keeps_ite)
    | simp only [keeps_mk_iff]
    | split

theorem keeps_putPrefix : ∀ {s₀ a0} a1 a2, Keeps s₀ a0 → Keeps s₀ (State.putPrefix a0 a1 a2).1 := by
  intro s₀ a0 a1 a2 h
  unfold State.putPrefix
  try dsimp only
  repeat' first
    | with_reducible (first | assumption | refine keeps_fst ?_ (by assumption) | apply keeps_unitStore
                            | apply keeps_updDrop | apply keeps_setFld | apply keeps_setRegWords
                            | apply keeps_prefixChecks | apply keeps_ite | apply keeps_iteP)
    | simp only [keeps_mk_iff]
    | split

theorem keeps_updPut : ∀ {s₀ a0} a1 a2, Keeps s₀ a0 → Keeps s₀ (State.updPut a0 a1 a2).1 := by
  intro s₀ a0 a1 a2 h
  unfold State.updPut
  try dsimp only
  repeat' first
    | with_reducible (first | assumption | apply keeps_setReg | apply keeps_setUpd | apply keeps_putPrefix
                            | apply keeps_bump | apply keeps_unitStore | apply keeps_ite | apply keeps_iteP)
    | split

theorem keeps_execUpdatePut : ∀ {s₀ a3} a0 a1 a2, Keeps s₀ a3 → KeepsO s₀ (execUpdatePut a0 a1 a2 a3) := by
  intro s₀ a3 a0 a1 a2 h
  unfold execUpdatePut
  repeat' first
    | with_reducible (first | assumption | apply keeps_updOp | apply keeps_updPut | apply keepsO_next)
    | (intro _ _ _; try dsimp only)
    | (intro _ _; try dsimp only)

theorem keeps_updEnd : ∀ {s₀ a0}, Keeps s₀ a0 → Keeps s₀ (State.updEnd a0).1 := by
  intro s₀ a0 h
  unfold State.updEnd
  try dsimp only
  repeat' first
    | with_reducible (first | assumption | refine keeps_fst ?_ (by assumption) | apply keeps_updDrop
                            | apply keeps_bump | apply keeps_setUpd | apply keeps_setBank | apply keeps_ite
                            | apply keeps_iteP)
    | simp only [keeps_mk_iff]
    | with_reducible apply keeps_foldl
    | with_reducible apply keeps_foldlP
    | (intro _ _ _; try dsimp only)
    | (intro _ _; try dsimp only)
    | split

theorem keeps_execUpdateEnd : ∀ {s₀ a1} a0, Keeps s₀ a1 → KeepsO s₀ (execUpdateEnd a0 a1) := by
  intro s₀ a1 a0 h
  unfold execUpdateEnd
  repeat' first
    | with_reducible (first | assumption | apply keeps_updOp | apply keeps_updEnd | apply keepsO_next)
    | (intro _ _ _; try dsimp only)
    | (intro _ _; try dsimp only)

theorem keeps_stage : ∀ {s₀ a0}, Keeps s₀ a0 → Keeps s₀ (State.stage a0) := by
  intro s₀ a0 h
  unfold State.stage
  try dsimp only
  repeat' first
    | with_reducible (first | assumption | apply keeps_setBank | apply keeps_ite)
    | simp only [keeps_mk_iff]
    | split

theorem keeps_execStagingDone : ∀ {s₀ a1} a0, Keeps s₀ a1 → KeepsO s₀ (execStagingDone a0 a1) := by
  intro s₀ a1 a0 h
  unfold execStagingDone
  try dsimp only
  repeat' first
    | with_reducible (first | assumption | apply keeps_bump | apply keeps_setUpd | apply keeps_stage
                            | apply keeps_setBank | apply keeps_updErr | apply keeps_updDrop | apply keepsO_next
                            | apply keeps_ite)
    | split

theorem keeps_armSet : ∀ {s₀ a0} a1 a2 a3, Keeps s₀ a0 → Keeps s₀ (State.armSet a0 a1 a2 a3).1 := by
  intro s₀ a0 a1 a2 a3 h
  unfold State.armSet
  try dsimp only
  repeat' first
    | with_reducible (first | assumption | refine keeps_fst ?_ (by assumption) | apply keeps_setReg64
                            | apply keeps_setReg | apply keeps_setUpd | apply keeps_setEvt | apply keeps_ite
                            | apply keeps_iteP)
    | simp only [keeps_mk_iff]
    | split

theorem keeps_armPoint : ∀ {s₀ a0} a1 a2 a3, Keeps s₀ a0 → Keeps s₀ (State.armPoint a0 a1 a2 a3).1 := by
  intro s₀ a0 a1 a2 a3 h
  unfold State.armPoint
  repeat' first
    | with_reducible (first | assumption | apply keeps_armSet | apply keeps_ite | apply keeps_iteP)
    | split

theorem keeps_updArm : ∀ {s₀ a0} a1 a2 a3 a4, Keeps s₀ a0 → Keeps s₀ (State.updArm a0 a1 a2 a3 a4).1 := by
  intro s₀ a0 a1 a2 a3 a4 h
  unfold State.updArm
  try dsimp only
  repeat' first
    | with_reducible (first | assumption | refine keeps_fst ?_ (by assumption) | apply keeps_armPoint
                            | apply keeps_ringSend | apply keeps_ite | apply keeps_iteP)
    | simp only [keeps_mk_iff]
    | split

theorem keeps_execUpdateArm : ∀ {s₀ a5} a0 a1 a2 a3 a4, Keeps s₀ a5 → KeepsO s₀ (execUpdateArm a0 a1 a2 a3 a4 a5) := by
  intro s₀ a5 a0 a1 a2 a3 a4 h
  unfold execUpdateArm
  repeat' first
    | with_reducible (first | assumption | apply keeps_updOp | apply keeps_updArm | apply keepsO_next)
    | (intro _ _ _; try dsimp only)
    | (intro _ _; try dsimp only)
    | split

theorem keeps_disarm : ∀ {s₀ a0}, Keeps s₀ a0 → Keeps s₀ (State.disarm a0) := by
  intro s₀ a0 h
  unfold State.disarm
  try dsimp only
  repeat' first
    | with_reducible (first | assumption | refine keeps_fst ?_ (by assumption) | apply keeps_setEvt
                            | apply keeps_setReg64 | apply keeps_setReg | apply keeps_ite)
    | simp only [keeps_mk_iff]
    | split

theorem keeps_updDisarm : ∀ {s₀ a0}, Keeps s₀ a0 → Keeps s₀ (State.updDisarm a0).1 := by
  intro s₀ a0 h
  unfold State.updDisarm
  repeat' first
    | with_reducible (first | assumption | apply keeps_setUpd | apply keeps_disarm | apply keeps_ite | apply keeps_iteP)
    | split

theorem keeps_updAbort : ∀ {s₀ a0}, Keeps s₀ a0 → Keeps s₀ (State.updAbort a0).1 := by
  intro s₀ a0 h
  unfold State.updAbort
  repeat' first
    | with_reducible (first | assumption | apply keeps_updDrop | apply keeps_setBank | apply keeps_ite
                            | apply keeps_iteP)
    | split

theorem keeps_updReg : ∀ {s₀ a0} a1, Keeps s₀ a0 → (∀ t, Keeps s₀ t → Keeps s₀ (a1 t).1) → Keeps s₀ (State.updReg a0 a1) := by
  intro s₀ a0 a1 h ha1
  unfold State.updReg
  repeat' first
    | (have e := ha1 _ h; simp_all; done)
    | with_reducible (first | assumption | refine keeps_fst ?_ (by assumption) | apply ha1 | apply keeps_updErr)
    | simp only [keeps_mk_iff]
    | split

theorem keeps_execUpdateDisarm : ∀ {s₀ a1} a0, Keeps s₀ a1 → KeepsO s₀ (execUpdateDisarm a0 a1) := by
  intro s₀ a1 a0 h
  unfold execUpdateDisarm
  repeat' first
    | with_reducible (first | assumption | refine keeps_fst ?_ (by assumption) | apply keeps_updOp
                            | apply keeps_updDisarm | apply keeps_guarded | apply keeps_updReg | apply keepsO_next)
    | simp only [keeps_mk_iff]
    | (intro _ _ _; try dsimp only)
    | (intro _ _; try dsimp only)
    | split

theorem keeps_execUpdateAbort : ∀ {s₀ a1} a0, Keeps s₀ a1 → KeepsO s₀ (execUpdateAbort a0 a1) := by
  intro s₀ a1 a0 h
  unfold execUpdateAbort
  repeat' first
    | with_reducible (first | assumption | refine keeps_fst ?_ (by assumption) | apply keeps_updOp
                            | apply keeps_updAbort | apply keeps_guarded | apply keeps_updReg | apply keepsO_next)
    | simp only [keeps_mk_iff]
    | (intro _ _ _; try dsimp only)
    | (intro _ _; try dsimp only)
    | split

theorem keeps_execUpdateStatus : ∀ {s₀ a1} a0, Keeps s₀ a1 → KeepsO s₀ (execUpdateStatus a0 a1) := by
  intro s₀ a1 a0 h
  unfold execUpdateStatus
  repeat' first
    | with_reducible (first | assumption | apply keeps_spdmReply | apply keepsO_next)
    | split

theorem keeps_stepHead : ∀ {s₀ a0}, Keeps s₀ a0 → Keeps s₀ (State.stepHead a0) := by
  intro s₀ a0 h
  unfold State.stepHead
  try dsimp only
  repeat' first
    | with_reducible (first | assumption | apply keeps_setFld | apply keeps_ite)
    | simp only [keeps_mk_iff]
    | split

theorem keeps_activateNow : ∀ {s₀ a0}, Keeps s₀ a0 → Keeps s₀ (State.activateNow a0) := by
  intro s₀ a0 h
  unfold State.activateNow
  try dsimp only
  repeat' first
    | with_reducible (first | assumption | apply keeps_bump | apply keeps_disarm | apply keeps_moduleReset
                            | apply keeps_setUpd | apply keeps_setFld | apply keeps_stepHead | apply keeps_ite)
    | simp only [keeps_mk_iff]
    | split

theorem keeps_execActivationPoint : ∀ {s₀ a0}, Keeps s₀ a0 → KeepsO s₀ (execActivationPoint a0) := by
  intro s₀ a0 h
  unfold execActivationPoint
  repeat' first
    | with_reducible (first | assumption | refine keeps_fst ?_ (by assumption) | apply keeps_activateNow
                            | apply keepsO_next)
    | simp only [keeps_mk_iff]
    | split

theorem keeps_execEventActivate : ∀ {s₀ a1} a0, Keeps s₀ a1 → KeepsO s₀ (execEventActivate a0 a1) := by
  intro s₀ a1 a0 h
  unfold execEventActivate
  try dsimp only
  repeat' first
    | with_reducible (first | assumption | refine keeps_fst ?_ (by assumption) | apply keeps_thyTake
                            | apply keeps_thyFired | apply keeps_activateNow | apply keepsO_next)
    | simp only [keeps_mk_iff]
    | split

theorem keeps_runComp : ∀ {s₀ a0} a1 a2, Keeps s₀ a0 → Keeps s₀ (State.runComp a0 a1 a2) := by
  intro s₀ a0 a1 a2 h
  unfold State.runComp
  try dsimp only
  repeat' first
    | with_reducible (first | assumption | apply keeps_setReg | apply keeps_ite)
    | simp only [keeps_mk_iff]
    | split

theorem keeps_rollback : ∀ {s₀ a0}, Keeps s₀ a0 → Keeps s₀ (State.rollback a0) := by
  intro s₀ a0 h
  unfold State.rollback
  try dsimp only
  repeat' first
    | with_reducible (first | assumption | apply keeps_runComp | apply keeps_setUpd | apply keeps_setFld
                            | apply keeps_updErr | apply keeps_bump | apply keeps_setBank)
    | simp only [keeps_mk_iff]
    | with_reducible apply keeps_foldl
    | with_reducible apply keeps_foldlP
    | (intro _ _ _; try dsimp only)
    | (intro _ _; try dsimp only)

theorem keeps_activated : ∀ {s₀ a0}, Keeps s₀ a0 → Keeps s₀ (State.activated a0) := by
  intro s₀ a0 h
  unfold State.activated
  try dsimp only
  repeat' first
    | with_reducible (first | assumption | apply keeps_setUpd | apply keeps_setFld | apply keeps_setBank
                            | apply keeps_logConfig)
    | simp only [keeps_mk_iff]

theorem keeps_execComponentSwitch : ∀ {s₀ a1} a0, Keeps s₀ a1 → KeepsO s₀ (execComponentSwitch a0 a1) := by
  intro s₀ a1 a0 h
  unfold execComponentSwitch
  try dsimp only
  repeat' first
    | with_reducible (first | assumption | refine keeps_fst ?_ (by assumption) | apply keeps_runComp
                            | apply keeps_rollback | apply keeps_activated | apply keeps_stepHead
                            | apply keepsO_next | apply keeps_ite)
    | simp only [keeps_mk_iff]
    | split

theorem keeps_execActivationLimitExpiry : ∀ {s₀ a0}, Keeps s₀ a0 → KeepsO s₀ (execActivationLimitExpiry a0) := by
  intro s₀ a0 h
  unfold execActivationLimitExpiry
  repeat' first
    | with_reducible (first | assumption | refine keeps_fst ?_ (by assumption) | apply keeps_rollback
                            | apply keepsO_next)
    | simp only [keeps_mk_iff]
    | split

end Sys2Proof.Machine
end

