-- ==== Sys2Proof/Laws/KeepsPower.lean ====
section
/-!
SUPPORT. What the operations of `Machine/Power.lean` keep (see `Laws/Keeps.lean`): one lemma per operation.
-/
namespace Sys2Proof.Machine

theorem keeps_setLevel : ∀ {s₀ a0} a1 a2, Keeps s₀ a0 → Keeps s₀ (State.setLevel a0 a1 a2) := by
  intro s₀ a0 a1 a2 h
  unfold State.setLevel
  try dsimp only
  repeat' first
    | with_reducible (first | assumption | apply keeps_setFld | apply keeps_ite)
    | with_reducible apply keeps_foldl
    | with_reducible apply keeps_foldlP
    | (intro _ _ _; try dsimp only)
    | (intro _ _; try dsimp only)
    | split

theorem keeps_setStackB : ∀ {s₀ a0} a1 a2, Keeps s₀ a0 → Keeps s₀ (State.setStackB a0 a1 a2) := by
  intro s₀ a0 a1 a2 h
  unfold State.setStackB
  try dsimp only
  repeat' first
    | with_reducible (first | assumption | apply keeps_setFld)
    | with_reducible apply keeps_foldl
    | with_reducible apply keeps_foldlP
    | (intro _ _ _; try dsimp only)
    | (intro _ _; try dsimp only)

theorem keeps_levelsUp : ∀ {s₀ a0} a1, Keeps s₀ a0 → Keeps s₀ (State.levelsUp a0 a1) := by
  intro s₀ a0 a1 h
  unfold State.levelsUp
  repeat' first
    | with_reducible (first | assumption | apply keeps_setLevel)
    | with_reducible apply keeps_foldl
    | with_reducible apply keeps_foldlP
    | (intro _ _ _; try dsimp only)
    | (intro _ _; try dsimp only)

theorem keeps_stacksDown : ∀ {s₀ a0}, Keeps s₀ a0 → Keeps s₀ (State.stacksDown a0) := by
  intro s₀ a0 h
  unfold State.stacksDown
  repeat' first
    | with_reducible (first | assumption | apply keeps_setStackB)
    | with_reducible apply keeps_foldl
    | with_reducible apply keeps_foldlP
    | (intro _ _ _; try dsimp only)
    | (intro _ _; try dsimp only)

theorem keeps_setFast : ∀ {s₀ a0} a1, Keeps s₀ a0 → Keeps s₀ (State.setFast a0 a1) := by
  intro s₀ a0 a1 h
  unfold State.setFast
  repeat' first
    | with_reducible (first | assumption | apply keeps_setRbit)
    | with_reducible apply keeps_foldl
    | with_reducible apply keeps_foldlP
    | (intro _ _ _; try dsimp only)
    | (intro _ _; try dsimp only)

theorem keeps_powerFault : ∀ {s₀ a0} a1, Keeps s₀ a0 → Keeps s₀ (State.powerFault a0 a1) := by
  intro s₀ a0 a1 h
  unfold State.powerFault
  repeat' first
    | with_reducible (first | assumption | apply keeps_presentHub | apply keeps_setFld)

theorem keeps_shutDown : ∀ {s₀ a0} a1, Keeps s₀ a0 → Keeps s₀ (State.shutDown a0 a1) := by
  intro s₀ a0 a1 h
  unfold State.shutDown
  try dsimp only
  repeat' first
    | with_reducible (first | assumption | apply keeps_bump | apply keeps_powerFault | apply keeps_snapshotStore
                            | apply keeps_leaseStore | apply keeps_ite)
    | simp only [keeps_mk_iff]
    | split

theorem keeps_goDark : ∀ {s₀ a0}, Keeps s₀ a0 → Keeps s₀ (State.goDark a0) := by
  intro s₀ a0 h
  unfold State.goDark
  try dsimp only
  repeat' first
    | with_reducible (first | assumption | apply keeps_linksDown | apply keeps_ringClose | apply keeps_rbAll)
    | simp only [keeps_mk_iff]

theorem keeps_execShutdownRailsOff : ∀ {s₀ a0}, Keeps s₀ a0 → KeepsO s₀ (execShutdownRailsOff a0) := by
  intro s₀ a0 h
  unfold execShutdownRailsOff
  repeat' first
    | with_reducible (first | assumption | refine keeps_fst ?_ (by assumption) | apply keeps_goDark | apply keepsO_next)
    | simp only [keeps_mk_iff]
    | split

theorem keeps_takeSensors : ∀ {s₀ a0} a1 a2 a3, Keeps s₀ a0 → Keeps s₀ (State.takeSensors a0 a1 a2 a3) := by
  intro s₀ a0 a1 a2 a3 h
  unfold State.takeSensors
  try dsimp only
  repeat' first
    | with_reducible (first | assumption | refine keeps_fst ?_ (by assumption) | apply keeps_setFld
                            | apply keeps_setReg | apply keeps_bumpBy)
    | simp only [keeps_mk_iff]
    | with_reducible apply keeps_foldl
    | with_reducible apply keeps_foldlP
    | (intro _ _ _; try dsimp only)
    | (intro _ _; try dsimp only)
    | split

theorem keeps_clampStart : ∀ {s₀ a0}, Keeps s₀ a0 → Keeps s₀ (State.clampStart a0) := by
  intro s₀ a0 h
  unfold State.clampStart
  try dsimp only
  repeat' first
    | with_reducible (first | assumption | apply keeps_setFast | apply keeps_stacksDown | apply keeps_levelsUp
                            | apply keeps_bump | apply keeps_setRbit)
    | simp only [keeps_mk_iff]

theorem keeps_clampRelease : ∀ {s₀ a0}, Keeps s₀ a0 → Keeps s₀ (State.clampRelease a0) := by
  intro s₀ a0 h
  unfold State.clampRelease
  repeat' first
    | with_reducible (first | assumption | apply keeps_setFast | apply keeps_setRbit)
    | simp only [keeps_mk_iff]

theorem keeps_clampFault : ∀ {s₀ a0}, Keeps s₀ a0 → Keeps s₀ (State.clampFault a0) := by
  intro s₀ a0 h
  unfold State.clampFault
  try dsimp only
  repeat' first
    | with_reducible (first | assumption | refine keeps_fst ?_ (by assumption) | apply keeps_powerFault
                            | apply keeps_ite)
    | simp only [keeps_mk_iff]
    | split

theorem keeps_stopTest : ∀ {s₀ a0}, Keeps s₀ a0 → Keeps s₀ (State.stopTest a0) := by
  intro s₀ a0 h
  unfold State.stopTest
  try dsimp only
  repeat' first
    | with_reducible (first | assumption | apply keeps_clampFault | apply keeps_setFld | apply keeps_setRbit
                            | apply keeps_clampStart | apply keeps_clampRelease | apply keeps_ite)
    | simp only [keeps_mk_iff]
    | split

theorem keeps_thermalFaults : ∀ {s₀ a0} a1, Keeps s₀ a0 → Keeps s₀ (State.thermalFaults a0 a1) := by
  intro s₀ a0 a1 h
  unfold State.thermalFaults
  try dsimp only
  repeat' first
    | with_reducible (first | assumption | apply keeps_setLevel | apply keeps_powerFault | apply keeps_levelsUp
                            | apply keeps_shutDown | apply keeps_ite)
    | simp only [keeps_mk_iff]
    | with_reducible apply keeps_foldl
    | with_reducible apply keeps_foldlP
    | (intro _ _ _; try dsimp only)
    | (intro _ _; try dsimp only)
    | split

theorem keeps_execSensorSample : ∀ {s₀ a2} a0 a1, Keeps s₀ a2 → KeepsO s₀ (execSensorSample a0 a1 a2) := by
  intro s₀ a2 a0 a1 h
  unfold execSensorSample
  try dsimp only
  repeat' first
    | with_reducible (first | assumption | apply keeps_takeSensors | apply keeps_setRbit
                            | apply keeps_thermalFaults | apply keeps_stopTest | apply keepsO_next | apply keeps_ite)
    | simp only [keeps_mk_iff]
    | split

theorem keeps_execCoolOkChange : ∀ {s₀ a1} a0, Keeps s₀ a1 → KeepsO s₀ (execCoolOkChange a0 a1) := by
  intro s₀ a1 a0 h
  unfold execCoolOkChange
  repeat' first
    | with_reducible (first | assumption | apply keepsO_next)
    | simp only [keeps_mk_iff]

theorem keeps_execClampTimeout : ∀ {s₀ a0}, Keeps s₀ a0 → KeepsO s₀ (execClampTimeout a0) := by
  intro s₀ a0 h
  unfold execClampTimeout
  repeat' first
    | with_reducible (first | assumption | refine keeps_fst ?_ (by assumption) | apply keeps_clampRelease
                            | apply keeps_clampFault | apply keepsO_next)
    | simp only [keeps_mk_iff]
    | split

theorem keeps_limiterHold : ∀ {s₀ a0}, Keeps s₀ a0 → Keeps s₀ (State.limiterHold a0) := by
  intro s₀ a0 h
  unfold State.limiterHold
  try dsimp only
  repeat' first
    | with_reducible (first | assumption | apply keeps_stacksDown | apply keeps_levelsUp | apply keeps_bump
                            | apply keeps_setRbit | apply keeps_ite)
    | simp only [keeps_mk_iff]
    | split

theorem keeps_execInputSample : ∀ {s₀ a2} a0 a1, Keeps s₀ a2 → KeepsO s₀ (execInputSample a0 a1 a2) := by
  intro s₀ a2 a0 a1 h
  unfold execInputSample
  try dsimp only
  repeat' first
    | with_reducible (first | assumption | apply keeps_setFld | apply keeps_bump | apply keeps_setFast
                            | apply keeps_levelsUp | apply keeps_limiterHold | apply keepsO_next | apply keeps_ite)
    | simp only [keeps_mk_iff]
    | split

theorem keeps_execInputVoltageFault : ∀ {s₀ a0}, Keeps s₀ a0 → KeepsO s₀ (execInputVoltageFault a0) := by
  intro s₀ a0 h
  unfold execInputVoltageFault
  repeat' first
    | with_reducible (first | assumption | refine keeps_fst ?_ (by assumption) | apply keeps_shutDown
                            | apply keepsO_next)
    | simp only [keeps_mk_iff]
    | split

theorem keeps_execRegulatorFault : ∀ {s₀ a0}, Keeps s₀ a0 → KeepsO s₀ (execRegulatorFault a0) := by
  intro s₀ a0 h
  unfold execRegulatorFault
  repeat' first
    | with_reducible (first | assumption | apply keeps_shutDown | apply keepsO_next)
    | split

theorem keeps_execInputDropout : ∀ {s₀ a1} a0, Keeps s₀ a1 → KeepsO s₀ (execInputDropout a0 a1) := by
  intro s₀ a1 a0 h
  unfold execInputDropout
  try dsimp only
  repeat' first
    | with_reducible (first | assumption | apply keeps_ringLeave | apply keepsO_next | apply keeps_ite)
    | simp only [keeps_mk_iff]
    | split

theorem keeps_pAllow : ∀ {s₀ a0} a1 a2 a3, Keeps s₀ a0 → Keeps s₀ (State.pAllow a0 a1 a2 a3).1 := by
  intro s₀ a0 a1 a2 a3 h
  unfold State.pAllow
  try dsimp only
  repeat' first
    | with_reducible (first | assumption | refine keeps_fst ?_ (by assumption) | apply keeps_free | apply keeps_ite
                            | apply keeps_iteP)
    | split

theorem keeps_throttle : ∀ {s₀ a0} a1 a2 a3 a4, Keeps s₀ a0 → Keeps s₀ (State.throttle a0 a1 a2 a3 a4) := by
  intro s₀ a0 a1 a2 a3 a4 h
  unfold State.throttle
  try dsimp only
  repeat' first
    | with_reducible (first | assumption | apply keeps_setLevel | apply keeps_setStackB | apply keeps_ite)
    | split

theorem keeps_trend : ∀ {s₀ a0} a1 a2, Keeps s₀ a0 → Keeps s₀ (State.trend a0 a1 a2) := by
  intro s₀ a0 a1 a2 h
  unfold State.trend
  try dsimp only
  repeat' first
    | with_reducible (first | assumption | apply keeps_mgmtAttention | apply keeps_bump | apply keeps_setRbit
                            | apply keeps_ite)
    | simp only [keeps_mk_iff]
    | split

theorem keeps_baseline : ∀ {s₀ a0} a1 a2 a3, Keeps s₀ a0 → Keeps s₀ (State.baseline a0 a1 a2 a3) := by
  intro s₀ a0 a1 a2 a3 h
  unfold State.baseline
  try dsimp only
  repeat' first
    | with_reducible (first | assumption | apply keeps_ite)
    | simp only [keeps_mk_iff]
    | split

theorem keeps_governDomain : ∀ {s₀ a0} a1, Keeps s₀ a0 → Keeps s₀ (State.governDomain a0 a1) := by
  intro s₀ a0 a1 h
  unfold State.governDomain
  try dsimp only
  repeat' first
    | with_reducible (first | assumption | refine keeps_fst ?_ (by assumption) | apply keeps_pAllow
                            | apply keeps_setFld | apply keeps_throttle | apply keeps_baseline | apply keeps_trend)
    | simp only [keeps_mk_iff]
    | split

theorem keeps_holdEnd : ∀ {s₀ a0} a1, Keeps s₀ a0 → Keeps s₀ (State.holdEnd a0 a1) := by
  intro s₀ a0 a1 h
  unfold State.holdEnd
  repeat' first
    | with_reducible (first | assumption | refine keeps_fst ?_ (by assumption) | apply keeps_setRbit | apply keeps_ite)
    | simp only [keeps_mk_iff]
    | split

theorem keeps_execGovernorPeriod : ∀ {s₀ a0}, Keeps s₀ a0 → KeepsO s₀ (execGovernorPeriod a0) := by
  intro s₀ a0 h
  unfold execGovernorPeriod
  try dsimp only
  repeat' first
    | with_reducible (first | assumption | apply keeps_holdEnd | apply keeps_setFast | apply keeps_setRbit
                            | apply keeps_bump | apply keeps_governDomain | apply keepsO_next | apply keeps_ite)
    | simp only [keeps_mk_iff]
    | with_reducible apply keeps_foldl
    | with_reducible apply keeps_foldlP
    | (intro _ _ _; try dsimp only)
    | (intro _ _; try dsimp only)
    | split

theorem keeps_execBaselineSet : ∀ {s₀ a1} a0, Keeps s₀ a1 → KeepsO s₀ (execBaselineSet a0 a1) := by
  intro s₀ a1 a0 h
  unfold execBaselineSet
  repeat' first
    | with_reducible (first | assumption | apply keeps_setFld | apply keepsO_next | apply keeps_ite)
    | split

theorem keeps_execModPwrEnRise : ∀ {s₀ a0}, Keeps s₀ a0 → KeepsO s₀ (execModPwrEnRise a0) := by
  intro s₀ a0 h
  unfold execModPwrEnRise
  repeat' first
    | with_reducible (first | assumption | apply keepsO_next | apply keeps_ite)
    | simp only [keeps_mk_iff]
    | split

theorem keeps_execModPwrEnFall : ∀ {s₀ a0}, Keeps s₀ a0 → KeepsO s₀ (execModPwrEnFall a0) := by
  intro s₀ a0 h
  unfold execModPwrEnFall
  repeat' first
    | with_reducible (first | assumption | apply keeps_goDark | apply keepsO_next)
    | simp only [keeps_mk_iff]

theorem keeps_fenceStatus : ∀ {s₀ a0} a1 a2, Keeps s₀ a0 → Keeps s₀ (State.fenceStatus a0 a1 a2) := by
  intro s₀ a0 a1 a2 h
  unfold State.fenceStatus
  repeat' first
    | with_reducible (first | assumption | apply keeps_setFld)

theorem keeps_unitTest : ∀ {s₀ a0} a1, Keeps s₀ a0 → Keeps s₀ (State.unitTest a0 a1) := by
  intro s₀ a0 a1 h
  unfold State.unitTest
  repeat' first
    | with_reducible (first | assumption | apply keeps_fenceStatus | apply keeps_setFld | apply keeps_ite)
    | simp only [keeps_mk_iff]
    | split

theorem keeps_unitFence : ∀ {s₀ a0} a1, Keeps s₀ a0 → Keeps s₀ (State.unitFence a0 a1) := by
  intro s₀ a0 a1 h
  unfold State.unitFence
  repeat' first
    | with_reducible (first | assumption | apply keeps_fenceStatus | apply keeps_fenceUnit | apply keeps_ite)
    | split

theorem keeps_stackLift : ∀ {s₀ a0} a1, Keeps s₀ a0 → Keeps s₀ (State.stackLift a0 a1) := by
  intro s₀ a0 a1 h
  unfold State.stackLift
  try dsimp only
  repeat' first
    | with_reducible (first | assumption | apply keeps_setRbit | apply keeps_setRegion)
    | with_reducible apply keeps_foldl
    | with_reducible apply keeps_foldlP
    | (intro _ _ _; try dsimp only)
    | (intro _ _; try dsimp only)

theorem keeps_fenceLift : ∀ {s₀ a0} a1, Keeps s₀ a0 → Keeps s₀ (State.fenceLift a0 a1) := by
  intro s₀ a0 a1 h
  unfold State.fenceLift
  try dsimp only
  repeat' first
    | with_reducible (first | assumption | apply keeps_fenceStatus | apply keeps_stackLift | apply keeps_ite)
    | simp only [keeps_mk_iff]
    | split

theorem keeps_fenceWrite : ∀ {s₀ a0} a1, Keeps s₀ a0 → Keeps s₀ (State.fenceWrite a0 a1) := by
  intro s₀ a0 a1 h
  unfold State.fenceWrite
  try dsimp only
  repeat' first
    | with_reducible (first | assumption | refine keeps_fst ?_ (by assumption) | apply keeps_unitTest
                            | apply keeps_unitFence | apply keeps_fenceLift)
    | simp only [keeps_mk_iff]
    | split

theorem keeps_execUnitTest : ∀ {s₀ a2} a0 a1, Keeps s₀ a2 → KeepsO s₀ (execUnitTest a0 a1 a2) := by
  intro s₀ a2 a0 a1 h
  unfold execUnitTest
  repeat' first
    | with_reducible (first | assumption | apply keeps_guarded | apply keeps_unitTest | apply keepsO_next)

theorem keeps_execUnitFence : ∀ {s₀ a2} a0 a1, Keeps s₀ a2 → KeepsO s₀ (execUnitFence a0 a1 a2) := by
  intro s₀ a2 a0 a1 h
  unfold execUnitFence
  repeat' first
    | with_reducible (first | assumption | apply keeps_guarded | apply keeps_unitFence | apply keepsO_next)

theorem keeps_execFenceLift : ∀ {s₀ a2} a0 a1, Keeps s₀ a2 → KeepsO s₀ (execFenceLift a0 a1 a2) := by
  intro s₀ a2 a0 a1 h
  unfold execFenceLift
  repeat' first
    | with_reducible (first | assumption | apply keeps_guarded | apply keeps_fenceLift | apply keepsO_next)

theorem keeps_execUnitTestDone : ∀ {s₀ a1} a0, Keeps s₀ a1 → KeepsO s₀ (execUnitTestDone a0 a1) := by
  intro s₀ a1 a0 h
  unfold execUnitTestDone
  try dsimp only
  repeat' first
    | with_reducible (first | assumption | refine keeps_fst ?_ (by assumption) | apply keeps_freeBytes
                            | apply keeps_rawWrite | apply keeps_validCode | apply keeps_setFld | apply keepsO_next
                            | apply keeps_ite)
    | simp only [keeps_mk_iff]
    | with_reducible apply keeps_foldl
    | with_reducible apply keeps_foldlP
    | (intro _ _ _; try dsimp only)
    | (intro _ _; try dsimp only)
    | split

end Sys2Proof.Machine
end

