-- ==== Sys2Proof/Laws/KeepsRing.lean ====
section
/-!
SUPPORT. What the operations of `Machine/Ring.lean` keep (see `Laws/Keeps.lean`): one lemma per operation.
-/
namespace Sys2Proof.Machine

theorem keeps_ringOut : ∀ {s₀ a0} a1 a2 a3 a4 a5, Keeps s₀ a0 → Keeps s₀ (State.ringOut a0 a1 a2 a3 a4 a5) := by
  intro s₀ a0 a1 a2 a3 a4 a5 h
  unfold State.ringOut
  repeat' first
    | with_reducible (first | assumption | apply keeps_send | apply keeps_ringCount)

theorem keeps_joinSend : ∀ {s₀ a0} a1 a2 a3, Keeps s₀ a0 → Keeps s₀ (State.joinSend a0 a1 a2 a3) := by
  intro s₀ a0 a1 a2 a3 h
  unfold State.joinSend
  repeat' first
    | with_reducible (first | assumption | apply keeps_ringOut)
    | with_reducible apply keeps_foldl
    | with_reducible apply keeps_foldlP
    | (intro _ _ _; try dsimp only)
    | (intro _ _; try dsimp only)

theorem keeps_helloSend : ∀ {s₀ a0} a1, Keeps s₀ a0 → Keeps s₀ (State.helloSend a0 a1) := by
  intro s₀ a0 a1 h
  unfold State.helloSend
  try dsimp only
  repeat' first
    | with_reducible (first | assumption | refine keeps_fst ?_ (by assumption) | apply keeps_free
                            | apply keeps_newKey | apply keeps_joinSend)
    | simp only [keeps_mk_iff]
    | split

theorem keeps_ringKeyed : ∀ {s₀ a0}, Keeps s₀ a0 → Keeps s₀ (State.ringKeyed a0) := by
  intro s₀ a0 h
  unfold State.ringKeyed
  try dsimp only
  repeat' first
    | with_reducible (first | assumption | apply keeps_bump | apply keeps_setRing | apply keeps_stepEnd
                            | apply keeps_ite)
    | split

theorem keeps_helloTake : ∀ {s₀ a0} a1 a2, Keeps s₀ a0 → Keeps s₀ (State.helloTake a0 a1 a2) := by
  intro s₀ a0 a1 a2 h
  unfold State.helloTake
  try dsimp only
  repeat' first
    | with_reducible (first | assumption | refine keeps_fst ?_ (by assumption) | apply keeps_bump
                            | apply keeps_free | apply keeps_newKey | apply keeps_joinSend | apply keeps_setFld
                            | apply keeps_ringKeyed | apply keeps_ite)
    | simp only [keeps_mk_iff]
    | split

theorem keeps_shareTake : ∀ {s₀ a0} a1 a2, Keeps s₀ a0 → Keeps s₀ (State.shareTake a0 a1 a2) := by
  intro s₀ a0 a1 a2 h
  unfold State.shareTake
  try dsimp only
  repeat' first
    | with_reducible (first | assumption | refine keeps_fst ?_ (by assumption) | apply keeps_bump
                            | apply keeps_setFld | apply keeps_ringKeyed | apply keeps_ite)
    | simp only [keeps_mk_iff]
    | split

theorem keeps_ringReform : ∀ {s₀ a0}, Keeps s₀ a0 → Keeps s₀ (State.ringReform a0) := by
  intro s₀ a0 h
  unfold State.ringReform
  try dsimp only
  repeat' first
    | with_reducible (first | assumption | apply keeps_thyHoldover | apply keeps_setFld | apply keeps_setRing)
    | simp only [keeps_mk_iff]

theorem keeps_heard : ∀ {s₀ a0} a1, Keeps s₀ a0 → Keeps s₀ (State.heard a0 a1) := by
  intro s₀ a0 a1 h
  unfold State.heard
  try dsimp only
  repeat' first
    | with_reducible (first | assumption | apply keeps_helloSend | apply keeps_ite)
    | simp only [keeps_mk_iff]
    | split

theorem keeps_ringFail : ∀ {s₀ a0} a1 a2, Keeps s₀ a0 → Keeps s₀ (State.ringFail a0 a1 a2) := by
  intro s₀ a0 a1 a2 h
  unfold State.ringFail
  try dsimp only
  repeat' first
    | with_reducible (first | assumption | apply keeps_bumpBy | apply keeps_heard | apply keeps_ringReform
                            | apply keeps_ite)
    | simp only [keeps_mk_iff]
    | split

theorem keeps_ringDuplicate : ∀ {s₀ a0}, Keeps s₀ a0 → Keeps s₀ (State.ringDuplicate a0) := by
  intro s₀ a0 h
  unfold State.ringDuplicate
  repeat' first
    | with_reducible (first | assumption | apply keeps_ringLeave | apply keeps_bump)

theorem keeps_ringRx : ∀ {s₀ a0} a1 a2 a3 a4, Keeps s₀ a0 → (∀ t x, Keeps s₀ t → Keeps s₀ (a3 t x)) → (∀ t x, Keeps s₀ t → Keeps s₀ (a4 t x)) → Keeps s₀ (State.ringRx a0 a1 a2 a3 a4) := by
  intro s₀ a0 a1 a2 a3 a4 h ha3 ha4
  unfold State.ringRx
  try dsimp only
  repeat' first
    | with_reducible (first | assumption | apply ha3 | apply ha4 | apply keeps_heard | apply keeps_ringOut
                            | apply keeps_bump | apply keeps_ringFail | apply keeps_ringDuplicate | apply keeps_ite)
    | simp only [keeps_mk_iff]
    | split

theorem keeps_ringTake : ∀ {s₀ a0} a1 a2 a3, Keeps s₀ a0 → (∀ t x, Keeps s₀ t → Keeps s₀ (a3 t x)) → Keeps s₀ (State.ringTake a0 a1 a2 a3) := by
  intro s₀ a0 a1 a2 a3 h ha3
  unfold State.ringTake
  repeat' first
    | with_reducible (first | assumption | apply ha3 | apply keeps_ringRx)
    | (intro _ _ _; try dsimp only)
    | (intro _ _; try dsimp only)

theorem keeps_joinRx : ∀ {s₀ a0} a1 a2 a3, Keeps s₀ a0 → (∀ t, Keeps s₀ t → Keeps s₀ (a3 t)) → Keeps s₀ (State.joinRx a0 a1 a2 a3) := by
  intro s₀ a0 a1 a2 a3 h ha3
  unfold State.joinRx
  try dsimp only
  repeat' first
    | with_reducible (first | assumption | apply ha3 | apply keeps_heard | apply keeps_bumpBy
                            | apply keeps_ringFail | apply keeps_ringDuplicate | apply keeps_ringOut | apply keeps_ite)
    | simp only [keeps_mk_iff]
    | with_reducible apply keeps_foldl
    | with_reducible apply keeps_foldlP
    | (intro _ _ _; try dsimp only)
    | (intro _ _; try dsimp only)
    | split

theorem keeps_execHello : ∀ {s₀ a1} a0, Keeps s₀ a1 → KeepsO s₀ (execHello a0 a1) := by
  intro s₀ a1 a0 h
  unfold execHello
  repeat' first
    | with_reducible (first | assumption | apply keeps_joinRx | apply keeps_helloTake | apply keepsO_next)
    | (intro _ _ _; try dsimp only)
    | (intro _ _; try dsimp only)

theorem keeps_execShare : ∀ {s₀ a1} a0, Keeps s₀ a1 → KeepsO s₀ (execShare a0 a1) := by
  intro s₀ a1 a0 h
  unfold execShare
  repeat' first
    | with_reducible (first | assumption | apply keeps_joinRx | apply keeps_shareTake | apply keepsO_next)
    | (intro _ _ _; try dsimp only)
    | (intro _ _; try dsimp only)

theorem keeps_timeTake : ∀ {s₀ a0} a1, Keeps s₀ a0 → Keeps s₀ (State.timeTake a0 a1) := by
  intro s₀ a0 a1 h
  unfold State.timeTake
  try dsimp only
  repeat' first
    | with_reducible (first | assumption | apply keeps_setReg64 | apply keeps_setReg | apply keeps_setRbit
                            | apply keeps_asMessage | apply keeps_leaseTai | apply keeps_ite)
    | simp only [keeps_mk_iff]
    | split

theorem keeps_execTimeFrame : ∀ {s₀ a1} a0, Keeps s₀ a1 → KeepsO s₀ (execTimeFrame a0 a1) := by
  intro s₀ a1 a0 h
  unfold execTimeFrame
  repeat' first
    | with_reducible (first | assumption | apply keeps_ringTake | apply keeps_timeTake | apply keepsO_next)
    | (intro _ _ _; try dsimp only)
    | (intro _ _; try dsimp only)

theorem keeps_phaseTake : ∀ {s₀ a0} a1, Keeps s₀ a0 → Keeps s₀ (State.phaseTake a0 a1) := by
  intro s₀ a0 a1 h
  unfold State.phaseTake
  try dsimp only
  repeat' first
    | with_reducible (first | assumption | refine keeps_fst ?_ (by assumption) | apply keeps_thyResume
                            | apply keeps_setLock | apply keeps_setReg64 | apply keeps_ite)
    | simp only [keeps_mk_iff]
    | split

theorem keeps_execPhaseFrame : ∀ {s₀ a1} a0, Keeps s₀ a1 → KeepsO s₀ (execPhaseFrame a0 a1) := by
  intro s₀ a1 a0 h
  unfold execPhaseFrame
  repeat' first
    | with_reducible (first | assumption | apply keeps_ringTake | apply keeps_phaseTake | apply keepsO_next)
    | (intro _ _ _; try dsimp only)
    | (intro _ _; try dsimp only)

theorem keeps_calTake : ∀ {s₀ a0} a1, Keeps s₀ a0 → Keeps s₀ (State.calTake a0 a1) := by
  intro s₀ a0 a1 h
  unfold State.calTake
  try dsimp only
  repeat' first
    | with_reducible (first | assumption | apply keeps_setReg | apply keeps_ite)
    | split

theorem keeps_execCalFrame : ∀ {s₀ a1} a0, Keeps s₀ a1 → KeepsO s₀ (execCalFrame a0 a1) := by
  intro s₀ a1 a0 h
  unfold execCalFrame
  repeat' first
    | with_reducible (first | assumption | apply keeps_ringRx | apply keeps_calTake | apply keepsO_next)
    | (intro _ _ _; try dsimp only)
    | (intro _ _; try dsimp only)

theorem keeps_execTimeLockLapse : ∀ {s₀ a0}, Keeps s₀ a0 → KeepsO s₀ (execTimeLockLapse a0) := by
  intro s₀ a0 h
  unfold execTimeLockLapse
  repeat' first
    | with_reducible (first | assumption | apply keeps_setRbit | apply keepsO_next)
    | simp only [keeps_mk_iff]
    | split

theorem keeps_execTimeFrameSend : ∀ {s₀ a0}, Keeps s₀ a0 → KeepsO s₀ (execTimeFrameSend a0) := by
  intro s₀ a0 h
  unfold execTimeFrameSend
  try dsimp only
  repeat' first
    | with_reducible (first | assumption | apply keeps_ringSend | apply keepsO_next | apply keeps_ite)
    | simp only [keeps_mk_iff]
    | split

theorem keeps_execPhaseFrameSend : ∀ {s₀ a0}, Keeps s₀ a0 → KeepsO s₀ (execPhaseFrameSend a0) := by
  intro s₀ a0 h
  unfold execPhaseFrameSend
  try dsimp only
  repeat' first
    | with_reducible (first | assumption | refine keeps_fst ?_ (by assumption) | apply keeps_ringSend
                            | apply keepsO_next | apply keeps_ite)
    | simp only [keeps_mk_iff]
    | split

theorem keeps_execCalFrameSend : ∀ {s₀ a0}, Keeps s₀ a0 → KeepsO s₀ (execCalFrameSend a0) := by
  intro s₀ a0 h
  unfold execCalFrameSend
  try dsimp only
  repeat' first
    | with_reducible (first | assumption | apply keeps_ringSend | apply keepsO_next | apply keeps_ite)
    | simp only [keeps_mk_iff]
    | split

theorem keeps_reportTake : ∀ {s₀ a0} a1 a2, Keeps s₀ a0 → Keeps s₀ (State.reportTake a0 a1 a2) := by
  intro s₀ a0 a1 a2 h
  unfold State.reportTake
  try dsimp only
  repeat' first
    | with_reducible (first | assumption | apply keeps_ringDecide | apply keeps_setBar | apply keeps_ite)
    | simp only [keeps_mk_iff]
    | split

theorem keeps_execBarrierReportFrame : ∀ {s₀ a1} a0, Keeps s₀ a1 → KeepsO s₀ (execBarrierReportFrame a0 a1) := by
  intro s₀ a1 a0 h
  unfold execBarrierReportFrame
  repeat' first
    | with_reducible (first | assumption | apply keeps_ringTake | apply keeps_reportTake | apply keepsO_next)
    | (intro _ _ _; try dsimp only)
    | (intro _ _; try dsimp only)

theorem keeps_releaseTake : ∀ {s₀ a0} a1, Keeps s₀ a0 → Keeps s₀ (State.releaseTake a0 a1) := by
  intro s₀ a0 a1 h
  unfold State.releaseTake
  try dsimp only
  repeat' first
    | with_reducible (first | assumption | apply keeps_barRelease | apply keeps_bump | apply keeps_setRbit
                            | apply keeps_setBar | apply keeps_ite)
    | simp only [keeps_mk_iff]
    | split

theorem keeps_execBarrierReleaseFrame : ∀ {s₀ a1} a0, Keeps s₀ a1 → KeepsO s₀ (execBarrierReleaseFrame a0 a1) := by
  intro s₀ a1 a0 h
  unfold execBarrierReleaseFrame
  repeat' first
    | with_reducible (first | assumption | apply keeps_ringTake | apply keeps_releaseTake | apply keepsO_next)
    | (intro _ _ _; try dsimp only)
    | (intro _ _; try dsimp only)

theorem keeps_execSnapshotFrame : ∀ {s₀ a1} a0, Keeps s₀ a1 → KeepsO s₀ (execSnapshotFrame a0 a1) := by
  intro s₀ a1 a0 h
  unfold execSnapshotFrame
  repeat' first
    | with_reducible (first | assumption | apply keeps_ringTake | apply keeps_addTrigger | apply keepsO_next
                            | apply keeps_ite)
    | (intro _ _ _; try dsimp only)
    | (intro _ _; try dsimp only)
    | split

theorem keeps_activateTake : ∀ {s₀ a0} a1, Keeps s₀ a0 → Keeps s₀ (State.activateTake a0 a1) := by
  intro s₀ a0 a1 h
  unfold State.activateTake
  repeat' first
    | with_reducible (first | assumption | refine keeps_fst ?_ (by assumption) | apply keeps_armSet
                            | apply keeps_updErr | apply keeps_bump | apply keeps_ite)
    | simp only [keeps_mk_iff]
    | split

theorem keeps_execActivateFrame : ∀ {s₀ a1} a0, Keeps s₀ a1 → KeepsO s₀ (execActivateFrame a0 a1) := by
  intro s₀ a1 a0 h
  unfold execActivateFrame
  repeat' first
    | with_reducible (first | assumption | apply keeps_ringTake | apply keeps_activateTake | apply keepsO_next)
    | (intro _ _ _; try dsimp only)
    | (intro _ _; try dsimp only)

theorem keeps_execStatusFrame : ∀ {s₀ a1} a0, Keeps s₀ a1 → KeepsO s₀ (execStatusFrame a0 a1) := by
  intro s₀ a1 a0 h
  unfold execStatusFrame
  repeat' first
    | with_reducible (first | assumption | apply keeps_ringTake | apply keepsO_next)
    | (intro _ _ _; try dsimp only)
    | (intro _ _; try dsimp only)

theorem keeps_execStatusFrameSend : ∀ {s₀ a0}, Keeps s₀ a0 → KeepsO s₀ (execStatusFrameSend a0) := by
  intro s₀ a0 h
  unfold execStatusFrameSend
  repeat' first
    | with_reducible (first | assumption | apply keeps_ringSend | apply keepsO_next | apply keeps_ite)
    | simp only [keeps_mk_iff]
    | split

theorem keeps_execRetimerLock : ∀ {s₀ a0}, Keeps s₀ a0 → KeepsO s₀ (execRetimerLock a0) := by
  intro s₀ a0 h
  unfold execRetimerLock
  repeat' first
    | with_reducible (first | assumption | apply keeps_ringJoin | apply keeps_setRbit | apply keepsO_next
                            | apply keeps_ite)
    | split

theorem keeps_execRetimerLockLoss : ∀ {s₀ a0}, Keeps s₀ a0 → KeepsO s₀ (execRetimerLockLoss a0) := by
  intro s₀ a0 h
  unfold execRetimerLockLoss
  try dsimp only
  repeat' first
    | with_reducible (first | assumption | apply keeps_setRbit | apply keeps_ringReform | apply keepsO_next)
    | split

theorem keeps_execJoinTimeout : ∀ {s₀ a0}, Keeps s₀ a0 → KeepsO s₀ (execJoinTimeout a0) := by
  intro s₀ a0 h
  unfold execJoinTimeout
  repeat' first
    | with_reducible (first | assumption | apply keeps_ringClose | apply keepsO_next | apply keeps_ite)
    | simp only [keeps_mk_iff]
    | split

theorem keeps_rngCtrlWrite : ∀ {s₀ a0} a1, Keeps s₀ a0 → Keeps s₀ (State.rngCtrlWrite a0 a1) := by
  intro s₀ a0 a1 h
  unfold State.rngCtrlWrite
  try dsimp only
  repeat' first
    | with_reducible (first | assumption | apply keeps_setReg | apply keeps_setRing | apply keeps_ringLeave
                            | apply keeps_ringJoin | apply keeps_ite)
    | split

theorem keeps_execRingEnWrite : ∀ {s₀ a2} a0 a1, Keeps s₀ a2 → KeepsO s₀ (execRingEnWrite a0 a1 a2) := by
  intro s₀ a2 a0 a1 h
  unfold execRingEnWrite
  repeat' first
    | with_reducible (first | assumption | apply keeps_guarded | apply keeps_rngCtrlWrite | apply keepsO_next)

theorem keeps_execHopRekey : ∀ {s₀ a0}, Keeps s₀ a0 → KeepsO s₀ (execHopRekey a0) := by
  intro s₀ a0 h
  unfold execHopRekey
  repeat' first
    | with_reducible (first | assumption | refine keeps_fst ?_ (by assumption) | apply keeps_helloSend
                            | apply keepsO_next)
    | simp only [keeps_mk_iff]
    | split

theorem keeps_ringService : ∀ {s₀ a0} a1 a2 a3, Keeps s₀ a0 → (∀ t, Keeps s₀ t → Keeps s₀ (a3 t).1) → Keeps s₀ (State.ringService a0 a1 a2 a3) := by
  intro s₀ a0 a1 a2 a3 h ha3
  unfold State.ringService
  try dsimp only
  repeat' first
    | (have e := ha3 _ h; simp_all; done)
    | with_reducible (first | assumption | refine keeps_fst ?_ (by assumption) | apply ha3 | apply keeps_bump
                            | apply keeps_send | apply keeps_ringCount | apply keeps_ite)
    | split

theorem keeps_execReadStore : ∀ {s₀ a3} a0 a1 a2, Keeps s₀ a3 → KeepsO s₀ (execReadStore a0 a1 a2 a3) := by
  intro s₀ a3 a0 a1 a2 h
  unfold execReadStore
  try dsimp only
  repeat' first
    | with_reducible (first | assumption | apply keeps_ringService | apply keeps_unitRead | apply keepsO_next
                            | apply keeps_ite)
    | (intro _ _ _; try dsimp only)
    | (intro _ _; try dsimp only)
    | split

theorem keeps_execReadSnapshot : ∀ {s₀ a4} a0 a1 a2 a3, Keeps s₀ a4 → KeepsO s₀ (execReadSnapshot a0 a1 a2 a3 a4) := by
  intro s₀ a4 a0 a1 a2 a3 h
  unfold execReadSnapshot
  try dsimp only
  repeat' first
    | with_reducible (first | assumption | apply keeps_ringService | apply keeps_unitReads | apply keepsO_next
                            | apply keeps_ite)
    | (intro _ _ _; try dsimp only)
    | (intro _ _; try dsimp only)
    | split

theorem keeps_execReadCheckpoint : ∀ {s₀ a5} a0 a1 a2 a3 a4, Keeps s₀ a5 → KeepsO s₀ (execReadCheckpoint a0 a1 a2 a3 a4 a5) := by
  intro s₀ a5 a0 a1 a2 a3 a4 h
  unfold execReadCheckpoint
  try dsimp only
  repeat' first
    | with_reducible (first | assumption | refine keeps_fst ?_ (by assumption) | apply keeps_ringService
                            | apply keeps_devRead | apply keepsO_next | apply keeps_ite)
    | simp only [keeps_mk_iff]
    | (intro _ _ _; try dsimp only)
    | (intro _ _; try dsimp only)
    | split

theorem keeps_execReadCounters : ∀ {s₀ a3} a0 a1 a2, Keeps s₀ a3 → KeepsO s₀ (execReadCounters a0 a1 a2 a3) := by
  intro s₀ a3 a0 a1 a2 h
  unfold execReadCounters
  repeat' first
    | with_reducible (first | assumption | refine keeps_fst ?_ (by assumption) | apply keeps_ringService
                            | apply keepsO_next | apply keeps_ite)
    | simp only [keeps_mk_iff]
    | (intro _ _ _; try dsimp only)
    | (intro _ _; try dsimp only)
    | split

theorem keeps_execForceAll : ∀ {s₀ a1} a0, Keeps s₀ a1 → KeepsO s₀ (execForceAll a0 a1) := by
  intro s₀ a1 a0 h
  unfold execForceAll
  repeat' first
    | with_reducible (first | assumption | apply keeps_ringService | apply keeps_forceFlows | apply keepsO_next)
    | simp only [keeps_mk_iff]
    | (intro _ _ _; try dsimp only)
    | (intro _ _; try dsimp only)

end Sys2Proof.Machine
end

