-- ==== Sys2Proof/Laws/KeepsHart.lean ====
section
/-!
SUPPORT. What the operations of `Machine/Hart.lean` keep (see `Laws/Keeps.lean`): one lemma per operation.
-/
namespace Sys2Proof.Machine

theorem keeps_hartOp : ∀ {s₀ a0} a1 a2, Keeps s₀ a0 → Keeps s₀ (State.hartOp a0 a1 a2) := by
  intro s₀ a0 a1 a2 h
  unfold State.hartOp
  try dsimp only
  repeat' first
    | with_reducible (first | assumption | refine keeps_fst ?_ (by assumption) | apply keeps_acTrap
                            | apply keeps_acStop | apply keeps_bump64By | apply keeps_acSet | apply keeps_setRbit
                            | apply keeps_ite)
    | simp only [keeps_mk_iff]
    | split

end Sys2Proof.Machine
end

