-- ==== Sys2Proof/Laws/KeepsRegWrite.lean ====
section
/-!
SUPPORT. What the operations of `Machine/RegWrite.lean` keep (see `Laws/Keeps.lean`): one lemma per operation.
-/
namespace Sys2Proof.Machine

theorem keeps_putWord : ∀ {s₀ a0} a1 a2, Keeps s₀ a0 → Keeps s₀ (State.putWord a0 a1 a2) := by
  intro s₀ a0 a1 a2 h
  unfold State.putWord
  repeat' first
    | with_reducible (first | assumption | refine keeps_fst ?_ (by assumption) | apply keeps_setReg)
    | simp only [keeps_mk_iff]
    | split

theorem keeps_tcWordWrite : ∀ {s₀ a0} a1 a2 a3 a4, Keeps s₀ a0 → Keeps s₀ (State.tcWordWrite a0 a1 a2 a3 a4) := by
  intro s₀ a0 a1 a2 a3 a4 h
  unfold State.tcWordWrite
  try dsimp only
  repeat' first
    | with_reducible (first | assumption | apply keeps_setRbit | apply keeps_tcAbort | apply keeps_flushQueue
                            | apply keeps_pushWindow | apply keeps_setReg | apply keeps_putWord | apply keeps_ite)
    | split

theorem keeps_acWordWrite : ∀ {s₀ a0} a1 a2 a3, Keeps s₀ a0 → Keeps s₀ (State.acWordWrite a0 a1 a2 a3) := by
  intro s₀ a0 a1 a2 a3 h
  unfold State.acWordWrite
  try dsimp only
  repeat' first
    | with_reducible (first | assumption | apply keeps_acHalt | apply keeps_acStart | apply keeps_acReset
                            | apply keeps_acSignal | apply keeps_acArm | apply keeps_acMsgIn | apply keeps_acMsgOut
                            | apply keeps_putWord | apply keeps_ite)
    | split

theorem keeps_fptWordWrite : ∀ {s₀ a0} a1 a2, Keeps s₀ a0 → Keeps s₀ (State.fptWordWrite a0 a1 a2) := by
  intro s₀ a0 a1 a2 h
  unfold State.fptWordWrite
  try dsimp only
  repeat' first
    | with_reducible (first | assumption | apply keeps_flowDescWrite | apply keeps_flowUnforce
                            | apply keeps_flowForce | apply keeps_setFld | apply keeps_gclChange
                            | apply keeps_putWord | apply keeps_ite)
    | split

theorem keeps_thyCtrlWrite : ∀ {s₀ a0} a1, Keeps s₀ a0 → Keeps s₀ (State.thyCtrlWrite a0 a1) := by
  intro s₀ a0 a1 h
  unfold State.thyCtrlWrite
  try dsimp only
  repeat' first
    | with_reducible (first | assumption | refine keeps_fst ?_ (by assumption) | apply keeps_putWord
                            | apply keeps_thyFreeze | apply keeps_thyRestart | apply keeps_ite)
    | simp only [keeps_mk_iff]
    | split

theorem keeps_thyWordWrite : ∀ {s₀ a0} a1 a2, Keeps s₀ a0 → Keeps s₀ (State.thyWordWrite a0 a1 a2) := by
  intro s₀ a0 a1 a2 h
  unfold State.thyWordWrite
  repeat' first
    | with_reducible (first | assumption | apply keeps_thySrcWrite | apply keeps_thyCtrlWrite
                            | apply keeps_evtIndexWrite | apply keeps_evtCommit | apply keeps_putWord | apply keeps_ite)
    | split

theorem keeps_tenantCtrlWrite : ∀ {s₀ a0} a1 a2, Keeps s₀ a0 → Keeps s₀ (State.tenantCtrlWrite a0 a1 a2) := by
  intro s₀ a0 a1 a2 h
  unfold State.tenantCtrlWrite
  try dsimp only
  repeat' first
    | with_reducible (first | assumption | apply keeps_setReg | apply keeps_tdiError | apply keeps_setFld
                            | apply keeps_activate | apply keeps_teardown | apply keeps_ite)
    | simp only [keeps_mk_iff]
    | split

theorem keeps_tenantWordWrite : ∀ {s₀ a0} a1 a2 a3, Keeps s₀ a0 → Keeps s₀ (State.tenantWordWrite a0 a1 a2 a3) := by
  intro s₀ a0 a1 a2 a3 h
  unfold State.tenantWordWrite
  try dsimp only
  repeat' first
    | with_reducible (first | assumption | apply keeps_setFld | apply keeps_putWord | apply keeps_tdiError
                            | apply keeps_ite)
    | split

theorem keeps_modWordWrite : ∀ {s₀ a0} a1 a2, Keeps s₀ a0 → Keeps s₀ (State.modWordWrite a0 a1 a2) := by
  intro s₀ a0 a1 a2 h
  unfold State.modWordWrite
  try dsimp only
  repeat' first
    | with_reducible (first | assumption | apply keeps_fenceWrite | apply keeps_tenantCtrlWrite
                            | apply keeps_tenantWordWrite | apply keeps_putWord | apply keeps_ite)
    | split

theorem keeps_sgeWordWrite : ∀ {s₀ a0} a1 a2, Keeps s₀ a0 → Keeps s₀ (State.sgeWordWrite a0 a1 a2) := by
  intro s₀ a0 a1 a2 h
  unfold State.sgeWordWrite
  try dsimp only
  repeat' first
    | with_reducible (first | assumption | apply keeps_setFld | apply keeps_consentCtrl | apply keeps_endConsent
                            | apply keeps_nonceCtrl | apply keeps_rotate | apply keeps_putWord | apply keeps_ite)
    | split

theorem keeps_rqtWordWrite : ∀ {s₀ a0} a1 a2, Keeps s₀ a0 → Keeps s₀ (State.rqtWordWrite a0 a1 a2) := by
  intro s₀ a0 a1 a2 h
  unfold State.rqtWordWrite
  try dsimp only
  repeat' first
    | with_reducible (first | assumption | apply keeps_putWord | apply keeps_modelCount | apply keeps_setRbit
                            | apply keeps_ite)
    | split

theorem keeps_lovWordWrite : ∀ {s₀ a0} a1 a2, Keeps s₀ a0 → Keeps s₀ (State.lovWordWrite a0 a1 a2) := by
  intro s₀ a0 a1 a2 h
  unfold State.lovWordWrite
  try dsimp only
  repeat' first
    | with_reducible (first | assumption | apply keeps_setRbit | apply keeps_setReg | apply keeps_putWord
                            | apply keeps_ite)
    | split

theorem keeps_dilTimerWrite : ∀ {s₀ a0} a1, Keeps s₀ a0 → Keeps s₀ (State.dilTimerWrite a0 a1) := by
  intro s₀ a0 a1 h
  unfold State.dilTimerWrite
  try dsimp only
  repeat' first
    | with_reducible (first | assumption | apply keeps_putWord)
    | simp only [keeps_mk_iff]

theorem keeps_rwpReturn : ∀ {s₀ a0} a1 a2, Keeps s₀ a0 → Keeps s₀ (State.rwpReturn a0 a1 a2) := by
  intro s₀ a0 a1 a2 h
  unfold State.rwpReturn
  try dsimp only
  repeat' first
    | with_reducible (first | assumption | apply keeps_thySrcWrite | apply keeps_thyCtrlWrite
                            | apply keeps_rngCtrlWrite | apply keeps_dilTimerWrite | apply keeps_setReg
                            | apply keeps_tdiError | apply keeps_ite)
    | simp only [keeps_mk_iff]
    | split

theorem keeps_nvsDiscard : ∀ {s₀ a0}, Keeps s₀ a0 → Keeps s₀ (State.nvsDiscard a0) := by
  intro s₀ a0 h
  unfold State.nvsDiscard
  try dsimp only
  repeat' first
    | with_reducible (first | assumption | refine keeps_fst ?_ (by assumption) | apply keeps_rwpReturn)
    | simp only [keeps_mk_iff]
    | with_reducible apply keeps_foldl
    | with_reducible apply keeps_foldlP
    | (intro _ _ _; try dsimp only)
    | (intro _ _; try dsimp only)
    | split

theorem keeps_execNvsDiscard : ∀ {s₀ a1} a0, Keeps s₀ a1 → KeepsO s₀ (execNvsDiscard a0 a1) := by
  intro s₀ a1 a0 h
  unfold execNvsDiscard
  repeat' first
    | with_reducible (first | assumption | apply keeps_guarded | apply keeps_nvsDiscard | apply keepsO_next)

theorem keeps_nvsCtrlWrite : ∀ {s₀ a0} a1, Keeps s₀ a0 → Keeps s₀ (State.nvsCtrlWrite a0 a1) := by
  intro s₀ a0 a1 h
  unfold State.nvsCtrlWrite
  try dsimp only
  repeat' first
    | with_reducible (first | assumption | apply keeps_nvsStore | apply keeps_nvsDiscard | apply keeps_setRbit
                            | apply keeps_ite)
    | simp only [keeps_mk_iff]
    | split

theorem keeps_fnWordWrite : ∀ {s₀ a0} a1 a2 a3, Keeps s₀ a0 → Keeps s₀ (State.fnWordWrite a0 a1 a2 a3) := by
  intro s₀ a0 a1 a2 a3 h
  unfold State.fnWordWrite
  try dsimp only
  repeat' first
    | with_reducible (first | assumption | apply keeps_queueCtl | apply keeps_putWord | apply keeps_sqDoorbell
                            | apply keeps_cqDoorbell | apply keeps_ite)
    | split

theorem keeps_wordEffect : ∀ {s₀ a0} a1 a2 a3 a4 a5, Keeps s₀ a0 → Keeps s₀ (State.wordEffect a0 a1 a2 a3 a4 a5) := by
  intro s₀ a0 a1 a2 a3 a4 a5 h
  unfold State.wordEffect
  try dsimp only
  repeat' first
    | with_reducible (first | assumption | refine keeps_fst ?_ (by assumption) | apply keeps_tcWordWrite
                            | apply keeps_acWordWrite | apply keeps_slotMapWrite | apply keeps_putWord
                            | apply keeps_arriveOp | apply keeps_modWordWrite | apply keeps_fptWordWrite
                            | apply keeps_barCtrlWrite | apply keeps_thyWordWrite | apply keeps_sgeWordWrite
                            | apply keeps_lovWordWrite | apply keeps_rqtWordWrite | apply keeps_wdogWrite
                            | apply keeps_ackWrite | apply keeps_dilTimerWrite | apply keeps_dillTrigger
                            | apply keeps_nvsCtrlWrite | apply keeps_updReg | apply keeps_updDisarm
                            | apply keeps_updAbort | apply keeps_rngCtrlWrite | apply keeps_decodeOpen
                            | apply keeps_decodeClose | apply keeps_encodeOpen | apply keeps_encodeClose
                            | apply keeps_fnWordWrite | apply keeps_ite)
    | simp only [keeps_mk_iff]
    | (intro _ _ _; try dsimp only)
    | (intro _ _; try dsimp only)
    | split

theorem keeps_wordWrite : ∀ {s₀ a0} a1 a2 a3, Keeps s₀ a0 → Keeps s₀ (State.wordWrite a0 a1 a2 a3) := by
  intro s₀ a0 a1 a2 a3 h
  unfold State.wordWrite
  try dsimp only
  repeat' first
    | with_reducible (first | assumption | refine keeps_fst ?_ (by assumption) | apply keeps_accessError
                            | apply keeps_answer | apply keeps_jobWindowWrite | apply keeps_wordEffect
                            | apply keeps_ite)
    | simp only [keeps_mk_iff]
    | split

theorem keeps_wordsWrite : ∀ {s₀ a0} a1 a2 a3 a4, Keeps s₀ a0 → Keeps s₀ (State.wordsWrite a0 a1 a2 a3 a4) := by
  intro s₀ a0 a1 a2 a3 a4 h
  induction a4 generalizing a0 a1 a2 a3
  · unfold State.wordsWrite
    try dsimp only
    repeat' first
      | with_reducible (first | assumption | apply keeps_wordWrite | apply keeps_answer | apply keeps_ite)
      | split
  · rename_i ih
    unfold State.wordsWrite
    try dsimp only
    repeat' first
      | with_reducible (first | assumption | apply ih | apply keeps_wordWrite | apply keeps_answer | apply keeps_ite)
      | split

theorem keeps_busWrite : ∀ {s₀ a0} a1 a2 a3 a4, Keeps s₀ a0 → Keeps s₀ (State.busWrite a0 a1 a2 a3 a4) := by
  intro s₀ a0 a1 a2 a3 a4 h
  unfold State.busWrite
  try dsimp only
  repeat' first
    | with_reducible (first | assumption | refine keeps_fst ?_ (by assumption) | apply keeps_accessError
                            | apply keeps_wordsWrite | apply keeps_memWrite | apply keeps_answer | apply keeps_ite)
    | simp only [keeps_mk_iff]
    | split

theorem keeps_regWrite : ∀ {s₀ a0} a1 a2 a3 a4, Keeps s₀ a0 → Keeps s₀ (State.regWrite a0 a1 a2 a3 a4) := by
  intro s₀ a0 a1 a2 a3 a4 h
  unfold State.regWrite
  try dsimp only
  repeat' first
    | with_reducible (first | assumption | refine keeps_fst ?_ (by assumption) | apply keeps_busWrite
                            | apply keeps_acTrap | apply keeps_answer | apply keeps_acIrq | apply keeps_ite)
    | simp only [keeps_mk_iff]
    | split

theorem keeps_execRegisterWrite : ∀ {s₀ a4} a0 a1 a2 a3, Keeps s₀ a4 → KeepsO s₀ (execRegisterWrite a0 a1 a2 a3 a4) := by
  intro s₀ a4 a0 a1 a2 a3 h
  unfold execRegisterWrite
  repeat' first
    | with_reducible (first | assumption | apply keeps_regWrite | apply keepsO_next)

theorem keeps_wordRead : ∀ {s₀ a0} a1, Keeps s₀ a0 → Keeps s₀ (State.wordRead a0 a1).1 := by
  intro s₀ a0 a1 h
  unfold State.wordRead
  try dsimp only
  repeat' first
    | with_reducible (first | assumption | refine keeps_fst ?_ (by assumption) | apply keeps_ite | apply keeps_iteP)
    | simp only [keeps_mk_iff]
    | split

theorem keeps_regRead : ∀ {s₀ a0} a1 a2, Keeps s₀ a0 → Keeps s₀ (State.regRead a0 a1 a2).1 := by
  intro s₀ a0 a1 a2 h
  unfold State.regRead
  try dsimp only
  repeat' first
    | with_reducible (first | assumption | refine keeps_fst ?_ (by assumption) | apply keeps_accessError
                            | apply keeps_answer | apply keeps_wordRead | apply keeps_ite | apply keeps_iteP)
    | split

theorem keeps_wordsRead : ∀ {s₀ a0} a1 a2 a3, Keeps s₀ a0 → Keeps s₀ (State.wordsRead a0 a1 a2 a3).1 := by
  intro s₀ a0 a1 a2 a3 h
  induction a3 generalizing a0 a1 a2
  · unfold State.wordsRead
    try dsimp only
    repeat' first
      | with_reducible (first | assumption | refine keeps_fst ?_ (by assumption) | apply keeps_regRead
                              | apply keeps_iteP)
      | simp only [keeps_mk_iff]
      | split
  · rename_i ih
    unfold State.wordsRead
    try dsimp only
    repeat' first
      | with_reducible (first | assumption | apply ih | refine keeps_fst ?_ (by assumption) | apply keeps_regRead
                              | apply keeps_iteP)
      | simp only [keeps_mk_iff]
      | split

theorem keeps_acAnswer : ∀ {s₀ a0} a1 a2 a3 a4, Keeps s₀ a0 → Keeps s₀ (State.acAnswer a0 a1 a2 a3 a4) := by
  intro s₀ a0 a1 a2 a3 a4 h
  unfold State.acAnswer
  repeat' first
    | with_reducible (first | assumption | refine keeps_fst ?_ (by assumption) | apply keeps_answer
                            | apply keeps_acTrap | apply keeps_acIrq)
    | simp only [keeps_mk_iff]
    | split

theorem keeps_acLoad : ∀ {s₀ a0} a1 a2 a3, Keeps s₀ a0 → Keeps s₀ (State.acLoad a0 a1 a2 a3) := by
  intro s₀ a0 a1 a2 a3 h
  unfold State.acLoad
  try dsimp only
  repeat' first
    | with_reducible (first | assumption | refine keeps_fst ?_ (by assumption) | apply keeps_acLoadCached
                            | apply keeps_acAnswer | apply keeps_wordsRead | apply keeps_acTrap | apply keeps_acIrq
                            | apply keeps_accessError | apply keeps_answer | apply keeps_memRead | apply keeps_ite)
    | simp only [keeps_mk_iff]
    | split

theorem keeps_acStore : ∀ {s₀ a0} a1 a2 a3, Keeps s₀ a0 → Keeps s₀ (State.acStore a0 a1 a2 a3) := by
  intro s₀ a0 a1 a2 a3 h
  unfold State.acStore
  try dsimp only
  repeat' first
    | with_reducible (first | assumption | refine keeps_fst ?_ (by assumption) | apply keeps_answer
                            | apply keeps_acTrap | apply keeps_acIrq | apply keeps_acStoreCached
                            | apply keeps_regWrite | apply keeps_memWrite | apply keeps_ite)
    | simp only [keeps_mk_iff]
    | split

theorem keeps_acFetch : ∀ {s₀ a0} a1 a2 a3, Keeps s₀ a0 → Keeps s₀ (State.acFetch a0 a1 a2 a3) := by
  intro s₀ a0 a1 a2 a3 h
  unfold State.acFetch
  try dsimp only
  repeat' first
    | with_reducible (first | assumption | refine keeps_fst ?_ (by assumption) | apply keeps_acSet
                            | apply keeps_acLoadCached | apply keeps_acAnswer | apply keeps_acTrap
                            | apply keeps_answer | apply keeps_ite)
    | simp only [keeps_mk_iff]
    | split

theorem keeps_execAcLoadStore : ∀ {s₀ a4} a0 a1 a2 a3, Keeps s₀ a4 → KeepsO s₀ (execAcLoadStore a0 a1 a2 a3 a4) := by
  intro s₀ a4 a0 a1 a2 a3 h
  unfold execAcLoadStore
  try dsimp only
  repeat' first
    | with_reducible (first | assumption | refine keeps_fst ?_ (by assumption) | apply keeps_acLoad
                            | apply keeps_acEvict | apply keeps_upset | apply keeps_acStore | apply keeps_acFetch
                            | apply keeps_hartOp | apply keepsO_next | apply keeps_ite)
    | simp only [keeps_mk_iff]
    | split

end Sys2Proof.Machine
end

