-- ==== Sys2Proof/Laws/KeepsTap.lean ====
section
/-!
SUPPORT. What the operations of `Machine/Tap.lean` keep (see `Laws/Keeps.lean`): one lemma per operation.
-/
namespace Sys2Proof.Machine

theorem keeps_capture : ∀ {s₀ a0}, Keeps s₀ a0 → Keeps s₀ (State.capture a0).1 := by
  intro s₀ a0 h
  unfold State.capture
  try dsimp only
  repeat' first
    | with_reducible (first | assumption | refine keeps_fst ?_ (by assumption) | apply keeps_free | apply keeps_ite
                            | apply keeps_iteP)
    | with_reducible apply keeps_foldl
    | with_reducible apply keeps_foldlP
    | (intro _ _ _; try dsimp only)
    | (intro _ _; try dsimp only)
    | split

theorem keeps_tapLoad : ∀ {s₀ a0} a1, Keeps s₀ a0 → Keeps s₀ (State.tapLoad a0 a1) := by
  intro s₀ a0 a1 h
  unfold State.tapLoad
  repeat' first
    | with_reducible (first | assumption)
    | simp only [keeps_mk_iff]

theorem keeps_tapScan : ∀ {s₀ a0} a1 a2, Keeps s₀ a0 → Keeps s₀ (State.tapScan a0 a1 a2) := by
  intro s₀ a0 a1 a2 h
  unfold State.tapScan
  try dsimp only
  repeat' first
    | with_reducible (first | assumption | refine keeps_fst ?_ (by assumption) | apply keeps_capture
                            | apply keeps_answer | apply keeps_ite)
    | simp only [keeps_mk_iff]
    | split

theorem keeps_execExtest : ∀ {s₀ a1} a0, Keeps s₀ a1 → KeepsO s₀ (execExtest a0 a1) := by
  intro s₀ a1 a0 h
  unfold execExtest
  repeat' first
    | with_reducible (first | assumption | apply keeps_tapScan | apply keepsO_next)

theorem keeps_execSamplePreload : ∀ {s₀ a1} a0, Keeps s₀ a1 → KeepsO s₀ (execSamplePreload a0 a1) := by
  intro s₀ a1 a0 h
  unfold execSamplePreload
  repeat' first
    | with_reducible (first | assumption | apply keeps_tapScan | apply keepsO_next)

theorem keeps_execIdcode : ∀ {s₀ a0}, Keeps s₀ a0 → KeepsO s₀ (execIdcode a0) := by
  intro s₀ a0 h
  unfold execIdcode
  repeat' first
    | with_reducible (first | assumption | apply keeps_answer | apply keeps_tapLoad | apply keepsO_next)
    | split

theorem keeps_execBypass : ∀ {s₀ a0}, Keeps s₀ a0 → KeepsO s₀ (execBypass a0) := by
  intro s₀ a0 h
  unfold execBypass
  repeat' first
    | with_reducible (first | assumption | apply keeps_answer | apply keeps_tapLoad | apply keepsO_next)
    | split

theorem keeps_noteHalt : ∀ {s₀ a0} a1 a2, Keeps s₀ a0 → Keeps s₀ (State.noteHalt a0 a1 a2) := by
  intro s₀ a0 a1 a2 h
  unfold State.noteHalt
  try dsimp only
  repeat' first
    | with_reducible (first | assumption | refine keeps_fst ?_ (by assumption) | apply keeps_ite)
    | simp only [keeps_mk_iff]
    | split

theorem keeps_dapResult : ∀ {s₀ a0} a1 a2, Keeps s₀ a0 → Keeps s₀ (State.dapResult a0 a1 a2) := by
  intro s₀ a0 a1 a2 h
  unfold State.dapResult
  repeat' first
    | with_reducible (first | assumption | apply keeps_ite)
    | simp only [keeps_mk_iff]
    | split

theorem keeps_dapAccess : ∀ {s₀ a0} a1 a2, Keeps s₀ a0 → Keeps s₀ (State.dapAccess a0 a1 a2) := by
  intro s₀ a0 a1 a2 h
  unfold State.dapAccess
  try dsimp only
  repeat' first
    | with_reducible (first | assumption | refine keeps_fst ?_ (by assumption) | apply keeps_dapResult
                            | apply keeps_accessError | apply keeps_wordWrite | apply keeps_noteHalt
                            | apply keeps_regRead | apply keeps_ite)
    | simp only [keeps_mk_iff]
    | split

theorem keeps_execDapAddr : ∀ {s₀ a1} a0, Keeps s₀ a1 → KeepsO s₀ (execDapAddr a0 a1) := by
  intro s₀ a1 a0 h
  unfold execDapAddr
  try dsimp only
  repeat' first
    | with_reducible (first | assumption | refine keeps_fst ?_ (by assumption) | apply keeps_free
                            | apply keeps_answer | apply keepsO_next | apply keeps_ite)
    | simp only [keeps_mk_iff]
    | split

theorem keeps_execDapData : ∀ {s₀ a2} a0 a1, Keeps s₀ a2 → KeepsO s₀ (execDapData a0 a1 a2) := by
  intro s₀ a2 a0 a1 h
  unfold execDapData
  try dsimp only
  repeat' first
    | with_reducible (first | assumption | apply keeps_tapLoad | apply keeps_dapAccess | apply keeps_answer
                            | apply keepsO_next | apply keeps_ite)
    | simp only [keeps_mk_iff]
    | split

theorem keeps_execDapStatus : ∀ {s₀ a0}, Keeps s₀ a0 → KeepsO s₀ (execDapStatus a0) := by
  intro s₀ a0 h
  unfold execDapStatus
  try dsimp only
  repeat' first
    | with_reducible (first | assumption | apply keeps_answer | apply keeps_tapLoad | apply keepsO_next
                            | apply keeps_ite)
    | split

end Sys2Proof.Machine
end

