-- ==== Sys2Proof/Laws/KeepsTick.lean ====
section
/-!
SUPPORT. What the operations of `Machine/Tick.lean` keep (see `Laws/Keeps.lean`): one lemma per operation.
-/
namespace Sys2Proof.Machine

theorem keeps_tick : ∀ {s₀ a0}, Keeps s₀ a0 → Keeps s₀ (State.tick a0) := by
  intro s₀ a0 h
  unfold State.tick
  try dsimp only
  repeat' first
    | with_reducible (first | assumption | apply keeps_ackEnd | apply keeps_leaseTick | apply keeps_tickTime)
    | simp only [keeps_mk_iff]

end Sys2Proof.Machine
end

