-- ==== Sys2Proof/Laws/State.lean ====
section
/-!
SUPPORT. What the named updates of the state leave alone: one lemma per field and per reader, true by definition; and what
they write, as the readers see it.
-/
namespace Sys2Proof.Machine

/-- A byte as memory holds it depends on memory alone. -/
theorem rawByte_congr {s t : State} (h : t.mem = s.mem) (p : Nat) : t.rawByte p = s.rawByte p := by
  unfold State.rawByte State.region
  rw [h]

variable (s : State)

/-! ## `setReg` -/

@[simp] theorem setReg_pending (a v : Nat) : (s.setReg a v).pending = s.pending := rfl
@[simp] theorem setReg_cycle (a v : Nat) : (s.setReg a v).cycle = s.cycle := rfl
@[simp] theorem setReg_timeNs (a v : Nat) : (s.setReg a v).timeNs = s.timeNs := rfl
@[simp] theorem setReg_timeRem (a v : Nat) : (s.setReg a v).timeRem = s.timeRem := rfl
@[simp] theorem setReg_slew (a v : Nat) : (s.setReg a v).slew = s.slew := rfl
@[simp] theorem setReg_latch (a v : Nat) : (s.setReg a v).latch = s.latch := rfl
@[simp] theorem setReg_resp (a v : Nat) : (s.setReg a v).resp = s.resp := rfl
@[simp] theorem setReg_freeCtr (a v : Nat) : (s.setReg a v).freeCtr = s.freeCtr := rfl
@[simp] theorem setReg_mem (a v : Nat) : (s.setReg a v).mem = s.mem := rfl
@[simp] theorem setReg_ac (a v : Nat) : (s.setReg a v).ac = s.ac := rfl
@[simp] theorem setReg_sorrel (a v : Nat) : (s.setReg a v).sorrel = s.sorrel := rfl
@[simp] theorem setReg_dill (a v : Nat) : (s.setReg a v).dill = s.dill := rfl
@[simp] theorem setReg_tile (a v : Nat) : (s.setReg a v).tile = s.tile := rfl
@[simp] theorem setReg_images (a v : Nat) : (s.setReg a v).images = s.images := rfl
@[simp] theorem setReg_sync (a v : Nat) : (s.setReg a v).sync = s.sync := rfl
@[simp] theorem setReg_barriers (a v : Nat) : (s.setReg a v).barriers = s.barriers := rfl
@[simp] theorem setReg_job (a v : Nat) : (s.setReg a v).job = s.job := rfl
@[simp] theorem setReg_tenants (a v : Nat) : (s.setReg a v).tenants = s.tenants := rfl
@[simp] theorem setReg_nandModel (a v : Nat) : (s.setReg a v).nandModel = s.nandModel := rfl
@[simp] theorem setReg_nandScratch (a v : Nat) : (s.setReg a v).nandScratch = s.nandScratch := rfl
@[simp] theorem setReg_thy (a v : Nat) : (s.setReg a v).thy = s.thy := rfl
@[simp] theorem setReg_fp1 (a v : Nat) : (s.setReg a v).fp1 = s.fp1 := rfl
@[simp] theorem setReg_serve (a v : Nat) : (s.setReg a v).serve = s.serve := rfl
@[simp] theorem setReg_video (a v : Nat) : (s.setReg a v).video = s.video := rfl
@[simp] theorem setReg_host (a v : Nat) : (s.setReg a v).host = s.host := rfl
@[simp] theorem setReg_sage (a v : Nat) : (s.setReg a v).sage = s.sage := rfl
@[simp] theorem setReg_upd (a v : Nat) : (s.setReg a v).upd = s.upd := rfl
@[simp] theorem setReg_nvs (a v : Nat) : (s.setReg a v).nvs = s.nvs := rfl
@[simp] theorem setReg_start (a v : Nat) : (s.setReg a v).start = s.start := rfl
@[simp] theorem setReg_log (a v : Nat) : (s.setReg a v).log = s.log := rfl
@[simp] theorem setReg_power (a v : Nat) : (s.setReg a v).power = s.power := rfl
@[simp] theorem setReg_ring (a v : Nat) : (s.setReg a v).ring = s.ring := rfl
@[simp] theorem setReg_tap (a v : Nat) : (s.setReg a v).tap = s.tap := rfl
@[simp] theorem setReg_sent (a v : Nat) : (s.setReg a v).sent = s.sent := rfl
@[simp] theorem setReg_obj (a v : Nat) (z : Nat) : (s.setReg a v).obj z = s.obj z := rfl
@[simp] theorem setReg_word (a v : Nat) (z : Nat) : (s.setReg a v).word z = s.word z := rfl
@[simp] theorem setReg_region (a v : Nat) (z : Nat) : (s.setReg a v).region z = s.region z := rfl
@[simp] theorem setReg_tenant (a v : Nat) (z : Nat) : (s.setReg a v).tenant z = s.tenant z := rfl
@[simp] theorem setReg_tileGet (a v : Nat) (y : Core3) : (s.setReg a v).tileGet y = s.tileGet y := rfl
@[simp] theorem setReg_acGet (a v : Nat) (z : Nat) : (s.setReg a v).acGet z = s.acGet z := rfl
@[simp] theorem setReg_rawByte (a v : Nat) (z : Nat) : (s.setReg a v).rawByte z = s.rawByte z := rawByte_congr rfl _

/-! ## `setReg64` -/

@[simp] theorem setReg64_pending (a v : Nat) : (s.setReg64 a v).pending = s.pending := rfl
@[simp] theorem setReg64_cycle (a v : Nat) : (s.setReg64 a v).cycle = s.cycle := rfl
@[simp] theorem setReg64_timeNs (a v : Nat) : (s.setReg64 a v).timeNs = s.timeNs := rfl
@[simp] theorem setReg64_timeRem (a v : Nat) : (s.setReg64 a v).timeRem = s.timeRem := rfl
@[simp] theorem setReg64_slew (a v : Nat) : (s.setReg64 a v).slew = s.slew := rfl
@[simp] theorem setReg64_latch (a v : Nat) : (s.setReg64 a v).latch = s.latch := rfl
@[simp] theorem setReg64_resp (a v : Nat) : (s.setReg64 a v).resp = s.resp := rfl
@[simp] theorem setReg64_freeCtr (a v : Nat) : (s.setReg64 a v).freeCtr = s.freeCtr := rfl
@[simp] theorem setReg64_mem (a v : Nat) : (s.setReg64 a v).mem = s.mem := rfl
@[simp] theorem setReg64_ac (a v : Nat) : (s.setReg64 a v).ac = s.ac := rfl
@[simp] theorem setReg64_sorrel (a v : Nat) : (s.setReg64 a v).sorrel = s.sorrel := rfl
@[simp] theorem setReg64_dill (a v : Nat) : (s.setReg64 a v).dill = s.dill := rfl
@[simp] theorem setReg64_tile (a v : Nat) : (s.setReg64 a v).tile = s.tile := rfl
@[simp] theorem setReg64_images (a v : Nat) : (s.setReg64 a v).images = s.images := rfl
@[simp] theorem setReg64_sync (a v : Nat) : (s.setReg64 a v).sync = s.sync := rfl
@[simp] theorem setReg64_barriers (a v : Nat) : (s.setReg64 a v).barriers = s.barriers := rfl
@[simp] theorem setReg64_job (a v : Nat) : (s.setReg64 a v).job = s.job := rfl
@[simp] theorem setReg64_tenants (a v : Nat) : (s.setReg64 a v).tenants = s.tenants := rfl
@[simp] theorem setReg64_nandModel (a v : Nat) : (s.setReg64 a v).nandModel = s.nandModel := rfl
@[simp] theorem setReg64_nandScratch (a v : Nat) : (s.setReg64 a v).nandScratch = s.nandScratch := rfl
@[simp] theorem setReg64_thy (a v : Nat) : (s.setReg64 a v).thy = s.thy := rfl
@[simp] theorem setReg64_fp1 (a v : Nat) : (s.setReg64 a v).fp1 = s.fp1 := rfl
@[simp] theorem setReg64_serve (a v : Nat) : (s.setReg64 a v).serve = s.serve := rfl
@[simp] theorem setReg64_video (a v : Nat) : (s.setReg64 a v).video = s.video := rfl
@[simp] theorem setReg64_host (a v : Nat) : (s.setReg64 a v).host = s.host := rfl
@[simp] theorem setReg64_sage (a v : Nat) : (s.setReg64 a v).sage = s.sage := rfl
@[simp] theorem setReg64_upd (a v : Nat) : (s.setReg64 a v).upd = s.upd := rfl
@[simp] theorem setReg64_nvs (a v : Nat) : (s.setReg64 a v).nvs = s.nvs := rfl
@[simp] theorem setReg64_start (a v : Nat) : (s.setReg64 a v).start = s.start := rfl
@[simp] theorem setReg64_log (a v : Nat) : (s.setReg64 a v).log = s.log := rfl
@[simp] theorem setReg64_power (a v : Nat) : (s.setReg64 a v).power = s.power := rfl
@[simp] theorem setReg64_ring (a v : Nat) : (s.setReg64 a v).ring = s.ring := rfl
@[simp] theorem setReg64_tap (a v : Nat) : (s.setReg64 a v).tap = s.tap := rfl
@[simp] theorem setReg64_sent (a v : Nat) : (s.setReg64 a v).sent = s.sent := rfl
@[simp] theorem setReg64_obj (a v : Nat) (z : Nat) : (s.setReg64 a v).obj z = s.obj z := rfl
@[simp] theorem setReg64_word (a v : Nat) (z : Nat) : (s.setReg64 a v).word z = s.word z := rfl
@[simp] theorem setReg64_region (a v : Nat) (z : Nat) : (s.setReg64 a v).region z = s.region z := rfl
@[simp] theorem setReg64_tenant (a v : Nat) (z : Nat) : (s.setReg64 a v).tenant z = s.tenant z := rfl
@[simp] theorem setReg64_tileGet (a v : Nat) (y : Core3) : (s.setReg64 a v).tileGet y = s.tileGet y := rfl
@[simp] theorem setReg64_acGet (a v : Nat) (z : Nat) : (s.setReg64 a v).acGet z = s.acGet z := rfl
@[simp] theorem setReg64_rawByte (a v : Nat) (z : Nat) : (s.setReg64 a v).rawByte z = s.rawByte z := rawByte_congr rfl _

/-! ## `setFld` -/

@[simp] theorem setFld_pending (a hi lo v : Nat) : (s.setFld a hi lo v).pending = s.pending := rfl
@[simp] theorem setFld_cycle (a hi lo v : Nat) : (s.setFld a hi lo v).cycle = s.cycle := rfl
@[simp] theorem setFld_timeNs (a hi lo v : Nat) : (s.setFld a hi lo v).timeNs = s.timeNs := rfl
@[simp] theorem setFld_timeRem (a hi lo v : Nat) : (s.setFld a hi lo v).timeRem = s.timeRem := rfl
@[simp] theorem setFld_slew (a hi lo v : Nat) : (s.setFld a hi lo v).slew = s.slew := rfl
@[simp] theorem setFld_latch (a hi lo v : Nat) : (s.setFld a hi lo v).latch = s.latch := rfl
@[simp] theorem setFld_resp (a hi lo v : Nat) : (s.setFld a hi lo v).resp = s.resp := rfl
@[simp] theorem setFld_freeCtr (a hi lo v : Nat) : (s.setFld a hi lo v).freeCtr = s.freeCtr := rfl
@[simp] theorem setFld_mem (a hi lo v : Nat) : (s.setFld a hi lo v).mem = s.mem := rfl
@[simp] theorem setFld_ac (a hi lo v : Nat) : (s.setFld a hi lo v).ac = s.ac := rfl
@[simp] theorem setFld_sorrel (a hi lo v : Nat) : (s.setFld a hi lo v).sorrel = s.sorrel := rfl
@[simp] theorem setFld_dill (a hi lo v : Nat) : (s.setFld a hi lo v).dill = s.dill := rfl
@[simp] theorem setFld_tile (a hi lo v : Nat) : (s.setFld a hi lo v).tile = s.tile := rfl
@[simp] theorem setFld_images (a hi lo v : Nat) : (s.setFld a hi lo v).images = s.images := rfl
@[simp] theorem setFld_sync (a hi lo v : Nat) : (s.setFld a hi lo v).sync = s.sync := rfl
@[simp] theorem setFld_barriers (a hi lo v : Nat) : (s.setFld a hi lo v).barriers = s.barriers := rfl
@[simp] theorem setFld_job (a hi lo v : Nat) : (s.setFld a hi lo v).job = s.job := rfl
@[simp] theorem setFld_tenants (a hi lo v : Nat) : (s.setFld a hi lo v).tenants = s.tenants := rfl
@[simp] theorem setFld_nandModel (a hi lo v : Nat) : (s.setFld a hi lo v).nandModel = s.nandModel := rfl
@[simp] theorem setFld_nandScratch (a hi lo v : Nat) : (s.setFld a hi lo v).nandScratch = s.nandScratch := rfl
@[simp] theorem setFld_thy (a hi lo v : Nat) : (s.setFld a hi lo v).thy = s.thy := rfl
@[simp] theorem setFld_fp1 (a hi lo v : Nat) : (s.setFld a hi lo v).fp1 = s.fp1 := rfl
@[simp] theorem setFld_serve (a hi lo v : Nat) : (s.setFld a hi lo v).serve = s.serve := rfl
@[simp] theorem setFld_video (a hi lo v : Nat) : (s.setFld a hi lo v).video = s.video := rfl
@[simp] theorem setFld_host (a hi lo v : Nat) : (s.setFld a hi lo v).host = s.host := rfl
@[simp] theorem setFld_sage (a hi lo v : Nat) : (s.setFld a hi lo v).sage = s.sage := rfl
@[simp] theorem setFld_upd (a hi lo v : Nat) : (s.setFld a hi lo v).upd = s.upd := rfl
@[simp] theorem setFld_nvs (a hi lo v : Nat) : (s.setFld a hi lo v).nvs = s.nvs := rfl
@[simp] theorem setFld_start (a hi lo v : Nat) : (s.setFld a hi lo v).start = s.start := rfl
@[simp] theorem setFld_log (a hi lo v : Nat) : (s.setFld a hi lo v).log = s.log := rfl
@[simp] theorem setFld_power (a hi lo v : Nat) : (s.setFld a hi lo v).power = s.power := rfl
@[simp] theorem setFld_ring (a hi lo v : Nat) : (s.setFld a hi lo v).ring = s.ring := rfl
@[simp] theorem setFld_tap (a hi lo v : Nat) : (s.setFld a hi lo v).tap = s.tap := rfl
@[simp] theorem setFld_sent (a hi lo v : Nat) : (s.setFld a hi lo v).sent = s.sent := rfl
@[simp] theorem setFld_obj (a hi lo v : Nat) (z : Nat) : (s.setFld a hi lo v).obj z = s.obj z := rfl
@[simp] theorem setFld_word (a hi lo v : Nat) (z : Nat) : (s.setFld a hi lo v).word z = s.word z := rfl
@[simp] theorem setFld_region (a hi lo v : Nat) (z : Nat) : (s.setFld a hi lo v).region z = s.region z := rfl
@[simp] theorem setFld_tenant (a hi lo v : Nat) (z : Nat) : (s.setFld a hi lo v).tenant z = s.tenant z := rfl
@[simp] theorem setFld_tileGet (a hi lo v : Nat) (y : Core3) : (s.setFld a hi lo v).tileGet y = s.tileGet y := rfl
@[simp] theorem setFld_acGet (a hi lo v : Nat) (z : Nat) : (s.setFld a hi lo v).acGet z = s.acGet z := rfl
@[simp] theorem setFld_rawByte (a hi lo v : Nat) (z : Nat) : (s.setFld a hi lo v).rawByte z = s.rawByte z := rawByte_congr rfl _

/-! ## `setRbit` -/

@[simp] theorem setRbit_pending (a i : Nat) (b : Bool) : (s.setRbit a i b).pending = s.pending := rfl
@[simp] theorem setRbit_cycle (a i : Nat) (b : Bool) : (s.setRbit a i b).cycle = s.cycle := rfl
@[simp] theorem setRbit_timeNs (a i : Nat) (b : Bool) : (s.setRbit a i b).timeNs = s.timeNs := rfl
@[simp] theorem setRbit_timeRem (a i : Nat) (b : Bool) : (s.setRbit a i b).timeRem = s.timeRem := rfl
@[simp] theorem setRbit_slew (a i : Nat) (b : Bool) : (s.setRbit a i b).slew = s.slew := rfl
@[simp] theorem setRbit_latch (a i : Nat) (b : Bool) : (s.setRbit a i b).latch = s.latch := rfl
@[simp] theorem setRbit_resp (a i : Nat) (b : Bool) : (s.setRbit a i b).resp = s.resp := rfl
@[simp] theorem setRbit_freeCtr (a i : Nat) (b : Bool) : (s.setRbit a i b).freeCtr = s.freeCtr := rfl
@[simp] theorem setRbit_mem (a i : Nat) (b : Bool) : (s.setRbit a i b).mem = s.mem := rfl
@[simp] theorem setRbit_ac (a i : Nat) (b : Bool) : (s.setRbit a i b).ac = s.ac := rfl
@[simp] theorem setRbit_sorrel (a i : Nat) (b : Bool) : (s.setRbit a i b).sorrel = s.sorrel := rfl
@[simp] theorem setRbit_dill (a i : Nat) (b : Bool) : (s.setRbit a i b).dill = s.dill := rfl
@[simp] theorem setRbit_tile (a i : Nat) (b : Bool) : (s.setRbit a i b).tile = s.tile := rfl
@[simp] theorem setRbit_images (a i : Nat) (b : Bool) : (s.setRbit a i b).images = s.images := rfl
@[simp] theorem setRbit_sync (a i : Nat) (b : Bool) : (s.setRbit a i b).sync = s.sync := rfl
@[simp] theorem setRbit_barriers (a i : Nat) (b : Bool) : (s.setRbit a i b).barriers = s.barriers := rfl
@[simp] theorem setRbit_job (a i : Nat) (b : Bool) : (s.setRbit a i b).job = s.job := rfl
@[simp] theorem setRbit_tenants (a i : Nat) (b : Bool) : (s.setRbit a i b).tenants = s.tenants := rfl
@[simp] theorem setRbit_nandModel (a i : Nat) (b : Bool) : (s.setRbit a i b).nandModel = s.nandModel := rfl
@[simp] theorem setRbit_nandScratch (a i : Nat) (b : Bool) : (s.setRbit a i b).nandScratch = s.nandScratch := rfl
@[simp] theorem setRbit_thy (a i : Nat) (b : Bool) : (s.setRbit a i b).thy = s.thy := rfl
@[simp] theorem setRbit_fp1 (a i : Nat) (b : Bool) : (s.setRbit a i b).fp1 = s.fp1 := rfl
@[simp] theorem setRbit_serve (a i : Nat) (b : Bool) : (s.setRbit a i b).serve = s.serve := rfl
@[simp] theorem setRbit_video (a i : Nat) (b : Bool) : (s.setRbit a i b).video = s.video := rfl
@[simp] theorem setRbit_host (a i : Nat) (b : Bool) : (s.setRbit a i b).host = s.host := rfl
@[simp] theorem setRbit_sage (a i : Nat) (b : Bool) : (s.setRbit a i b).sage = s.sage := rfl
@[simp] theorem setRbit_upd (a i : Nat) (b : Bool) : (s.setRbit a i b).upd = s.upd := rfl
@[simp] theorem setRbit_nvs (a i : Nat) (b : Bool) : (s.setRbit a i b).nvs = s.nvs := rfl
@[simp] theorem setRbit_start (a i : Nat) (b : Bool) : (s.setRbit a i b).start = s.start := rfl
@[simp] theorem setRbit_log (a i : Nat) (b : Bool) : (s.setRbit a i b).log = s.log := rfl
@[simp] theorem setRbit_power (a i : Nat) (b : Bool) : (s.setRbit a i b).power = s.power := rfl
@[simp] theorem setRbit_ring (a i : Nat) (b : Bool) : (s.setRbit a i b).ring = s.ring := rfl
@[simp] theorem setRbit_tap (a i : Nat) (b : Bool) : (s.setRbit a i b).tap = s.tap := rfl
@[simp] theorem setRbit_sent (a i : Nat) (b : Bool) : (s.setRbit a i b).sent = s.sent := rfl
@[simp] theorem setRbit_obj (a i : Nat) (b : Bool) (z : Nat) : (s.setRbit a i b).obj z = s.obj z := rfl
@[simp] theorem setRbit_word (a i : Nat) (b : Bool) (z : Nat) : (s.setRbit a i b).word z = s.word z := rfl
@[simp] theorem setRbit_region (a i : Nat) (b : Bool) (z : Nat) : (s.setRbit a i b).region z = s.region z := rfl
@[simp] theorem setRbit_tenant (a i : Nat) (b : Bool) (z : Nat) : (s.setRbit a i b).tenant z = s.tenant z := rfl
@[simp] theorem setRbit_tileGet (a i : Nat) (b : Bool) (y : Core3) : (s.setRbit a i b).tileGet y = s.tileGet y := rfl
@[simp] theorem setRbit_acGet (a i : Nat) (b : Bool) (z : Nat) : (s.setRbit a i b).acGet z = s.acGet z := rfl
@[simp] theorem setRbit_rawByte (a i : Nat) (b : Bool) (z : Nat) : (s.setRbit a i b).rawByte z = s.rawByte z := rawByte_congr rfl _

/-! ## `bumpBy` -/

@[simp] theorem bumpBy_pending (a n : Nat) : (s.bumpBy a n).pending = s.pending := rfl
@[simp] theorem bumpBy_cycle (a n : Nat) : (s.bumpBy a n).cycle = s.cycle := rfl
@[simp] theorem bumpBy_timeNs (a n : Nat) : (s.bumpBy a n).timeNs = s.timeNs := rfl
@[simp] theorem bumpBy_timeRem (a n : Nat) : (s.bumpBy a n).timeRem = s.timeRem := rfl
@[simp] theorem bumpBy_slew (a n : Nat) : (s.bumpBy a n).slew = s.slew := rfl
@[simp] theorem bumpBy_latch (a n : Nat) : (s.bumpBy a n).latch = s.latch := rfl
@[simp] theorem bumpBy_resp (a n : Nat) : (s.bumpBy a n).resp = s.resp := rfl
@[simp] theorem bumpBy_freeCtr (a n : Nat) : (s.bumpBy a n).freeCtr = s.freeCtr := rfl
@[simp] theorem bumpBy_mem (a n : Nat) : (s.bumpBy a n).mem = s.mem := rfl
@[simp] theorem bumpBy_ac (a n : Nat) : (s.bumpBy a n).ac = s.ac := rfl
@[simp] theorem bumpBy_sorrel (a n : Nat) : (s.bumpBy a n).sorrel = s.sorrel := rfl
@[simp] theorem bumpBy_dill (a n : Nat) : (s.bumpBy a n).dill = s.dill := rfl
@[simp] theorem bumpBy_tile (a n : Nat) : (s.bumpBy a n).tile = s.tile := rfl
@[simp] theorem bumpBy_images (a n : Nat) : (s.bumpBy a n).images = s.images := rfl
@[simp] theorem bumpBy_sync (a n : Nat) : (s.bumpBy a n).sync = s.sync := rfl
@[simp] theorem bumpBy_barriers (a n : Nat) : (s.bumpBy a n).barriers = s.barriers := rfl
@[simp] theorem bumpBy_job (a n : Nat) : (s.bumpBy a n).job = s.job := rfl
@[simp] theorem bumpBy_tenants (a n : Nat) : (s.bumpBy a n).tenants = s.tenants := rfl
@[simp] theorem bumpBy_nandModel (a n : Nat) : (s.bumpBy a n).nandModel = s.nandModel := rfl
@[simp] theorem bumpBy_nandScratch (a n : Nat) : (s.bumpBy a n).nandScratch = s.nandScratch := rfl
@[simp] theorem bumpBy_thy (a n : Nat) : (s.bumpBy a n).thy = s.thy := rfl
@[simp] theorem bumpBy_fp1 (a n : Nat) : (s.bumpBy a n).fp1 = s.fp1 := rfl
@[simp] theorem bumpBy_serve (a n : Nat) : (s.bumpBy a n).serve = s.serve := rfl
@[simp] theorem bumpBy_video (a n : Nat) : (s.bumpBy a n).video = s.video := rfl
@[simp] theorem bumpBy_host (a n : Nat) : (s.bumpBy a n).host = s.host := rfl
@[simp] theorem bumpBy_sage (a n : Nat) : (s.bumpBy a n).sage = s.sage := rfl
@[simp] theorem bumpBy_upd (a n : Nat) : (s.bumpBy a n).upd = s.upd := rfl
@[simp] theorem bumpBy_nvs (a n : Nat) : (s.bumpBy a n).nvs = s.nvs := rfl
@[simp] theorem bumpBy_start (a n : Nat) : (s.bumpBy a n).start = s.start := rfl
@[simp] theorem bumpBy_log (a n : Nat) : (s.bumpBy a n).log = s.log := rfl
@[simp] theorem bumpBy_power (a n : Nat) : (s.bumpBy a n).power = s.power := rfl
@[simp] theorem bumpBy_ring (a n : Nat) : (s.bumpBy a n).ring = s.ring := rfl
@[simp] theorem bumpBy_tap (a n : Nat) : (s.bumpBy a n).tap = s.tap := rfl
@[simp] theorem bumpBy_sent (a n : Nat) : (s.bumpBy a n).sent = s.sent := rfl
@[simp] theorem bumpBy_obj (a n : Nat) (z : Nat) : (s.bumpBy a n).obj z = s.obj z := rfl
@[simp] theorem bumpBy_word (a n : Nat) (z : Nat) : (s.bumpBy a n).word z = s.word z := rfl
@[simp] theorem bumpBy_region (a n : Nat) (z : Nat) : (s.bumpBy a n).region z = s.region z := rfl
@[simp] theorem bumpBy_tenant (a n : Nat) (z : Nat) : (s.bumpBy a n).tenant z = s.tenant z := rfl
@[simp] theorem bumpBy_tileGet (a n : Nat) (y : Core3) : (s.bumpBy a n).tileGet y = s.tileGet y := rfl
@[simp] theorem bumpBy_acGet (a n : Nat) (z : Nat) : (s.bumpBy a n).acGet z = s.acGet z := rfl
@[simp] theorem bumpBy_rawByte (a n : Nat) (z : Nat) : (s.bumpBy a n).rawByte z = s.rawByte z := rawByte_congr rfl _

/-! ## `bump` -/

@[simp] theorem bump_pending (a : Nat) : (s.bump a).pending = s.pending := rfl
@[simp] theorem bump_cycle (a : Nat) : (s.bump a).cycle = s.cycle := rfl
@[simp] theorem bump_timeNs (a : Nat) : (s.bump a).timeNs = s.timeNs := rfl
@[simp] theorem bump_timeRem (a : Nat) : (s.bump a).timeRem = s.timeRem := rfl
@[simp] theorem bump_slew (a : Nat) : (s.bump a).slew = s.slew := rfl
@[simp] theorem bump_latch (a : Nat) : (s.bump a).latch = s.latch := rfl
@[simp] theorem bump_resp (a : Nat) : (s.bump a).resp = s.resp := rfl
@[simp] theorem bump_freeCtr (a : Nat) : (s.bump a).freeCtr = s.freeCtr := rfl
@[simp] theorem bump_mem (a : Nat) : (s.bump a).mem = s.mem := rfl
@[simp] theorem bump_ac (a : Nat) : (s.bump a).ac = s.ac := rfl
@[simp] theorem bump_sorrel (a : Nat) : (s.bump a).sorrel = s.sorrel := rfl
@[simp] theorem bump_dill (a : Nat) : (s.bump a).dill = s.dill := rfl
@[simp] theorem bump_tile (a : Nat) : (s.bump a).tile = s.tile := rfl
@[simp] theorem bump_images (a : Nat) : (s.bump a).images = s.images := rfl
@[simp] theorem bump_sync (a : Nat) : (s.bump a).sync = s.sync := rfl
@[simp] theorem bump_barriers (a : Nat) : (s.bump a).barriers = s.barriers := rfl
@[simp] theorem bump_job (a : Nat) : (s.bump a).job = s.job := rfl
@[simp] theorem bump_tenants (a : Nat) : (s.bump a).tenants = s.tenants := rfl
@[simp] theorem bump_nandModel (a : Nat) : (s.bump a).nandModel = s.nandModel := rfl
@[simp] theorem bump_nandScratch (a : Nat) : (s.bump a).nandScratch = s.nandScratch := rfl
@[simp] theorem bump_thy (a : Nat) : (s.bump a).thy = s.thy := rfl
@[simp] theorem bump_fp1 (a : Nat) : (s.bump a).fp1 = s.fp1 := rfl
@[simp] theorem bump_serve (a : Nat) : (s.bump a).serve = s.serve := rfl
@[simp] theorem bump_video (a : Nat) : (s.bump a).video = s.video := rfl
@[simp] theorem bump_host (a : Nat) : (s.bump a).host = s.host := rfl
@[simp] theorem bump_sage (a : Nat) : (s.bump a).sage = s.sage := rfl
@[simp] theorem bump_upd (a : Nat) : (s.bump a).upd = s.upd := rfl
@[simp] theorem bump_nvs (a : Nat) : (s.bump a).nvs = s.nvs := rfl
@[simp] theorem bump_start (a : Nat) : (s.bump a).start = s.start := rfl
@[simp] theorem bump_log (a : Nat) : (s.bump a).log = s.log := rfl
@[simp] theorem bump_power (a : Nat) : (s.bump a).power = s.power := rfl
@[simp] theorem bump_ring (a : Nat) : (s.bump a).ring = s.ring := rfl
@[simp] theorem bump_tap (a : Nat) : (s.bump a).tap = s.tap := rfl
@[simp] theorem bump_sent (a : Nat) : (s.bump a).sent = s.sent := rfl
@[simp] theorem bump_obj (a : Nat) (z : Nat) : (s.bump a).obj z = s.obj z := rfl
@[simp] theorem bump_word (a : Nat) (z : Nat) : (s.bump a).word z = s.word z := rfl
@[simp] theorem bump_region (a : Nat) (z : Nat) : (s.bump a).region z = s.region z := rfl
@[simp] theorem bump_tenant (a : Nat) (z : Nat) : (s.bump a).tenant z = s.tenant z := rfl
@[simp] theorem bump_tileGet (a : Nat) (y : Core3) : (s.bump a).tileGet y = s.tileGet y := rfl
@[simp] theorem bump_acGet (a : Nat) (z : Nat) : (s.bump a).acGet z = s.acGet z := rfl
@[simp] theorem bump_rawByte (a : Nat) (z : Nat) : (s.bump a).rawByte z = s.rawByte z := rawByte_congr rfl _

/-! ## `bump64By` -/

@[simp] theorem bump64By_pending (a n : Nat) : (s.bump64By a n).pending = s.pending := rfl
@[simp] theorem bump64By_cycle (a n : Nat) : (s.bump64By a n).cycle = s.cycle := rfl
@[simp] theorem bump64By_timeNs (a n : Nat) : (s.bump64By a n).timeNs = s.timeNs := rfl
@[simp] theorem bump64By_timeRem (a n : Nat) : (s.bump64By a n).timeRem = s.timeRem := rfl
@[simp] theorem bump64By_slew (a n : Nat) : (s.bump64By a n).slew = s.slew := rfl
@[simp] theorem bump64By_latch (a n : Nat) : (s.bump64By a n).latch = s.latch := rfl
@[simp] theorem bump64By_resp (a n : Nat) : (s.bump64By a n).resp = s.resp := rfl
@[simp] theorem bump64By_freeCtr (a n : Nat) : (s.bump64By a n).freeCtr = s.freeCtr := rfl
@[simp] theorem bump64By_mem (a n : Nat) : (s.bump64By a n).mem = s.mem := rfl
@[simp] theorem bump64By_ac (a n : Nat) : (s.bump64By a n).ac = s.ac := rfl
@[simp] theorem bump64By_sorrel (a n : Nat) : (s.bump64By a n).sorrel = s.sorrel := rfl
@[simp] theorem bump64By_dill (a n : Nat) : (s.bump64By a n).dill = s.dill := rfl
@[simp] theorem bump64By_tile (a n : Nat) : (s.bump64By a n).tile = s.tile := rfl
@[simp] theorem bump64By_images (a n : Nat) : (s.bump64By a n).images = s.images := rfl
@[simp] theorem bump64By_sync (a n : Nat) : (s.bump64By a n).sync = s.sync := rfl
@[simp] theorem bump64By_barriers (a n : Nat) : (s.bump64By a n).barriers = s.barriers := rfl
@[simp] theorem bump64By_job (a n : Nat) : (s.bump64By a n).job = s.job := rfl
@[simp] theorem bump64By_tenants (a n : Nat) : (s.bump64By a n).tenants = s.tenants := rfl
@[simp] theorem bump64By_nandModel (a n : Nat) : (s.bump64By a n).nandModel = s.nandModel := rfl
@[simp] theorem bump64By_nandScratch (a n : Nat) : (s.bump64By a n).nandScratch = s.nandScratch := rfl
@[simp] theorem bump64By_thy (a n : Nat) : (s.bump64By a n).thy = s.thy := rfl
@[simp] theorem bump64By_fp1 (a n : Nat) : (s.bump64By a n).fp1 = s.fp1 := rfl
@[simp] theorem bump64By_serve (a n : Nat) : (s.bump64By a n).serve = s.serve := rfl
@[simp] theorem bump64By_video (a n : Nat) : (s.bump64By a n).video = s.video := rfl
@[simp] theorem bump64By_host (a n : Nat) : (s.bump64By a n).host = s.host := rfl
@[simp] theorem bump64By_sage (a n : Nat) : (s.bump64By a n).sage = s.sage := rfl
@[simp] theorem bump64By_upd (a n : Nat) : (s.bump64By a n).upd = s.upd := rfl
@[simp] theorem bump64By_nvs (a n : Nat) : (s.bump64By a n).nvs = s.nvs := rfl
@[simp] theorem bump64By_start (a n : Nat) : (s.bump64By a n).start = s.start := rfl
@[simp] theorem bump64By_log (a n : Nat) : (s.bump64By a n).log = s.log := rfl
@[simp] theorem bump64By_power (a n : Nat) : (s.bump64By a n).power = s.power := rfl
@[simp] theorem bump64By_ring (a n : Nat) : (s.bump64By a n).ring = s.ring := rfl
@[simp] theorem bump64By_tap (a n : Nat) : (s.bump64By a n).tap = s.tap := rfl
@[simp] theorem bump64By_sent (a n : Nat) : (s.bump64By a n).sent = s.sent := rfl
@[simp] theorem bump64By_obj (a n : Nat) (z : Nat) : (s.bump64By a n).obj z = s.obj z := rfl
@[simp] theorem bump64By_word (a n : Nat) (z : Nat) : (s.bump64By a n).word z = s.word z := rfl
@[simp] theorem bump64By_region (a n : Nat) (z : Nat) : (s.bump64By a n).region z = s.region z := rfl
@[simp] theorem bump64By_tenant (a n : Nat) (z : Nat) : (s.bump64By a n).tenant z = s.tenant z := rfl
@[simp] theorem bump64By_tileGet (a n : Nat) (y : Core3) : (s.bump64By a n).tileGet y = s.tileGet y := rfl
@[simp] theorem bump64By_acGet (a n : Nat) (z : Nat) : (s.bump64By a n).acGet z = s.acGet z := rfl
@[simp] theorem bump64By_rawByte (a n : Nat) (z : Nat) : (s.bump64By a n).rawByte z = s.rawByte z := rawByte_congr rfl _

/-! ## `bumpFld` -/

@[simp] theorem bumpFld_pending (a hi lo : Nat) : (s.bumpFld a hi lo).pending = s.pending := rfl
@[simp] theorem bumpFld_cycle (a hi lo : Nat) : (s.bumpFld a hi lo).cycle = s.cycle := rfl
@[simp] theorem bumpFld_timeNs (a hi lo : Nat) : (s.bumpFld a hi lo).timeNs = s.timeNs := rfl
@[simp] theorem bumpFld_timeRem (a hi lo : Nat) : (s.bumpFld a hi lo).timeRem = s.timeRem := rfl
@[simp] theorem bumpFld_slew (a hi lo : Nat) : (s.bumpFld a hi lo).slew = s.slew := rfl
@[simp] theorem bumpFld_latch (a hi lo : Nat) : (s.bumpFld a hi lo).latch = s.latch := rfl
@[simp] theorem bumpFld_resp (a hi lo : Nat) : (s.bumpFld a hi lo).resp = s.resp := rfl
@[simp] theorem bumpFld_freeCtr (a hi lo : Nat) : (s.bumpFld a hi lo).freeCtr = s.freeCtr := rfl
@[simp] theorem bumpFld_mem (a hi lo : Nat) : (s.bumpFld a hi lo).mem = s.mem := rfl
@[simp] theorem bumpFld_ac (a hi lo : Nat) : (s.bumpFld a hi lo).ac = s.ac := rfl
@[simp] theorem bumpFld_sorrel (a hi lo : Nat) : (s.bumpFld a hi lo).sorrel = s.sorrel := rfl
@[simp] theorem bumpFld_dill (a hi lo : Nat) : (s.bumpFld a hi lo).dill = s.dill := rfl
@[simp] theorem bumpFld_tile (a hi lo : Nat) : (s.bumpFld a hi lo).tile = s.tile := rfl
@[simp] theorem bumpFld_images (a hi lo : Nat) : (s.bumpFld a hi lo).images = s.images := rfl
@[simp] theorem bumpFld_sync (a hi lo : Nat) : (s.bumpFld a hi lo).sync = s.sync := rfl
@[simp] theorem bumpFld_barriers (a hi lo : Nat) : (s.bumpFld a hi lo).barriers = s.barriers := rfl
@[simp] theorem bumpFld_job (a hi lo : Nat) : (s.bumpFld a hi lo).job = s.job := rfl
@[simp] theorem bumpFld_tenants (a hi lo : Nat) : (s.bumpFld a hi lo).tenants = s.tenants := rfl
@[simp] theorem bumpFld_nandModel (a hi lo : Nat) : (s.bumpFld a hi lo).nandModel = s.nandModel := rfl
@[simp] theorem bumpFld_nandScratch (a hi lo : Nat) : (s.bumpFld a hi lo).nandScratch = s.nandScratch := rfl
@[simp] theorem bumpFld_thy (a hi lo : Nat) : (s.bumpFld a hi lo).thy = s.thy := rfl
@[simp] theorem bumpFld_fp1 (a hi lo : Nat) : (s.bumpFld a hi lo).fp1 = s.fp1 := rfl
@[simp] theorem bumpFld_serve (a hi lo : Nat) : (s.bumpFld a hi lo).serve = s.serve := rfl
@[simp] theorem bumpFld_video (a hi lo : Nat) : (s.bumpFld a hi lo).video = s.video := rfl
@[simp] theorem bumpFld_host (a hi lo : Nat) : (s.bumpFld a hi lo).host = s.host := rfl
@[simp] theorem bumpFld_sage (a hi lo : Nat) : (s.bumpFld a hi lo).sage = s.sage := rfl
@[simp] theorem bumpFld_upd (a hi lo : Nat) : (s.bumpFld a hi lo).upd = s.upd := rfl
@[simp] theorem bumpFld_nvs (a hi lo : Nat) : (s.bumpFld a hi lo).nvs = s.nvs := rfl
@[simp] theorem bumpFld_start (a hi lo : Nat) : (s.bumpFld a hi lo).start = s.start := rfl
@[simp] theorem bumpFld_log (a hi lo : Nat) : (s.bumpFld a hi lo).log = s.log := rfl
@[simp] theorem bumpFld_power (a hi lo : Nat) : (s.bumpFld a hi lo).power = s.power := rfl
@[simp] theorem bumpFld_ring (a hi lo : Nat) : (s.bumpFld a hi lo).ring = s.ring := rfl
@[simp] theorem bumpFld_tap (a hi lo : Nat) : (s.bumpFld a hi lo).tap = s.tap := rfl
@[simp] theorem bumpFld_sent (a hi lo : Nat) : (s.bumpFld a hi lo).sent = s.sent := rfl
@[simp] theorem bumpFld_obj (a hi lo : Nat) (z : Nat) : (s.bumpFld a hi lo).obj z = s.obj z := rfl
@[simp] theorem bumpFld_word (a hi lo : Nat) (z : Nat) : (s.bumpFld a hi lo).word z = s.word z := rfl
@[simp] theorem bumpFld_region (a hi lo : Nat) (z : Nat) : (s.bumpFld a hi lo).region z = s.region z := rfl
@[simp] theorem bumpFld_tenant (a hi lo : Nat) (z : Nat) : (s.bumpFld a hi lo).tenant z = s.tenant z := rfl
@[simp] theorem bumpFld_tileGet (a hi lo : Nat) (y : Core3) : (s.bumpFld a hi lo).tileGet y = s.tileGet y := rfl
@[simp] theorem bumpFld_acGet (a hi lo : Nat) (z : Nat) : (s.bumpFld a hi lo).acGet z = s.acGet z := rfl
@[simp] theorem bumpFld_rawByte (a hi lo : Nat) (z : Nat) : (s.bumpFld a hi lo).rawByte z = s.rawByte z := rawByte_congr rfl _

/-! ## `answer` -/

@[simp] theorem answer_pending (r : Resp) : (s.answer r).pending = s.pending := rfl
@[simp] theorem answer_cycle (r : Resp) : (s.answer r).cycle = s.cycle := rfl
@[simp] theorem answer_timeNs (r : Resp) : (s.answer r).timeNs = s.timeNs := rfl
@[simp] theorem answer_timeRem (r : Resp) : (s.answer r).timeRem = s.timeRem := rfl
@[simp] theorem answer_slew (r : Resp) : (s.answer r).slew = s.slew := rfl
@[simp] theorem answer_regs (r : Resp) : (s.answer r).regs = s.regs := rfl
@[simp] theorem answer_latch (r : Resp) : (s.answer r).latch = s.latch := rfl
@[simp] theorem answer_freeCtr (r : Resp) : (s.answer r).freeCtr = s.freeCtr := rfl
@[simp] theorem answer_mem (r : Resp) : (s.answer r).mem = s.mem := rfl
@[simp] theorem answer_ac (r : Resp) : (s.answer r).ac = s.ac := rfl
@[simp] theorem answer_sorrel (r : Resp) : (s.answer r).sorrel = s.sorrel := rfl
@[simp] theorem answer_dill (r : Resp) : (s.answer r).dill = s.dill := rfl
@[simp] theorem answer_tile (r : Resp) : (s.answer r).tile = s.tile := rfl
@[simp] theorem answer_images (r : Resp) : (s.answer r).images = s.images := rfl
@[simp] theorem answer_sync (r : Resp) : (s.answer r).sync = s.sync := rfl
@[simp] theorem answer_barriers (r : Resp) : (s.answer r).barriers = s.barriers := rfl
@[simp] theorem answer_job (r : Resp) : (s.answer r).job = s.job := rfl
@[simp] theorem answer_tenants (r : Resp) : (s.answer r).tenants = s.tenants := rfl
@[simp] theorem answer_nandModel (r : Resp) : (s.answer r).nandModel = s.nandModel := rfl
@[simp] theorem answer_nandScratch (r : Resp) : (s.answer r).nandScratch = s.nandScratch := rfl
@[simp] theorem answer_thy (r : Resp) : (s.answer r).thy = s.thy := rfl
@[simp] theorem answer_fp1 (r : Resp) : (s.answer r).fp1 = s.fp1 := rfl
@[simp] theorem answer_serve (r : Resp) : (s.answer r).serve = s.serve := rfl
@[simp] theorem answer_video (r : Resp) : (s.answer r).video = s.video := rfl
@[simp] theorem answer_host (r : Resp) : (s.answer r).host = s.host := rfl
@[simp] theorem answer_sage (r : Resp) : (s.answer r).sage = s.sage := rfl
@[simp] theorem answer_upd (r : Resp) : (s.answer r).upd = s.upd := rfl
@[simp] theorem answer_nvs (r : Resp) : (s.answer r).nvs = s.nvs := rfl
@[simp] theorem answer_start (r : Resp) : (s.answer r).start = s.start := rfl
@[simp] theorem answer_log (r : Resp) : (s.answer r).log = s.log := rfl
@[simp] theorem answer_power (r : Resp) : (s.answer r).power = s.power := rfl
@[simp] theorem answer_ring (r : Resp) : (s.answer r).ring = s.ring := rfl
@[simp] theorem answer_tap (r : Resp) : (s.answer r).tap = s.tap := rfl
@[simp] theorem answer_sent (r : Resp) : (s.answer r).sent = s.sent := rfl
@[simp] theorem answer_reg (r : Resp) (z : Nat) : (s.answer r).reg z = s.reg z := rfl
@[simp] theorem answer_obj (r : Resp) (z : Nat) : (s.answer r).obj z = s.obj z := rfl
@[simp] theorem answer_word (r : Resp) (z : Nat) : (s.answer r).word z = s.word z := rfl
@[simp] theorem answer_region (r : Resp) (z : Nat) : (s.answer r).region z = s.region z := rfl
@[simp] theorem answer_tenant (r : Resp) (z : Nat) : (s.answer r).tenant z = s.tenant z := rfl
@[simp] theorem answer_tileGet (r : Resp) (y : Core3) : (s.answer r).tileGet y = s.tileGet y := rfl
@[simp] theorem answer_acGet (r : Resp) (z : Nat) : (s.answer r).acGet z = s.acGet z := rfl
@[simp] theorem answer_rawByte (r : Resp) (z : Nat) : (s.answer r).rawByte z = s.rawByte z := rawByte_congr rfl _

/-! ## `present` -/

@[simp] theorem present_pending (e : ErrEv) : (s.present e).pending = s.pending := rfl
@[simp] theorem present_cycle (e : ErrEv) : (s.present e).cycle = s.cycle := rfl
@[simp] theorem present_timeNs (e : ErrEv) : (s.present e).timeNs = s.timeNs := rfl
@[simp] theorem present_timeRem (e : ErrEv) : (s.present e).timeRem = s.timeRem := rfl
@[simp] theorem present_slew (e : ErrEv) : (s.present e).slew = s.slew := rfl
@[simp] theorem present_regs (e : ErrEv) : (s.present e).regs = s.regs := rfl
@[simp] theorem present_latch (e : ErrEv) : (s.present e).latch = s.latch := rfl
@[simp] theorem present_resp (e : ErrEv) : (s.present e).resp = s.resp := rfl
@[simp] theorem present_freeCtr (e : ErrEv) : (s.present e).freeCtr = s.freeCtr := rfl
@[simp] theorem present_mem (e : ErrEv) : (s.present e).mem = s.mem := rfl
@[simp] theorem present_ac (e : ErrEv) : (s.present e).ac = s.ac := rfl
@[simp] theorem present_dill (e : ErrEv) : (s.present e).dill = s.dill := rfl
@[simp] theorem present_tile (e : ErrEv) : (s.present e).tile = s.tile := rfl
@[simp] theorem present_images (e : ErrEv) : (s.present e).images = s.images := rfl
@[simp] theorem present_sync (e : ErrEv) : (s.present e).sync = s.sync := rfl
@[simp] theorem present_barriers (e : ErrEv) : (s.present e).barriers = s.barriers := rfl
@[simp] theorem present_job (e : ErrEv) : (s.present e).job = s.job := rfl
@[simp] theorem present_tenants (e : ErrEv) : (s.present e).tenants = s.tenants := rfl
@[simp] theorem present_nandModel (e : ErrEv) : (s.present e).nandModel = s.nandModel := rfl
@[simp] theorem present_nandScratch (e : ErrEv) : (s.present e).nandScratch = s.nandScratch := rfl
@[simp] theorem present_thy (e : ErrEv) : (s.present e).thy = s.thy := rfl
@[simp] theorem present_fp1 (e : ErrEv) : (s.present e).fp1 = s.fp1 := rfl
@[simp] theorem present_serve (e : ErrEv) : (s.present e).serve = s.serve := rfl
@[simp] theorem present_video (e : ErrEv) : (s.present e).video = s.video := rfl
@[simp] theorem present_host (e : ErrEv) : (s.present e).host = s.host := rfl
@[simp] theorem present_sage (e : ErrEv) : (s.present e).sage = s.sage := rfl
@[simp] theorem present_upd (e : ErrEv) : (s.present e).upd = s.upd := rfl
@[simp] theorem present_nvs (e : ErrEv) : (s.present e).nvs = s.nvs := rfl
@[simp] theorem present_start (e : ErrEv) : (s.present e).start = s.start := rfl
@[simp] theorem present_log (e : ErrEv) : (s.present e).log = s.log := rfl
@[simp] theorem present_power (e : ErrEv) : (s.present e).power = s.power := rfl
@[simp] theorem present_ring (e : ErrEv) : (s.present e).ring = s.ring := rfl
@[simp] theorem present_tap (e : ErrEv) : (s.present e).tap = s.tap := rfl
@[simp] theorem present_sent (e : ErrEv) : (s.present e).sent = s.sent := rfl
@[simp] theorem present_reg (e : ErrEv) (z : Nat) : (s.present e).reg z = s.reg z := rfl
@[simp] theorem present_obj (e : ErrEv) (z : Nat) : (s.present e).obj z = s.obj z := rfl
@[simp] theorem present_word (e : ErrEv) (z : Nat) : (s.present e).word z = s.word z := rfl
@[simp] theorem present_region (e : ErrEv) (z : Nat) : (s.present e).region z = s.region z := rfl
@[simp] theorem present_tenant (e : ErrEv) (z : Nat) : (s.present e).tenant z = s.tenant z := rfl
@[simp] theorem present_tileGet (e : ErrEv) (y : Core3) : (s.present e).tileGet y = s.tileGet y := rfl
@[simp] theorem present_acGet (e : ErrEv) (z : Nat) : (s.present e).acGet z = s.acGet z := rfl
@[simp] theorem present_rawByte (e : ErrEv) (z : Nat) : (s.present e).rawByte z = s.rawByte z := rawByte_congr rfl _

/-! ## `presentHub` -/

@[simp] theorem presentHub_pending (src acc ini sp a d : Nat) : (s.presentHub src acc ini sp a d).pending = s.pending := rfl
@[simp] theorem presentHub_cycle (src acc ini sp a d : Nat) : (s.presentHub src acc ini sp a d).cycle = s.cycle := rfl
@[simp] theorem presentHub_timeNs (src acc ini sp a d : Nat) : (s.presentHub src acc ini sp a d).timeNs = s.timeNs := rfl
@[simp] theorem presentHub_timeRem (src acc ini sp a d : Nat) : (s.presentHub src acc ini sp a d).timeRem = s.timeRem := rfl
@[simp] theorem presentHub_slew (src acc ini sp a d : Nat) : (s.presentHub src acc ini sp a d).slew = s.slew := rfl
@[simp] theorem presentHub_regs (src acc ini sp a d : Nat) : (s.presentHub src acc ini sp a d).regs = s.regs := rfl
@[simp] theorem presentHub_latch (src acc ini sp a d : Nat) : (s.presentHub src acc ini sp a d).latch = s.latch := rfl
@[simp] theorem presentHub_resp (src acc ini sp a d : Nat) : (s.presentHub src acc ini sp a d).resp = s.resp := rfl
@[simp] theorem presentHub_freeCtr (src acc ini sp a d : Nat) : (s.presentHub src acc ini sp a d).freeCtr = s.freeCtr := rfl
@[simp] theorem presentHub_mem (src acc ini sp a d : Nat) : (s.presentHub src acc ini sp a d).mem = s.mem := rfl
@[simp] theorem presentHub_ac (src acc ini sp a d : Nat) : (s.presentHub src acc ini sp a d).ac = s.ac := rfl
@[simp] theorem presentHub_dill (src acc ini sp a d : Nat) : (s.presentHub src acc ini sp a d).dill = s.dill := rfl
@[simp] theorem presentHub_tile (src acc ini sp a d : Nat) : (s.presentHub src acc ini sp a d).tile = s.tile := rfl
@[simp] theorem presentHub_images (src acc ini sp a d : Nat) : (s.presentHub src acc ini sp a d).images = s.images := rfl
@[simp] theorem presentHub_sync (src acc ini sp a d : Nat) : (s.presentHub src acc ini sp a d).sync = s.sync := rfl
@[simp] theorem presentHub_barriers (src acc ini sp a d : Nat) : (s.presentHub src acc ini sp a d).barriers = s.barriers := rfl
@[simp] theorem presentHub_job (src acc ini sp a d : Nat) : (s.presentHub src acc ini sp a d).job = s.job := rfl
@[simp] theorem presentHub_tenants (src acc ini sp a d : Nat) : (s.presentHub src acc ini sp a d).tenants = s.tenants := rfl
@[simp] theorem presentHub_nandModel (src acc ini sp a d : Nat) : (s.presentHub src acc ini sp a d).nandModel = s.nandModel := rfl
@[simp] theorem presentHub_nandScratch (src acc ini sp a d : Nat) : (s.presentHub src acc ini sp a d).nandScratch = s.nandScratch := rfl
@[simp] theorem presentHub_thy (src acc ini sp a d : Nat) : (s.presentHub src acc ini sp a d).thy = s.thy := rfl
@[simp] theorem presentHub_fp1 (src acc ini sp a d : Nat) : (s.presentHub src acc ini sp a d).fp1 = s.fp1 := rfl
@[simp] theorem presentHub_serve (src acc ini sp a d : Nat) : (s.presentHub src acc ini sp a d).serve = s.serve := rfl
@[simp] theorem presentHub_video (src acc ini sp a d : Nat) : (s.presentHub src acc ini sp a d).video = s.video := rfl
@[simp] theorem presentHub_host (src acc ini sp a d : Nat) : (s.presentHub src acc ini sp a d).host = s.host := rfl
@[simp] theorem presentHub_sage (src acc ini sp a d : Nat) : (s.presentHub src acc ini sp a d).sage = s.sage := rfl
@[simp] theorem presentHub_upd (src acc ini sp a d : Nat) : (s.presentHub src acc ini sp a d).upd = s.upd := rfl
@[simp] theorem presentHub_nvs (src acc ini sp a d : Nat) : (s.presentHub src acc ini sp a d).nvs = s.nvs := rfl
@[simp] theorem presentHub_start (src acc ini sp a d : Nat) : (s.presentHub src acc ini sp a d).start = s.start := rfl
@[simp] theorem presentHub_log (src acc ini sp a d : Nat) : (s.presentHub src acc ini sp a d).log = s.log := rfl
@[simp] theorem presentHub_power (src acc ini sp a d : Nat) : (s.presentHub src acc ini sp a d).power = s.power := rfl
@[simp] theorem presentHub_ring (src acc ini sp a d : Nat) : (s.presentHub src acc ini sp a d).ring = s.ring := rfl
@[simp] theorem presentHub_tap (src acc ini sp a d : Nat) : (s.presentHub src acc ini sp a d).tap = s.tap := rfl
@[simp] theorem presentHub_sent (src acc ini sp a d : Nat) : (s.presentHub src acc ini sp a d).sent = s.sent := rfl
@[simp] theorem presentHub_reg (src acc ini sp a d : Nat) (z : Nat) : (s.presentHub src acc ini sp a d).reg z = s.reg z := rfl
@[simp] theorem presentHub_obj (src acc ini sp a d : Nat) (z : Nat) : (s.presentHub src acc ini sp a d).obj z = s.obj z := rfl
@[simp] theorem presentHub_word (src acc ini sp a d : Nat) (z : Nat) : (s.presentHub src acc ini sp a d).word z = s.word z := rfl
@[simp] theorem presentHub_region (src acc ini sp a d : Nat) (z : Nat) : (s.presentHub src acc ini sp a d).region z = s.region z := rfl
@[simp] theorem presentHub_tenant (src acc ini sp a d : Nat) (z : Nat) : (s.presentHub src acc ini sp a d).tenant z = s.tenant z := rfl
@[simp] theorem presentHub_tileGet (src acc ini sp a d : Nat) (y : Core3) : (s.presentHub src acc ini sp a d).tileGet y = s.tileGet y := rfl
@[simp] theorem presentHub_acGet (src acc ini sp a d : Nat) (z : Nat) : (s.presentHub src acc ini sp a d).acGet z = s.acGet z := rfl
@[simp] theorem presentHub_rawByte (src acc ini sp a d : Nat) (z : Nat) : (s.presentHub src acc ini sp a d).rawByte z = s.rawByte z := rawByte_congr rfl _

/-! ## `accessError` -/

@[simp] theorem accessError_pending (src acc ini a : Nat) : (s.accessError src acc ini a).pending = s.pending := rfl
@[simp] theorem accessError_cycle (src acc ini a : Nat) : (s.accessError src acc ini a).cycle = s.cycle := rfl
@[simp] theorem accessError_timeNs (src acc ini a : Nat) : (s.accessError src acc ini a).timeNs = s.timeNs := rfl
@[simp] theorem accessError_timeRem (src acc ini a : Nat) : (s.accessError src acc ini a).timeRem = s.timeRem := rfl
@[simp] theorem accessError_slew (src acc ini a : Nat) : (s.accessError src acc ini a).slew = s.slew := rfl
@[simp] theorem accessError_regs (src acc ini a : Nat) : (s.accessError src acc ini a).regs = s.regs := rfl
@[simp] theorem accessError_latch (src acc ini a : Nat) : (s.accessError src acc ini a).latch = s.latch := rfl
@[simp] theorem accessError_freeCtr (src acc ini a : Nat) : (s.accessError src acc ini a).freeCtr = s.freeCtr := rfl
@[simp] theorem accessError_mem (src acc ini a : Nat) : (s.accessError src acc ini a).mem = s.mem := rfl
@[simp] theorem accessError_ac (src acc ini a : Nat) : (s.accessError src acc ini a).ac = s.ac := rfl
@[simp] theorem accessError_dill (src acc ini a : Nat) : (s.accessError src acc ini a).dill = s.dill := rfl
@[simp] theorem accessError_tile (src acc ini a : Nat) : (s.accessError src acc ini a).tile = s.tile := rfl
@[simp] theorem accessError_images (src acc ini a : Nat) : (s.accessError src acc ini a).images = s.images := rfl
@[simp] theorem accessError_sync (src acc ini a : Nat) : (s.accessError src acc ini a).sync = s.sync := rfl
@[simp] theorem accessError_barriers (src acc ini a : Nat) : (s.accessError src acc ini a).barriers = s.barriers := rfl
@[simp] theorem accessError_job (src acc ini a : Nat) : (s.accessError src acc ini a).job = s.job := rfl
@[simp] theorem accessError_tenants (src acc ini a : Nat) : (s.accessError src acc ini a).tenants = s.tenants := rfl
@[simp] theorem accessError_nandModel (src acc ini a : Nat) : (s.accessError src acc ini a).nandModel = s.nandModel := rfl
@[simp] theorem accessError_nandScratch (src acc ini a : Nat) : (s.accessError src acc ini a).nandScratch = s.nandScratch := rfl
@[simp] theorem accessError_thy (src acc ini a : Nat) : (s.accessError src acc ini a).thy = s.thy := rfl
@[simp] theorem accessError_fp1 (src acc ini a : Nat) : (s.accessError src acc ini a).fp1 = s.fp1 := rfl
@[simp] theorem accessError_serve (src acc ini a : Nat) : (s.accessError src acc ini a).serve = s.serve := rfl
@[simp] theorem accessError_video (src acc ini a : Nat) : (s.accessError src acc ini a).video = s.video := rfl
@[simp] theorem accessError_host (src acc ini a : Nat) : (s.accessError src acc ini a).host = s.host := rfl
@[simp] theorem accessError_sage (src acc ini a : Nat) : (s.accessError src acc ini a).sage = s.sage := rfl
@[simp] theorem accessError_upd (src acc ini a : Nat) : (s.accessError src acc ini a).upd = s.upd := rfl
@[simp] theorem accessError_nvs (src acc ini a : Nat) : (s.accessError src acc ini a).nvs = s.nvs := rfl
@[simp] theorem accessError_start (src acc ini a : Nat) : (s.accessError src acc ini a).start = s.start := rfl
@[simp] theorem accessError_log (src acc ini a : Nat) : (s.accessError src acc ini a).log = s.log := rfl
@[simp] theorem accessError_power (src acc ini a : Nat) : (s.accessError src acc ini a).power = s.power := rfl
@[simp] theorem accessError_ring (src acc ini a : Nat) : (s.accessError src acc ini a).ring = s.ring := rfl
@[simp] theorem accessError_tap (src acc ini a : Nat) : (s.accessError src acc ini a).tap = s.tap := rfl
@[simp] theorem accessError_sent (src acc ini a : Nat) : (s.accessError src acc ini a).sent = s.sent := rfl
@[simp] theorem accessError_reg (src acc ini a : Nat) (z : Nat) : (s.accessError src acc ini a).reg z = s.reg z := rfl
@[simp] theorem accessError_obj (src acc ini a : Nat) (z : Nat) : (s.accessError src acc ini a).obj z = s.obj z := rfl
@[simp] theorem accessError_word (src acc ini a : Nat) (z : Nat) : (s.accessError src acc ini a).word z = s.word z := rfl
@[simp] theorem accessError_region (src acc ini a : Nat) (z : Nat) : (s.accessError src acc ini a).region z = s.region z := rfl
@[simp] theorem accessError_tenant (src acc ini a : Nat) (z : Nat) : (s.accessError src acc ini a).tenant z = s.tenant z := rfl
@[simp] theorem accessError_tileGet (src acc ini a : Nat) (y : Core3) : (s.accessError src acc ini a).tileGet y = s.tileGet y := rfl
@[simp] theorem accessError_acGet (src acc ini a : Nat) (z : Nat) : (s.accessError src acc ini a).acGet z = s.acGet z := rfl
@[simp] theorem accessError_rawByte (src acc ini a : Nat) (z : Nat) : (s.accessError src acc ini a).rawByte z = s.rawByte z := rawByte_congr rfl _

/-! ## `send` -/

@[simp] theorem send_pending (m : Msg) : (s.send m).pending = s.pending := rfl
@[simp] theorem send_cycle (m : Msg) : (s.send m).cycle = s.cycle := rfl
@[simp] theorem send_timeNs (m : Msg) : (s.send m).timeNs = s.timeNs := rfl
@[simp] theorem send_timeRem (m : Msg) : (s.send m).timeRem = s.timeRem := rfl
@[simp] theorem send_slew (m : Msg) : (s.send m).slew = s.slew := rfl
@[simp] theorem send_regs (m : Msg) : (s.send m).regs = s.regs := rfl
@[simp] theorem send_latch (m : Msg) : (s.send m).latch = s.latch := rfl
@[simp] theorem send_resp (m : Msg) : (s.send m).resp = s.resp := rfl
@[simp] theorem send_freeCtr (m : Msg) : (s.send m).freeCtr = s.freeCtr := rfl
@[simp] theorem send_mem (m : Msg) : (s.send m).mem = s.mem := rfl
@[simp] theorem send_ac (m : Msg) : (s.send m).ac = s.ac := rfl
@[simp] theorem send_sorrel (m : Msg) : (s.send m).sorrel = s.sorrel := rfl
@[simp] theorem send_dill (m : Msg) : (s.send m).dill = s.dill := rfl
@[simp] theorem send_tile (m : Msg) : (s.send m).tile = s.tile := rfl
@[simp] theorem send_images (m : Msg) : (s.send m).images = s.images := rfl
@[simp] theorem send_sync (m : Msg) : (s.send m).sync = s.sync := rfl
@[simp] theorem send_barriers (m : Msg) : (s.send m).barriers = s.barriers := rfl
@[simp] theorem send_job (m : Msg) : (s.send m).job = s.job := rfl
@[simp] theorem send_tenants (m : Msg) : (s.send m).tenants = s.tenants := rfl
@[simp] theorem send_nandModel (m : Msg) : (s.send m).nandModel = s.nandModel := rfl
@[simp] theorem send_nandScratch (m : Msg) : (s.send m).nandScratch = s.nandScratch := rfl
@[simp] theorem send_thy (m : Msg) : (s.send m).thy = s.thy := rfl
@[simp] theorem send_fp1 (m : Msg) : (s.send m).fp1 = s.fp1 := rfl
@[simp] theorem send_serve (m : Msg) : (s.send m).serve = s.serve := rfl
@[simp] theorem send_video (m : Msg) : (s.send m).video = s.video := rfl
@[simp] theorem send_host (m : Msg) : (s.send m).host = s.host := rfl
@[simp] theorem send_sage (m : Msg) : (s.send m).sage = s.sage := rfl
@[simp] theorem send_upd (m : Msg) : (s.send m).upd = s.upd := rfl
@[simp] theorem send_nvs (m : Msg) : (s.send m).nvs = s.nvs := rfl
@[simp] theorem send_start (m : Msg) : (s.send m).start = s.start := rfl
@[simp] theorem send_log (m : Msg) : (s.send m).log = s.log := rfl
@[simp] theorem send_power (m : Msg) : (s.send m).power = s.power := rfl
@[simp] theorem send_ring (m : Msg) : (s.send m).ring = s.ring := rfl
@[simp] theorem send_tap (m : Msg) : (s.send m).tap = s.tap := rfl
@[simp] theorem send_reg (m : Msg) (z : Nat) : (s.send m).reg z = s.reg z := rfl
@[simp] theorem send_obj (m : Msg) (z : Nat) : (s.send m).obj z = s.obj z := rfl
@[simp] theorem send_word (m : Msg) (z : Nat) : (s.send m).word z = s.word z := rfl
@[simp] theorem send_region (m : Msg) (z : Nat) : (s.send m).region z = s.region z := rfl
@[simp] theorem send_tenant (m : Msg) (z : Nat) : (s.send m).tenant z = s.tenant z := rfl
@[simp] theorem send_tileGet (m : Msg) (y : Core3) : (s.send m).tileGet y = s.tileGet y := rfl
@[simp] theorem send_acGet (m : Msg) (z : Nat) : (s.send m).acGet z = s.acGet z := rfl
@[simp] theorem send_rawByte (m : Msg) (z : Nat) : (s.send m).rawByte z = s.rawByte z := rawByte_congr rfl _

/-! ## `setTenant` -/

@[simp] theorem setTenant_pending (t : Nat) (x : Tenant) : (s.setTenant t x).pending = s.pending := rfl
@[simp] theorem setTenant_cycle (t : Nat) (x : Tenant) : (s.setTenant t x).cycle = s.cycle := rfl
@[simp] theorem setTenant_timeNs (t : Nat) (x : Tenant) : (s.setTenant t x).timeNs = s.timeNs := rfl
@[simp] theorem setTenant_timeRem (t : Nat) (x : Tenant) : (s.setTenant t x).timeRem = s.timeRem := rfl
@[simp] theorem setTenant_slew (t : Nat) (x : Tenant) : (s.setTenant t x).slew = s.slew := rfl
@[simp] theorem setTenant_regs (t : Nat) (x : Tenant) : (s.setTenant t x).regs = s.regs := rfl
@[simp] theorem setTenant_latch (t : Nat) (x : Tenant) : (s.setTenant t x).latch = s.latch := rfl
@[simp] theorem setTenant_resp (t : Nat) (x : Tenant) : (s.setTenant t x).resp = s.resp := rfl
@[simp] theorem setTenant_freeCtr (t : Nat) (x : Tenant) : (s.setTenant t x).freeCtr = s.freeCtr := rfl
@[simp] theorem setTenant_mem (t : Nat) (x : Tenant) : (s.setTenant t x).mem = s.mem := rfl
@[simp] theorem setTenant_ac (t : Nat) (x : Tenant) : (s.setTenant t x).ac = s.ac := rfl
@[simp] theorem setTenant_sorrel (t : Nat) (x : Tenant) : (s.setTenant t x).sorrel = s.sorrel := rfl
@[simp] theorem setTenant_dill (t : Nat) (x : Tenant) : (s.setTenant t x).dill = s.dill := rfl
@[simp] theorem setTenant_tile (t : Nat) (x : Tenant) : (s.setTenant t x).tile = s.tile := rfl
@[simp] theorem setTenant_images (t : Nat) (x : Tenant) : (s.setTenant t x).images = s.images := rfl
@[simp] theorem setTenant_sync (t : Nat) (x : Tenant) : (s.setTenant t x).sync = s.sync := rfl
@[simp] theorem setTenant_barriers (t : Nat) (x : Tenant) : (s.setTenant t x).barriers = s.barriers := rfl
@[simp] theorem setTenant_job (t : Nat) (x : Tenant) : (s.setTenant t x).job = s.job := rfl
@[simp] theorem setTenant_nandModel (t : Nat) (x : Tenant) : (s.setTenant t x).nandModel = s.nandModel := rfl
@[simp] theorem setTenant_nandScratch (t : Nat) (x : Tenant) : (s.setTenant t x).nandScratch = s.nandScratch := rfl
@[simp] theorem setTenant_thy (t : Nat) (x : Tenant) : (s.setTenant t x).thy = s.thy := rfl
@[simp] theorem setTenant_fp1 (t : Nat) (x : Tenant) : (s.setTenant t x).fp1 = s.fp1 := rfl
@[simp] theorem setTenant_serve (t : Nat) (x : Tenant) : (s.setTenant t x).serve = s.serve := rfl
@[simp] theorem setTenant_video (t : Nat) (x : Tenant) : (s.setTenant t x).video = s.video := rfl
@[simp] theorem setTenant_host (t : Nat) (x : Tenant) : (s.setTenant t x).host = s.host := rfl
@[simp] theorem setTenant_sage (t : Nat) (x : Tenant) : (s.setTenant t x).sage = s.sage := rfl
@[simp] theorem setTenant_upd (t : Nat) (x : Tenant) : (s.setTenant t x).upd = s.upd := rfl
@[simp] theorem setTenant_nvs (t : Nat) (x : Tenant) : (s.setTenant t x).nvs = s.nvs := rfl
@[simp] theorem setTenant_start (t : Nat) (x : Tenant) : (s.setTenant t x).start = s.start := rfl
@[simp] theorem setTenant_log (t : Nat) (x : Tenant) : (s.setTenant t x).log = s.log := rfl
@[simp] theorem setTenant_power (t : Nat) (x : Tenant) : (s.setTenant t x).power = s.power := rfl
@[simp] theorem setTenant_ring (t : Nat) (x : Tenant) : (s.setTenant t x).ring = s.ring := rfl
@[simp] theorem setTenant_tap (t : Nat) (x : Tenant) : (s.setTenant t x).tap = s.tap := rfl
@[simp] theorem setTenant_sent (t : Nat) (x : Tenant) : (s.setTenant t x).sent = s.sent := rfl
@[simp] theorem setTenant_reg (t : Nat) (x : Tenant) (z : Nat) : (s.setTenant t x).reg z = s.reg z := rfl
@[simp] theorem setTenant_obj (t : Nat) (x : Tenant) (z : Nat) : (s.setTenant t x).obj z = s.obj z := rfl
@[simp] theorem setTenant_word (t : Nat) (x : Tenant) (z : Nat) : (s.setTenant t x).word z = s.word z := rfl
@[simp] theorem setTenant_region (t : Nat) (x : Tenant) (z : Nat) : (s.setTenant t x).region z = s.region z := rfl
@[simp] theorem setTenant_tileGet (t : Nat) (x : Tenant) (y : Core3) : (s.setTenant t x).tileGet y = s.tileGet y := rfl
@[simp] theorem setTenant_acGet (t : Nat) (x : Tenant) (z : Nat) : (s.setTenant t x).acGet z = s.acGet z := rfl
@[simp] theorem setTenant_rawByte (t : Nat) (x : Tenant) (z : Nat) : (s.setTenant t x).rawByte z = s.rawByte z := rawByte_congr rfl _

/-! ## `setRegion` -/

@[simp] theorem setRegion_pending (r : Nat) (e : Region) : (s.setRegion r e).pending = s.pending := rfl
@[simp] theorem setRegion_cycle (r : Nat) (e : Region) : (s.setRegion r e).cycle = s.cycle := rfl
@[simp] theorem setRegion_timeNs (r : Nat) (e : Region) : (s.setRegion r e).timeNs = s.timeNs := rfl
@[simp] theorem setRegion_timeRem (r : Nat) (e : Region) : (s.setRegion r e).timeRem = s.timeRem := rfl
@[simp] theorem setRegion_slew (r : Nat) (e : Region) : (s.setRegion r e).slew = s.slew := rfl
@[simp] theorem setRegion_regs (r : Nat) (e : Region) : (s.setRegion r e).regs = s.regs := rfl
@[simp] theorem setRegion_latch (r : Nat) (e : Region) : (s.setRegion r e).latch = s.latch := rfl
@[simp] theorem setRegion_resp (r : Nat) (e : Region) : (s.setRegion r e).resp = s.resp := rfl
@[simp] theorem setRegion_freeCtr (r : Nat) (e : Region) : (s.setRegion r e).freeCtr = s.freeCtr := rfl
@[simp] theorem setRegion_ac (r : Nat) (e : Region) : (s.setRegion r e).ac = s.ac := rfl
@[simp] theorem setRegion_sorrel (r : Nat) (e : Region) : (s.setRegion r e).sorrel = s.sorrel := rfl
@[simp] theorem setRegion_dill (r : Nat) (e : Region) : (s.setRegion r e).dill = s.dill := rfl
@[simp] theorem setRegion_tile (r : Nat) (e : Region) : (s.setRegion r e).tile = s.tile := rfl
@[simp] theorem setRegion_images (r : Nat) (e : Region) : (s.setRegion r e).images = s.images := rfl
@[simp] theorem setRegion_sync (r : Nat) (e : Region) : (s.setRegion r e).sync = s.sync := rfl
@[simp] theorem setRegion_barriers (r : Nat) (e : Region) : (s.setRegion r e).barriers = s.barriers := rfl
@[simp] theorem setRegion_job (r : Nat) (e : Region) : (s.setRegion r e).job = s.job := rfl
@[simp] theorem setRegion_tenants (r : Nat) (e : Region) : (s.setRegion r e).tenants = s.tenants := rfl
@[simp] theorem setRegion_nandModel (r : Nat) (e : Region) : (s.setRegion r e).nandModel = s.nandModel := rfl
@[simp] theorem setRegion_nandScratch (r : Nat) (e : Region) : (s.setRegion r e).nandScratch = s.nandScratch := rfl
@[simp] theorem setRegion_thy (r : Nat) (e : Region) : (s.setRegion r e).thy = s.thy := rfl
@[simp] theorem setRegion_fp1 (r : Nat) (e : Region) : (s.setRegion r e).fp1 = s.fp1 := rfl
@[simp] theorem setRegion_serve (r : Nat) (e : Region) : (s.setRegion r e).serve = s.serve := rfl
@[simp] theorem setRegion_video (r : Nat) (e : Region) : (s.setRegion r e).video = s.video := rfl
@[simp] theorem setRegion_host (r : Nat) (e : Region) : (s.setRegion r e).host = s.host := rfl
@[simp] theorem setRegion_sage (r : Nat) (e : Region) : (s.setRegion r e).sage = s.sage := rfl
@[simp] theorem setRegion_upd (r : Nat) (e : Region) : (s.setRegion r e).upd = s.upd := rfl
@[simp] theorem setRegion_nvs (r : Nat) (e : Region) : (s.setRegion r e).nvs = s.nvs := rfl
@[simp] theorem setRegion_start (r : Nat) (e : Region) : (s.setRegion r e).start = s.start := rfl
@[simp] theorem setRegion_log (r : Nat) (e : Region) : (s.setRegion r e).log = s.log := rfl
@[simp] theorem setRegion_power (r : Nat) (e : Region) : (s.setRegion r e).power = s.power := rfl
@[simp] theorem setRegion_ring (r : Nat) (e : Region) : (s.setRegion r e).ring = s.ring := rfl
@[simp] theorem setRegion_tap (r : Nat) (e : Region) : (s.setRegion r e).tap = s.tap := rfl
@[simp] theorem setRegion_sent (r : Nat) (e : Region) : (s.setRegion r e).sent = s.sent := rfl
@[simp] theorem setRegion_reg (r : Nat) (e : Region) (z : Nat) : (s.setRegion r e).reg z = s.reg z := rfl
@[simp] theorem setRegion_obj (r : Nat) (e : Region) (z : Nat) : (s.setRegion r e).obj z = s.obj z := rfl
@[simp] theorem setRegion_tenant (r : Nat) (e : Region) (z : Nat) : (s.setRegion r e).tenant z = s.tenant z := rfl
@[simp] theorem setRegion_tileGet (r : Nat) (e : Region) (y : Core3) : (s.setRegion r e).tileGet y = s.tileGet y := rfl
@[simp] theorem setRegion_acGet (r : Nat) (e : Region) (z : Nat) : (s.setRegion r e).acGet z = s.acGet z := rfl

/-! ## `rawWrite` -/

@[simp] theorem rawWrite_pending (p : Nat) (b : List Byte) : (s.rawWrite p b).pending = s.pending := rfl
@[simp] theorem rawWrite_cycle (p : Nat) (b : List Byte) : (s.rawWrite p b).cycle = s.cycle := rfl
@[simp] theorem rawWrite_timeNs (p : Nat) (b : List Byte) : (s.rawWrite p b).timeNs = s.timeNs := rfl
@[simp] theorem rawWrite_timeRem (p : Nat) (b : List Byte) : (s.rawWrite p b).timeRem = s.timeRem := rfl
@[simp] theorem rawWrite_slew (p : Nat) (b : List Byte) : (s.rawWrite p b).slew = s.slew := rfl
@[simp] theorem rawWrite_regs (p : Nat) (b : List Byte) : (s.rawWrite p b).regs = s.regs := rfl
@[simp] theorem rawWrite_latch (p : Nat) (b : List Byte) : (s.rawWrite p b).latch = s.latch := rfl
@[simp] theorem rawWrite_resp (p : Nat) (b : List Byte) : (s.rawWrite p b).resp = s.resp := rfl
@[simp] theorem rawWrite_freeCtr (p : Nat) (b : List Byte) : (s.rawWrite p b).freeCtr = s.freeCtr := rfl
@[simp] theorem rawWrite_ac (p : Nat) (b : List Byte) : (s.rawWrite p b).ac = s.ac := rfl
@[simp] theorem rawWrite_sorrel (p : Nat) (b : List Byte) : (s.rawWrite p b).sorrel = s.sorrel := rfl
@[simp] theorem rawWrite_dill (p : Nat) (b : List Byte) : (s.rawWrite p b).dill = s.dill := rfl
@[simp] theorem rawWrite_tile (p : Nat) (b : List Byte) : (s.rawWrite p b).tile = s.tile := rfl
@[simp] theorem rawWrite_images (p : Nat) (b : List Byte) : (s.rawWrite p b).images = s.images := rfl
@[simp] theorem rawWrite_sync (p : Nat) (b : List Byte) : (s.rawWrite p b).sync = s.sync := rfl
@[simp] theorem rawWrite_barriers (p : Nat) (b : List Byte) : (s.rawWrite p b).barriers = s.barriers := rfl
@[simp] theorem rawWrite_job (p : Nat) (b : List Byte) : (s.rawWrite p b).job = s.job := rfl
@[simp] theorem rawWrite_tenants (p : Nat) (b : List Byte) : (s.rawWrite p b).tenants = s.tenants := rfl
@[simp] theorem rawWrite_nandModel (p : Nat) (b : List Byte) : (s.rawWrite p b).nandModel = s.nandModel := rfl
@[simp] theorem rawWrite_nandScratch (p : Nat) (b : List Byte) : (s.rawWrite p b).nandScratch = s.nandScratch := rfl
@[simp] theorem rawWrite_thy (p : Nat) (b : List Byte) : (s.rawWrite p b).thy = s.thy := rfl
@[simp] theorem rawWrite_fp1 (p : Nat) (b : List Byte) : (s.rawWrite p b).fp1 = s.fp1 := rfl
@[simp] theorem rawWrite_serve (p : Nat) (b : List Byte) : (s.rawWrite p b).serve = s.serve := rfl
@[simp] theorem rawWrite_video (p : Nat) (b : List Byte) : (s.rawWrite p b).video = s.video := rfl
@[simp] theorem rawWrite_host (p : Nat) (b : List Byte) : (s.rawWrite p b).host = s.host := rfl
@[simp] theorem rawWrite_sage (p : Nat) (b : List Byte) : (s.rawWrite p b).sage = s.sage := rfl
@[simp] theorem rawWrite_upd (p : Nat) (b : List Byte) : (s.rawWrite p b).upd = s.upd := rfl
@[simp] theorem rawWrite_nvs (p : Nat) (b : List Byte) : (s.rawWrite p b).nvs = s.nvs := rfl
@[simp] theorem rawWrite_start (p : Nat) (b : List Byte) : (s.rawWrite p b).start = s.start := rfl
@[simp] theorem rawWrite_log (p : Nat) (b : List Byte) : (s.rawWrite p b).log = s.log := rfl
@[simp] theorem rawWrite_power (p : Nat) (b : List Byte) : (s.rawWrite p b).power = s.power := rfl
@[simp] theorem rawWrite_ring (p : Nat) (b : List Byte) : (s.rawWrite p b).ring = s.ring := rfl
@[simp] theorem rawWrite_tap (p : Nat) (b : List Byte) : (s.rawWrite p b).tap = s.tap := rfl
@[simp] theorem rawWrite_sent (p : Nat) (b : List Byte) : (s.rawWrite p b).sent = s.sent := rfl
@[simp] theorem rawWrite_reg (p : Nat) (b : List Byte) (z : Nat) : (s.rawWrite p b).reg z = s.reg z := rfl
@[simp] theorem rawWrite_obj (p : Nat) (b : List Byte) (z : Nat) : (s.rawWrite p b).obj z = s.obj z := rfl
@[simp] theorem rawWrite_tenant (p : Nat) (b : List Byte) (z : Nat) : (s.rawWrite p b).tenant z = s.tenant z := rfl
@[simp] theorem rawWrite_tileGet (p : Nat) (b : List Byte) (y : Core3) : (s.rawWrite p b).tileGet y = s.tileGet y := rfl
@[simp] theorem rawWrite_acGet (p : Nat) (b : List Byte) (z : Nat) : (s.rawWrite p b).acGet z = s.acGet z := rfl

/-! ## `setWord` -/

@[simp] theorem setWord_pending (w : Nat) (x : WordStat) : (s.setWord w x).pending = s.pending := rfl
@[simp] theorem setWord_cycle (w : Nat) (x : WordStat) : (s.setWord w x).cycle = s.cycle := rfl
@[simp] theorem setWord_timeNs (w : Nat) (x : WordStat) : (s.setWord w x).timeNs = s.timeNs := rfl
@[simp] theorem setWord_timeRem (w : Nat) (x : WordStat) : (s.setWord w x).timeRem = s.timeRem := rfl
@[simp] theorem setWord_slew (w : Nat) (x : WordStat) : (s.setWord w x).slew = s.slew := rfl
@[simp] theorem setWord_regs (w : Nat) (x : WordStat) : (s.setWord w x).regs = s.regs := rfl
@[simp] theorem setWord_latch (w : Nat) (x : WordStat) : (s.setWord w x).latch = s.latch := rfl
@[simp] theorem setWord_resp (w : Nat) (x : WordStat) : (s.setWord w x).resp = s.resp := rfl
@[simp] theorem setWord_freeCtr (w : Nat) (x : WordStat) : (s.setWord w x).freeCtr = s.freeCtr := rfl
@[simp] theorem setWord_ac (w : Nat) (x : WordStat) : (s.setWord w x).ac = s.ac := rfl
@[simp] theorem setWord_sorrel (w : Nat) (x : WordStat) : (s.setWord w x).sorrel = s.sorrel := rfl
@[simp] theorem setWord_dill (w : Nat) (x : WordStat) : (s.setWord w x).dill = s.dill := rfl
@[simp] theorem setWord_tile (w : Nat) (x : WordStat) : (s.setWord w x).tile = s.tile := rfl
@[simp] theorem setWord_images (w : Nat) (x : WordStat) : (s.setWord w x).images = s.images := rfl
@[simp] theorem setWord_sync (w : Nat) (x : WordStat) : (s.setWord w x).sync = s.sync := rfl
@[simp] theorem setWord_barriers (w : Nat) (x : WordStat) : (s.setWord w x).barriers = s.barriers := rfl
@[simp] theorem setWord_job (w : Nat) (x : WordStat) : (s.setWord w x).job = s.job := rfl
@[simp] theorem setWord_tenants (w : Nat) (x : WordStat) : (s.setWord w x).tenants = s.tenants := rfl
@[simp] theorem setWord_nandModel (w : Nat) (x : WordStat) : (s.setWord w x).nandModel = s.nandModel := rfl
@[simp] theorem setWord_nandScratch (w : Nat) (x : WordStat) : (s.setWord w x).nandScratch = s.nandScratch := rfl
@[simp] theorem setWord_thy (w : Nat) (x : WordStat) : (s.setWord w x).thy = s.thy := rfl
@[simp] theorem setWord_fp1 (w : Nat) (x : WordStat) : (s.setWord w x).fp1 = s.fp1 := rfl
@[simp] theorem setWord_serve (w : Nat) (x : WordStat) : (s.setWord w x).serve = s.serve := rfl
@[simp] theorem setWord_video (w : Nat) (x : WordStat) : (s.setWord w x).video = s.video := rfl
@[simp] theorem setWord_host (w : Nat) (x : WordStat) : (s.setWord w x).host = s.host := rfl
@[simp] theorem setWord_sage (w : Nat) (x : WordStat) : (s.setWord w x).sage = s.sage := rfl
@[simp] theorem setWord_upd (w : Nat) (x : WordStat) : (s.setWord w x).upd = s.upd := rfl
@[simp] theorem setWord_nvs (w : Nat) (x : WordStat) : (s.setWord w x).nvs = s.nvs := rfl
@[simp] theorem setWord_start (w : Nat) (x : WordStat) : (s.setWord w x).start = s.start := rfl
@[simp] theorem setWord_log (w : Nat) (x : WordStat) : (s.setWord w x).log = s.log := rfl
@[simp] theorem setWord_power (w : Nat) (x : WordStat) : (s.setWord w x).power = s.power := rfl
@[simp] theorem setWord_ring (w : Nat) (x : WordStat) : (s.setWord w x).ring = s.ring := rfl
@[simp] theorem setWord_tap (w : Nat) (x : WordStat) : (s.setWord w x).tap = s.tap := rfl
@[simp] theorem setWord_sent (w : Nat) (x : WordStat) : (s.setWord w x).sent = s.sent := rfl
@[simp] theorem setWord_reg (w : Nat) (x : WordStat) (z : Nat) : (s.setWord w x).reg z = s.reg z := rfl
@[simp] theorem setWord_obj (w : Nat) (x : WordStat) (z : Nat) : (s.setWord w x).obj z = s.obj z := rfl
@[simp] theorem setWord_tenant (w : Nat) (x : WordStat) (z : Nat) : (s.setWord w x).tenant z = s.tenant z := rfl
@[simp] theorem setWord_tileGet (w : Nat) (x : WordStat) (y : Core3) : (s.setWord w x).tileGet y = s.tileGet y := rfl
@[simp] theorem setWord_acGet (w : Nat) (x : WordStat) (z : Nat) : (s.setWord w x).acGet z = s.acGet z := rfl

/-! ## `zeroRange` -/

@[simp] theorem zeroRange_pending (p n : Nat) : (s.zeroRange p n).pending = s.pending := rfl
@[simp] theorem zeroRange_cycle (p n : Nat) : (s.zeroRange p n).cycle = s.cycle := rfl
@[simp] theorem zeroRange_timeNs (p n : Nat) : (s.zeroRange p n).timeNs = s.timeNs := rfl
@[simp] theorem zeroRange_timeRem (p n : Nat) : (s.zeroRange p n).timeRem = s.timeRem := rfl
@[simp] theorem zeroRange_slew (p n : Nat) : (s.zeroRange p n).slew = s.slew := rfl
@[simp] theorem zeroRange_regs (p n : Nat) : (s.zeroRange p n).regs = s.regs := rfl
@[simp] theorem zeroRange_latch (p n : Nat) : (s.zeroRange p n).latch = s.latch := rfl
@[simp] theorem zeroRange_resp (p n : Nat) : (s.zeroRange p n).resp = s.resp := rfl
@[simp] theorem zeroRange_freeCtr (p n : Nat) : (s.zeroRange p n).freeCtr = s.freeCtr := rfl
@[simp] theorem zeroRange_ac (p n : Nat) : (s.zeroRange p n).ac = s.ac := rfl
@[simp] theorem zeroRange_sorrel (p n : Nat) : (s.zeroRange p n).sorrel = s.sorrel := rfl
@[simp] theorem zeroRange_dill (p n : Nat) : (s.zeroRange p n).dill = s.dill := rfl
@[simp] theorem zeroRange_tile (p n : Nat) : (s.zeroRange p n).tile = s.tile := rfl
@[simp] theorem zeroRange_images (p n : Nat) : (s.zeroRange p n).images = s.images := rfl
@[simp] theorem zeroRange_sync (p n : Nat) : (s.zeroRange p n).sync = s.sync := rfl
@[simp] theorem zeroRange_barriers (p n : Nat) : (s.zeroRange p n).barriers = s.barriers := rfl
@[simp] theorem zeroRange_job (p n : Nat) : (s.zeroRange p n).job = s.job := rfl
@[simp] theorem zeroRange_tenants (p n : Nat) : (s.zeroRange p n).tenants = s.tenants := rfl
@[simp] theorem zeroRange_nandModel (p n : Nat) : (s.zeroRange p n).nandModel = s.nandModel := rfl
@[simp] theorem zeroRange_nandScratch (p n : Nat) : (s.zeroRange p n).nandScratch = s.nandScratch := rfl
@[simp] theorem zeroRange_thy (p n : Nat) : (s.zeroRange p n).thy = s.thy := rfl
@[simp] theorem zeroRange_fp1 (p n : Nat) : (s.zeroRange p n).fp1 = s.fp1 := rfl
@[simp] theorem zeroRange_serve (p n : Nat) : (s.zeroRange p n).serve = s.serve := rfl
@[simp] theorem zeroRange_video (p n : Nat) : (s.zeroRange p n).video = s.video := rfl
@[simp] theorem zeroRange_host (p n : Nat) : (s.zeroRange p n).host = s.host := rfl
@[simp] theorem zeroRange_sage (p n : Nat) : (s.zeroRange p n).sage = s.sage := rfl
@[simp] theorem zeroRange_upd (p n : Nat) : (s.zeroRange p n).upd = s.upd := rfl
@[simp] theorem zeroRange_nvs (p n : Nat) : (s.zeroRange p n).nvs = s.nvs := rfl
@[simp] theorem zeroRange_start (p n : Nat) : (s.zeroRange p n).start = s.start := rfl
@[simp] theorem zeroRange_log (p n : Nat) : (s.zeroRange p n).log = s.log := rfl
@[simp] theorem zeroRange_power (p n : Nat) : (s.zeroRange p n).power = s.power := rfl
@[simp] theorem zeroRange_ring (p n : Nat) : (s.zeroRange p n).ring = s.ring := rfl
@[simp] theorem zeroRange_tap (p n : Nat) : (s.zeroRange p n).tap = s.tap := rfl
@[simp] theorem zeroRange_sent (p n : Nat) : (s.zeroRange p n).sent = s.sent := rfl
@[simp] theorem zeroRange_reg (p n : Nat) (z : Nat) : (s.zeroRange p n).reg z = s.reg z := rfl
@[simp] theorem zeroRange_obj (p n : Nat) (z : Nat) : (s.zeroRange p n).obj z = s.obj z := rfl
@[simp] theorem zeroRange_tenant (p n : Nat) (z : Nat) : (s.zeroRange p n).tenant z = s.tenant z := rfl
@[simp] theorem zeroRange_tileGet (p n : Nat) (y : Core3) : (s.zeroRange p n).tileGet y = s.tileGet y := rfl
@[simp] theorem zeroRange_acGet (p n : Nat) (z : Nat) : (s.zeroRange p n).acGet z = s.acGet z := rfl

/-! ## `hostWrite` -/

@[simp] theorem hostWrite_pending (q a : Nat) (b : List Byte) : (s.hostWrite q a b).pending = s.pending := rfl
@[simp] theorem hostWrite_cycle (q a : Nat) (b : List Byte) : (s.hostWrite q a b).cycle = s.cycle := rfl
@[simp] theorem hostWrite_timeNs (q a : Nat) (b : List Byte) : (s.hostWrite q a b).timeNs = s.timeNs := rfl
@[simp] theorem hostWrite_timeRem (q a : Nat) (b : List Byte) : (s.hostWrite q a b).timeRem = s.timeRem := rfl
@[simp] theorem hostWrite_slew (q a : Nat) (b : List Byte) : (s.hostWrite q a b).slew = s.slew := rfl
@[simp] theorem hostWrite_regs (q a : Nat) (b : List Byte) : (s.hostWrite q a b).regs = s.regs := rfl
@[simp] theorem hostWrite_latch (q a : Nat) (b : List Byte) : (s.hostWrite q a b).latch = s.latch := rfl
@[simp] theorem hostWrite_resp (q a : Nat) (b : List Byte) : (s.hostWrite q a b).resp = s.resp := rfl
@[simp] theorem hostWrite_freeCtr (q a : Nat) (b : List Byte) : (s.hostWrite q a b).freeCtr = s.freeCtr := rfl
@[simp] theorem hostWrite_ac (q a : Nat) (b : List Byte) : (s.hostWrite q a b).ac = s.ac := rfl
@[simp] theorem hostWrite_sorrel (q a : Nat) (b : List Byte) : (s.hostWrite q a b).sorrel = s.sorrel := rfl
@[simp] theorem hostWrite_dill (q a : Nat) (b : List Byte) : (s.hostWrite q a b).dill = s.dill := rfl
@[simp] theorem hostWrite_tile (q a : Nat) (b : List Byte) : (s.hostWrite q a b).tile = s.tile := rfl
@[simp] theorem hostWrite_images (q a : Nat) (b : List Byte) : (s.hostWrite q a b).images = s.images := rfl
@[simp] theorem hostWrite_sync (q a : Nat) (b : List Byte) : (s.hostWrite q a b).sync = s.sync := rfl
@[simp] theorem hostWrite_barriers (q a : Nat) (b : List Byte) : (s.hostWrite q a b).barriers = s.barriers := rfl
@[simp] theorem hostWrite_job (q a : Nat) (b : List Byte) : (s.hostWrite q a b).job = s.job := rfl
@[simp] theorem hostWrite_tenants (q a : Nat) (b : List Byte) : (s.hostWrite q a b).tenants = s.tenants := rfl
@[simp] theorem hostWrite_nandModel (q a : Nat) (b : List Byte) : (s.hostWrite q a b).nandModel = s.nandModel := rfl
@[simp] theorem hostWrite_nandScratch (q a : Nat) (b : List Byte) : (s.hostWrite q a b).nandScratch = s.nandScratch := rfl
@[simp] theorem hostWrite_thy (q a : Nat) (b : List Byte) : (s.hostWrite q a b).thy = s.thy := rfl
@[simp] theorem hostWrite_fp1 (q a : Nat) (b : List Byte) : (s.hostWrite q a b).fp1 = s.fp1 := rfl
@[simp] theorem hostWrite_serve (q a : Nat) (b : List Byte) : (s.hostWrite q a b).serve = s.serve := rfl
@[simp] theorem hostWrite_video (q a : Nat) (b : List Byte) : (s.hostWrite q a b).video = s.video := rfl
@[simp] theorem hostWrite_host (q a : Nat) (b : List Byte) : (s.hostWrite q a b).host = s.host := rfl
@[simp] theorem hostWrite_sage (q a : Nat) (b : List Byte) : (s.hostWrite q a b).sage = s.sage := rfl
@[simp] theorem hostWrite_upd (q a : Nat) (b : List Byte) : (s.hostWrite q a b).upd = s.upd := rfl
@[simp] theorem hostWrite_nvs (q a : Nat) (b : List Byte) : (s.hostWrite q a b).nvs = s.nvs := rfl
@[simp] theorem hostWrite_start (q a : Nat) (b : List Byte) : (s.hostWrite q a b).start = s.start := rfl
@[simp] theorem hostWrite_log (q a : Nat) (b : List Byte) : (s.hostWrite q a b).log = s.log := rfl
@[simp] theorem hostWrite_power (q a : Nat) (b : List Byte) : (s.hostWrite q a b).power = s.power := rfl
@[simp] theorem hostWrite_ring (q a : Nat) (b : List Byte) : (s.hostWrite q a b).ring = s.ring := rfl
@[simp] theorem hostWrite_tap (q a : Nat) (b : List Byte) : (s.hostWrite q a b).tap = s.tap := rfl
@[simp] theorem hostWrite_sent (q a : Nat) (b : List Byte) : (s.hostWrite q a b).sent = s.sent := rfl
@[simp] theorem hostWrite_reg (q a : Nat) (b : List Byte) (z : Nat) : (s.hostWrite q a b).reg z = s.reg z := rfl
@[simp] theorem hostWrite_obj (q a : Nat) (b : List Byte) (z : Nat) : (s.hostWrite q a b).obj z = s.obj z := rfl
@[simp] theorem hostWrite_tenant (q a : Nat) (b : List Byte) (z : Nat) : (s.hostWrite q a b).tenant z = s.tenant z := rfl
@[simp] theorem hostWrite_tileGet (q a : Nat) (b : List Byte) (y : Core3) : (s.hostWrite q a b).tileGet y = s.tileGet y := rfl
@[simp] theorem hostWrite_acGet (q a : Nat) (b : List Byte) (z : Nat) : (s.hostWrite q a b).acGet z = s.acGet z := rfl

/-! ## `acSet` -/

@[simp] theorem acSet_pending (i : Nat) (x : AcState) : (s.acSet i x).pending = s.pending := rfl
@[simp] theorem acSet_cycle (i : Nat) (x : AcState) : (s.acSet i x).cycle = s.cycle := rfl
@[simp] theorem acSet_timeNs (i : Nat) (x : AcState) : (s.acSet i x).timeNs = s.timeNs := rfl
@[simp] theorem acSet_timeRem (i : Nat) (x : AcState) : (s.acSet i x).timeRem = s.timeRem := rfl
@[simp] theorem acSet_slew (i : Nat) (x : AcState) : (s.acSet i x).slew = s.slew := rfl
@[simp] theorem acSet_regs (i : Nat) (x : AcState) : (s.acSet i x).regs = s.regs := rfl
@[simp] theorem acSet_latch (i : Nat) (x : AcState) : (s.acSet i x).latch = s.latch := rfl
@[simp] theorem acSet_resp (i : Nat) (x : AcState) : (s.acSet i x).resp = s.resp := rfl
@[simp] theorem acSet_freeCtr (i : Nat) (x : AcState) : (s.acSet i x).freeCtr = s.freeCtr := rfl
@[simp] theorem acSet_mem (i : Nat) (x : AcState) : (s.acSet i x).mem = s.mem := rfl
@[simp] theorem acSet_sorrel (i : Nat) (x : AcState) : (s.acSet i x).sorrel = s.sorrel := rfl
@[simp] theorem acSet_dill (i : Nat) (x : AcState) : (s.acSet i x).dill = s.dill := rfl
@[simp] theorem acSet_tile (i : Nat) (x : AcState) : (s.acSet i x).tile = s.tile := rfl
@[simp] theorem acSet_images (i : Nat) (x : AcState) : (s.acSet i x).images = s.images := rfl
@[simp] theorem acSet_sync (i : Nat) (x : AcState) : (s.acSet i x).sync = s.sync := rfl
@[simp] theorem acSet_barriers (i : Nat) (x : AcState) : (s.acSet i x).barriers = s.barriers := rfl
@[simp] theorem acSet_job (i : Nat) (x : AcState) : (s.acSet i x).job = s.job := rfl
@[simp] theorem acSet_tenants (i : Nat) (x : AcState) : (s.acSet i x).tenants = s.tenants := rfl
@[simp] theorem acSet_nandModel (i : Nat) (x : AcState) : (s.acSet i x).nandModel = s.nandModel := rfl
@[simp] theorem acSet_nandScratch (i : Nat) (x : AcState) : (s.acSet i x).nandScratch = s.nandScratch := rfl
@[simp] theorem acSet_thy (i : Nat) (x : AcState) : (s.acSet i x).thy = s.thy := rfl
@[simp] theorem acSet_fp1 (i : Nat) (x : AcState) : (s.acSet i x).fp1 = s.fp1 := rfl
@[simp] theorem acSet_serve (i : Nat) (x : AcState) : (s.acSet i x).serve = s.serve := rfl
@[simp] theorem acSet_video (i : Nat) (x : AcState) : (s.acSet i x).video = s.video := rfl
@[simp] theorem acSet_host (i : Nat) (x : AcState) : (s.acSet i x).host = s.host := rfl
@[simp] theorem acSet_sage (i : Nat) (x : AcState) : (s.acSet i x).sage = s.sage := rfl
@[simp] theorem acSet_upd (i : Nat) (x : AcState) : (s.acSet i x).upd = s.upd := rfl
@[simp] theorem acSet_nvs (i : Nat) (x : AcState) : (s.acSet i x).nvs = s.nvs := rfl
@[simp] theorem acSet_start (i : Nat) (x : AcState) : (s.acSet i x).start = s.start := rfl
@[simp] theorem acSet_log (i : Nat) (x : AcState) : (s.acSet i x).log = s.log := rfl
@[simp] theorem acSet_power (i : Nat) (x : AcState) : (s.acSet i x).power = s.power := rfl
@[simp] theorem acSet_ring (i : Nat) (x : AcState) : (s.acSet i x).ring = s.ring := rfl
@[simp] theorem acSet_tap (i : Nat) (x : AcState) : (s.acSet i x).tap = s.tap := rfl
@[simp] theorem acSet_sent (i : Nat) (x : AcState) : (s.acSet i x).sent = s.sent := rfl
@[simp] theorem acSet_reg (i : Nat) (x : AcState) (z : Nat) : (s.acSet i x).reg z = s.reg z := rfl
@[simp] theorem acSet_obj (i : Nat) (x : AcState) (z : Nat) : (s.acSet i x).obj z = s.obj z := rfl
@[simp] theorem acSet_word (i : Nat) (x : AcState) (z : Nat) : (s.acSet i x).word z = s.word z := rfl
@[simp] theorem acSet_region (i : Nat) (x : AcState) (z : Nat) : (s.acSet i x).region z = s.region z := rfl
@[simp] theorem acSet_tenant (i : Nat) (x : AcState) (z : Nat) : (s.acSet i x).tenant z = s.tenant z := rfl
@[simp] theorem acSet_tileGet (i : Nat) (x : AcState) (y : Core3) : (s.acSet i x).tileGet y = s.tileGet y := rfl
@[simp] theorem acSet_rawByte (i : Nat) (x : AcState) (z : Nat) : (s.acSet i x).rawByte z = s.rawByte z := rawByte_congr rfl _

/-! ## `tileSet` -/

@[simp] theorem tileSet_pending (x : Core3) (t : TileState) : (s.tileSet x t).pending = s.pending := rfl
@[simp] theorem tileSet_cycle (x : Core3) (t : TileState) : (s.tileSet x t).cycle = s.cycle := rfl
@[simp] theorem tileSet_timeNs (x : Core3) (t : TileState) : (s.tileSet x t).timeNs = s.timeNs := rfl
@[simp] theorem tileSet_timeRem (x : Core3) (t : TileState) : (s.tileSet x t).timeRem = s.timeRem := rfl
@[simp] theorem tileSet_slew (x : Core3) (t : TileState) : (s.tileSet x t).slew = s.slew := rfl
@[simp] theorem tileSet_regs (x : Core3) (t : TileState) : (s.tileSet x t).regs = s.regs := rfl
@[simp] theorem tileSet_latch (x : Core3) (t : TileState) : (s.tileSet x t).latch = s.latch := rfl
@[simp] theorem tileSet_resp (x : Core3) (t : TileState) : (s.tileSet x t).resp = s.resp := rfl
@[simp] theorem tileSet_freeCtr (x : Core3) (t : TileState) : (s.tileSet x t).freeCtr = s.freeCtr := rfl
@[simp] theorem tileSet_mem (x : Core3) (t : TileState) : (s.tileSet x t).mem = s.mem := rfl
@[simp] theorem tileSet_ac (x : Core3) (t : TileState) : (s.tileSet x t).ac = s.ac := rfl
@[simp] theorem tileSet_sorrel (x : Core3) (t : TileState) : (s.tileSet x t).sorrel = s.sorrel := rfl
@[simp] theorem tileSet_dill (x : Core3) (t : TileState) : (s.tileSet x t).dill = s.dill := rfl
@[simp] theorem tileSet_images (x : Core3) (t : TileState) : (s.tileSet x t).images = s.images := rfl
@[simp] theorem tileSet_sync (x : Core3) (t : TileState) : (s.tileSet x t).sync = s.sync := rfl
@[simp] theorem tileSet_barriers (x : Core3) (t : TileState) : (s.tileSet x t).barriers = s.barriers := rfl
@[simp] theorem tileSet_job (x : Core3) (t : TileState) : (s.tileSet x t).job = s.job := rfl
@[simp] theorem tileSet_tenants (x : Core3) (t : TileState) : (s.tileSet x t).tenants = s.tenants := rfl
@[simp] theorem tileSet_nandModel (x : Core3) (t : TileState) : (s.tileSet x t).nandModel = s.nandModel := rfl
@[simp] theorem tileSet_nandScratch (x : Core3) (t : TileState) : (s.tileSet x t).nandScratch = s.nandScratch := rfl
@[simp] theorem tileSet_thy (x : Core3) (t : TileState) : (s.tileSet x t).thy = s.thy := rfl
@[simp] theorem tileSet_fp1 (x : Core3) (t : TileState) : (s.tileSet x t).fp1 = s.fp1 := rfl
@[simp] theorem tileSet_serve (x : Core3) (t : TileState) : (s.tileSet x t).serve = s.serve := rfl
@[simp] theorem tileSet_video (x : Core3) (t : TileState) : (s.tileSet x t).video = s.video := rfl
@[simp] theorem tileSet_host (x : Core3) (t : TileState) : (s.tileSet x t).host = s.host := rfl
@[simp] theorem tileSet_sage (x : Core3) (t : TileState) : (s.tileSet x t).sage = s.sage := rfl
@[simp] theorem tileSet_upd (x : Core3) (t : TileState) : (s.tileSet x t).upd = s.upd := rfl
@[simp] theorem tileSet_nvs (x : Core3) (t : TileState) : (s.tileSet x t).nvs = s.nvs := rfl
@[simp] theorem tileSet_start (x : Core3) (t : TileState) : (s.tileSet x t).start = s.start := rfl
@[simp] theorem tileSet_log (x : Core3) (t : TileState) : (s.tileSet x t).log = s.log := rfl
@[simp] theorem tileSet_power (x : Core3) (t : TileState) : (s.tileSet x t).power = s.power := rfl
@[simp] theorem tileSet_ring (x : Core3) (t : TileState) : (s.tileSet x t).ring = s.ring := rfl
@[simp] theorem tileSet_tap (x : Core3) (t : TileState) : (s.tileSet x t).tap = s.tap := rfl
@[simp] theorem tileSet_sent (x : Core3) (t : TileState) : (s.tileSet x t).sent = s.sent := rfl
@[simp] theorem tileSet_reg (x : Core3) (t : TileState) (z : Nat) : (s.tileSet x t).reg z = s.reg z := rfl
@[simp] theorem tileSet_obj (x : Core3) (t : TileState) (z : Nat) : (s.tileSet x t).obj z = s.obj z := rfl
@[simp] theorem tileSet_word (x : Core3) (t : TileState) (z : Nat) : (s.tileSet x t).word z = s.word z := rfl
@[simp] theorem tileSet_region (x : Core3) (t : TileState) (z : Nat) : (s.tileSet x t).region z = s.region z := rfl
@[simp] theorem tileSet_tenant (x : Core3) (t : TileState) (z : Nat) : (s.tileSet x t).tenant z = s.tenant z := rfl
@[simp] theorem tileSet_acGet (x : Core3) (t : TileState) (z : Nat) : (s.tileSet x t).acGet z = s.acGet z := rfl
@[simp] theorem tileSet_rawByte (x : Core3) (t : TileState) (z : Nat) : (s.tileSet x t).rawByte z = s.rawByte z := rawByte_congr rfl _

/-! ## `setObj` -/

@[simp] theorem setObj_pending (o v : Nat) : (s.setObj o v).pending = s.pending := rfl
@[simp] theorem setObj_cycle (o v : Nat) : (s.setObj o v).cycle = s.cycle := rfl
@[simp] theorem setObj_timeNs (o v : Nat) : (s.setObj o v).timeNs = s.timeNs := rfl
@[simp] theorem setObj_timeRem (o v : Nat) : (s.setObj o v).timeRem = s.timeRem := rfl
@[simp] theorem setObj_slew (o v : Nat) : (s.setObj o v).slew = s.slew := rfl
@[simp] theorem setObj_regs (o v : Nat) : (s.setObj o v).regs = s.regs := rfl
@[simp] theorem setObj_latch (o v : Nat) : (s.setObj o v).latch = s.latch := rfl
@[simp] theorem setObj_resp (o v : Nat) : (s.setObj o v).resp = s.resp := rfl
@[simp] theorem setObj_freeCtr (o v : Nat) : (s.setObj o v).freeCtr = s.freeCtr := rfl
@[simp] theorem setObj_mem (o v : Nat) : (s.setObj o v).mem = s.mem := rfl
@[simp] theorem setObj_ac (o v : Nat) : (s.setObj o v).ac = s.ac := rfl
@[simp] theorem setObj_sorrel (o v : Nat) : (s.setObj o v).sorrel = s.sorrel := rfl
@[simp] theorem setObj_dill (o v : Nat) : (s.setObj o v).dill = s.dill := rfl
@[simp] theorem setObj_tile (o v : Nat) : (s.setObj o v).tile = s.tile := rfl
@[simp] theorem setObj_images (o v : Nat) : (s.setObj o v).images = s.images := rfl
@[simp] theorem setObj_barriers (o v : Nat) : (s.setObj o v).barriers = s.barriers := rfl
@[simp] theorem setObj_job (o v : Nat) : (s.setObj o v).job = s.job := rfl
@[simp] theorem setObj_tenants (o v : Nat) : (s.setObj o v).tenants = s.tenants := rfl
@[simp] theorem setObj_nandModel (o v : Nat) : (s.setObj o v).nandModel = s.nandModel := rfl
@[simp] theorem setObj_nandScratch (o v : Nat) : (s.setObj o v).nandScratch = s.nandScratch := rfl
@[simp] theorem setObj_thy (o v : Nat) : (s.setObj o v).thy = s.thy := rfl
@[simp] theorem setObj_fp1 (o v : Nat) : (s.setObj o v).fp1 = s.fp1 := rfl
@[simp] theorem setObj_serve (o v : Nat) : (s.setObj o v).serve = s.serve := rfl
@[simp] theorem setObj_video (o v : Nat) : (s.setObj o v).video = s.video := rfl
@[simp] theorem setObj_host (o v : Nat) : (s.setObj o v).host = s.host := rfl
@[simp] theorem setObj_sage (o v : Nat) : (s.setObj o v).sage = s.sage := rfl
@[simp] theorem setObj_upd (o v : Nat) : (s.setObj o v).upd = s.upd := rfl
@[simp] theorem setObj_nvs (o v : Nat) : (s.setObj o v).nvs = s.nvs := rfl
@[simp] theorem setObj_start (o v : Nat) : (s.setObj o v).start = s.start := rfl
@[simp] theorem setObj_log (o v : Nat) : (s.setObj o v).log = s.log := rfl
@[simp] theorem setObj_power (o v : Nat) : (s.setObj o v).power = s.power := rfl
@[simp] theorem setObj_ring (o v : Nat) : (s.setObj o v).ring = s.ring := rfl
@[simp] theorem setObj_tap (o v : Nat) : (s.setObj o v).tap = s.tap := rfl
@[simp] theorem setObj_sent (o v : Nat) : (s.setObj o v).sent = s.sent := rfl
@[simp] theorem setObj_reg (o v : Nat) (z : Nat) : (s.setObj o v).reg z = s.reg z := rfl
@[simp] theorem setObj_word (o v : Nat) (z : Nat) : (s.setObj o v).word z = s.word z := rfl
@[simp] theorem setObj_region (o v : Nat) (z : Nat) : (s.setObj o v).region z = s.region z := rfl
@[simp] theorem setObj_tenant (o v : Nat) (z : Nat) : (s.setObj o v).tenant z = s.tenant z := rfl
@[simp] theorem setObj_tileGet (o v : Nat) (y : Core3) : (s.setObj o v).tileGet y = s.tileGet y := rfl
@[simp] theorem setObj_acGet (o v : Nat) (z : Nat) : (s.setObj o v).acGet z = s.acGet z := rfl
@[simp] theorem setObj_rawByte (o v : Nat) (z : Nat) : (s.setObj o v).rawByte z = s.rawByte z := rawByte_congr rfl _

/-! ## `signal` -/

@[simp] theorem signal_pending (o inc ini : Nat) : (s.signal o inc ini).pending = s.pending := rfl
@[simp] theorem signal_cycle (o inc ini : Nat) : (s.signal o inc ini).cycle = s.cycle := rfl
@[simp] theorem signal_timeNs (o inc ini : Nat) : (s.signal o inc ini).timeNs = s.timeNs := rfl
@[simp] theorem signal_timeRem (o inc ini : Nat) : (s.signal o inc ini).timeRem = s.timeRem := rfl
@[simp] theorem signal_slew (o inc ini : Nat) : (s.signal o inc ini).slew = s.slew := rfl
@[simp] theorem signal_regs (o inc ini : Nat) : (s.signal o inc ini).regs = s.regs := rfl
@[simp] theorem signal_latch (o inc ini : Nat) : (s.signal o inc ini).latch = s.latch := rfl
@[simp] theorem signal_resp (o inc ini : Nat) : (s.signal o inc ini).resp = s.resp := rfl
@[simp] theorem signal_freeCtr (o inc ini : Nat) : (s.signal o inc ini).freeCtr = s.freeCtr := rfl
@[simp] theorem signal_mem (o inc ini : Nat) : (s.signal o inc ini).mem = s.mem := rfl
@[simp] theorem signal_ac (o inc ini : Nat) : (s.signal o inc ini).ac = s.ac := rfl
@[simp] theorem signal_sorrel (o inc ini : Nat) : (s.signal o inc ini).sorrel = s.sorrel := rfl
@[simp] theorem signal_dill (o inc ini : Nat) : (s.signal o inc ini).dill = s.dill := rfl
@[simp] theorem signal_tile (o inc ini : Nat) : (s.signal o inc ini).tile = s.tile := rfl
@[simp] theorem signal_images (o inc ini : Nat) : (s.signal o inc ini).images = s.images := rfl
@[simp] theorem signal_barriers (o inc ini : Nat) : (s.signal o inc ini).barriers = s.barriers := rfl
@[simp] theorem signal_job (o inc ini : Nat) : (s.signal o inc ini).job = s.job := rfl
@[simp] theorem signal_tenants (o inc ini : Nat) : (s.signal o inc ini).tenants = s.tenants := rfl
@[simp] theorem signal_nandModel (o inc ini : Nat) : (s.signal o inc ini).nandModel = s.nandModel := rfl
@[simp] theorem signal_nandScratch (o inc ini : Nat) : (s.signal o inc ini).nandScratch = s.nandScratch := rfl
@[simp] theorem signal_thy (o inc ini : Nat) : (s.signal o inc ini).thy = s.thy := rfl
@[simp] theorem signal_fp1 (o inc ini : Nat) : (s.signal o inc ini).fp1 = s.fp1 := rfl
@[simp] theorem signal_serve (o inc ini : Nat) : (s.signal o inc ini).serve = s.serve := rfl
@[simp] theorem signal_video (o inc ini : Nat) : (s.signal o inc ini).video = s.video := rfl
@[simp] theorem signal_host (o inc ini : Nat) : (s.signal o inc ini).host = s.host := rfl
@[simp] theorem signal_sage (o inc ini : Nat) : (s.signal o inc ini).sage = s.sage := rfl
@[simp] theorem signal_upd (o inc ini : Nat) : (s.signal o inc ini).upd = s.upd := rfl
@[simp] theorem signal_nvs (o inc ini : Nat) : (s.signal o inc ini).nvs = s.nvs := rfl
@[simp] theorem signal_start (o inc ini : Nat) : (s.signal o inc ini).start = s.start := rfl
@[simp] theorem signal_log (o inc ini : Nat) : (s.signal o inc ini).log = s.log := rfl
@[simp] theorem signal_power (o inc ini : Nat) : (s.signal o inc ini).power = s.power := rfl
@[simp] theorem signal_ring (o inc ini : Nat) : (s.signal o inc ini).ring = s.ring := rfl
@[simp] theorem signal_tap (o inc ini : Nat) : (s.signal o inc ini).tap = s.tap := rfl
@[simp] theorem signal_sent (o inc ini : Nat) : (s.signal o inc ini).sent = s.sent := rfl
@[simp] theorem signal_reg (o inc ini : Nat) (z : Nat) : (s.signal o inc ini).reg z = s.reg z := rfl
@[simp] theorem signal_word (o inc ini : Nat) (z : Nat) : (s.signal o inc ini).word z = s.word z := rfl
@[simp] theorem signal_region (o inc ini : Nat) (z : Nat) : (s.signal o inc ini).region z = s.region z := rfl
@[simp] theorem signal_tenant (o inc ini : Nat) (z : Nat) : (s.signal o inc ini).tenant z = s.tenant z := rfl
@[simp] theorem signal_tileGet (o inc ini : Nat) (y : Core3) : (s.signal o inc ini).tileGet y = s.tileGet y := rfl
@[simp] theorem signal_acGet (o inc ini : Nat) (z : Nat) : (s.signal o inc ini).acGet z = s.acGet z := rfl
@[simp] theorem signal_rawByte (o inc ini : Nat) (z : Nat) : (s.signal o inc ini).rawByte z = s.rawByte z := rawByte_congr rfl _

/-! ## What they write -/

@[simp] theorem answer_resp (r : Resp) : (s.answer r).resp = r := rfl
@[simp] theorem present_presented (e : ErrEv) : (s.present e).sorrel.presented = s.sorrel.presented ++ [(s.cycle, e)] := rfl
@[simp] theorem send_sent (m : Msg) : (s.send m).sent = s.sent ++ [m] := rfl
@[simp] theorem setWord_word_self (w : Nat) (x : WordStat) : (s.setWord w x).word w = x := by simp [State.setWord, State.word]
theorem setWord_word_ne {w v : Nat} (x : WordStat) (h : v ≠ w) : (s.setWord w x).word v = s.word v := tabGet_tabSet_ne _ _ _ h
@[simp] theorem setTenant_tenant_self (t : Nat) (x : Tenant) : (s.setTenant t x).tenant t = x := by simp [State.setTenant, State.tenant]
theorem setTenant_tenant_ne {t u : Nat} (x : Tenant) (h : u ≠ t) : (s.setTenant t x).tenant u = s.tenant u := tabGet_tabSet_ne _ _ _ h
@[simp] theorem setObj_obj_self (o v : Nat) : (s.setObj o v).obj o = v := by simp [State.setObj, State.obj]
theorem setObj_obj_ne {o p : Nat} (v : Nat) (h : p ≠ o) : (s.setObj o v).obj p = s.obj p := tabGet_tabSet_ne _ _ _ h
@[simp] theorem setRegion_region_self (r : Nat) (e : Region) : (s.setRegion r e).region r = e := by
  simp [State.setRegion, State.region]
theorem setRegion_region_ne {r q : Nat} (e : Region) (h : q ≠ r) : (s.setRegion r e).region q = s.region q :=
  tabGet_tabSet_ne _ _ _ h
@[simp] theorem acSet_acGet_self (i : Nat) (x : AcState) : (s.acSet i x).acGet i = x := by simp [State.acSet, State.acGet]
theorem acSet_acGet_ne {i j : Nat} (x : AcState) (h : j ≠ i) : (s.acSet i x).acGet j = s.acGet j := tabGet_tabSet_ne _ _ _ h
@[simp] theorem tileSet_tileGet_self (x : Core3) (t : TileState) : (s.tileSet x t).tileGet x = t := by
  simp [State.tileSet, State.tileGet]
theorem tileSet_tileGet_ne {x y : Core3} (t : TileState) (h : y.ix ≠ x.ix) : (s.tileSet x t).tileGet y = s.tileGet y :=
  tabGet_tabSet_ne _ _ _ h
@[simp] theorem setWord_rawByte (w p : Nat) (x : WordStat) : (s.setWord w x).rawByte p = s.rawByte p := by
  rfl

end Sys2Proof.Machine
end

