-- ==== Sys2Proof/WellFormed.lean ====
section
/-!
DEFINITION. Which commands are well formed: operands that the types leave wider than the hardware's fields.
-/
namespace Sys2Proof

/-- An initiator ID or a UNIT code has 16 bits (R11, R391). -/
def iniOk (i : Nat) : Bool := decide (i < 65536)

/-- A module address has 48 bits (R9). -/
def addrOk (a : Nat) : Bool := decide (a < 2 ^ 48)

/-- The decoder of a word reports at most three symbols in error, and a word holds 32 bytes (R33). -/
def Upset.wf (u : Upset) : Bool := addrOk u.addr && decide (u.sym ≤ 3) && u.data.all (fun b => decide (b.length = 32))

/-- Register values fit their registers: 64 bits, 512 for a vector register (R137). -/
def HartOp.wf : HartOp → Bool
  | .vset _ avl vtype => avl.all (fun n => decide (n < 2 ^ 64)) && decide (vtype < 2 ^ 64)
  | .csr _ _ _ val => val.all (fun n => decide (n < 2 ^ 64))
  | .trap cause tval => decide (cause < 64) && decide (tval < 2 ^ 64)
  | .retire pc xs fs vs => decide (pc < 2 ^ 64) && (xs ++ fs).all (fun e => decide (e.2 < 2 ^ 64)) &&
      vs.all (fun e => decide (e.2 < 2 ^ 512))
  | _ => true

/-- An access of an application core names a module address and moves 1 to 64 bytes. -/
def AcAccess.wf : AcAccess → Bool
  | .load a n us _ => addrOk a && decide (0 < n ∧ n ≤ 64) && us.all Upset.wf
  | .store a b us _ => addrOk a && decide (0 < b.length ∧ b.length ≤ 64) && us.all Upset.wf
  | .fetch a n us => addrOk a && decide (0 < n ∧ n ≤ 64) && us.all Upset.wf
  | .hart op => op.wf

/-- Whether a command is well formed. -/
def Instr.wf : Instr → Bool
  | .registerWrite ini addr size value => iniOk ini && decide (addr < 0x1000000100000) && decide (0 < size ∧ size ≤ 64) && decide (value < 2 ^ (8 * size))
  | .acLoadStore _ _ _ acc => acc.wf
  | .targetedScrub addr miscorrect => addrOk addr && miscorrect.all (fun b => decide (b.length = 32))
  | .correctionWriteback addr => addrOk addr
  | .patrolScrubPassStart _ => true
  | .patrolScrubRead _ upset => upset.all Upset.wf
  | .linkFlitError _ _ _ _ => true
  | .hbmTrainingDone _ _ => true
  | .lpddrTrainingDone _ => true
  | .clSlotMapWrite ini _ _ _ => iniOk ini
  | .regionZeroed r => decide (r < 458752)
  | .internalResetRelease => true
  | .launchRecordPush ini _ _ _ _ _ => iniOk ini
  | .kernelStart _ _ _ => true
  | .codeFetchDone _ _ _ => true
  | .kernelEnd _ _ _ => true
  | .commandComplete _ _ _ _ => true
  | .nop _ _ _ desc => decide (desc.length ≤ 48)
  | .syncWait _ _ _ desc => decide (desc.length ≤ 48)
  | .syncSignal _ _ _ desc => decide (desc.length ≤ 48)
  | .mma _ _ _ desc => decide (desc.length ≤ 48)
  | .conv _ _ _ desc => decide (desc.length ≤ 48)
  | .attn _ _ _ desc => decide (desc.length ≤ 48)
  | .xrd _ _ _ desc => decide (desc.length ≤ 48)
  | .dma _ _ _ desc upsets _ => decide (desc.length ≤ 48) && upsets.all Upset.wf
  | .mov _ _ _ desc => decide (desc.length ≤ 48)
  | .cvt _ _ _ desc => decide (desc.length ≤ 48)
  | .mxq _ _ _ desc => decide (desc.length ≤ 48)
  | .mxd _ _ _ desc => decide (desc.length ≤ 48)
  | .add _ _ _ desc => decide (desc.length ≤ 48)
  | .sub _ _ _ desc => decide (desc.length ≤ 48)
  | .mul _ _ _ desc => decide (desc.length ≤ 48)
  | .div _ _ _ desc => decide (desc.length ≤ 48)
  | .fma _ _ _ desc => decide (desc.length ≤ 48)
  | .min _ _ _ desc => decide (desc.length ≤ 48)
  | .max _ _ _ desc => decide (desc.length ≤ 48)
  | .abs _ _ _ desc => decide (desc.length ≤ 48)
  | .neg _ _ _ desc => decide (desc.length ≤ 48)
  | .sqrt _ _ _ desc => decide (desc.length ≤ 48)
  | .recip _ _ _ desc => decide (desc.length ≤ 48)
  | .rsqrt _ _ _ desc => decide (desc.length ≤ 48)
  | .exp _ _ _ desc => decide (desc.length ≤ 48)
  | .exp2 _ _ _ desc => decide (desc.length ≤ 48)
  | .log _ _ _ desc => decide (desc.length ≤ 48)
  | .log2 _ _ _ desc => decide (desc.length ≤ 48)
  | .expm1 _ _ _ desc => decide (desc.length ≤ 48)
  | .log1p _ _ _ desc => decide (desc.length ≤ 48)
  | .sin _ _ _ desc => decide (desc.length ≤ 48)
  | .cos _ _ _ desc => decide (desc.length ≤ 48)
  | .tanh _ _ _ desc => decide (desc.length ≤ 48)
  | .sigmoid _ _ _ desc => decide (desc.length ≤ 48)
  | .erf _ _ _ desc => decide (desc.length ≤ 48)
  | .gelu _ _ _ desc => decide (desc.length ≤ 48)
  | .cmp _ _ _ desc => decide (desc.length ≤ 48)
  | .sel _ _ _ desc => decide (desc.length ≤ 48)
  | .rsum _ _ _ desc => decide (desc.length ≤ 48)
  | .rmax _ _ _ desc => decide (desc.length ≤ 48)
  | .rmin _ _ _ desc => decide (desc.length ≤ 48)
  | .rdot _ _ _ desc => decide (desc.length ≤ 48)
  | .smax _ _ _ desc => decide (desc.length ≤ 48)
  | .rmsn _ _ _ desc => decide (desc.length ≤ 48)
  | .lnrm _ _ _ desc => decide (desc.length ≤ 48)
  | .iadd _ _ _ desc => decide (desc.length ≤ 48)
  | .isub _ _ _ desc => decide (desc.length ≤ 48)
  | .imul _ _ _ desc => decide (desc.length ≤ 48)
  | .ishr _ _ _ desc => decide (desc.length ≤ 48)
  | .gath _ _ _ desc => decide (desc.length ≤ 48)
  | .scat _ _ _ desc => decide (desc.length ≤ 48)
  | .scadd _ _ _ desc => decide (desc.length ≤ 48)
  | .tcHalt ini _ _ _ _ => iniOk ini
  | .tcAbort ini _ _ _ _ => iniOk ini
  | .tcFlush ini _ _ _ _ => iniOk ini
  | .abortComplete _ _ _ => true
  | .haloDeadlineExpiry _ _ _ => true
  | .haloMailboxCopyDone _ _ _ => true
  | .haloAltCopyDone _ _ _ => true
  | .acStart ini _ _ _ => iniOk ini
  | .acBootDone _ _ _ => true
  | .acHalt ini _ _ _ _ => iniOk ini
  | .acReset ini _ _ _ => iniOk ini
  | .acResetDone _ _ _ => true
  | .acSigObjWrite _ _ _ _ => true
  | .acWaitArm _ _ _ _ _ => true
  | .acMsgInWrite ini _ _ _ _ => iniOk ini
  | .acMsgOutWrite _ _ _ _ => true
  | .acInterrupt _ _ _ => true
  | .stimecmpExpiry _ _ _ => true
  | .haltSelf _ _ _ => true
  | .readOwnIdentity _ _ _ => true
  | .reportFatal _ _ _ _ => true
  | .cboClean _ _ _ addr => addrOk addr
  | .cboFlush _ _ _ addr => addrOk addr
  | .cboInval _ _ _ addr => addrOk addr
  | .signalCommit _ => true
  | .waitRegister _ => true
  | .waitTimeout _ => true
  | .syncValueWrite ini _ _ _ _ => iniOk ini
  | .barrierContextEnable ini _ _ => iniOk ini
  | .barrierReleaseCommit _ => true
  | .ringBarrierReleaseCommit _ => true
  | .barrierContextTimeout _ => true
  | .jobSubmit ini _ _ _ _ => iniOk ini
  | .jobWindowClaimLapse _ _ => true
  | .tilePush _ _ _ => true
  | .tileClaim _ _ => true
  | .jobEnd _ _ _ => true
  | .phaseSample _ => true
  | .logSegmentCopy => true
  | .logGapRecord => true
  | .replayStart ini _ _ _ _ => iniOk ini
  | .summaryDone _ _ summAddr => addrOk summAddr
  | .pageMoveDone _ => true
  | .prefetchMoveStart _ _ => true
  | .rqtModelCountWrite ini _ _ => iniOk ini
  | .submit _ => true
  | .cancel _ => true
  | .pause _ => true
  | .resume _ => true
  | .stepBoundary _ _ _ => true
  | .emptyBoundary _ _ _ => true
  | .lookupStart => true
  | .lookupEnd _ => true
  | .udpDatagramRx _ _ => true
  | .auReorderTimeout _ => true
  | .rtcpReceiverReport _ => true
  | .rtspResponse _ _ => true
  | .rtspKeepalive _ => true
  | .rtspSessionLost _ => true
  | .rtspRetry _ => true
  | .streamSilence _ => true
  | .decodeOpen ini _ => iniOk ini
  | .decodeClose ini _ => iniOk ini
  | .contextClosed _ _ => true
  | .headersParsed _ => true
  | .decoderStart => true
  | .decodeDone _ => true
  | .preprocessStart => true
  | .viewWritten _ => true
  | .pictureRecordWrite _ => true
  | .encodeOpen ini _ => iniOk ini
  | .encodeClose ini _ => iniOk ini
  | .encodeStart => true
  | .encodeDone _ => true
  | .phaseCountEdge _ _ _ _ => true
  | .zEdge _ => true
  | .synthCount => true
  | .phaseLoss => true
  | .asSyncMessage _ _ => true
  | .phaseFrame _ => true
  | .eventSignal _ => true
  | .eventIngest _ => true
  | .eventDeadline _ => true
  | .eventRelease _ => true
  | .eventSnapshot _ => true
  | .eventActivate _ => true
  | .thySrcWrite ini _ => iniOk ini
  | .thyEvtIndexWrite ini _ => iniOk ini
  | .thyEvtCommit ini _ => iniOk ini
  | .flowDescWrite ini _ _ _ => iniOk ini
  | .flowForce ini _ => iniOk ini
  | .flowUnforce ini _ => iniOk ini
  | .safePeriodExpiry _ => true
  | .frameTxStart => true
  | .frameTxEnd => true
  | .fp1RxFrame _ _ => true
  | .gclChange ini _ => iniOk ini
  | .gclBaseTime => true
  | .pcieLinkUp _ _ _ _ => true
  | .pcieLinkDown _ => true
  | .linkDownTimeout _ => true
  | .perstNAssert _ => true
  | .perstNDeassert _ => true
  | .hotReset _ => true
  | .tenantActivate ini _ => iniOk ini
  | .tenantTeardown ini _ => iniOk ini
  | .scrubEnd _ _ => true
  | .bar2Access _ _ _ _ => true
  | .sqDoorbell _ _ _ => true
  | .cqDoorbell _ _ _ => true
  | .hostNop _ => true
  | .loadImage _ => true
  | .unloadImage _ => true
  | .loadWeights _ _ => true
  | .unloadWeights _ => true
  | .weightBlockLoad _ _ => true
  | .job _ => true
  | .copyIn _ => true
  | .copyOut _ => true
  | .streamOpen _ => true
  | .streamClose _ => true
  | .partitionInfo _ => true
  | .hostCommandComplete _ _ => true
  | .heldCompletionPost _ => true
  | .flr _ => true
  | .managementFlr _ => true
  | .vfEnableClear _ => true
  | .moduleReset ini => iniOk ini
  | .configWrite _ _ _ => true
  | .tdispGetVersion _ _ => true
  | .tdispGetCapabilities _ _ => true
  | .lockInterface _ _ _ => true
  | .getDeviceInterfaceReport _ _ _ => true
  | .getDeviceInterfaceState _ _ _ => true
  | .startInterface _ _ _ => true
  | .stopInterface _ _ _ => true
  | .ideKeyProg _ _ _ _ _ _ _ _ => true
  | .spdmGetVersion _ => true
  | .spdmGetCapabilities _ => true
  | .negotiateAlgorithms _ => true
  | .getDigests _ => true
  | .getCertificate _ _ _ _ => true
  | .challenge _ _ nonce => decide (nonce.length = 32)
  | .getMeasurements _ _ _ nonce => decide (nonce.length = 32)
  | .keyExchange _ _ => true
  | .finish _ _ _ => true
  | .heartbeat _ _ => true
  | .keyUpdate _ _ => true
  | .endSession _ _ => true
  | .chunkSend _ _ _ _ => true
  | .chunkGet _ => true
  | .spdmSessionTimeout _ _ => true
  | .getReport _ _ _ nonce => decide (nonce.length = 32)
  | .getNonce _ => true
  | .putCrate _ _ _ => true
  | .rotate _ _ => true
  | .setConsentKey _ _ _ _ => true
  | .rotationSweepUnit _ _ => true
  | .oldKeyDestroy _ => true
  | .leaseClockStore => true
  | .consentSubmit ini => iniOk ini
  | .consentRevoke ini _ => iniOk ini
  | .newNonce ini => iniOk ini
  | .consentExpiry _ => true
  | .nonceExpiry => true
  | .entropyHealthFailure => true
  | .hopRekey => true
  | .modPwrEnRise => true
  | .modPwrEnFall => true
  | .firmwareVerifyDone _ _ _ => true
  | .configReadDone _ _ => true
  | .standingLoad _ => true
  | .joinWaitExpiry => true
  | .lockWaitExpiry => true
  | .pipelineStart => true
  | .trialStartTimeout => true
  | .firmwareWatchdogExpiry => true
  | .trialGood => true
  | .nvsStore ini => iniOk ini
  | .nvsStoreDone _ => true
  | .nvsDiscard ini => iniOk ini
  | .nvsDefaults ini => iniOk ini
  | .counterSnapshot => true
  | .updatePut _ _ _ => true
  | .updateEnd _ => true
  | .stagingDone _ => true
  | .updateArm _ _ _ _ _ => true
  | .updateDisarm _ => true
  | .updateAbort _ => true
  | .updateStatus _ => true
  | .activationPoint => true
  | .componentSwitch _ => true
  | .activationLimitExpiry => true
  | .errorClassify => true
  | .faultNPulseEnd => true
  | .srlAckWrite ini _ => iniOk ini
  | .srlWdogKick ini _ => iniOk ini
  | .mgmtWatchdogExpiry _ => true
  | .stormWindowStart => true
  | .degradedExit _ => true
  | .dilTriggerWrite ini _ => iniOk ini
  | .dilTimerExpiry => true
  | .snapshotLatch => true
  | .snapshotCopyDone => true
  | .checkpointDone => true
  | .sensorSample temps _ => decide (temps.length = 306)
  | .inputSample _ _ => true
  | .governorPeriod => true
  | .baselineSet _ => true
  | .clampTimeout => true
  | .inputVoltageFault => true
  | .regulatorFault => true
  | .shutdownRailsOff => true
  | .coolOkChange _ => true
  | .unitTest ini unit => iniOk ini && iniOk unit
  | .unitFence ini unit => iniOk ini && iniOk unit
  | .fenceLift ini unit => iniOk ini && iniOk unit
  | .unitTestDone _ => true
  | .timeFrame _ => true
  | .calFrame _ => true
  | .barrierReportFrame _ => true
  | .barrierReleaseFrame _ => true
  | .snapshotFrame _ => true
  | .activateFrame _ => true
  | .statusFrame _ => true
  | .hello _ => true
  | .share _ => true
  | .readStore _ _ _ => true
  | .readSnapshot _ _ _ _ => true
  | .readCheckpoint _ _ _ _ _ => true
  | .readCounters _ _ _ => true
  | .forceAll _ => true
  | .timeFrameSend => true
  | .phaseFrameSend => true
  | .statusFrameSend => true
  | .calFrameSend => true
  | .retimerLock => true
  | .retimerLockLoss => true
  | .joinTimeout => true
  | .timeLockLapse => true
  | .ringEnWrite ini _ => iniOk ini
  | .extest _ => true
  | .idcode => true
  | .samplePreload _ => true
  | .bypass => true
  | .dapAddr _ => true
  | .dapData _ _ => true
  | .dapStatus => true
  | .nandReady => true
  | .fieldPortLinkUp _ _ => true
  | .fieldPortLinkDown _ => true
  | .arpNeighbourRequest _ => true
  | .ideKSetGo _ _ _ _ => true
  | .ideKSetStop _ _ _ => true
  | .inputDropout _ => true

end Sys2Proof
end

