-- ==== Sys2Proof/Tests/Slice0.lean ====
section
/-!
SUPPORT. Tests: ill-formed commands that WellFormed refuses, worked values of the spec, and for each statement with
hypotheses a concrete state and operands that meet them, clause by clause.
-/
namespace Sys2Proof.Tests
open Sys2Proof.Machine

-- One theorem at a time: the file's closed evaluations need much memory side by side.
set_option Elab.async false

/-! ## Small states -/

/-- A state with some registers set. -/
def tRegs (l : List (Nat × Nat)) (s : State) : State := l.foldl (fun s e => s.setReg e.1 e.2) s

/-- Management core 0. -/
def tMc : Nat := hubId 0

/-- A management function (port 0). -/
def tMf : Nat := mkId 7 0 0 0

/-- A list of bytes of length `n` with the given bytes at the given offsets. -/
def tBytes (n : Nat) (l : List (Nat × List Byte)) : List Byte :=
  (List.range n).map (fun i => match l.find? (fun e => decide (e.1 ≤ i ∧ i < e.1 + e.2.length)) with
    | some e => e.2.getD (i - e.1) 0
    | none => 0)

/-- The next state an outcome answers. -/
def tNext : Host.Outcome State Fault Refusal → State
  | .next t => t
  | _ => State.reset

/-- The state after a command. -/
def tRun (c : Instr) (s : State) : State := tNext (exec c s)


/-! ## WellFormed: one ill-formed term for each check, beside a well-formed one at the boundary -/

theorem test_wf_initiator : (Instr.clSlotMapWrite 65536 0 0 0).wf = false ∧ (Instr.clSlotMapWrite 65535 0 0 0).wf = true := by decide +kernel

theorem test_wf_register_write : (Instr.registerWrite 0 0x1000000100000 4 0).wf = false ∧ (Instr.registerWrite 0 0 0 0).wf = false ∧
    (Instr.registerWrite 0 0 65 0).wf = false ∧ (Instr.registerWrite 0 0 4 (2 ^ 32)).wf = false ∧
    (Instr.registerWrite 0 0x10000000FFFFF 4 (2 ^ 32 - 1)).wf = true := by decide +kernel

theorem test_wf_address : (Instr.correctionWriteback (2 ^ 48)).wf = false ∧ (Instr.correctionWriteback (2 ^ 48 - 1)).wf = true ∧
    (Instr.cboClean 0 0 0 (2 ^ 48)).wf = false ∧ (Instr.summaryDone 0 0 (2 ^ 48)).wf = false := by decide +kernel

theorem test_wf_upset : (Upset.wf { addr := 0, sym := 4, data := none, onDie := false } = false) ∧ (Upset.wf { addr := 0, sym := 3, data := none, onDie := false } = true) ∧
    (Upset.wf { addr := 0, sym := 3, data := some [0], onDie := false } = false) := by decide +kernel

theorem test_wf_access : (AcAccess.load 0 0 [] []).wf = false ∧ (AcAccess.load 0 65 [] []).wf = false ∧ (AcAccess.store 0 [] [] []).wf = false ∧
    (AcAccess.fetch (2 ^ 48) 4 []).wf = false ∧ (AcAccess.load 0 64 [] []).wf = true := by decide +kernel

theorem test_wf_hart : (HartOp.retire (2 ^ 64) [] [] []).wf = false ∧ (HartOp.retire 0 [(1, 2 ^ 64)] [] []).wf = false ∧
    (HartOp.retire 0 [] [(1, 2 ^ 64)] []).wf = false ∧ (HartOp.retire 0 [] [] [(1, 2 ^ 512)]).wf = false ∧
    (HartOp.trap 64 0).wf = false ∧ (HartOp.csr .write 0 0 (some (2 ^ 64))).wf = false ∧ (HartOp.vset 0 (some (2 ^ 64)) 0).wf = false ∧
    (Instr.acLoadStore 0 0 0 (.hart (.retire (2 ^ 64 - 1) [(1, 2 ^ 64 - 1)] [] [(1, 2 ^ 512 - 1)]))).wf = true := by decide +kernel

theorem test_wf_region : (Instr.regionZeroed 458752).wf = false ∧ (Instr.regionZeroed 458751).wf = true := by decide +kernel

theorem test_wf_descriptor : (Instr.mma 0 0 0 (List.replicate 49 0)).wf = false ∧ (Instr.mma 0 0 0 (List.replicate 48 0)).wf = true := by decide +kernel

theorem test_wf_lengths : (Instr.challenge 0 0 []).wf = false ∧ (Instr.sensorSample [] []).wf = false ∧ (Instr.unitTest 0 65536).wf = false := by decide +kernel
/-! ## The queue, registers, memory, links (00, 01) -/

/-- The first command waiting runs, and leaves the queue. -/
theorem test_witness_StepRunsFrontCommand : step { State.reset with pending := [.idcode, .bypass] } =
    exec .idcode { State.reset with pending := [.bypass] } := rfl

/-- The opcode table gives no row any bits: no word spells a command. -/
theorem test_no_word_spells_a_command : decodeTableWord 32 0 = none ∧ State.reset.withFetchWord 32 0 = State.reset := by decide +kernel

theorem test_witness_StepKeepsCanonicalForm : (Memory.wf State.reset.mem = true ∧ regsWf State.reset.regs = true) ∧
    ∃ t, step { State.reset with pending := [.idcode] } = .next t := ⟨by decide +kernel, _, rfl⟩

theorem test_witness_RegisterWriteFollowsAccessCodes : ∀ off ∈ [0x100, 0x114, 0x118, 0x11C, 0x2FC], isMgmtCore tMc = true ∧
    off < 0x300 ∧ off % 4 = 0 ∧ (59 : Nat) < 2 ^ 32 ∧ (off ≠ 0x2FC → (regAt (modA off)).isSome = true) := by decide +kernel

/-- R40: the three scrub periods hold the nearer limit of their ranges. -/
theorem test_scrub_period_limits : ∀ c ∈ [(0x114, 59, 60), (0x114, 86401, 86400), (0x118, 3599, 3600), (0x11C, 604801, 604800)],
    (tRun (.registerWrite tMc (modA c.1) 4 c.2.1) State.reset).reg (modA c.1) = c.2.2 := by decide +kernel

theorem test_witness_BadRegisterAccessHasNoEffect : acOfId tMc = none ∧ State.reset.place (modA 0x100) = .regPage ∧
    ¬ (0 < 2 ∧ 2 % 4 = 0 ∧ modA 0x100 % 2 = 0) ∧ ¬ (0 < 8 ∧ 8 % 4 = 0 ∧ modA 0x104 % 8 = 0) ∧
    State.reset.place 0x0C0005000000 = .unassigned ∧ regBlock 0x0C0005000000 = none := by decide +kernel

/-- Word 4 (HBM) with `n` symbols in error and a targeted scrub pending, word 5 corrected and awaiting its write-back, and the
HBM's patrol pass at word 6. -/
def tScrub (n : Nat) : State := tRegs [(modA 0x110, 7)] { State.reset with
  cycle := 10
  mem := { State.reset.mem with ecc := [(4, { sym := n, scrub := true }), (5, { writeback := true })]
                                patrolHbm := { nextStart := 10, cursor := 6, running := true } } }

theorem test_witness_ScrubsCorrectPoisonAndAdvance :
    ((tScrub 2).word ((tScrub 2).phys 0x80 / 32)).scrub = true ∧ ((tScrub 2).word ((tScrub 2).phys 0x80 / 32)).sym ≤ 2 ∧
    2 < ((tScrub 3).word ((tScrub 3).phys 0x9F / 32)).sym ∧ ((tScrub 2).word ((tScrub 2).phys 0xA0 / 32)).writeback = true ∧
    ((tScrub 2).patrol .hbm).nextStart ≤ (tScrub 2).cycle ∧ ((tScrub 2).patrol .hbm).running = true ∧
    (tScrub 2).scrubOn .hbm = true ∧ ((tScrub 2).patrol .hbm).cursor < tierWords .hbm ∧
    (tScrub 2).scrubNext .hbm ((tScrub 2).patrol .hbm).cursor = ((tScrub 2).patrol .hbm).cursor ∧
    (let w := (tScrub 2).word (tierAddr .hbm ((tScrub 2).patrol .hbm).cursor / 32)
     w.sym = 0 ∧ w.scrub = false) := by decide +kernel

/-- Busy and idle: the writer has the right, and slot 3's swap is refused while it runs a kernel's queue. -/
theorem test_witness_SlotMapAndLinkRetransmissions : isMgmtCore tMc = true ∧
    (State.reset.slotBusy ⟨0, 0, State.reset.physSlot 0 0 3⟩ || State.reset.slotBusy ⟨0, 0, 8⟩) = false ∧
    (let s := State.reset.tileSet ⟨0, 0, 3⟩ { queue := [⟨[], 0, 0, 0, 0⟩] }
     (s.slotBusy ⟨0, 0, s.physSlot 0 0 3⟩ || s.slotBusy ⟨0, 0, 8⟩) = true) := by decide +kernel

/-- R14, R15: after slot 3 moves to the spare, its alias reaches slot 8. -/
theorem test_slot_map_moves_the_alias : (tRun (.clSlotMapWrite tMc 0 0 0x83000000) State.reset).phys
    (0x80000000000 + 0x8000000 + 3 * 0x400000) = 0x80000000000 + 0x4000000 + 8 * 0x400000 := by decide +kernel


theorem test_witness_ResetIsCanonicalAndIdleCyclesPass : State.reset.pending = [] ∧ State.reset.slew = 0 ∧ State.reset.timeRem < 10000 ∧
    ({ State.reset with timeRem := 10000 }).timeRem < 110000 := by decide +kernel

theorem test_witness_SlotAliasReachesTheServingSlot : (3 < 4 ∧ 7 < 8 ∧ 0x1FFFFF < 0x200000) ∧
    (let s := tRegs [(clA 3 7 0x40, 2 ^ 31 + 5 * 2 ^ 24)] State.reset
     s.rbit (clA 3 7 0x40) 31 = true ∧ s.fld (clA 3 7 0x40) 26 24 = 5 ∧
     s.phys (cluBase 3 7 + 0x8000000 + 5 * 0x400000 + 0x1FFFFF) = tileBase 3 7 8 + 0x1FFFFF ∧
     s.phys (cluBase 3 7 + 0x8000000 + 4 * 0x400000) = tileBase 3 7 4) := by decide +kernel
/-! ## Tile cores, number formats, walks (02, 03, 04, 07) -/

theorem test_witness_FormatsHoldTheirOwnValues : fmtOf 1 = some fp32 ∧ 0x7F800000 < 2 ^ fp32.width ∧ fp32.decode 0x7F800000 ≠ .nan ∧
    (Rnd.mk 3 false 0).sat = false ∧ (fp32.decode 0x3F800000).isFin = true := by decide +kernel

/-- Slot 0 of cluster 0 of die 0. -/
def tX : Core3 := ⟨0, 0, 0⟩

/-- The image with handle 5 of tenant 1: one entry and one reduction tree of two leaves. -/
def tIm : Image :=
  { handle := 5, tenant := 1, run := 0, runLen := 1, sections := [⟨1, 0, 8⟩, ⟨2, 8, 4⟩, ⟨4, 16, 16⟩, ⟨5, 32, 8⟩], entryCount := 1
    treeCount := 1, features := 0, clusterBytes := 0, shape := 0, slots := 1, digest := [], weightDigest := [] }

/-- A launch record of that image's entry 0, with STATUS_EN and DONE_OBJ 0. -/
def tRec : LaunchRec := ⟨tBytes 32 [(0, [5]), (4, [1]), (0x10, [7]), (0x14, [0, 0, 0, 0x80]), (0x18, [0, 0x10])], 0, 0, 0, 0⟩

/-- Tenant 1 owns cluster 0 of die 0 and the first region of HBM. -/
def tOwn (s : State) : State := { s with
  tenants := [(1, { state := .isOpen, clusters := 1, port := 0 })]
  images := [tIm]
  mem := { s.mem with cells := [(cluBase 0 0 + 32, 2), (cluBase 0 0 + 36, 1)], regions := [(0, { state := .assigned, owner := 1 })] } }

/-- Slot 0 runs a kernel of the image, with some commands issued. -/
def tKern (k : Kernel) (cmds : List Cmd) : State := (tOwn State.reset).tileSet tX { kernel := some k, cmds := cmds }

/-- Descriptor words: the given words at the given places, the rest 0. -/
def tDesc (l : List (Nat × Nat)) : List Word := (List.range 48).map (fun i => BitVec.ofNat 32 ((l.find? (·.1 == i)).map (·.2) |>.getD 0))

theorem test_witness_LaunchQueueHaltAbortAndFlush_queue : windowOwner tMc 0 0 0 = true ∧ windowOwner (acId 0 0 0) 0 0 2 = true ∧
    State.reset.consentBar tMc (tX.reg 0x11C) = false ∧ (State.reset.tileGet tX).queue.length < 16 ∧
    (State.reset.logSlot tX).isSome = true ∧ State.reset.logSlot ⟨0, 0, 8⟩ = none ∧
    ((State.reset.tileSet tX { queue := List.replicate 16 tRec }).tileGet tX).queue.length = 16 ∧ tRec.source < 4 ∧
    tRec.source ≠ 1 := by decide +kernel

theorem test_witness_KernelStartsRunsAndEnds :
    (let s := (tOwn State.reset).tileSet tX { queue := [tRec] }
     (s.tileGet tX).kernel = none ∧ (s.tileGet tX).queue = [tRec] ∧ s.rbit (tX.reg 0x4) 0 = false ∧ s.serving tX = true ∧
     s.launchImage tX tRec = some tIm ∧ fieldLe tRec.data 2 2 < tIm.entryCount ∧ s.fld (tX.reg 0x8) 15 0 ≠ tIm.handle) ∧
    (let s := tKern { launch := tRec, fetching := true } []
     let k : Kernel := { launch := tRec, fetching := true }
     (s.tileGet tX).kernel = some k ∧ k.fetching = true ∧ k.aborting = false ∧ s.launchImage tX k.launch = some tIm) ∧
    (let s := tKern { launch := tRec } []
     let k : Kernel := { launch := tRec }
     (s.tileGet tX).kernel = some k ∧ k.fetching = false ∧ k.aborting = false ∧ (s.tileGet tX).cmds = [] ∧
     (s.tileGet tX).stall = none) := by decide +kernel

/-- A kernel whose code is fetched; the same with code, constants and handle arrived, and with the argument block too. -/
def tFetching : State := tKern { launch := tRec, fetching := true } []
def tFetched : State :=
  let data := zeros 4 ++ slice (tFetching.tileGet tX).data 4 (32768 - 4)
  (tFetching.tileSet tX { tFetching.tileGet tX with code := zeros 8, codeOf := tIm.digest, data := data }).setFld (tX.reg 0x8) 15 0 tIm.handle
def tBegun : State :=
  let data := zeros 4 ++ slice (tFetching.tileGet tX).data 4 (32768 - 4)
  tFetched.tileSet tX { tFetched.tileGet tX with
    data := slice data 0 (32768 - 256) ++ zeros 256
    sregs := (List.replicate 32 0).set 1 7, kernel := some { launch := tRec, fetching := false } }

theorem test_witness_KernelStartsRunsAndEnds_code :
    tFetching.sectionRead tX tIm 1 = (tFetching, some (zeros 8)) ∧ tFetching.sectionRead tX tIm 2 = (tFetching, some (zeros 4)) ∧
    tFetching.launchImage tX tRec = some tIm ∧ (tFetching.tileGet tX).codeOf = tIm.digest := by decide +kernel

theorem test_witness_KernelStartsRunsAndEnds_args :
    tFetched.memRead (tX.id 0) (fieldLe tRec.data 8 6) 256 = (tFetched, some (zeros 256)) :=
  memRead_of_no_ecc (by decide +kernel) (by decide +kernel)

theorem tEntry_read {s : State} {b : List Byte} (h : s.memRead (tX.id 0) (cluBase tX.d tX.c + tIm.run + 16) 16 = (s, some b)) :
    s.sectionRead tX tIm 4 = (s, some b) := by
  have f : tIm.sections.find? (fun e => e.typ == 4) = some ⟨4, 16, 16⟩ := by decide +kernel
  simp only [State.sectionRead, f]
  rw [if_neg (by decide)]
  exact h

theorem test_witness_KernelStartsRunsAndEnds_entry : tBegun.sectionRead tX tIm 4 = (tBegun, some (zeros 16)) :=
  tEntry_read (memRead_of_no_ecc (by decide +kernel) (by decide +kernel))

/-- R80, R105: the kernel of the queued record fetches its code, runs, and writes its record, RESULT 0, where STATUS_ADDR says. -/
theorem test_kernel_runs : (let s := (tOwn State.reset).tileSet tX { queue := [tRec] }
    let s := tRun (.kernelStart 0 0 0) s
    let t := tRun (.codeFetchDone 0 0 0) s
    let u := tRun (.kernelEnd 0 0 0) t
    (s.tileGet tX).kernel.map (·.fetching) = some true ∧ (t.tileGet tX).sregs.getD 1 0 = 7 ∧ t.fld (tX.reg 0x8) 15 0 = 5 ∧
    (u.tileGet tX).kernel = none ∧ u.sync.inflight = [⟨0, 1, tX.id 0, false, 0⟩]) := by decide +kernel

/-- A kernel that runs with nothing outstanding. -/
def tIdle : State := tKern { launch := tRec } []

/-- Descriptor words that break no check: LEN, and each engine's smallest operands. -/
def tMma : List Word := tDesc [(0, 0x800000), (9, 0x4001), (10, 1), (11, 1), (14, 0x11100000)]
def tAttn : List Word := tDesc [(0, 0xC00000), (11, 0x01010001), (12, 0x01000020), (13, 0x22200000), (18, 1), (22, 1), (32, 1)]
def tXrd : List Word := tDesc [(0, 0x800000), (6, 1), (7, 1), (9, 0x11000000)]
def tDma : List Word := tDesc [(0, 0x400000), (6, 0x1000), (8, 32), (9, 0x10001)]
def tVop (fmts n : Nat) : List Word := tDesc [(0, 0x400000), (4, fmts), (6, 0x100), (7, 0x200), (8, 0x400), (9, n), (10, 1)]

theorem test_witness_EngineCommandIsIssuedAndRuns_engines : (tIdle.tileGet tX).kernel = some { launch := tRec } ∧ (tIdle.tileGet tX).stall = none ∧
    (tIdle.tileGet tX).cmds = [] ∧ cmdErrs tIdle tX (withOp 0x10 tMma) [] = [] ∧ cmdErrs tIdle tX (withOp 0x12 tAttn) [] = [] ∧
    cmdErrs tIdle tX (withOp 0x18 tXrd) [] = [] ∧ cmdErrs tIdle tX (withOp 0x30 tDma) [] = [] ∧
    bit (dw (withOp 0x10 (tMma.set 2 0x80000000)) 2) 31 = true ∧ cmdErrs tIdle tX (withOp 0x10 (tMma.set 2 0x80000000)) [] = [] := by decide +kernel

theorem test_witness_EngineCommandIsIssuedAndRuns_vops : (∀ v ∈ [0x00, 0x01, 0x08, 0x09, 0x0A, 0x0B, 0x0C, 0x0D, 0x0E, 0x0F, 0x10, 0x11, 0x12, 0x13, 0x18, 0x19,
    0x1A, 0x1B, 0x1C, 0x1D, 0x1E, 0x1F, 0x20, 0x21, 0x22, 0x23, 0x28, 0x29, 0x30, 0x31, 0x32, 0x33, 0x38, 0x39, 0x3A],
      cmdErrs tIdle tX (withVop v (tVop 0x1111 1)) [] = []) ∧
    (∀ v ∈ [0x40, 0x41, 0x42, 0x43], cmdErrs tIdle tX (withVop v (tVop 0xDDDD 1)) [] = []) ∧
    (∀ v ∈ [0x48, 0x49, 0x4A], cmdErrs tIdle tX (withVop v (tVop 0x11D1 1)) [] = []) ∧
    cmdErrs tIdle tX (withVop 0x02 (tVop 0x6111 32)) [] = [] ∧ cmdErrs tIdle tX (withVop 0x03 (tVop 0x1116 32)) [] = [] := by decide +kernel

/-- A walk of one dimension, the reduction, with one element. -/
def tWalk : List Byte := tBytes 256 [(1, [1]), (8, [1]), (0xC, [0xFF]), (0x40, [1, 0, 1, 0, 1, 0, 1]), (0x4E, [1, 0, 4, 0, 0, 0, 2])]

def tConv : List Word := tDesc [(0, 0x800000), (4, 0x1000), (5, 0x2000), (6, 0x3000), (9, 1), (11, 1), (14, 0x11100000)]

/-- The same state with the walk in tile memory. -/
def tConvS : State := tIdle.rawWrite (tX.base + 0x1000) tWalk

set_option maxRecDepth 100000 in
theorem test_witness_EngineCommandIsIssuedAndRuns_conv : tConvS.tRead tX 0 (db (withOp 0x11 tConv) 4 20 0) 256 = (tConvS, some tWalk) ∧
    cmdErrs tConvS tX (withOp 0x11 tConv) tWalk = [] ∧ walkHalo tWalk = false ∧ bit (dw (withOp 0x11 tConv) 2) 31 = false := by decide +kernel

theorem test_witness_BrokenCheckFailsTheKernel : (0x07 : Nat) < 256 ∧
    (∀ p ∈ [withOp 0x10 (tMma.set 9 0x4000), withOp 0x12 (tAttn.set 18 0), withOp 0x18 (tXrd.set 7 0), withOp 0x30 (tDma.set 8 0),
        withVop 0x08 (tVop 0x1111 0), withVop 0x30 (tVop 0x1111 0), withVop 0x40 (tVop 0xDDDD 0), withVop 0x49 (tVop 0x11D1 0)],
      0x07 ∈ cmdErrs tIdle tX p [] ∧ ∀ e ∈ cmdErrs tIdle tX p [], 0x07 ≤ e) ∧ tIdle.rbit (tX.reg 0x30) 31 = false ∧
    (tRegs [(tX.reg 0x30, 2 ^ 31)] tIdle).rbit (tX.reg 0x30) 31 = true := by decide +kernel

theorem test_witness_EnginesWriteOnlyTheirDestinations : tIdle.mem.ecc = [] ∧
    (∀ p ∈ [(0x20, withVop 0x08 (tVop 0x1111 1)), (0x10, withOp 0x10 tMma), (0x18, withOp 0x18 tXrd)],
      opcode p.2 = p.1 ∧ cmdErrs tIdle tX p.2 [] = []) ∧
    (tIdle.coreImage tX).map (fun im => decide ((tIdle.sectionRead tX im 5).1 = tIdle)) ≠ some false := by decide +kernel

theorem test_witness_IntegerVectorArithmetic : tIdle.mem.ecc = [] ∧
    tIdle.sorrel.fenced.contains (0x3000 + 0 * 0x100 + 0 * 0x10) = false ∧
    (∀ v ∈ [0x40, 0x41, 0x42], cmdErrs tIdle tX (withVop v (tVop 0xDDDD 1)) [] = [] ∧
      bit (dw (withVop v (tVop 0xDDDD 1)) 2) 31 = false ∧ db (withVop v (tVop 0xDDDD 1)) 10 15 0 ≤ 1) := by decide +kernel

/-- R66, R98: ADD of FP32 1 and 2 gives 3, MUL of INT32 −3 and 5 gives −15. -/
theorem test_add_and_imul :
    (let s := (tIdle.rawWrite tX.base [0, 0, 0x80, 0x3F]).rawWrite (tX.base + 0x100) [0, 0, 0, 0x40]
     (tRun (.add 0 0 0 (tVop 0x1111 1)) s).rawRead (tX.base + 0x400) 4 = [0, 0, 0x40, 0x40]) ∧
    (let s := (tIdle.rawWrite tX.base [0xFD, 0xFF, 0xFF, 0xFF]).rawWrite (tX.base + 0x100) [5]
     (tRun (.imul 0 0 0 (tVop 0xDDDD 1)) s).rawRead (tX.base + 0x400) 4 = [0xF1, 0xFF, 0xFF, 0xFF]) := by decide +kernel

/-- R92: a 1×1×1 FP32 MMA of 3 and 4 gives 12. -/
theorem test_mma_product : (let s := (tIdle.rawWrite tX.base [0, 0, 0x40, 0x40]).rawWrite (tX.base + 0x100) [0, 0, 0x80, 0x40]
    (tRun (.mma 0 0 0 ((tMma.set 5 0x100).set 6 0x200)) s).rawRead (tX.base + 0x200) 4 = [0, 0, 0x40, 0x41]) := by decide +kernel

/-- An executed command of queue 1, without error. -/
def tCmd : Cmd := { num := 0, words := [], queues := 2, stage := .executed, flags := 8 }

theorem test_witness_SequencerCommandsAndCompletion :
    ((tDesc [(0, 0x1400000)]).getD 0 0).toNat / 2 ^ 24 = 1 ∧ cmdErrs tIdle tX (withOp 0x01 (tDesc [(0, 0x1400000)])) [] = [] ∧
    bit (dw (withOp 0x01 (tDesc [(0, 0x1400000)])) 2) 31 = false ∧
    (∀ m ∈ [0, 0x80000000], let ws := withOp 0x02 (tDesc [(0, 0x400000), (4, m)])
      cmdErrs tIdle tX ws [] = [] ∧ bit (dw ws 2) 31 = false ∧ bit (dw ws 4) 31 = decide (m ≠ 0)) ∧
    (let s := tKern { launch := tRec } [tCmd]
     (s.tileGet tX).cmds = [tCmd] ∧ tCmd.stage = .executed ∧ tCmd.err = 0 ∧ tCmd.flags < 128 ∧ bit tCmd.queues 1 = true) := by decide +kernel

theorem test_witness_LaunchQueueHaltAbortAndFlush_stops : tIdle.consentBar tMc (tX.reg 0x4) = false ∧ isMgmt tMc = true ∧
    tIdle.consentBar (acId 0 0 0) (tX.reg 0x4) = false ∧ isMgmt (acId 0 0 0) = false ∧
    (let s := tKern { launch := tRec, aborting := true } []
     (s.tileGet tX).kernel = some { launch := tRec, aborting := true } ∧ (s.tileGet tX).cmds = []) := by decide +kernel

/-- A CONV in its halo step, over a walk without rows to copy. -/
def tHalo (g : CmdStage) (w : List Byte) : Cmd := { num := 0, words := [0x11000000], walk := w, queues := 1, stage := g }

theorem test_witness_HaloStepEndsByItsThreeWays :
    (let w : Waiter := { who := .halo tX.ix 0, obj := 0, thr := 1, deadline := some 5 }
     let s := { tKern { launch := tRec } [tHalo .haloWait []] with cycle := 6, sync := { waiters := [w] } }
     (s.tileGet tX).cmds = [tHalo .haloWait []] ∧ s.aborting tX = false ∧ s.sync.arriving = [] ∧ s.sync.waiters = [w] ∧ w.deadline = some 5 ∧ 5 < s.cycle) ∧
    (let e := tHalo .haloMail (tBytes 256 [(0x14, [3])])
     let s := (tKern { launch := tRec } [e]).setObj 3 2
     e.stage = .haloMail ∧ wf e.walk 0x18 4 + 2 ≤ s.obj (bits (wf e.walk 0x14 4) 17 0)) ∧
    (let e := tHalo .haloMail []
     let s := tKern { launch := tRec } [e]
     s.obj (bits (wf e.walk 0x14 4) 17 0) < wf e.walk 0x18 4 + 2 ∧
     haloCopy s tX e.walk (wf e.walk 0x20 8 : Nat) ((walkDim e.walk (wf e.walk 0xC 1)).pitch : Nat) = (s, true)) ∧
    (let e := tHalo (.haloAlt true) []
     let s := tKern { launch := tRec } [e]
     e.stage = .haloAlt true ∧ haloCopy s tX e.walk (wf e.walk 0x28 8 : Nat) (toInt 32 (wf e.walk 0x30 4)) = (s, true)) := by decide +kernel


/-- A row of three elements and its next level: the first two combined, the third unchanged. -/
theorem test_witness_RowReductionsCombineInTheFixedTree : (let l : List FV := [.fin false 1 0, .fin false 1 1, .fin false 3 0]
     let cf := fmtGet 2
     2 ≤ l.length ∧ (∀ l' ∈ [[(cAdd cf 0 (.fin false 1 0) (.fin false 1 1)).1, .fin false 3 0], [.fin false 1 1, .fin false 3 0]],
       l'.length = (l.length + 1) / 2 ∧ l.length % 2 = 1 ∧ l'.getLast? = l.getLast?) ∧
     (rowExt true [.fin false 1 0, .fin false 1 1]).1 = .fin false 1 1) ∧
    vCode (withVop 0x33 []) = 0x33 ∧ vImm (withVop 0x33 []) = false ∧ (∀ v ∈ [0x30, 0x31, 0x32], vCode (withVop v []) = v) := by decide +kernel
/-! ## Application cores (05) -/

/-- Application core 0 of cluster 0 of die 0. -/
def tA : AcCore := ⟨0, 0, 0⟩

/-- The image of handle 5 with a type-9 section of one entry. -/
def tImA : Image := { tIm with sections := [⟨9, 64, 64⟩], ac := some { text := 16, textSize := 16, rodata := 32, rodataSize := 0, table := 48, entries := 1 } }

/-- The core with handle 5 in AC_BOOT, and STATE. -/
def tAc (st : Nat) (a : AcState) : State := tRegs [(tA.reg 0x10, 0x50000), (tA.reg 0x8, st * 2 ^ 28)]
  { ((tOwn State.reset).acSet tA.ix a) with
      images := [tImA], mem := { cells := [(cluBase 0 0 + 68, 1)], regions := [(0, { state := .assigned, owner := 1 }),
        (196608, { state := .assigned, owner := 1 })] } }

/-- The core in U-mode, with its trap handler at the start of the text. -/
def tAcU : State := tAc 2 { mode := .user, csr := [(0x105, cluBase 0 0 + 80)] }

theorem test_witness_AppCoreLifeCycle : isMgmt tMc = true ∧ (tAc 0 {}).consentBar tMc (tA.reg 0x4) = false ∧
    (tAc 0 {}).acState tA = 0 ∧ ((tAc 0 {}).acGet tA.ix).resetting = false ∧ (tAc 0 {}).acFenced tA = false ∧
    (tAc 0 {}).images.find? (fun i => i.handle == (tAc 0 {}).fld (tA.reg 0x10) 31 16 && i.tenant == (tAc 0 {}).acTenant tA) = some tImA ∧
    (tA.section tImA).map (fun e => decide ((tAc 0 {}).fld (tA.reg 0x10) 15 0 < e.2.entries)) = some true ∧
    State.reset.images.find? (fun i => i.handle == State.reset.fld (tA.reg 0x10) 31 16 && i.tenant == State.reset.acTenant tA) = none ∧
    State.reset.acState tA = 0 ∧ (tAc 2 {}).acState tA = 2 ∧ (∀ l ∈ ((tAc 2 {}).acGet tA.ix).lines, l.dirty = false) ∧
    ((tAc 2 { resetting := true }).acGet tA.ix).resetting = true ∧ (tAc 1 {}).acState tA = 1 ∧
    (tAc 2 {}).acRuns tA = true ∧ ((tAc 2 {}).acGet tA.ix).mode ≠ .user ∧ (tAcU.acGet tA.ix).mode = .user ∧ tAcU.acRuns tA = true ∧
    tAcU.acTextOk tA ((tAcU.acGet tA.ix).csrGet 0x105 / 4 * 4) 2 = true := by decide +kernel

/-- R150: START boots the core; without an image of that handle it sets ERR. -/
theorem test_ac_start : (tRun (.acStart tMc 0 0 0) (tAc 0 {})).acState tA = 1 ∧
    (tRun (.acBootDone 0 0 0) (tAc 1 {})).acState tA = 2 ∧
    (tRun (.acStart tMc 0 0 0) State.reset).rbit (tA.reg 0x8) 27 = true := by decide +kernel

theorem test_witness_AppCoreSignalsWaitsAndMessages : (tAc 2 {}).objOwned ((tAc 2 {}).acTenant tA) 5 = true ∧
    (tAc 2 {}).objOwned ((tAc 2 {}).acTenant tA) 0x2000 = false ∧ isMgmt tMc = true ∧ (tAc 2 {}).consentBar tMc (tA.reg 0x214) = false ∧
    (tAc 2 {}).acTenant tA = 1 ∧ (tAc 2 {}).rbit (fnA 1 0x20) 0 = false ∧
    (tAc 2 {}).cluOwner 0 0 = some 1 ∧ (tAc 2 {}).acRuns tA = true ∧ ((tAc 2 {}).acGet tA.ix).mode ≠ .user ∧
    tAcU.acTextOk tA ((tAcU.acGet tA.ix).csrGet 0x105 / 4 * 4) 2 = true ∧
    (tAc 2 {}).acTextOk tA (((tAc 2 {}).acGet tA.ix).csrGet 0x105 / 4 * 4) 2 = false ∧
    (let s := tRegs [(tA.reg 0x200, 1), (tA.reg 0x204, 1), (tA.reg 8, 2 * 2 ^ 28 + 1)] (tAc 2 { mode := .user, stimecmp := 0, csr := [(0x104, 0x220)] })
     s.reg (tA.reg 0x200) &&& s.reg (tA.reg 0x204) ≠ 0 ∧ (s.acGet tA.ix).stimecmp ≤ s.timeNs ∧ s.acIrqDue tA = some 9 ∧ s.acState tA = 2) ∧
    (tAc 2 {}).reg (tA.reg 0x200) &&& (tAc 2 {}).reg (tA.reg 0x204) = 0 ∧ (tAc 2 {}).timeNs < ((tAc 2 {}).acGet tA.ix).stimecmp ∧
    (tAc 2 {}).acIrqDue tA = none := by decide +kernel

/-- A dirty line of the core in cluster memory and one in LPDDR5X. -/
def tLine (addr : Nat) : CacheLine := ⟨addr, zeros 64, true⟩

theorem test_witness_AppCoreCaches :
    (let s := tAc 2 { lines := [tLine (cluBase 0 0), tLine 0x10000000000] }
     (s.acGet tA.ix).lines.find? (fun e => e.addr == (cluBase 0 0 + 60) / 64 * 64) = some (tLine (cluBase 0 0)) ∧
     (tLine (cluBase 0 0)).data.length = 64 ∧ cluBase 0 0 + 60 + 4 ≤ (cluBase 0 0 + 60) / 64 * 64 + 64 ∧ s.acRuns tA = true ∧
     s.acRange tA false (cluBase 0 0) 4 = .cached ∧ s.acRange tA true (cluBase 0 0 + 60) 4 = .cached ∧
     (∀ e ∈ (s.acGet (acIx 0 0 1)).lines, e.addr + 64 ≤ cluBase 0 0 ∨ cluBase 0 0 + 64 ≤ e.addr) ∧
     (s.acGet tA.ix).lines.find? (fun e => e.addr == 0x10000000020 / 64 * 64) = some (tLine 0x10000000000) ∧
     s.place (0x10000000020 / 64 * 64) = .lp) := by decide +kernel

/-- R140, R141: a store stays in the line until it is written back. -/
theorem test_store_then_flush : (let s := tAc 2 { lines := [tLine 0x10000000000] }
    let t := tRun (.acLoadStore 0 0 0 (.store 0x10000000001 [7] [] [])) s
    t.rawByte 0x10000000001 = 0 ∧ (tRun (.acLoadStore 0 0 0 (.load 0x10000000000 2 [] [])) t).resp = .bytes [0, 7] ∧
    (tRun (.cboFlush 0 0 0 0x10000000001) t).rawByte 0x10000000001 = 7) := by decide +kernel


/-- R149: 1.5 + 2^-149 in FP32 rounds to 1.5 with NX; the smallest subnormal doubles; a NaN with a payload becomes the canonical
one; frm 5 is illegal. -/
theorem test_hart_arithmetic : fpArith fp32 rne .add 0x3FC00000 1 0 = (0x3FC00000, 1) ∧ fpArith fp32 rne .add 1 1 0 = (2, 0) ∧
    fpArith fp32 rne .mul 0x7FC12345 0x3F800000 0 = (0x7FC00000, 0) ∧ fpArith fp64 rne .div 0x3FF0000000000000 0 0 = (0x7FF0000000000000, 8) ∧
    rmRnd 5 = none := by decide +kernel

theorem test_witness_AppCoreCaches_hart : (let s := tAc 2 { csr := [(0x100, 0x6000)] }
    s.acRuns tA = true ∧ (s.acGet tA.ix).fpOn = true ∧ rmRnd (bits ((s.acGet tA.ix).csrGet 3) 7 5) = some rne) ∧
    (let f := hartFmt .double
     1 < 2 ^ f.width ∧ (f.decode 1).isFin = true ∧ (f.decode 1).isZero = false ∧ f.decode (fpArith f rne .sqrt (2 ^ 63 + 1) 0 0).1 = .nan) ∧
    tAcU.acTextOk tA ((tAcU.acGet tA.ix).csrGet 0x105 / 4 * 4) 2 = true ∧ tAcU.acRuns tA = true := by decide +kernel
/-! ## Sync, barriers, jobs, the log (06) -/

theorem test_witness_SignalsCommitAndWaitsResolve :
    (let s := { (State.reset.setObj 7 0xFFFFFFFF) with sync := { (State.reset.setObj 7 0xFFFFFFFF).sync with
        inflight := [⟨7, 1, 0, false, 0⟩], waiters := [{ who := .ac 0 0, obj := 8, thr := 1, deadline := some 3 }], commitCycle := 1 }, cycle := 4 }
     s.sync.inflight[0]? = some ⟨7, 1, 0, false, 0⟩ ∧ s.canCommit 7 = true ∧ s.queuedOn 7 = false ∧
     (∀ w ∈ s.sync.waiters, w.obj = 7 → min (s.obj 7 + 1) 0xFFFFFFFF < w.thr) ∧ 0xFFFFFFFF < s.obj 7 + 1 ∧
     s.sync.waiters[0]? = some { who := .ac 0 0, obj := 8, thr := 1, deadline := some 3 } ∧ 3 < s.cycle) ∧
    (isMgmt tMc = true ∧ State.reset.consentBar tMc (syncA 3 7 (4 * 8191)) = false ∧
     { State.reset with cycle := 1 }.canCommit (mkObj 3 7 8191) = true ∧ State.reset.queuedOn (mkObj 3 7 8191) = false ∧ State.reset.sync.waiters = []) ∧
    (let w : Waiter := { who := .ac 63 3, obj := 7, thr := 1 }
     let s := { State.reset with sync := { arriving := [w] } }
     s.sync.arriving[0]? = some w ∧ s.obj w.obj < w.thr ∧ w.thr ≤ (s.setObj 7 1).obj w.obj) := by decide +kernel

/-- Barrier context 0 armed over cluster 0 with its first generation complete since cycle 0; `r` adds RING_EN. -/
def tBar (r : Bool) (x : BarrierCtx) : State := tRegs [(ctxA 0 0, 2 ^ 31 + (if r then 2 ^ 30 else 0) + 1 * 2 ^ 20), (ctxA 0 4, 1), (ctxA 0 8, 1), (ctxA 0 0x10, 5),
  (ctxA 0 0x18, 2 ^ 30)] { State.reset with cycle := 64, barriers := [(0, x)] }

theorem test_witness_BarrierArmsReleasesAndBreaks :
    (isMgmt tMc = true ∧ State.reset.consentBar tMc (ctxA 31 0) = false ∧ State.reset.rbit (ctxA 31 0) 31 = false ∧
     bit (0x80100000 : Word).toNat 31 = true ∧ bit (0x80100000 : Word).toNat 30 = false) ∧
    (let s := tBar false { done := [(1, 0)], first := [(1, 0)] }
     s.sync.waiters = [] ∧ s.sync.reached = [] ∧ (∀ o ∈ s.releaseObjs 0, s.watchers o = []) ∧ s.barState 0 = 1 ∧ s.barSpaced 0 = true ∧ s.reg (ctxA 0 0x1C) < 2 ^ 32 - 1 ∧
     genCycle (s.bar 0).done (s.barGen 0) = some 0 ∧ s.rbit (ctxA 0 0) 30 = false ∧ 0 + 64 ≤ s.cycle) ∧
    (let s := tBar true { done := [(1, 0)], first := [(1, 0)], ringAt := some 0 }
     s.sync.waiters = [] ∧ s.sync.reached = [] ∧ (∀ o ∈ s.releaseObjs 0, s.watchers o = []) ∧ s.barState 0 = 1 ∧ s.barSpaced 0 = true ∧ s.reg (ctxA 0 0x1C) < 2 ^ 32 - 1 ∧
     (s.bar 0).ringAt = some 0 ∧ 0 ≤ s.timeNs) ∧
    (let s := tBar false { first := [(1, 0)] }
     genCycle (s.bar 0).first (s.barIncomplete 0) = some 0 ∧ s.barState 0 = 1 ∧ s.reg (ctxA 0 0x10) ≠ 0 ∧
     0 + s.reg (ctxA 0 0x10) < s.cycle ∧ s.fld (ctxA 0 0) 23 20 = 1 ∧ s.rbit (fnA 1 0x20) 1 = false) := by decide +kernel

/-- A job record of two tiles on cluster 0 and slot 0, and the words of a window that hold it. -/
def tJobRec (bal : Nat) : List Byte := tBytes 64 [(0, [5]), (4, [BitVec.ofNat 8 bal]), (8, [2]), (0xC, [BitVec.ofNat 8 bal]), (0xD, [1]),
  (0x12, [1]), (0x18, [0, 1]), (0x1C, [1]), (0x20, [9, 0, 0, 0x80]), (0x30, [0, 0, 2]), (0x38, [1])]

/-- The job of that record. -/
def tJob (bal : Nat) : Job := { num := 1, stamp := 0, home := 0, window := 1, tenant := 1, data := tJobRec bal }

/-- Window 1 of cluster 0 holds the first 15 words of the record. -/
def tWin (r : List Byte) (s : State) : State := s.setRegWords (clA 0 0 (winOff 1)) 15 (leNat r % 2 ^ 480)

theorem test_witness_JobsAreCheckedDistributedAndEnded :
    (let s := tWin (tJobRec 0) (tOwn State.reset)
     winWriter 0 1 (hubId 7) = true ∧ s.claim 0 = none ∧ s.consentBar (hubId 7) (clA 0 0 (winOff 1 + 60)) = false ∧
     natLe 64 (s.regWords (clA 0 0 (winOff 1)) 15 + 2 ^ 480 * (0 : Word).toNat) = tJobRec 0 ∧ s.jobErrs 0 1 (tJobRec 0) = []) ∧
    (let s := tOwn State.reset
     s.jobErrs 0 1 (natLe 64 (s.regWords (clA 0 0 (winOff 1)) 15 + 2 ^ 480 * (0 : Word).toNat)) = [2, 3, 4, 5] ∧
     s.rbit (clA 0 0 0x304) 31 = false) ∧
    (let s := { State.reset.setClaim 0 (some (tMc, 0)) with cycle := 110000 }
     s.claim 0 = some (tMc, 0) ∧ 0 + 110000 ≤ s.cycle ∧ s.rbit (clA 0 0 0x304) 31 = false) ∧
    (let s := { tOwn State.reset with job := { jobs := [tJob 0] } }
     oldestJob (s.job.jobs.filter (fun j => s.jobRuns j && j.hasTiles 0 0)) = some (tJob 0) ∧ (tJob 0).bal = false ∧
     (tJob 0).staticTile 0 0 = some 0 ∧ s.queued 0 0 = some 0) ∧
    (let s := { tOwn State.reset with job := { jobs := [tJob 1] } }
     oldestJob (s.job.jobs.filter (fun j => s.jobRuns j && j.bal && !j.failed && j.clus.contains 0 &&
        decide (j.next < j.tiles) && !j.claimed.any (·.1 == 0) && (s.balSlot j 0).isSome)) = some (tJob 1)) ∧
    (let j := { tJob 0 with pushed := 2, ended := 2, ok := 2 }
     let s := { tOwn State.reset with job := { jobs := [j] } }
     oldestJob (s.job.jobs.filter (fun j => j.home == 0 && j.over)) = some j ∧ j.tenant ≠ 0) := by decide +kernel

/-- The log of two segments with the NAND area of one extent; `d` says that records are being dropped. -/
def tLog (d : Bool) : State := tRegs [(hubA 0x400, 3)] { State.reset with
  log := { regions := [0x10000000000, 0x10000200000], nandExtents := 1, seg := 1, dropping := d } }

theorem test_witness_LogRecordsGapsAndReplay : (tLog false).logOn = true ∧ (tLog false).log.nextSample ≤ (tLog false).timeNs ∧
    (tLog false).log.dropping = false ∧ (tLog true).logOn = true ∧ (tLog true).log.dropping = true ∧
    (tLog false).log.regions.length ≤ (tLog false).log.seg + 1 ∧ (tLog false).logNand = true ∧ (tLog false).log.staged = [] ∧
    (tLog false).log.copied < (tLog false).log.seg + 2 - (tLog false).log.regions.length ∧ isMgmt tMc = true ∧
    State.reset.consentBar tMc (hubA 0x404) = false ∧ State.reset.reg64 (paceA 0 0x18) = 0 ∧ (1 : Nat) < 2 ^ 64 ∧
    (tRegs [(paceA 7 0x18, 3)] State.reset).reg64 (paceA 7 0x18) ≠ 0 := by decide +kernel

theorem test_witness_LogRecordsGapsAndReplay_copy : (tLog false).memRead hubDmaId 0x10000000000 segBytes =
    (tLog false, some ((tLog false).visRead ((tLog false).phys 0x10000000000) segBytes)) :=
  memRead_clean rfl (by decide) (by decide)

/-! ## KV pages and serving (07, 08) -/

/-- Tenant 1's SQ 0 on port 0 holds one command with the given bytes. -/
def tHost (b : List Byte) (s : State) : State := tRegs [(pciA 0 4, 2 ^ 30), (sqA 1 0 0, 0x1000), (sqA 1 0 8, 4), (sqA 1 0 0x10, 2 ^ 28)]
  (({ tOwn s with host := { s.host with sqTail := [(64, 1)] } }).hostWrite 0 0x1000 b)

theorem test_witness_ServingCommandsAndLaneBoundaries_inbox : (tabGet [] State.reset.serve.inbox 0).length < 1024 ∧
    (∀ op ∈ [0, 1, 2, 3], let s := tHost [BitVec.ofNat 8 (0x40 + op)] State.reset
      ((s.fetch 0 (· == 0x40 + op)).2.map (fun c => c.headOk && decide ((tabGet [] s.serve.inbox c.tenant).length < 1024))) = some true) := by
  decide

/-- A lane of tenant 1's model 2; `j` is the job of its step. -/
def tLane (j : Nat) : Lane := { desc := tBytes 64 [], job := j, last := 0 }

theorem test_witness_ServingCommandsAndLaneBoundaries_lanes :
    (let s := tRegs [(rqtA 0, 1)] { (State.reset.setLane 1 2 (some { tLane 3 with doneAt := 1 })) with timeNs := 100000 }
     s.lane 1 2 = some { tLane 3 with doneAt := 1 } ∧ s.rbit (rqtA 0) 0 = true ∧ s.stepOver { tLane 3 with doneAt := 1 } = true ∧
     s.stepOver (tLane 3) = false ∧ (tLane 3).job ≠ 0 ∧ (tLane 0).job = 0 ∧
     (tLane 0).last + max 100 (s.fld (rqtA 0) 31 16) * 1000 ≤ s.timeNs ∧
     State.reset.timeNs < (tLane 0).last + max 100 (State.reset.fld (rqtA 0) 31 16) * 1000) ∧
    isMgmt tMc = true ∧ State.reset.consentBar tMc (rqtT 1 8) = false ∧ State.reset.liveOf 1 = [] ∧
    (let s := (State.reset.setReq 5 (some {})).setEntry 5 (ReqEntry.ofBytes (tBytes 64 [(1, [1])]))
     s.liveOf 1 ≠ []) := by decide +kernel

theorem test_witness_DraftsAreAcceptedAndTheCapAdapts :
    (let l : Lane := { desc := tBytes 64 [(0x16, [4, 1, 3])] }
     let e := { ReqEntry.ofBytes (zeros 64) with cap := 4 }
     l.d 0x17 1 ≤ l.d 0x16 1 ∧ l.d 0x17 1 ≤ e.cap ∧ e.cap ≤ l.d 0x16 1 ∧ 3 ≤ e.cap ∧ 2 ≤ 3 ∧ (e.adapt l 3 2).cap = 3) := by decide +kernel

/-- R231: of drafts 7 and 9 behind choices 7 and 8, one is accepted. -/
theorem test_draft_run : draftRun (tBytes 0x80 [(4, [7, 0, 0, 0, 8]), (0x44, [7, 0, 0, 0, 9])]) 2 2 = 1 ∧
    commitTokens [3] 5 [1, 2, 3, 4] = ([1, 2, 3], true) ∧ commitTokens [3] 2 [1, 2, 3, 4] = ([1, 2], false) := by decide +kernel

/-- Page 0 of tenant 1 lies in HBM, one KV head of 32 elements in FP8; `st` is its state. -/
def tPage (st : Nat) (s : State) : State := tRegs [(rqtT 1 0x18, 4), (rqtT 1 0x28, 4), (rqtT 1 0x1C, 0x2000), (kvpA 0, 0x402)]
  (s.rawWrite 0 ({ PageMeta.ofBytes (zeros 32) with
    addr := 0x400000, state := st, fmtV := 4, fmtK := 4, refs := 1, tenant := 1, hkv := 1, d := 32 : PageMeta }).toBytes)

/-- A move of page 0 to LPDDR5X in progress. -/
def tMove : State := tPage 1 (let s := State.reset.setLane 1 2 (some (tLane 0))
  { s with serve := { s.serve with moves := [⟨1, 2, 0, 0, 1, true⟩] } })

theorem test_witness_PageMovesSummariesAndLookups :
    (let s := State.reset.setLane 1 2 (some { tLane 0 with summDone := false, summ := [0] })
     s.lane 1 2 = some { tLane 0 with summDone := false, summ := [0] }) ∧
    (tMove.serve.moves = [⟨1, 2, 0, 0, 1, true⟩] ∧ tMove.serve.reqs = [] ∧ (tMove.page 1 0).addr = 0x400000 ∧ tMove.readPages 1 [0] = tMove ∧
     (tMove.page 1 0).map.bytes = 4096 ∧ tMove.lane 1 2 = some (tLane 0)) ∧
    (let s := tPage 2 (State.reset.setLane 1 2 (some { tLane 0 with walk := [0] }))
     s.lane 1 2 = some { tLane 0 with walk := [0] } ∧ (s.page 1 0).state = 2 ∧ bit (s.page 1 0).flags 2 = false ∧
     s.readPages 1 [0] = s ∧ s.rbit (kvpA 0) 1 = true ∧ s.fetching < max 1 (s.fld (kvpA 0) 15 8) ∧ s.reg (kvpT 1 0x14) < s.slotsFree 1 false ∧
     (List.range (s.slotCount 1 false)).find? (fun i => !(s.slots 1 false).contains i) = some 0) ∧
    (let s := tRegs [(kvpA 0, 0x102)] { State.reset with serve := { moves := [⟨1, 2, 3, 0, 1, false⟩] } }
     max 1 (s.fld (kvpA 0) 15 8) ≤ s.fetching) ∧
    (let s := { State.reset with serve := { looks := [4, 5], reqs := [(4, some { look := 2 }), (5, some { look := 1 })] } }
     (s.serve.looks.filter (fun i => (s.req i).look == 2)).length < 8 ∧ s.serve.looks.find? (fun i => (s.req i).look == 1) = some 5 ∧
     s.serve.looks.Nodup ∧ (s.serve.looks.filter (fun i => (s.req i).look == 2))[0]? = some 4 ∧
     (s.lookupGo (s.entry 4) ((s.entry 4).committed / 64 + 1) 0 (lovRoot (s.entry 4).tenant (s.entry 4).model) hole []).1.serve = s.serve) := by
  decide

theorem test_witness_PageMovesSummariesAndLookups_copy : tMove.memRead kvpId 0x400000 4096 =
    (tMove, some (tMove.visRead (tMove.phys 0x400000) 4096)) := memRead_clean (by decide) (by decide) (by decide)

/-! ## Camera streams and video coding (09) -/

/-- A decode descriptor of tenant 1: H.264, 16 × 16, one view, port 1024, payload type 96; `fl` are its flags. -/
def tDd (fl : Nat) : List Byte := tBytes 128 [(0, [1, 0, BitVec.ofNat 8 fl, 1, 16, 0, 16, 0, 1, 0, 0, 4, 96]), (0x20, [100]), (0x24, [100]), (0x31, [0x20]),
  (0x3A, [1]), (0x42, [2]), (0x48, [1])]

/-- A view descriptor: the whole picture to 16 × 16 bytes. -/
def tView : List Byte := tBytes 64 [(4, [16, 0, 16]), (0xC, [16, 0, 16, 0, 2, 0xB]), (0x14, [32]), (0x1A, [3])]

/-- Decode context 3 with that descriptor at STATE `st`, FP0 enabled with its link up, as tenant 1's. -/
def tDec (st fl : Nat) (x : DecCtx) : State := tRegs [(fptA 0, 1), (fptA 4, 1), (vidA 0, 1), (vdecA 3 4, st * 2 ^ 28)]
  (((tOwn State.reset).setRegWords (vdecA 3 0x100) 32 (leNat (tDd fl))).setDctx 3 x)

/-- A datagram of context 3: an RTP packet of payload type 96. -/
def tUdp : UdpIn := { src := [], dport := 1024, payload := [0x80, 96, 0, 9, 0, 0, 0, 5, 0, 0, 0, 0, 0x41], frameLen := 60, vlan := none, fragment := false, fcsBad := false }

theorem test_witness_DatagramsFormAccessUnits_packet : let s := tDec 2 0 {}
    s.log.replay = none ∧ s.rbit (fptA 0) 0 = true ∧ s.rbit (fptA 4) 0 = true ∧ tUdp.frameLen ≤ 9216 ∧
    s.rbit (fptA 0) 1 = false ∧ s.dopens = [3] ∧ (tDec 0 0 {}).dopens = [] ∧ s.dport 3 = tUdp.dport ∧ bit (s.dd 3 2 1) 3 = false ∧
    s.dten 3 ≠ 0 ∧ rtpParse tUdp.payload = some (false, 96, 9, 5, [0x41]) ∧ 96 = s.dd 3 0xC 1 ∧ packOk (s.dd 3 1 1) [0x41] = true ∧
    s.dctx 3 = {} := by decide +kernel

theorem test_witness_DatagramsFormAccessUnits_frames : (tUdp.fcsBad = false ∧ tUdp.fragment = false) ∧
    { tUdp with fcsBad := true }.fcsBad = true ∧ { tUdp with fragment := true }.fragment = true := by decide +kernel

theorem test_witness_DatagramsFormAccessUnits_close : let a : AuOpen := { ts := 5, first := 0, cyc := 0, cnt := 0, pkts := [(65545, false, [0x41])] }
    let s := { tDec 2 0 { assem := [a] } with timeNs := 100001 }
    s.dopen 3 = true ∧ (s.dctx 3).assem = [a] ∧ s.auDeadline 3 a < s.inputTime 3 ∧ (s.dctx 3).queue.length + (s.dctx 3).wait.length < 8 ∧
    a.marker = none := by decide +kernel

/-- Start-up step 1 has ended. -/
def tUp (s : State) : State := { s with start := { s.start with held := false, dark := false, ended := [1] } }

theorem test_witness_DatagramsFormAccessUnits_link : (tUp State.reset).linksReady = true ∧ (tUp State.reset).start.recovery = false ∧
    (tRegs [(fptA 0x1000, 1)] (tUp State.reset)).rbit (fptA (0x1000 * 1)) 0 = true ∧
    (tRegs [(fptA 0, 1)] (tUp State.reset)).rbit (fptA (0x1000 * 0)) 0 = true ∧
    (let s := tRegs [(fptA 0, 1), (fptA 4, 1)] { State.reset with video := { ip4 := 7, ip6 := 7 } }
     (7 : Nat) ≠ 0 ∧ 7 = s.video.ip4 ∧ 7 = s.video.ip6 ∧ s.rbit (fptA 0) 0 = true ∧ s.rbit (fptA 4) 0 = true) ∧
    (let g := tBytes 16 [(10, [0xFF, 0xFF, 239, 1, 2, 3])]
     let s := tDec 4 4 { rtsp := { step := 5, joined := true, group := some (g, 1024) } }
     s.dopens = [3] ∧ (s.dctx 3).rtsp.joined = true ∧ (s.dctx 3).rtsp.group = some (g, 1024) ∧ isIp4 g = true ∧
     s.rbit (fptA 0) 0 = true ∧ s.rbit (fptA 4) 0 = true) ∧
    (tUdp.vlan ≠ some ((tRegs [(fptA 0, 3), (fptA 4, 1)] State.reset).fld (fptA 0) 27 16) ∧
      (tRegs [(fptA 0, 3), (fptA 4, 1)] State.reset).rbit (fptA 0) 1 = true) := by decide +kernel

/-- A server's response of a status, with a video section and Digest offered. -/
def tReply (st : Nat) (g : Option (List Byte × Nat)) : RtspReply :=
  { status := st, sha256 := true, md5 := false, basic := false, media := true, params := [], getParam := false, timeout := none, group := g }

theorem test_witness_RtspSessionAndReports : (tDec 2 0 {}).dopen 3 = true ∧
    (let s := { tDec 2 0 {} with timeNs := 5000000000 }
     (s.dctx 3).rtcpAt + 5000000000 ≤ s.timeNs ∧ (s.dctx 3).silent = false ∧ bit (s.dd 3 2 1) 2 = false ∧
     (s.dctx 3).heard + s.dd 3 0x24 4 * 1000000 ≤ s.timeNs) ∧
    (∀ st ∈ [1, 2, 3, 4, 5], ((tDec 1 4 { rtsp := { step := st } }).dctx 3).rtsp.step = st ∧ st ≠ 0 ∧ (tDec 1 4 { rtsp := { step := st } }).dopen 3 = true) ∧
    (tReply 200 none).status < 400 ∧ 400 ≤ (tReply 404 none).status ∧ (tReply 404 none).status ≠ 401 ∧ (tReply 200 none).media = true ∧
    { tReply 200 none with media := false }.media = false ∧ (tReply 200 none).group.or (none : Option (List Byte × Nat)) = none ∧
    (tReply 200 (some ([], 8))).group.or (none : Option (List Byte × Nat)) = some ([], 8) ∧
    ((tReply 401 none).status = 401 ∧ (let s := tDec 1 4 { rtsp := { step := 2 } }
     (s.dctx 3).rtsp.auth = 0 ∧ s.rtspAuth 3 (tReply 401 none) ≠ 0)) ∧
    ((tDec 1 4 { rtsp := { step := 5 } }).dctx 3).rtsp.keepAt ≤ (tDec 1 4 { rtsp := { step := 5 } }).timeNs ∧
    (tDec 3 4 {}).dstate 3 = 3 ∧ ((tDec 3 4 {}).dctx 3).rtsp.retryAt ≤ (tDec 3 4 {}).timeNs ∧
    (let s := { tDec 4 4 { rtsp := { step := 5 } } with timeNs := 5000000000 }
     bit (s.dd 3 2 1) 2 = true ∧ (s.dctx 3).rtsp.step = 5 ∧ (s.dctx 3).heard + s.dd 3 0x24 4 * 1000000 ≤ s.timeNs) := by decide +kernel

/-- R255: the back-off doubles up to 64 s. -/
theorem test_rtsp_backoff : ((tRun (.rtspSessionLost 3) (tDec 1 4 { rtsp := { step := 5, backoff := 64 } })).dctx 3).rtsp.backoff = 64 ∧
    ((tRun (.rtspSessionLost 3) (tDec 1 4 { rtsp := { step := 5 } })).dctx 3).rtsp.backoff = 2 := by decide +kernel

/-- An encode descriptor of tenant 1: memory to memory, 64 × 64. -/
def tEd : List Byte := tBytes 128 [(0, [1, 1, 4]), (4, [64, 0, 64, 0, 1, 0, 1]), (0x10, [0xA0, 0x86, 1, 0, 0, 8]), (0x1A, [3]), (0x20, [1]), (0x24, [64]),
  (0x32, [4]), (0x39, [0x10])]

/-- Encode context 2 with that descriptor at STATE `st`; `fl` are its flags. -/
def tEnc (st fl : Nat) (x : EncCtx) : State := tRegs [(vidA 0, 1), (vencA 2 4, st * 2 ^ 28)]
  (((tOwn State.reset).setRegWords (vencA 2 0x100) 32 (leNat (tEd.set 2 (BitVec.ofNat 8 fl)))).setEctx 2 x)

theorem test_witness_CodecContextsOpenAndClose : isMgmt tMc = true ∧ (tDec 0 0 {}).consentBar tMc (vdecA 3 0) = false ∧
    (let s := (tDec 0 0 {}).rawWrite 0x10000 tView
     s.dstate 3 = 0 ∧ s.decErrs 3 = [] ∧
     (let v := ((s.resetRegs (vdecA 3 0x10) (vdecA 3 0x60)).setFld (vdecA 3 8) 7 0 0).setReg (vdecA 3 4) 0
      v.unitRead (codecId 0) (v.dd 3 0x38 6) (64 * (v.viewsOf (v.ddesc 3)).length) = v)) ∧
    (State.reset.dstate 3 = 0 ∧ State.reset.decErrs 3 = [1, 2]) ∧ (tDec 2 0 {}).dstate 3 ≠ 0 ∧
    ((tDec 2 0 { closing := true }).dctx 3).closing = true ∧
    (tDec 2 0 { closing := true }).codecSignals ((tDec 2 0 {}).doutObj 3) = false ∧
    (let s := tDec 2 0 { closing := true }
     ({ s with sync := { inflight := [⟨s.doutObj 3, 1, codecId 0, false, 0⟩] } }.codecSignals (s.doutObj 3) = true)) ∧
    ((tEnc 2 4 { closing := true }).ectx 2).closing = true ∧ (tEnc 2 4 { closing := true }).streamSignals true 2 = false ∧ (tEnc 0 4 {}).consentBar tMc (vencA 2 0) = false ∧
    ((tEnc 0 4 {}).fld (vencA 2 4) 31 28 = 0 ∧ (tEnc 0 4 {}).encErrs 2 = []) ∧
    (State.reset.fld (vencA 2 4) 31 28 = 0 ∧ State.reset.encErrs 2 = [1, 2]) ∧ (tEnc 2 4 {}).fld (vencA 2 4) 31 28 ≠ 0 := by decide +kernel

/-- Access unit 0's picture. -/
def tPic : Picture := { au := 0, ts := 5, closed := 0, cyc := 0, cnt := 0, hist := 1, w := 16, h := 16, depth := 8, loc := 0, full := false, bt2020 := false, grain := false, rap := true, rasl := false, refs := [], decoded := some 0 }

/-- A context whose head record names that picture. -/
def tRecCtx : DecCtx := { pics := [tPic], jobs := [⟨0, some ⟨0, 0, false⟩⟩], views := [tView], wait := [0] }

theorem test_witness_PicturesAreDecodedRecordedAndCoded_parse : ∀ dmg ∈ [true, false], let a : AuClosed := ⟨1, 5, 0, 0, 0, [[0x41]], dmg⟩
    (tDec 2 0 { queue := [a] }).dopen 3 = true ∧ ((tDec 2 0 { queue := [a] }).dctx 3).queue = [a] ∧
    a.num ∉ ((tDec 2 0 { queue := [a] }).dctx 3).wait := by decide +kernel

theorem test_witness_PicturesAreDecodedRecordedAndCoded_decode :
    (let s := tDec 2 0 tRecCtx
     s.rbit (vidA 0) 0 = true ∧ s.video.decoder = [] ∧ s.sorrel.fenced = [] ∧ s.dopens = [3] ∧ (s.dctx 3).wait.head? = some 0 ∧
     (s.dctx 3).pics.find? (fun q => q.au == 0) = some tPic ∧ s.settle 3 = s ∧ s.video.pre = [] ∧
     s.jobReady 3 = some (⟨0, some ⟨0, 0, false⟩⟩, 0) ∧ s.slotHeld 3 ((s.dctx 3).seq + 1) = false) ∧
    (let u := (tRegs [(vdecA 3 0x150, 2 ^ 31)] (tDec 2 0 tRecCtx)).setDctx 3 { tRecCtx with seq := 1 }
     u.settle 3 = u ∧ u.dopens = [3] ∧ u.slotHeld 3 ((u.dctx 3).seq + 1) = true ∧
     u.jobReady 3 = some (⟨0, some ⟨0, 0, false⟩⟩, 0)) ∧
    (let s := { tDec 2 0 tRecCtx with video := { (tDec 2 0 tRecCtx).video with decoder := [(1, some (3, 0))] } }
     tabGet none s.video.decoder 1 = some (3, 0) ∧ (s.dctx 3).pics.find? (fun q => q.au == 0) = some tPic) := by decide +kernel

/-- A pre-processor at work on that record. -/
def tPre (v : Nat) : PreRun := { ctx := 3, job := ⟨0, some ⟨0, 0, false⟩⟩, seq := 1, view := v }

/-- The state with it. -/
def tPreSt (v : Nat) : State := { tDec 2 0 tRecCtx with video := { (tDec 2 0 tRecCtx).video with pre := [(1, some (tPre v))] } }

theorem test_witness_PicturesAreDecodedRecordedAndCoded_record :
    (∀ v ∈ [0, 1], tabGet none (tPreSt v).video.pre 1 = some (tPre v) ∧ (tPreSt v).jobPic 3 (tPre v).job = some tPic) ∧
    ((tPreSt 0).dctx 3).views[(tPre 0).view]? = some tView ∧ ((tPreSt 1).dctx 3).views.length ≤ (tPre 1).view ∧
    (let s := tPreSt 1
     let w := (s.memWrite (codecId 1) (s.dd 3 0x40 6 + 64 * (1 % max 1 (s.dd 3 0x48 4))) (recordBytes (tPre 1) (s.jobPic 3 (tPre 1).job))).1
     w = { s with mem := w.mem }) := by decide +kernel

theorem test_witness_PicturesAreDecodedRecordedAndCoded :
    (∀ src ∈ [some [1], none], let s := tEnc 2 0 { placed := [(0, src)] }
     s.rbit (vidA 0) 0 = true ∧ s.video.encoder = [] ∧ s.sorrel.fenced = [] ∧ (List.range 64).filter s.eopen = [2] ∧
     (s.ectx 2).coding = none ∧ (s.ectx 2).placed = [(0, src)]) ∧
    (let s := tEnc 2 16 { coding := some (0, [1]) }
     let s := { s with video := { s.video with encoder := [(0, some 2)] } }
     tabGet none s.video.encoder 0 = some 2 ∧ (s.ectx 2).coding = some (0, [1]) ∧ s.eflag 2 2 = false ∧ s.eflag 2 3 = false ∧
     s.eflag 2 4 = true) := by decide +kernel

theorem test_witness_PicturesAreDecodedRecordedAndCoded_source :
    (let v := tEnc 2 0 {}
     let r := v.readSource (codecId 4) 2 0
     r.1 = v ∧ r.2.isSome) := by decide +kernel

/-! ## Phase, events, process port (10) -/

/-- Thyme enabled on source `sel` with LOCK `lock`, CPC 4, COUNT and CYCLE as given. -/
def tThy (sel lock cnt cyc : Nat) (x : ThymeState) : State := tRegs [(thyA 0, 0x10 + sel), (thyA 4, 4), (thyA 0x14, 1), (thyA 0x18, lock * 2 ^ 28),
  (thyA 0x20, cnt), (thyA 0x24, cyc)] { tOwn State.reset with thy := x }

theorem test_witness_PhaseStepsCarryAndBorrow : (∀ c ∈ [0, 2, 3], let s := tThy 2 2 c 9 { a := false }
    s.log.replay = none ∧ s.reg (thyA 0x20) < s.thyCpc ∧ s.thyOn = true ∧ s.thySel = 2 ∧ s.thyLock ≠ 4 ∧ s.thy.a = false ∧ s.filtered 0 = true) ∧
    (let s := tThy 2 2 3 9 { a := false }
     s.thyPhase.2.1 + 1 = s.thyCpc ∧ true ≠ s.rbit (thyA 0) 6) ∧ (tThy 2 2 0 9 { a := false }).thyPhase.2.1 = 0 ∧
    (tThy 2 2 2 9 { a := false }).thyPhase.2.1 + 1 < (tThy 2 2 2 9 { a := false }).thyCpc := by decide +kernel

theorem test_witness_PhaseCountsAndIndexEdges : (let s := tThy 2 2 3 9 { a := false }
      s.thyOn = true ∧ s.thyLock = 2 ∧ s.thySel = 2 ∧ s.thy.a = false ∧ true ≠ s.rbit (thyA 0) 6 ∧ false = s.rbit (thyA 0) 6) ∧
    (let s := tThy 1 2 3 9 {}
     s.thyOn = true ∧ s.thyLock = 2 ∧ s.thySel = 1 ∧ s.thy.quadErrs < 15 ∧ s.filtered 0 = true) ∧
    (let s := tRegs [(thyA 0x10, 5)] (tThy 1 2 3 9 { quadErrs := 15, quadCycle := 9 })
     s.thyOn = true ∧ s.thyLock = 2 ∧ s.thySel = 1 ∧ s.filtered 0 = true ∧ s.reg (thyA 0x10) ≠ 0 ∧ s.thy.quadCycle = s.reg (thyA 0x24) ∧
     15 ≤ s.thy.quadErrs) ∧
    (tRegs [(thyA 0, 0x10011)] (tThy 1 2 3 9 {})).filtered 0 = false ∧
    (∀ c ∈ [0, 1, 2], let s := tThy 1 2 c 9 {}
     s.fld (thyA 0) 5 4 = 1 ∧ s.rbit (thyA 0x18) 26 = false ∧ s.reg (thyA 0x20) < s.thyCpc) ∧
    (let s := ((tThy 3 2 1 9 {}).setReg64 (thyA 0x30) 0x41E0000000000000)
     s.thyOn = true ∧ s.thyLock = 2 ∧ s.thySel = 3 ∧ s.reg (thyA 0x20) + 1 < s.thyCpc ∧ 2 ^ 32 ≤ ({ s with cycle := 3 }).fracRaw) := by decide +kernel

/-- R283: a forward index edge at COUNT 2 of 4 takes the phase to the next cycle and records +2. -/
theorem test_index_edge_up : (let t := tRun (.zEdge 0) (tThy 1 2 2 9 {})
    t.reg (thyA 0x20) = 0 ∧ t.reg (thyA 0x24) = 10 ∧ t.reg (thyA 0x38) = 2 ∧ t.reg (thyA 0x44) = 1) := by decide +kernel

/-- R280, R281: from COUNT 0 of cycle 0 a count backward gives COUNT 3 of cycle 2^32 − 1. -/
theorem test_count_back : (let t := tRun (.phaseCountEdge true false false 0) (tThy 2 2 0 0 { a := false })
    t.reg (thyA 0x20) = 3 ∧ t.reg (thyA 0x24) = 2 ^ 32 - 1 ∧ t.rbit (thyA 0x18) 26 = true) := by decide +kernel

theorem test_witness_PhaseLossSourcesAndSync : ({ tRegs [(thyA 0x10, 1)] (tThy 1 2 0 0 {}) with cycle := 1100 }).wdogDue = true ∧
    (tRegs [(flowA 3 0, 0x300)] State.reset).flowBound 3 = true ∧ State.reset.flowForced 3 = false ∧ State.reset.flowBound 3 = false ∧
    isMgmt tMc = true ∧ (tThy 1 2 0 0 {}).consentBar tMc (thyA 0) = false ∧ (tThy 1 2 0 0 {}).log.replay = none ∧
    bits (0x102 : Word).toNat 2 0 < 6 ∧ bits (0x102 : Word).toNat 2 0 ≠ (tThy 1 2 0 0 {}).thySel ∧
    (let s := tRegs [(fptA 0x1004, 1)] (tThy 4 1 0 0 { stepped := true, syncRun := 15 })
     s.rbit (fptA 0x1004) 0 = true ∧ s.ringTime = false ∧ s.thySel = 4 ∧ s.thyOn = true ∧ s.thy.stepped = true) := by decide +kernel

/-- R287, R300: a phase that is lost forces the PHASE_BOUND flow; R286: the sixteenth good Sync locks. -/
theorem test_loss_and_lock : (let s := { tRegs [(thyA 0x10, 1), (flowA 3 0, 0x300)] (tThy 1 2 0 0 {}) with cycle := 1100 }
      let t := tRun .phaseLoss s
      t.thyLock = 4 ∧ t.flowForced 3 = true ∧ t.flowReason 3 = 2 ∧ t.fp1.queue.length = 1) ∧
    (let s := tRegs [(fptA 0x1004, 1)] (tThy 4 1 0 0 { stepped := true, syncRun := 15 })
     (tRun (.asSyncMessage 99 0) s).fld (thyA 0x18) 31 28 = 2 ∧ (tRun (.asSyncMessage 100 0) s).fld (thyA 0x18) 31 28 = 1) := by decide +kernel

/-- An enabled entry of tenant 1 of a kind, at cycle 1 count 0. -/
def tEv (kind : Nat) (e : ThyEvent) : ThyEvent := { e with ctrl := 2 ^ 31 + kind * 2 ^ 27 + 2 ^ 23, matchCycle := 1 }

/-- Thyme at cycle 2 with that entry at index 7. -/
def tEvS (kind : Nat) (e : ThyEvent) (s : State) : State := tRegs [(thyA 0, 2), (thyA 4, 4), (thyA 0x14, 1), (thyA 0x18, 2 ^ 29), (thyA 0x24, 2)]
  { s with thy := { events := [(7, tEv kind e)] } }

theorem test_witness_EventsFireInOrder : (let s := tEvS 0 { obj := 2 ^ 31 + 5, step := 3 } (tOwn State.reset)
      s.thyOn = true ∧ s.log.replay = none ∧ s.thyFirst = some 7 ∧ s.evtOwn (s.evt 7) = true ∧ (s.evt 7).kind = 0 ∧ (s.evt 7).tenant ≠ 0) ∧
    (let s := tEvS 0 { obj := 2 ^ 31 + 0x2000 } (tOwn State.reset)
     s.thyOn = true ∧ s.thyFirst = some 7 ∧ s.evtOwn (s.evt 7) = false ∧ (s.evt 7).kind = 0) ∧
    (let s := tEvS 4 { arg := 1 } (tRegs [(dilA 0, 2 ^ 31)] State.reset)
     s.thyFirst = some 7 ∧ s.evtOwn (s.evt 7) = true ∧ (s.evt 7).kind = 4 ∧ s.rbit (dilA 0) 31 = true ∧ s.rbit (dilA 0) 29 = false ∧
     bit (s.evt 7).arg 31 = false) ∧
    (let m : Arm := { ticket := 9, kind := 1, point := 0 }
     let s := tEvS 5 { arg := 9 } (tRegs [(updA 0, 4 * 2 ^ 28)] { State.reset with upd := { State.reset.upd with arm := some m } })
     s.thyFirst = some 7 ∧ s.evtOwn (s.evt 7) = true ∧ (s.evt 7).kind = 5 ∧ s.upd.arm = some m ∧ m.kind = 1 ∧ m.ticket = (s.evt 7).arg ∧ s.updState = 4 ∧
     s.upd.stagedKind ≠ 1) := by decide +kernel

theorem test_witness_EventsFireInOrder_ingest : (let s := tEvS 1 {} ((tDec 2 2 { out := [⟨0, 0, false⟩, ⟨1, 0, false⟩] }).setRegWords (vdecA 3 0x100) 32
        (leNat ((tDd 2).set 0xE 7)))
      s.thyFirst = some 7 ∧ s.evtOwn (s.evt 7) = true ∧ (s.evt 7).kind = 1 ∧ s.dopens.filter (fun c => bit (s.dd c 2 1) 1 && s.dd c 0xE 2 == 7) = [3] ∧
      (s.dctx 3).windows = []) := by decide +kernel

theorem test_witness_EventsFireInOrder_window : (let s := tDec 2 2 { windows := [5], out := [⟨0, 0, false⟩, ⟨1, 0, false⟩] }
      let s := { s with timeNs := 6, video := { s.video with pre := (List.range 4).map (fun k => (k, some (tPre 0))) } }
      s.log.replay = none ∧ s.rbit (vidA 0) 0 = true ∧ s.dopens = [3] ∧ (∀ k < 4, (tabGet none s.video.pre k).isSome) ∧ (s.dctx 3).windows = [5] ∧
      5 < s.timeNs ∧ (s.dctx 3).assem = [] ∧ (s.dctx 3).feed = [] ∧ (s.dctx 3).queue = [] ∧ (s.dctx 3).pics = []) := by decide +kernel

/-- A frame of flow 3. -/
def tFr (result : Bool) : Fp1Frame := { flow := 3, k := 1, result := result, reason := 0, cyc := 1, cnt := 0, decided := 0, locked := true, payload := [1, 2], prov := [], tc := 2 }

theorem test_witness_EventsFireInOrder_flows : (∀ k ∈ [2, 3], let s := tEvS k { arg := 3 } (tRegs [(flowA 3 0, 0x101)]
        { State.reset with fp1 := { flows := [(3, { decided := some (tFr false) })] } })
      s.thyFirst = some 7 ∧ s.evtOwn (s.evt 7) = true ∧ (s.evt 7).kind = k ∧ s.flowEn ((s.evt 7).arg % 64) = true ∧ (s.evt 7).tenant ≠ 0 ∧
      (s.flow 3).decided = some (tFr false) ∧ (tFr false).flow = (s.evt 7).arg % 64) ∧
    (let s := tEvS 2 { arg := 3 } (tRegs [(flowA 3 0, 0x101), (flowCtl 3 4, 0xA0000000)] State.reset)
     s.thyFirst = some 7 ∧ s.evtOwn (s.evt 7) = true ∧ s.flowEn 3 = true ∧ s.flowForced 3 = true ∧ (s.flow 3).unforce = false) := by decide +kernel

/-- R289, R291: STEP 3 from cycle 1 count 0 to the phase of cycle 2 count 0, of 4 counts, skips one point; the next is count 2 of cycle 2. -/
theorem test_event_skips : (let t := tRun (.eventSignal 7) (tEvS 0 { obj := 2 ^ 31 + 5, step := 3 } (tOwn State.reset))
    t.evt 7 = { tEv 0 { obj := 2 ^ 31 + 5, step := 3 } with fired := 1, missed := 1, matchCycle := 2, matchCount := 2 } ∧
    t.sync.inflight = [⟨5, 1, thyId, false, 7⟩]) := by decide +kernel

theorem test_witness_FlowsAreWrittenForcedAndReleased : isMgmt tMc = true ∧ State.reset.consentBar tMc (thyA 0x100) = false ∧
    State.reset.consentBar tMc (thyA 0x104) = false ∧ bit (1 : Word).toNat 0 = true ∧ State.reset.consentBar tMc (flowA 3 (4 * 5)) = false ∧
    State.reset.flowEn 3 = false ∧ (tRegs [(flowA 3 0, 0x101)] State.reset).flowEn 3 = true ∧ bit (0x100 : Word).toNat 8 = true ∧
    bit (0 : Word).toNat 8 = false ∧ State.reset.consentBar tMc (flowCtl 3 0) = false ∧ State.reset.flowForced 3 = false ∧
    State.reset.log.replay = none ∧ (let s := tRegs [(flowA 3 0, 0x301), (thyA 0x18, 2 ^ 28)] State.reset
      s.flowBound 3 = true ∧ s.phaseGood = false) ∧
    (let s := tRegs [(flowA 3 0, 0x101), (flowCtl 3 4, 0xC0000000), (flowA 3 0x24, 5)] { State.reset with timeNs := 5000 }
     s.flowBound 3 = false ∧ s.sorrel.quietF = none ∧ s.flowForced 3 = true ∧ s.flowEn 3 = true ∧ s.flowF 3 0x24 4 ≠ 0 ∧
     (s.flow 3).lastFrame + s.flowF 3 0x24 4 * 1000 ≤ s.timeNs) := by decide +kernel

/-- FP1 up and enabled, with frames queued. -/
def tFp1 (q : List Fp1Frame) (c : Option (Fp1Frame × Nat)) : State := tRegs [(fptA 0x1000, 1), (fptA 0x1004, 1), (fptA 0x1400, 2 ^ 31 + 0xFFF0000 + 0x88B5)]
  { State.reset with fp1 := { queue := q, sending := c, newGcl := some (5, 1000, [(255, 1000)]) }, timeNs := 9 }

theorem test_witness_Fp1SendsAndReceives_fields : (let s := tFp1 [tFr true] (some (tFr true, 9))
      s.fp1.sending = some (tFr true, 9) ∧ (9 : Nat) ≤ s.timeNs ∧ s.fp1.newGcl = some (5, 1000, [(255, 1000)]) ∧ 5 ≤ s.timeNs) ∧
    ({ tFp1 [] none with timeNs := 4 }).timeNs < 5 ∧ isMgmt tMc = true ∧ State.reset.consentBar tMc (fptA 0x1030) = false ∧
    (let s := tFp1 [] none
     s.log.replay = none ∧ s.rbit (fptA 0x1000) 0 = true ∧ s.rbit (fptA 0x1004) 0 = true ∧ (List.range 16).filter (s.filterHit (zeros 60)) = [] ∧
     (List.range 16).filter (s.filterHit (tBytes 60 [(12, [0x88, 0xB5])])) = [0] ∧ s.logOn = false) := by decide +kernel

theorem test_witness_Fp1SendsAndReceives_start : (let s := tFp1 [tFr true] none
    s.fp1.sending = none ∧ s.rbit (fptA 0x1000) 0 = true ∧ s.rbit (fptA 0x1004) 0 = true ∧ s.fp1Next = some (tFr true)) := by decide +kernel

/-! ## Host ports, functions, tenants (11) -/

/-- Port 0 out of PERST_N with its link up at 32 GT/s, tenant 1 open on it with one HBM region. -/
def tPort (x : PortState) : State := tRegs [(pciA 0 4, 2 ^ 30 + 0x40500), (pciA 0 0, 6)]
  { tOwn State.reset with host := { ports := [(0, x)], released := true, mctp := true }
                          tenants := [(1, { state := .isOpen, clusters := 1, port := 0, kind := 1, func := 1, hbm := [1], taken := 1 })] }

theorem test_witness_PortLinksAndResets : (let s := tUp (tPort { perst := false, downAt := some 0 })
    s.linksReady = true ∧ s.start.recovery = false ∧ s.host.bifAB = false ∧
    s.portActive 0 = true ∧ (s.port 0).perst = false ∧ (∀ v ∈ [3, 4, 6], v ≤ s.fld (pciA 0 0) 2 0) ∧ s.host.resetPending = false ∧
    s.rbit (pciA 0 4) 30 = true ∧ (s.port 0).downAt = some 0 ∧ 0 + 10000000 ≤ ({ s with timeNs := 10000000 }).timeNs ∧
    s.rbit (pciA 0 0) 7 = false ∧ (s.tenant 1).port = 0 ∧ (s.tenant 1).state = .isOpen ∧ (s.tenant 1).kind = 1) := by decide +kernel

/-- Tenant 2 of port 1 is to hold cluster 5; its entry is in the registers. -/
def tEntry : State := tRegs [(tenA 2 0, 0x0180 + 1), (tenA 2 4, 32)] { tOwn State.reset with host := { bifAB := true } }

theorem test_witness_TenantsOpenCloseAndAreScrubbed : isMgmt tMc = true ∧ tEntry.consentBar tMc (tenA 2 0) = false ∧
    tEntry.activateErr 2 false = 0 ∧ tEntry.activateErr 1 false = 6 ∧ tEntry.activateErr 0 false = 5 ∧ State.reset.activateErr 2 false ≠ 0 ∧
    (tEntry.tenant 2).state = .closed ∧ (tEntry.tenant 1).state = .isOpen ∧
    (let s := { State.reset with tenants := [(1, { state := .scrubbing, trigger := 5 })] }
     (s.tenant 1).state = .scrubbing ∧ s.timeNs < (s.tenant 1).trigger + 400000000 ∧
     (s.tenant 1).trigger + 400000000 ≤ ({ s with timeNs := 400000005 }).timeNs ∧ s.rbit (tenA 1 0) 29 = false) ∧
    (let s := tRegs [(modA 0x100, 0x10001)] State.reset
     (0 : Nat) < stagingRegion ∧ regionTier 0 < 8 ∧ regionTier 196608 = 8 ∧ s.rbit (modA 0x100) 16 = true ∧ s.rbit (modA 0x100) (regionTier 0) = true ∧
     s.stackFenced (regionTier 0) = false ∧ (s.region 0).state = .dirty ∧ (∀ w < 16, (s.tenant w).state ≠ .opening)) ∧
    ((tPort {}).tenant 1).state = .isOpen ∧ ((tPort {}).tdi 1).isLocked = false ∧ (tPort {}).onPort 0 1 = true ∧ ((tPort {}).tenant 1).port < 4 ∧
    (let s := (tPort {}).setTdi 1 { state := .run }
     (s.tenant 1).state = .isOpen ∧ (s.tdi 1).isLocked = true ∧ tabGet 0 s.host.config (cfgKey 0 1 6) ≠ 7) := by decide +kernel

/-- SQ 2 and CQ 2 of tenant 1 with 4 entries, head 1, tail 2. -/
def tQueues : State := tRegs [(sqA 1 2 8, 4), (sqA 1 2 0x10, 2 ^ 28 + 1), (sqA 1 2 0xC, 0x20000), (cqA 1 2 0, 0x4000), (cqA 1 2 8, 4), (cqA 1 2 0x10, 0x5000), (cqA 1 2 0x18, 2 ^ 28)]
  { tPort {} with host := { sqTail := [(66, 2)], cqTail := [(66, 2)], cqHead := [(66, 1)] } }

/-- A NOP of SQ 2 that has its result. -/
def tDone : HostCmd := { num := 9, tenant := 1, sq := 2, data := zeros 128, head := 2, result := some (0, 0, 0) }

theorem test_witness_QueuesDoorbellsAndCompletions : State.reset.devBytes 1 < 0 + 4 ∧ (State.reset.tenant 1).state ≠ .isOpen ∧
    (tQueues.tenant 1).state = .isOpen ∧ (tQueues.tenant 1).port = 0 ∧ 0 + 4 ≤ tQueues.devBytes 1 ∧ 0 + 4 ≤ tQueues.bar2Bytes 1 ∧
    tQueues.devAddr 1 0 = some 0 ∧ tQueues.devBytes 1 < 0x1FFFFE + 4 ∧
    (let s := tQueues
     let d := fun t => (t + 4 - s.fld (sqA 1 2 0x10) 15 0 % 4) % 4
     s.fld (sqA 1 2 0x10) 31 28 = 1 ∧ s.fld (sqA 1 2 8) 12 0 = 4 ∧ bits (0 : Word).toNat 11 0 < 4 ∧
     d (tabGet 0 s.host.sqTail (qKey 1 2)) ≤ d 0 ∧ d 1 < d (tabGet 0 s.host.sqTail (qKey 1 2))) ∧
    (let s := tQueues
     let d := fun t => (t + 4 - tabGet 0 s.host.cqHead (qKey 1 2) % 4) % 4
     s.fld (cqA 1 2 0x18) 31 28 = 1 ∧ s.fld (cqA 1 2 8) 12 0 = 4 ∧ d 2 ≤ d (tabGet 0 s.host.cqTail (qKey 1 2)) ∧
     d (tabGet 0 s.host.cqTail (qKey 1 2)) < d 3) ∧
    (let s := { tQueues with host := { tQueues.host with cmds := [tDone] } }
     (s.inflightOf 1)[0]? = some tDone ∧ tDone.result = some (0, 0, 0) ∧ (s.inflightOf 1).find? (·.num == tDone.num) = some tDone ∧
     s.fld (sqA 1 tDone.sq 0xC) 21 16 = 2 ∧ s.fld (cqA 1 2 0x18) 31 28 = 1 ∧ s.cqRoom 1 2 = true ∧ s.host.held = []) ∧
    (let s := { tQueues with host := { tQueues.host with held := [(1, 2, zeros 32)] } }
     s.host.held.find? (fun h => h.1 == 1 && s.fld (cqA 1 h.2.1 0x18) 31 28 == 1 && s.cqRoom 1 h.2.1) = some (1, 2, zeros 32)) := by decide +kernel

theorem test_witness_QueuesDoorbellsAndCompletions_bar2 : tQueues.memRead (mkId 7 0 1 0) 0 4 = (tQueues, some (tQueues.visRead (tQueues.phys 0) 4)) :=
  memRead_clean rfl (by decide) (by decide)

theorem test_witness_QueuesDoorbellsAndCompletions_bar2_write : (tQueues.memWrite (mkId 7 0 1 0) 0 [1, 2]).2 = true := by decide +kernel

/-- R317, R321: the doorbell moves the tail, a value beyond the size breaks the queue; the NOP's completion is posted at entry 2. -/
theorem test_doorbell_and_completion : tabGet 0 (tRun (.sqDoorbell 1 2 0) tQueues).host.sqTail 66 = 0 ∧
    (tRun (.sqDoorbell 1 2 4) tQueues).fld (sqA 1 2 0x10) 31 28 = 2 ∧
    (let t := tRun (.hostCommandComplete 1 0) { tQueues with host := { tQueues.host with cmds := [tDone] } }
     tabGet 0 t.host.cqTail 66 = 3 ∧ t.host.cmds = [] ∧ t.hostRead 0 0x5000 1 = [3] ∧ t.hostRead 0 0x4044 1 = [0x10]) := by decide +kernel

/-- An image of tenant 1: 8 bytes of code, one entry, no template. -/
def tImg : List Byte := tBytes 344 [(0, [0x59, 0x50, 0x49, 0x31, 0, 1]), (8, [2]), (0x10, [0x58, 1]), (0x20, [0xCD, 0x54, 0x99, 0x86, 0x1D, 0xE6, 0x3D, 0x88, 0x48, 0x83, 0x3A, 0x2F, 0xE0, 0x78, 0x56, 0x11, 0x23, 0x3D, 0xDF, 0xB4, 0x98, 0x1F, 0x98, 0x6C, 0x76, 0x6B, 0x16, 0x7A, 0x6A, 0x12, 0x27, 0x5F]),
  (0x60, [1, 0, 8]), (0x70, [1]), (256, [1]), (264, [0x40, 1]), (272, [8]), (288, [4]), (296, [0x48, 1]), (304, [16])]

/-- A host command of tenant 1 with an opcode and payload bytes. -/
def tHc (op : Byte) (l : List (Nat × List Byte)) : State := let s := tHost (tBytes 128 ((0, [op]) :: l)) State.reset
  { s with tenants := [(1, { state := .isOpen, clusters := 1, port := 0, kind := 1, func := 1, hbm := [1], taken := 1 })] }

/-- The image lies at device address 0. -/
def tLoad : State := (tHc 0x10 [(0x48, [0x58, 1])]).rawWrite 0 tImg

theorem test_witness_HostCommandsRun_fetch : ∀ s ∈ [tHc 0 [], tLoad, tHc 0x11 [(0x40, [5])], tHc 0x30 [(0x50, [4])]],
    s.fetchNext 0 = some (1, 0) ∧ ({ num := 1, tenant := 1, sq := 0, data := s.sqHeadCmd 1 0, head := 1 : HostCmd }).headOk = true := by
  decide +kernel

theorem test_witness_HostCommandsRun_load : tLoad.inPartition 1 0 344 = true ∧ tLoad.imgCheck 1 tImg = none ∧
    tLoad.imgPlace 1 (((imgLayout (imgTable tImg) 0).2 + 65535) / 65536 * 65536) (fieldLe tImg 0x68 4) false = some 0x2FF0000 ∧
    tLoad.freeHandle = some 1 ∧ tLoad.imgCheck 1 (tImg.set 0 0) = some 0x41 ∧ (tHc 0x10 [(0x48, [1]), (0x42, [0x20])]).inPartition 1 0x200000 1 = false := by
  decide +kernel

set_option maxRecDepth 100000 in
theorem test_witness_HostCommandsRun_bytes : tLoad.memRead hubDmaId 0 344 = (tLoad, some (tLoad.visRead (tLoad.phys 0) 344)) ∧
    tLoad.visRead (tLoad.phys 0) 344 = tImg := ⟨memRead_clean rfl (by decide) (by decide), by decide +kernel⟩

theorem test_witness_HostCommandsRun_rest : (let s := tHc 0x11 [(0x40, [5])]
      (s.imagesOf 1).any (·.handle == 5) = true ∧ s.imgInUse 1 5 = false ∧ (s.imagesOf 1).any (·.handle == 6) = false) ∧
    (let s := (tHc 0x20 ((List.range 64).map (fun i => (0x40 + i, [(tJobRec 0).getD i 0]))))
     s.fetchNext 0 = some (1, 0) ∧ let b := s.sqHeadCmd 1 0
       fieldLe b 0 1 = 0x20 ∧ cluList (fieldLe (slice b 0x40 64) 0x1C 4) = [0] ∧ bit (s.tenant 1).clusters 0 = true ∧
       bit (fieldLe b 1 1) 1 = false ∧ s.jobErrs 0 1 (slice b 0x40 64) = []) ∧
    (let s := tHc 0x31 [(0x50, [4])]
     s.devBytes 1 = 0x200000 ∧ (s.devRead hubDmaId 1 0 4).2 = some (zeros 4) ∧ 0x200000 < 0x1FFFFE + (4 : Nat)) ∧
    (let s := tHc 0x50 []
     s.inPartition 1 0 128 = true ∧ (s.memRead hubDmaId 0 128).2 = some (zeros 128) ∧ s.dstate 0 = 0 ∧ fieldLe (zeros 128) 0 1 ≠ 1) ∧
    (let s := (tHc 0x50 []).rawWrite 0 (tBytes 128 [(0, [1])])
     (s.memRead hubDmaId 0 128).2 = some (tBytes 128 [(0, [1])]) ∧ fieldLe (tBytes 128 [(0, [1])]) 0 1 = 1) ∧
    (tDec 2 0 {}).dstate 3 ≠ 0 ∧ (tDec 2 0 {}).dten 3 = 1 ∧ (tDec 2 0 {}).dten 3 ≠ 2 := by decide +kernel

/-! ## Sage (12) -/

/-- Port 0's endpoint is up; session 3 on it, open or not; tenant 1 open on the port, its TDI as given. -/
def tSage (o : Bool) (d : Tdi) : State := let s := tRegs [(pciA 0 4, 2 ^ 30 + 2 ^ 29)] { tPort { perst := false } with sage := { sessions := [{ port := 0, id := 3, open_ := o }], tdi := [(1, d)] } }
  { s with host := { s.host with mctp := true } }

theorem test_witness_SpdmRequestsAndSessions : (tSage true {}).mctpUp 0 = true ∧ (tSage true {}).sage.identityBad = false ∧
    (∃ m, (tSage true {}).measurement 8 = some m) ∧ (∃ m, (tSage true {}).measurement 1 = some m) ∧
    (let s := { State.reset with sage := { chunksOut := [(0, [1])] } }
     tabGet [] s.sage.chunksOut 0 = [1] ∧ [(1 : Byte)] ≠ []) ∧
    ((tSage true {}).sage.sessions.filter (fun x : Session => x.port == 0)).length < 4 ∧
    4 ≤ (({ tSage true {} with sage := { sessions := List.replicate 4 { port := 0, id := 3 } } }).sage.sessions.filter (fun x : Session => x.port == 0)).length ∧
    (tSage true {}).session 0 3 = some { port := 0, id := 3, open_ := true } ∧ (tSage false {}).session 0 3 = some { port := 0, id := 3 } ∧
    (0 : Nat) + 180000000000 ≤ ({ tSage true {} with timeNs := 180000000000 }).timeNs ∧ (tSage true {}).timeNs < 0 + 180000000000 ∧
    (tabGet [] (tSage true {}).sage.chunksIn 0 ++ zeros 4).length ≤ 65536 ∧ 4096 < (zeros 4097).length ∧
    (tSage true {}).sessionFor { port := 0, id := 3, open_ := true } 1 = true ∧ (tSage true {}).sessionFor { port := 0, id := 3, open_ := true } 2 = false ∧
    (let d : Tdi := { state := .locked, session := some (0, 3) }
     ((tSage true d).tdi 1).isLocked = true ∧ (tSage true d).sessionFor { port := 0, id := 3, open_ := true } 1 = true) ∧
    (zeros 2592).length = 2592 ∧
    ((tSage true {}).tdi 1).isLocked = false :=
  ⟨by decide +kernel, by decide, ⟨_, rfl⟩, ⟨_, rfl⟩, by decide +kernel, by decide, by decide, by decide, by decide, by decide, by decide, by decide, by decide +kernel, by decide, by decide, by decide, by decide +kernel, by decide⟩

theorem test_witness_TdispAndIdeMessages : (tSage true {}).mctpUp 0 = true ∧ (tSage true {}).sage.identityBad = false ∧
    (tSage true {}).session 0 3 = some { port := 0, id := 3, open_ := true } ∧ (tSage true {}).onPort 0 1 = true ∧
    ((tSage true {}).tdi 1).state = .unlocked ∧ ((tSage true {}).tenant 1).state = .isOpen ∧ ((tSage true { state := .run }).tdi 1).isLocked = true ∧
    (let s := tSage true { state := .locked }
     let s := { s with sage := { s.sage with ide := [{ port := 0, id := 9, tenant := 1, keys := [(16, [])], enabled := some 1 }] } }
     (s.tdi 1).state = .locked ∧ s.ideOn 1 = true ∧ s.ideStream 0 9 = some { port := 0, id := 9, tenant := 1, keys := [(16, [])], enabled := some 1 } ∧
     [(16, ([] : List Byte))].any (fun e => e.1 / 16 == 1) = true) ∧ (tSage true { state := .locked }).ideOn 1 = false ∧
    (zeros 44).all (· == 0) = true ∧ ([1] : List Byte).all (· == 0) = false ∧ (tSage true {}).rbit (pciA 0 4) 29 = true ∧
    (tPort {}).rbit (pciA 0 4) 29 = false ∧
    (let s := tSage true {}
     let s := { s with sage := { s.sage with ide := (List.range 8).map (fun i => { port := 0, id := i, tenant := 2 }) } }
     s.ideStream 0 8 = none ∧ 8 ≤ (s.sage.ide.filter (fun y => y.port == 0)).length ∧
     s.ideStream 0 7 = some { port := 0, id := 7, tenant := 2 }) ∧ (tSage true {}).ideStream 0 9 = none ∧
    ((tSage true {}).sage.ide.filter (fun y => y.port == 0)).length < 8 := by decide +kernel

/-- A rotation of tenant 1 with region 0 under the old key, its sweep at `p`. -/
def tRot (p : Nat) : State := tRegs [(sgeT 1 4, 2 ^ 31 + 2 ^ 30), (sgeT 1 8, 1)] { State.reset with
  mem := { State.reset.mem with regions := [(0, { state := .assigned, owner := 1, sweep := p })] } }

theorem test_witness_RotationSweepAndKeys : isMgmt tMc = true ∧ (tPort {}).consentBar tMc (sgeT 1 0) = false ∧
    ((tPort {}).tenant 1).state = .isOpen ∧ (tPort {}).rbit (sgeT 1 4) 31 = false ∧ (tPort {}).sage.entropyBad = false ∧
    (State.reset.tenant 1).state ≠ .isOpen ∧ (tRot 0).rbit (sgeT 1 4) 31 = true ∧ (tRot 0).badWords 0 2 = [] ∧ (tRot 0).stackFenced 0 = false ∧
    (∀ p ∈ [0, 0x1FFFC0], (tRot p).sweepRegion 1 0 = some (0, { state := .assigned, owner := 1, sweep := p })) ∧ (0x1FFFC0 : Nat) + 64 = 0x200000 ∧
    (let s := tRegs [(sgeT 1 4, 2 ^ 31)] State.reset
     s.rbit (sgeT 1 4) 31 = true ∧ s.reg (sgeT 1 8) = 0 ∧ s.reg (sgeT 1 0xC) = 0) ∧ (tRot 0).reg (sgeT 1 8) ≠ 0 ∧
    State.reset.sage.leaseStoredAt + 600000000000 ≤ ({ State.reset with timeNs := 600000000000 }).timeNs ∧
    State.reset.timeNs < State.reset.sage.leaseStoredAt + 600000000000 := by decide +kernel

/-- A crate record of this module with zeros for its keys. -/
def tCrate : List Byte := ascii "YCK1" ++ [1, 0, 0, 0] ++ natLe 8 serialNo ++ zeros 8995

/-- The broker list knows the key of zeros. -/
def tBroker : State := (tSage true {}).setRegWords (sgeA 0x4000) 12
  0x639150908e2245fa10489fc73d98014f8c48c85cc43372d5efb27dadc4427ba65c3a60501c97ee634a521d2958a95f62

theorem serialNo_lt : serialNo < 2 ^ 64 := Nat.mod_lt _ (by decide)

theorem fieldLe_serial (h l : List Byte) (e : h.length = 8) : fieldLe (h ++ natLe 8 serialNo ++ l) 8 8 = serialNo := by
  rw [Sys2Proof.Machine.fieldLe, show slice (h ++ natLe 8 serialNo ++ l) 8 8 = natLe 8 serialNo by simp [slice, e, zeros], leNat_natLe]
  exact Nat.mod_eq_of_lt (Nat.lt_of_lt_of_eq serialNo_lt (by decide))

theorem test_witness_CratesConsentsAndNonces_crates : fieldLe tCrate 8 8 = serialNo := fieldLe_serial _ _ rfl

theorem test_witness_CratesConsentsAndNonces_form : crateForm tCrate = true ∧ crateForm (tCrate.set 0 0) = false := by decide +kernel

/-- FIPS 202: SHA3-384 of 2,592 zero bytes. -/
theorem test_sha3_384 : sha3_384 (zeros 2592) = natLe 48
    0x639150908e2245fa10489fc73d98014f8c48c85cc43372d5efb27dadc4427ba65c3a60501c97ee634a521d2958a95f62 := by decide +kernel

theorem test_witness_CratesConsentsAndNonces_broker : tBroker.brokerKnown (slice tCrate 0x700 2592) = true ∧
    (tSage true {}).brokerKnown (slice tCrate 0x700 2592) = false := by
  rw [show slice tCrate 0x700 2592 = zeros 2592 by decide +kernel]
  unfold State.brokerKnown
  rw [test_sha3_384]
  decide +kernel

theorem test_witness_CratesConsentsAndNonces_slot : fieldLe tCrate 0x30 8 ≤ fieldLe tCrate 0x38 8 + 34560000 ∧ tBroker.crateOf (slice tCrate 0x10 16) = none ∧
    (List.range 16).find? (fun i => (tabGet none tBroker.sage.crates i).isNone) = some 0 := by decide +kernel

theorem test_witness_CratesConsentsAndNonces_late :
    (let r := tBytes 9011 [(0x34, [1])]
     fieldLe r 0x38 8 + 34560000 < fieldLe r 0x30 8) ∧
    (let s := { tBroker with sage := { tBroker.sage with crates := [(3, some { key := [], owner := [] })] } }
     s.crateOf (slice tCrate 0x10 16) = some (3, { key := [], owner := [] }) ∧ fieldLe tCrate 0x38 8 ≤ s.reg64 (crateA 3 0x18)) ∧
    (let s := { tBroker with sage := { tBroker.sage with crates := (List.range 16).map (fun i => (i, some { key := [], owner := [] })) } }
     let s := (List.range 16).foldl (fun s i => s.setReg (crateA i 0) 1) s
     s.crateOf (slice tCrate 0x10 16) = none ∧ (List.range 16).find? (fun i => (tabGet none s.sage.crates i).isNone) = none) := by decide +kernel

theorem test_witness_CratesConsentsAndNonces_serial : ∃ r : List Byte, fieldLe r 8 8 ≠ serialNo := by
  rcases Nat.eq_zero_or_pos serialNo with h | h
  · exact ⟨tBytes 16 [(8, [1])], by rw [h]; decide⟩
  · exact ⟨[], by have : fieldLe [] 8 8 = 0 := by decide +kernel
                  omega⟩

/-- Tenant 1 is open with the consent key of zeros, a nonce of zeros is valid, and hub memory holds a token for it. -/
def tToken : State :=
  let b := (tPort {}).setRegWords (sgeT 1 0x20) 12
    0x639150908e2245fa10489fc73d98014f8c48c85cc43372d5efb27dadc4427ba65c3a60501c97ee634a521d2958a95f62;
  { b.setReg64 (sgeA 0x28) hubBase with
    sage := { nonces := [(zeros 32, 0)] }
    mem := { b.mem with cells := (List.range 8).map (fun i => (hubBase + i, (ascii "YCN1" ++ [1, 0, 1, 0]).getD i 0)) ++
      (List.range 8).map (fun i => (hubBase + 8 + i, (natLe 8 serialNo).getD i 0)) ++ [(hubBase + 0x10, 1), (hubBase + 0x20, 1)] } }

/-- What Sage reads of clean hub memory. -/
theorem tHubBytes {s : State} (h : s.mem.ecc = []) (hc : (s.accessCheck (hubId 2) 0 hubBase 7315).2 = true) :
    s.unitBytes (hubId 2) hubBase 7315 = s.rawRead hubBase 7315 := by
  rw [State.unitBytes, memRead_clean h hc rfl]
  rfl

theorem tToken_bytes : tToken.unitBytes (hubId 2) hubBase 7315 = tToken.rawRead hubBase 7315 := tHubBytes rfl (by decide +kernel)

theorem tToken_serial : fieldLe (tToken.unitBytes (hubId 2) hubBase 7315) 8 8 = serialNo := by
  rw [tToken_bytes]
  have h : tToken.rawRead (hubBase + 8) 8 = natLe 8 serialNo := rfl
  rw [Sys2Proof.Machine.fieldLe, slice_rawRead _ _ _ _ _ (by decide), h, leNat_natLe]
  exact Nat.mod_eq_of_lt (Nat.lt_of_lt_of_eq serialNo_lt (by decide))

theorem test_witness_CratesConsentsAndNonces_token : isMgmt tMc = true ∧ tToken.consentBar tMc (sgeA 0x20) = false ∧
    tToken.reg64 (sgeA 0x28) % 2 ^ 48 = hubBase ∧ (List.range 16).find? (fun i => (tToken.consent i).isNone) = some 0 ∧
    ({ tToken with sage := {} }).nonceOk (zeros 32) = false := by decide +kernel

theorem test_witness_CratesConsentsAndNonces_fields : let b := tToken.unitBytes (hubId 2) hubBase 7315
    tToken.nonceOk (slice b 0x28 32) = true ∧ fieldLe b 0x10 1 = 1 ∧ tToken.regWords (sgeT 1 0x20) 12 ≠ 0 ∧ tokenForm b = true ∧
    fieldLe b 0x18 8 ≤ tToken.lease ∧ tToken.lease < fieldLe b 0x20 8 ∧ fieldLe b 0x20 8 ≤ fieldLe b 0x18 8 + 604800 ∧
    (tToken.tenant 1).state = .isOpen ∧ fieldLe b 6 2 ≠ 0 := by
  rw [tToken_bytes]
  decide +kernel

theorem test_witness_CratesConsentsAndNonces_key : natLe 48 (tToken.regWords (sgeT 1 0x20) 12) =
    sha3_384 (slice (tToken.unitBytes (hubId 2) hubBase 7315) 0x60 2592) := by
  rw [tToken_bytes, show slice (tToken.rawRead hubBase 7315) 0x60 2592 = zeros 2592 by decide +kernel, test_sha3_384]
  decide +kernel

theorem test_witness_CratesConsentsAndNonces_others : (∃ s : State, s.reg64 (sgeA 0x28) % 2 ^ 48 = hubBase ∧ fieldLe (s.unitBytes (hubId 2) hubBase 7315) 8 8 ≠ serialNo) ∧
    (let s := { State.reset with sage := { consents := [(2, some { tenant := 1, scope := 1, clusters := 1, notAfter := 0, digest := [] })], nonces := [(zeros 32, 0)] } }
     s.consent 2 = some { tenant := 1, scope := 1, clusters := 1, notAfter := 0, digest := [] } ∧ 0 ≤ s.lease ∧ s.lease < 1 ∧ s.sage.nonces = [(zeros 32, 0)] ∧
     0 + 600000000000 ≤ ({ s with timeNs := 600000000000 }).timeNs ∧ s.timeNs < 0 + 600000000000) := by
  refine ⟨?_, by decide⟩
  rcases Nat.eq_zero_or_pos serialNo with h | h
  · exact ⟨(State.reset.setReg64 (sgeA 0x28) hubBase).rawWrite (hubBase + 8) [1], by decide +kernel, by
      rw [h, tHubBytes rfl (by decide +kernel)]
      decide +kernel⟩
  · refine ⟨State.reset.setReg64 (sgeA 0x28) hubBase, by decide +kernel, ?_⟩
    rw [tHubBytes rfl (by decide +kernel)]
    have : fieldLe ((State.reset.setReg64 (sgeA 0x28) hubBase).rawRead hubBase 7315) 8 8 = 0 := by decide +kernel
    omega

/-- A load in progress with the given header; its one block has no stored bytes. -/
def tWl (h : List Byte) : WLoad := { cmd := some 1, tenant := 1, header := h, index := zeros 16, kind := 0, src := 0, size := 0, devOff := 0, key := [], leaseEnd := 0 }

theorem test_witness_WeightPackagesLoadByBlocks_commands : ∀ s ∈ [tHc 0x18 [], tHc 0x18 [(0x54, [1])], { tHc 0x18 [] with sage := { loads := List.replicate 16 (tWl []) } }, tHc 0x18 [(0x40, [1])],
      { tHc 0x18 [(0x40, [1]), (0x44, [7])] with sage := { weights := [{ handle := 7, tenant := 1, header := [], leaseEnd := 0, devOff := 0 }] } }],
    s.fetchNext 0 = some (1, 0) ∧ fieldLe (s.sqHeadCmd 1 0) 0 1 = 0x18 ∧
    (let c : HostCmd := { num := s.host.nextNum, tenant := 1, sq := 0, data := s.sqHeadCmd 1 0, head := 1 }
     c.headOk = true ∧ (c.p 0 1 = 0 → c.p 1 1 ≤ 1 ∧ c.zero 0x42 6 = true ∧ c.zero 0x60 32 = true) ∧
     (c.p 0 1 = 1 → c.zero 0x41 3 = true ∧ c.zero 0x46 58 = true)) := by decide +kernel

theorem test_witness_WeightPackagesLoadByBlocks_checks : (tHc 0x18 []).pkgIn 1 0 0 0 = true ∧ (tHc 0x18 []).pkgIn 1 0 0 0x200001 = false ∧
    (tHc 0x18 []).sage.weights = [] ∧
    (let s := { State.reset with sage := { loads := [tWl (zeros 512)] } }
     s.sage.loads[0]? = some (tWl (zeros 512)) ∧ s.wVersionsOk (zeros 512) = true ∧ s.wDebugOk (zeros 512) 1 = true ∧
     s.wVersionsOk (tBytes 512 [(0xA8, [1])]) = false) ∧
    (let s := { State.reset with sage := { consents := [(2, some { tenant := 1, scope := 1, clusters := 1, notAfter := 0, digest := [] })] } }
     s.wDebugOk (zeros 512) 1 = false) ∧
    (wBlocks (zeros 512) ≠ 1 ∧ wBlocks (tBytes 512 [(0xC, [1])]) = 1) := by decide +kernel

theorem test_witness_WeightPackagesLoadByBlocks_read : State.reset.pkgRead 1 0 0 0 0 [] = (State.reset, some []) := rfl

/-! ## Start-up, settings, update (13) -/

/-- A configuration of one empty section. -/
def tCfg : List Byte := tBytes 272 [(0, [0x59, 0x53, 0x43, 0x31, 1, 0, 1]), (8, [0x10, 1]), (0x100, [5])]

/-- Start-up with some steps ended and a configuration copy 0. -/
def tStart (ended : List Nat) (r : List (Nat × Nat)) : State := tRegs r { State.reset with
  start := { ended := ended }
  upd := { copies := [(0, tCfg)], sums := [(0, [0x84, 0xA3, 0x95, 0xFB, 0xA6, 0x6A, 0x1C, 0xA4, 0xFB, 0xD1, 0xBB, 0x61, 0x91, 0x82, 0x69, 0xE0, 0x08, 0x7A, 0xB9, 0x34, 0x43, 0x15, 0x1C, 0x89, 0x82, 0xD6, 0x6D, 0x65, 0x1F, 0x62, 0x90, 0x1E, 0x03, 0x74, 0xAE, 0x87, 0x5B, 0xE4, 0xA8, 0xD9, 0x1F, 0x53, 0xFD, 0xA2, 0x20, 0xDB, 0x82, 0xEF])] } }

theorem test_witness_StartUpRunsItsSteps_release : (let s := { State.reset with start := { held := true } }
      s.start.held = true ∧ s.start.dark = false ∧ s.perstHolds = false ∧ s.nvs.defaults = false) ∧
    (let c : NvsCopy := ⟨3, []⟩
     let s := { State.reset with start := { held := true }, nvs := { copy1 := some c } }
     s.perstHolds = false ∧ s.nvs.newest = some (1, c)) := by decide +kernel

theorem test_witness_StartUpRunsItsSteps_one : (∀ b ∈ [0x300, 4, 0x80000400, 5, 0x80000003], let s := tStart [] [(updA 8, b)]
      s.starting = true ∧ s.stepDone? 1 = false) ∧
    (tStart [] [(updA 8, 4)]).bankState 0 = 4 ∧ (tStart [] [(updA 8, 3)]).bankState 0 = 3 ∧ (tStart [] [(updA 8, 0x80000004)]).bankState 1 ≠ 4 ∧
    (tStart [] [(updA 8, 0x80000004)]).activeBank = 1 ∧ (tStart [] [(updA 8, 0x80000004)]).bankState 0 = 4 := by decide +kernel

theorem test_witness_StartUpRunsItsSteps_two : let s := tStart [1] []
    s.starting = true ∧ s.stepDone? 1 = true ∧ s.rbit (modA 0x100) 3 = false ∧ s.stackFenced 3 = false ∧ s.rbit (modA 0x100) 16 = false ∧
    s.rbit (modA 0x200) 16 = false ∧ s.stepDone? 3 = false := by decide +kernel

theorem test_witness_StartUpRunsItsSteps_three : (tStart [1] []).cfgCopy 0 true = some tCfg ∧ (tStart [1] []).cfgCopy 0 false = none ∧
    (tStart [1] []).cfgCopy 1 true = none ∧ (tStart [1] [(updA 8, 0x10000)]).fld (updA 8) 16 16 = 1 ∧ (tStart [1] []).fld (updA 8) 16 16 = 0 := by decide +kernel

theorem test_witness_StartUpRunsItsSteps_four : (let s := tStart [1, 3] [(modA 0x100, 0x200FF), (tenA 0 0, 0xF00), (tenA 0 4, 1)]
      s.starting = true ∧ s.stepDone? 3 = true ∧ s.hbmSettled = true ∧ s.rbit (modA 0x100) 17 = true ∧ s.start.stage = 0 ∧ s.rbit (modA 0x200) 16 = false ∧
      s.activateErr 0 true = 0) ∧
    (tStart [1, 3] [(modA 0x100, 0x200FF), (tenA 0 0, 0x100)]).activateErr 0 true ≠ 0 ∧
    (tStart [1, 3] [(rngA 0, 0)]).stepDone? 5 = false ∧ (tStart [1, 3] [(rngA 0, 0)]).rbit (rngA 0) 31 = false ∧
    (let s := tStart [1, 3] [(rngA 0, 2 ^ 31), (nvsA 0x10, 0x10001)]
     s.stepDone? 6 = false ∧ s.rbit (rngA 0) 31 = true ∧ s.cycle < s.start.step3At + s.fld (nvsA 0x10) 15 0 * cyclesPerSecond ∧
     s.start.step3At + s.fld (nvsA 0x10) 31 16 * cyclesPerSecond ≤ ({ s with cycle := cyclesPerSecond }).cycle) ∧
    (let s := tStart [1, 2, 3, 4, 5, 6] []
     s.stepDone? 4 = true ∧ s.stepDone? 5 = true ∧ s.stepDone? 6 = true ∧ s.stepDone? 7 = false ∧ (s.tenant 0).state ≠ .opening) := by decide +kernel

theorem test_witness_TrialBanksResetsAndStores_trial : (let s := tRegs [(updA 8, 3)] { State.reset with upd := { trialFrom := some 0 } }
      s.starting = true ∧ s.onTrial = true ∧ s.stepDone? 3 = false ∧ s.cycle < 30 * cyclesPerSecond ∧ s.upd.trialFrom = some 0 ∧
      s.cycle < 0 + 600 * cyclesPerSecond ∧ 30 * cyclesPerSecond ≤ ({ s with cycle := 600 * cyclesPerSecond }).cycle ∧
      (∀ i < 7, (s.upd.active.getD i {}).svn < 2 ^ 32)) ∧
    isMgmtFn tMf = true ∧ isMgmtFn tMc = false ∧ State.reset.start.held = false ∧ State.reset.start.dark = false ∧ State.reset.flowForced 3 = false := by
  decide

theorem test_witness_TrialBanksResetsAndStores_stores : isMgmt tMc = true ∧ State.reset.consentBar tMc (nvsA 0) = false ∧ State.reset.nvs.storing = none ∧
    (∀ u < 16, (State.reset.tdi u).isLocked = false) ∧
    ({ State.reset with nvs := { storing := some [] } }).nvs.storing = some [] ∧
    (let s := { State.reset with start := { ended := [1] }, cycle := 3600 * cyclesPerSecond }
     s.fwRuns = true ∧ s.nvs.lastSnap + s.reg (nvsA 0x14) * cyclesPerSecond ≤ s.cycle) ∧ State.reset.fwRuns = false := by decide +kernel

/-- Ring, settings: STORE writes copy 0 with SEQ 1 first, then copy 1 with SEQ 2 (R370). -/
theorem test_store_alternates : (let s := { State.reset with nvs := { storing := some [] } }
    let t := tRun (.nvsStoreDone true) s
    let u := tRun (.nvsStoreDone true) { t with nvs := { t.nvs with storing := some [] } }
    t.nvs.copy0 = some ⟨1, []⟩ ∧ u.nvs.copy1 = some ⟨2, []⟩ ∧ u.reg (nvsA 8) = 2) := by decide +kernel

/-- Port 0's endpoint up, UPD_STATE.STATE as given. -/
def tUpd (st : Nat) (u : UpdState) : State := let s := tRegs [(pciA 0 4, 2 ^ 30), (updA 0, st * 2 ^ 28)] { tPort {} with upd := u }
  { s with host := { s.host with mctp := true } }

/-- The header of a prefix of one unit for one block, without the rest of the unit; a package key. -/
def tPkg : UpdState := { key := [1], units := [(0, tBytes 32 [(0xC, [1]), (0x10, [1])])] }

theorem test_witness_UpdatesStageArmAndSwitch_package : (∀ st ∈ [0, 1, 2, 3, 4, 5], (tUpd st tPkg).updUp 0 = true ∧ (tUpd st tPkg).updState = st) ∧
    (List.replicate 65536 (0 : Byte)).length = 65536 ∧ tPkg.key ≠ [] ∧ pkUnits (tUpd 1 tPkg).pkPrefix = 1 ∧ pkBlocks (tUpd 1 tPkg).pkPrefix = 1 ∧
    tabGet [] tPkg.units 1 = [] ∧ pkKind (tUpd 1 tPkg).pkPrefix = 0 ∧
    tabGet [] ({ tPkg with units := tPkg.units ++ [(1, [1])] } : UpdState).units 1 ≠ [] := by
  refine ⟨by decide +kernel, List.length_replicate, by decide, by decide, by decide, by decide, by decide, by decide⟩

theorem test_witness_UpdatesStageArmAndSwitch_arm : (let m : Arm := { kind := 0, ticket := 7, point := 100000000 }
      let s := tUpd 4 { arm := some m }
      s.updState = 4 ∧ s.armReached = false ∧ s.upd.arm = some m ∧ m.kind = 0 ∧ s.timeNs < m.point ∧
      ({ s with timeNs := 100000000 }).armReached = true ∧ m.point ≤ ({ s with timeNs := 100000000 }).timeNs ∧ s.upd.stagedKind ≠ 1 ∧
      (tUpd 4 { arm := some m, stagedKind := 1 }).upd.stagedKind = 1 ∧ s.start.held = false ∧ s.start.dark = false) ∧
    (99999999#64).toNat < (tUpd 3 {}).timeNs + 100000000 ∧ (tUpd 3 {}).timeNs + 100000000 ≤ (100000000#64).toNat := by decide +kernel

theorem test_witness_UpdatesStageArmAndSwitch_switch : (∀ l ∈ [[5], [5, 3]], let s := { tUpd 5 { todo := l } with cycle := 10 * cyclesPerSecond + 1 }
      s.updState = 5 ∧ s.upd.todo.head? = some 5 ∧ s.maySwitch 5 = true ∧ s.switchLimit 5 = some (10 * cyclesPerSecond) ∧
      s.upd.since + 10 * cyclesPerSecond < s.cycle ∧ State.reset.cycle ≤ s.upd.since + 10 * cyclesPerSecond) := by decide +kernel

/-! ## Sorrel and Dill (14) -/

/-- Sources of the three classes: 0x01 C, 0x08 U, 0x0A F, presented by tenant 1's slot 0; the held slots as given. -/
def tErr (src held : Nat) : State := tRegs [(srlB 0xC0, held)] { tOwn State.reset with
  sorrel := { presented := [(0, ⟨src, 0, tX.id 0, 0, cluBase 0 0, 0, 0xFFFF⟩)] } }

theorem test_witness_ErrorsAreClassifiedAndCaptured : (∀ h ∈ [(0x01, 0, 0), (0x01, 1, 0), (0x01, 3, 0), (0x08, 0, 1), (0x08, 2, 1), (0x0A, 0, 2), (0x0A, 4, 2)],
      let s := tErr h.1 h.2.1
      firstErr s.sorrel.presented = some (0, ⟨h.1, 0, tX.id 0, 0, cluBase 0 0, 0, 0xFFFF⟩) ∧ 0 ≤ s.cycle ∧ s.sorrel.lastClass ≠ some s.cycle ∧
      sourceClass h.1 = some h.2.2 ∧ (s.errHeld 0 = bit h.2.1 0 ∧ s.errHeld 1 = bit h.2.1 1 ∧ s.errHeld 2 = bit h.2.1 2)) ∧
    unitOk ((tErr 0x0A 0).errUnit ⟨0x0A, 0, tX.id 0, 0, cluBase 0 0, 0, 0xFFFF⟩) = true ∧
    (tErr 0x0A 0).forcesFlow 0x3000 (tX.id 0) 3 = false ∧ (tRegs [(flowA 3 0, 1)] (tErr 0x0A 0)).forcesFlow 0x3000 (tX.id 0) 3 = true ∧
    (tErr 0x0A 0).flowForced 3 = false ∧ (tErr 0x0A 0).iniTenant (tX.id 0) = some 1 ∧ (tRegs [(dilA 0, 0)] (tErr 0x08 0)).rbit (dilA 0) 31 = false := by decide +kernel

/-- R385, R391: a class U error while slot U is held becomes class F, fences its cluster and forces its tenant's flow. -/
theorem test_escalation : (let t := tRun .errorClassify (tRegs [(flowA 3 0, 1)] (tErr 0x08 2))
    t.reg (srlA 0x28) = 1 ∧ t.sorrel.fenced.contains 0x3000 = true ∧ t.flowReason 3 = 3 ∧ t.flowForced 4 = false) := by decide +kernel

theorem test_witness_AcknowledgeWatchdogsAndRecovery : (∀ c ∈ [0, 5], ({ State.reset with sorrel := { pulseEnd := some c, quietF := some c } }).sorrel.pulseEnd = some c) ∧
    (0 : Nat) ≤ State.reset.cycle ∧ State.reset.cycle < 5 ∧ (∀ c < 3, (2 ^ c : Word).toNat = 2 ^ c ∧ (tRegs [(srlB 0xC0, 7)] State.reset).errHeld c = true) ∧
    State.reset.sorrel.acking = 0 ∧ State.reset.mem.ecc = [] ∧ isMgmtCore tMc = true ∧ isMgmtFn tMf = true ∧ State.reset.consentBar tMf (srlB 0xC0) = false ∧
    State.reset.pending = [] ∧ bit (3 : Word).toNat 0 = true ∧ bit (3 : Word).toNat 1 = true ∧
    (let s := { State.reset with start := { ended := [1] }, sorrel := { wdog0 := ⟨5, false⟩ } }
     s.stepDone? 1 = true ∧ s.sorrel.wdog0.expired = false ∧ s.cycle < s.sorrel.wdog0.deadline ∧
     s.sorrel.wdog0.deadline ≤ ({ s with cycle := 5 }).cycle) ∧
    ({ State.reset with timeNs := 1000000000 }).timeNs / 1000000000 ≠ State.reset.sorrel.window ∧ State.reset.timeNs / 1000000000 = State.reset.sorrel.window ∧
    (∀ c < 3, (({ State.reset with sorrel := { quietC := some 0, quietU := some 0, quietF := some 0 }, cycle := 1 }).sorrel.quiet c = some 0) ∧ (0 : Nat) < 1) := by decide +kernel

theorem test_witness_SnapshotsLatchCopyAndCheckpoints : isMgmt tMc = true ∧ State.reset.consentBar tMc (dilA 8) = false ∧ (tRegs [(dilA 0, 0)] State.reset).rbit (dilA 0) 31 = false ∧
    (let s := tRegs [(dilA 0, 2 ^ 31), (dilA 4, 1)] State.reset
     s.rbit (dilA 0) 31 = true ∧ s.rbit (dilA 0) 29 = false ∧ 0 < s.reg (dilA 4) * 1000000 ∧ s.timeNs < s.dill.timerFrom + s.reg (dilA 4) * 1000000 ∧
     s.dill.timerFrom + s.reg (dilA 4) * 1000000 ≤ ({ s with timeNs := 1000000 }).timeNs) ∧
    (let x : Trigger := ⟨3, 7, 0xFFFFFFFF, false, 0⟩
     let s := { State.reset with dill := { trigs := [x] } }
     s.dill.trigs.find? s.latchDue = some x ∧ s.dill.copying = none ∧
     ({ s with dill := { s.dill with copying := some [] } }).dill.copying ≠ none) ∧
    ({ State.reset with dill := { copying := some (zeros 64) } }).dill.copying = some (zeros 64) := by decide +kernel

/-- A checkpoint of pipeline 0 that covers no region; tenant 0 holds HBM region 0 as its first. -/
def tCkpt : State := tRegs [(dilA 0x48, 0x1000)] { State.reset with
  dill := { ckpts := [{ pipe := 0, step := 1, segment := 0, logSeq := 0, time := 0, cyc := 0, cnt := 0, snap := 0 }] }
  mem := { regions := [(0, { state := .assigned, owner := 0 })] } }

theorem test_witness_SnapshotsLatchCopyAndCheckpoints_done : tCkpt.ckptRegions 0 = [] ∧ tCkpt.readRegions [] = (tCkpt, some []) :=
  ⟨by decide +kernel, rfl⟩

theorem test_witness_SnapshotsLatchCopyAndCheckpoints_written : (tCkpt.devWrite hubDmaId 0 0 (zeros 128)).2 = true := by decide +kernel

/-- The same checkpoint with a region that tenant 0 does not hold: its read fails. -/
theorem test_witness_SnapshotsLatchCopyAndCheckpoints_failed : State.reset.readRegions [(0, 32)] = (State.reset, none) := rfl

/-! ## Power, cooling and field service (15) -/

/-- A running module 2 ms after its release; the COOL_OK pin and the clamp as given. -/
def tPow (pin : Bool) (clamp : Option Nat) : State := { State.reset with timeNs := 2000000, power := { coolPin := pin, clamp := clamp } }

/-- All sensors at 25 °C but sensor `i`. -/
def tTemps (i : Nat) (x : BitVec 16) : List (BitVec 16) := (List.range 306).map (fun j => if j = i then x else 1600)

/-- The readings as integers. -/
def tRead (i : Nat) (x : BitVec 16) : List Int := (List.range sensorCount).map (fun j => ((tTemps i x).getD j 0).toInt)

theorem test_witness_SensorsClampAndGovernor_samples : (∀ b ∈ [true, false], ∀ c ∈ [none, some 5],
      (tPow b c).alive = true ∧ (tPow b c).timeNs / 1000000 = 2 ∧ (tPow b c).power.lastSensor < 2 ∧
      (tPow b c).power.coolPin = b ∧ (tPow b c).power.clamp = c ∧ (tPow b c).power.hotDies.contains 0 = false) ∧
    2 ≤ ({ tPow true none with power := { lastSensor := 2 } }).power.lastSensor ∧
    outOfRange (-2561) = true ∧ outOfRange (-2560) = false ∧ outOfRange 9600 = false ∧ outOfRange 9601 = true := by decide +kernel

/-- 105 °C at the first sensor of die 0 makes the die hot; at 25 °C no domain is. -/
theorem test_witness_SensorsClampAndGovernor_hot : 6720 ≤ (tPow true none).domainT (tRead 0 6720) 0 := by decide +kernel

theorem test_witness_SensorsClampAndGovernor_cool : ∀ k < 13, (tPow true none).domainT (tRead 0 1600) k < 6400 := by decide +kernel

theorem test_witness_SensorsClampAndGovernor_timeout : (∀ t ∈ [5000000004, 5000000005], ∀ q ∈ [none, some 4000000005, some 4000000006],
    let s := { State.reset with timeNs := t, power := { clamp := some 5, quietFrom := q } }
    s.power.clamp = some 5 ∧ s.clampPast = false ∧ s.power.clampF = false ∧ s.power.quietFrom = q ∧ (t < 5 + 5000000000 ∨ 5 + 5000000000 ≤ s.timeNs)) := by decide +kernel

/-- An input sample: below 2,100 W, above it, and the 8,000th above CAP_W, at which the limiter must hold. -/
def tIn (n : Nat) : State := tRegs [(pwrA 0, 2000)] { State.reset with timeNs := 5000, power := { overCap := n } }

theorem test_witness_SensorsClampAndGovernor_input : (tIn 0).alive = true ∧ (tIn 0).power.lastInput < (tIn 0).timeNs / 1000 ∧
    (tIn 0).power.hold = none ∧ (tIn 0).capW * 1000 < 2000001 ∧
    (tNext (execInputSample 4800 2000001 (tIn 7999))).mustLimit = true ∧
    (tNext (execInputSample 4800 2000000 (tIn 7999))).mustLimit = false := by decide +kernel

/-- A period: domain 0 draws 100 W at 80 °C over an inlet of 25 °C. -/
def tGov : State := { State.reset with timeNs := 20000000, power :=
  { lastPeriod := 1, pSum := [100000], pCount := 1, hold := some 3, hist := [tRead 0 5120] } }

theorem test_witness_SensorsClampAndGovernor_period : tGov.alive = true ∧ tGov.power.lastPeriod < tGov.timeNs / 10000000 ∧
    tGov.timeNs / 10000000 ≤ ({ tGov with power := { lastPeriod := 2 } }).power.lastPeriod ∧
    tGov.power.hold = some 3 ∧ 3 ≤ (tGov.timeNs / 10000000 - 1) * 10000000 ∧
    tGov.power.hotHub = false ∧ tGov.power.hotDies.contains 0 = false ∧ tGov.power.clamp = none ∧
    0 < tGov.rNext 0 (tGov.domainT tGov.readings 0) (tGov.inletT tGov.readings) (tGov.domainP 0) := by decide +kernel

theorem test_witness_SensorsClampAndGovernor_base : (let s := tRegs [(domA 3 0, 5)] { State.reset with start := { ended := [1] }, power := { basePeriods := [(3, 360000)] } }
    s.fwRuns = true ∧ s.fld (domA 3 0) 31 16 = 0 ∧ basePeriods ≤ tabGet 0 s.power.basePeriods 3) := by decide +kernel

/-- A module that shuts down since cycle 5, at cycle `c`. -/
def tShut (c : Nat) : State := { State.reset with cycle := c, power := { shutdown := some 5 } }

theorem test_witness_ShutdownPowerAndUnitFences_power : State.reset.power.shutdown = none ∧ State.reset.alive = true ∧
    (∀ t ∈ [1000006, 1000007], let s := { State.reset with timeNs := t, power := { voltFrom := some 7 } }
      s.alive = true ∧ s.power.voltFrom = some 7 ∧ (s.timeNs < 7 + 1000000 ∨ 7 + 1000000 ≤ s.timeNs)) ∧
    ({ State.reset with power := { clamp := some 5, clampF := true } }).power.clampF = true ∧ State.reset.power.pwrEn = true ∧ State.reset.fwRuns = false ∧
    (tShut 5).power.shutdown.isSome = true ∧ (tShut 55000005).alive = true ∧ 5 + 55000000 ≤ (tShut 55000005).cycle ∧
    (tShut 55000004).cycle < 5 + 55000000 ∧ ({ State.reset with power := { pwrEn := false } }).power.pwrEn = false ∧
    (2999 : Nat) < 3000 ∧ (3000 : Nat) ≤ 3799 ∧ (3799 : Nat) < 3800 ∧
    (let s := tRegs [(ctxA 1 0, 2 ^ 30 + 2 ^ 31), (ctxA 1 0x18, 2 ^ 30)] State.reset
     s.barState 1 = 1 ∧ s.rbit (ctxA 1 0) 30 = true) := by decide +kernel

/-- A state with fenced units. -/
def tFence (l p : List Nat) : State := { State.reset with sorrel := { fenced := l, passed := p } }

theorem test_witness_ShutdownPowerAndUnitFences_units : isMgmt tMc = true ∧ State.reset.consentBar tMc (modA 0x300) = false ∧
    (∀ u ∈ [0x1000, 0x3000, 0x4000], unitOk u = true ∧ State.reset.isFenced u = false ∧ (tFence [u] []).isFenced u = true ∧
      (tFence [u] [u]).sorrel.passed.contains u = true ∧ (tFence [u] []).sorrel.passed.contains u = false) ∧
    unitOk 0 = false ∧ State.reset.outOfService 0x1000 = false ∧ State.reset.outOfService 0x1008 = true ∧
    (tFence [0x3000] []).power.testing = none ∧ (tFence [0x3000] []).unitOwned 0x3000 = false ∧
    ({ tOwn State.reset with sorrel := { fenced := [0x3000] } }).unitOwned 0x3000 = true ∧
    ({ State.reset with power := { testing := some 0x3000 } }).power.testing = some 0x3000 ∧
    ({ tFence [0x3000] [0x3000] with sorrel := { fenced := [0x3000], passed := [0x3000], quietF := some 9 } }).degraded 2 = true ∧
    (tFence [0x3000] [0x3000]).degraded 2 = false ∧ unitMemory 0x1000 ≠ [] := by decide +kernel

/-! ## The ring and the debug pins (16) -/

/-- A ring node in STATE `st`: node 3 of 16, upstream 2, downstream 4; node 2 is the controller's. -/
def tRing (st ctrl : Nat) : State := tRegs [(rngA 0, ctrl + 0x21003), (rngA 4, st * 2 ^ 28)] { State.reset with
  ring := { node := 3, segments := 16, up := some ⟨2, [], 0, 0⟩, down := some ⟨4, [], 0, 0⟩, txSeq := 5 } }

/-- A frame from node `src` that node 2 passes on to `dst`. -/
def tF (auth : Bool) (src : Fin 16) (dst : Fin 256) (seq : Nat) (b : List Byte) : RingFrame :=
  { auth := auth, src := src, hopFrom := 2, hops := 1, dst := dst, hopSeq := seq, residence := 11, payload := b }

theorem test_witness_RingNodeReceivesFrames_frames : (tRing 2 (2 ^ 30)).ringState = 2 ∧
    (tRing 2 0).ring.up.any (fun k => k.node == (tF true 1 0xFF 4 []).hopFrom.val) = true ∧
    (tF true 3 0xFF 4 []).src.val = (tRing 2 0).ring.node ∧ (tF true 3 0xFF 4 []).hopSeq < (tRing 2 0).ring.txSeq ∧
    (tRing 2 0).ring.txSeq ≤ (tF true 3 0xFF 5 []).hopSeq ∧ (tRing 2 (2 ^ 30)).rbit (rngA 0) 30 = true ∧
    (∀ d ∈ [3, 0xFF], (tRing 2 0).forMe (tF true 1 d 4 []) = true) ∧ (tF true 1 3 4 []).src.val ≠ (tRing 2 0).ring.node := by decide +kernel

/-- TIME: TAI_VALID with TIME_FROM_RING, without; the module unstepped with 14 or 15 good messages, and stepped. -/
def tTime : List Byte := tBytes 32 [(0, [0x40, 0x42, 0x0F]), (18, [1]), (24, [16])]

theorem test_witness_RingNodeReceivesFrames_time : fieldLe ((tRing 2 0).arrived 1 (tF true 1 0xFF 4 tTime)) 18 1 % 2 = 1 ∧
    (tRing 2 (2 ^ 29)).rbit (rngA 0) 29 = true ∧ (tRing 2 0).rbit (rngA 0) 29 = false ∧
    (let s : State := { tRing 2 (2 ^ 29) with timeNs := 1000000, thy := { syncRun := 15 } }
     s.thy.stepped = false ∧ (tRun (.timeFrame (tF true 1 0xFF 4 tTime)) s).thy.syncRun = 16) ∧
    (let s : State := { tRing 2 (2 ^ 29) with timeNs := 1000000, thy := { syncRun := 14 } }
     s.thy.stepped = false ∧ (tRun (.timeFrame (tF true 1 0xFF 4 tTime)) s).thy.syncRun = 15) := by decide +kernel

theorem test_witness_RingNodeReceivesFrames_phase : (let s := tRegs [(thyA 0, 0x15), (thyA 4, 4), (thyA 0x14, 1), (rngA 0x10, 160)] (tRing 2 0)
     s.thySel = 5 ∧ s.thyOn = true ∧ s.thyLock ≠ 4) := by decide +kernel

/-- A ring barrier in context 1 of nodes 1 and 3 (ring master 1) or 3 and 5 (ring master 3). -/
def tRb (nodes : Nat) : State := tRegs [(ctxA 1 0, 2 ^ 30 + 2 ^ 31), (ctxA 1 0x14, nodes), (ctxA 1 0x18, 2 ^ 30), (ctxA 1 0x1C, 6)] { tRing 2 0 with
  timeNs := 50, barriers := [(1, { reports := [(7, 3)] })] }

theorem test_witness_RingNodeReceivesFrames_barrier : (tRb 0x28).barState 1 = 1 ∧ (tRb 0x28).ringMaster 1 = some (tRb 0x28).ring.node ∧
    (tRb 0x28).rbit (ctxA 1 0) 30 = true ∧ ((tRb 0x28).bar 1).ringAt = none ∧
    (let all := fun (src : Nat) => (cluList ((tRb 0x28).fld (ctxA 1 0x14) 15 0)).all (fun n => (((tRb 0x28).bar 1).reports ++ [(7, src)]).contains ((tRb 0x28).barGen 1, n))
     all 5 = true ∧ all 1 = false) ∧
    (∀ t ∈ [49, 50], let b := (tRb 0xA).arrived 4 (tF true 1 0xFF 4 (natLe 4 1 ++ natLe 4 7 ++ natLe 8 t))
      fieldLe b 0 1 % 32 = 1 ∧ fieldLe b 4 4 = (tRb 0xA).barGen 1 ∧ (fieldLe b 8 8 < (tRb 0xA).timeNs ∨ (tRb 0xA).timeNs ≤ fieldLe b 8 8)) := by decide +kernel

theorem test_witness_RingNodeReceivesFrames_activate : (let s : State := { tRegs [(updA 0, 3 * 2 ^ 28)] (tRing 2 0) with upd := { stagedId := 9 } }
     let b := fun (k : Nat) => s.arrived 6 (tF true 1 0xFF 4 (natLe 16 9 ++ natLe 4 5 ++ natLe 4 k ++ natLe 8 77))
     s.updState = 3 ∧ fieldLe (b 0) 0 16 = s.upd.stagedId ∧ fieldLe (b 0) 20 1 = 0 ∧ (tRing 2 0).updState ≠ 3) := by decide +kernel

theorem test_witness_RingNodesJoinLeaveAndRekey_join : (tRing 1 0).ringState = 1 ∧ (tRing 2 0).ring.up.isSome = true ∧
    (tF true 4 3 4 []).auth = true ∧ (tF true 4 3 4 []).src.val ≠ (tRing 1 0).ring.node ∧ (tRing 1 0).forMe (tF true 4 3 4 []) = true ∧
    (∀ st ∈ [1, 2, 3], let s : State := { tRing st 0 with ring := { (tRing st 0).ring with hello := some (2, zeros 32, 0) } }
      s.ringState = st ∧ (tF true 2 3 4 []).hopFrom = (tF true 2 3 4 []).src ∧ s.ring.hello = some (2, zeros 32, 0) ∧
      s.ring.up.any (fun x => x.node == 2) = true) := by decide +kernel

theorem test_witness_RingNodeSendsAndServes_sends : (let s : State := { tRing 2 (2 ^ 30) with timeNs := 1000000000 }
     s.ringState = 2 ∧ s.rbit (rngA 0) 30 = true ∧ s.ring.sentTime < s.timeNs / 1000000 ∧ s.ring.sentStatus < s.timeNs / 10000000 ∧
     s.ring.sentCal < s.timeNs / 1000000000) ∧ (tRing 2 0).rbit (rngA 0) 30 = false ∧
    (let s : State := { tRegs [(thyA 0, 0x12), (thyA 0x14, 3)] (tRing 2 0) with timeNs := 50000 }
     s.rbit (thyA 0x14) 1 = true ∧ s.thySel ≠ 5 ∧ s.ring.sentPhase < s.timeNs / 50000) := by decide +kernel

theorem test_witness_RingNodesJoinLeaveAndRekey_rekey : (tRing 2 0).ringState = 2 ∧
    (tRing 2 0).ring.up = some ⟨2, [], 0, 0⟩ ∧ (tRing 2 0).ring.hello = none ∧ (0 : Nat) < 2 ^ 31 ∧
    0 + 86400000000000 ≤ ({ tRing 2 0 with timeNs := 86400000000000 }).timeNs ∧ (tRing 2 0).timeNs < 0 + 86400000000000 := by decide +kernel

/-- A member whose MCTP endpoint answers, with a record stored, a snapshot in slot 1 and a counter snapshot in non-volatile memory. -/
def tServe : State := let s := tRing 2 0
  (({ s with host := { s.host with mctp := true }, sorrel := { stored := 1 }, nvs := { snapshots := [zeros 65536] } } : State).rawWrite
    (hubBase + 0x480000) (natLe 4 3)).rawWrite (hubBase + 0x5C0000) (ascii "YDS1")

theorem test_witness_RingNodeSendsAndServes_service : tServe.ringState = 2 ∧ tServe.host.mctp = true ∧ tServe.fld (rngA 0) 19 16 = 2 ∧
    tServe.storeFrom 3 1 ≠ [] ∧ tServe.hubRead (hubId 0) (0x4C0000 + 1 * 0x100000) 4 = ascii "YDS1" ∧
    tServe.nvs.snapshots.getLast?.isSome = true ∧ (tRing 2 0).nvs.snapshots = [] ∧
    (let s := tRegs [(flowA 3 0, 0x300), (flowCtl 3 0, 2 ^ 31)] tServe
     s.flowForced 3 = false) := by decide +kernel

/-- The same member holding the written checkpoint of pipeline 0. -/
def tHeld : State := let t := tNext (execCheckpointDone tCkpt)
  { tRegs [(rngA 0, 0x21003), (rngA 4, 2 * 2 ^ 28)] t with ring := (tRing 2 0).ring, host := { t.host with mctp := true } }

theorem test_witness_RingNodeSendsAndServes_checkpoint : tHeld.ringState = 2 ∧
    (let s₀ := tHeld.bump (rngCount 0)
     let r := s₀.devRead hubDmaId 0 (s₀.reg64 (dilA 0x40) % 2 ^ 48) 4
     r.2 = some (ascii "YCP1") ∧ (r.1.devRead hubDmaId 0 (s₀.reg64 (dilA 0x40) % 2 ^ 48 + 4) 4).2.isSome = true ∧
     4 + 4 ≤ tHeld.reg (dilA 0x48)) := by decide +kernel

theorem test_witness_RingNodesJoinLeaveAndRekey_lock : (let s : State := { tRegs [(rngA 0, 2 ^ 31 + 0x1003), (rngA 4, 0)] State.reset with start := { ended := [3] } }
     s.start.dark = false ∧ s.start.held = false ∧ s.rbit (rngA 0) 31 = true ∧ s.ringState = 0 ∧ s.stepDone? 3 = true ∧ s.ring.waitUntil ≤ s.cycle) ∧
    State.reset.stepDone? 3 = false ∧
    (∀ c ∈ [219999999, 220000000], let s : State := { tRing 1 0 with cycle := c }
      s.ringState = 1 ∧ (s.ring.openedAt + 220000000 ≤ s.cycle ∨ s.cycle < s.ring.openedAt + 220000000)) ∧
    (∀ c ∈ [109999999, 110000000], let s : State := { tRegs [(rngA 4, 2 ^ 29 + 2 ^ 26)] State.reset with cycle := c }
      s.rbit (rngA 4) 26 = true ∧ (s.ring.lastTime + 110000000 ≤ s.cycle ∨ s.cycle < s.ring.lastTime + 110000000)) ∧
    isMgmt tMc = true ∧ State.reset.consentBar tMc (rngA 0) = false ∧ bit (0x1F05 : Word).toNat 31 = false ∧
    (tRing 2 0).ringState ≠ 0 ∧ (tRing 2 0).ringState ≠ 4 := by decide +kernel

/-- A consent of tenant 0 for a SCOPE; with 0x33 hub debug reads and writes and boundary scan are allowed. -/
def tTap (scope : Nat) : State := { State.reset with sage := { consents := [(0, some ⟨0, scope, 0, 0, [], []⟩)] } }

theorem test_witness_TapAndDebugPort : State.reset.tapOn = true ∧ (tTap 0x33).tapOn = true ∧ (tTap 0x33).scanAllowed = true ∧
    State.reset.scanAllowed = false ∧ (srlA 4) % 4 = 0 ∧ State.reset.place (srlA 4) ≠ .unassigned ∧
    State.reset.dapAllowed (srlA 4) 0 = false ∧ State.reset.dapAllowed (srlA 4) 1 = false ∧
    (tTap 0x33).dapAllowed (srlA 4) 0 = true ∧ (tTap 0x33).dapAllowed (srlA 4) 1 = true ∧ (regBlock (srlA 4)).isSome = true ∧
    (tTap 0x33).regCut dapId (srlA 4) = false ∧ State.reset.place 0xF00000000000 = .unassigned ∧ (srlA 4 + 1) % 4 ≠ 0 ∧
    ({ tTap 0x33 with tap := { instr := 0x11 } }.wordWrite dapId (srlA 4) 7).resp ≠ .err ∧
    (let s : State := { tTap 0x33 with sorrel := { fenced := (List.range 32).map (0x5000 + ·) } }
     s.place (clA 0 0 0) ≠ .unassigned ∧ clA 0 0 0 % 4 = 0 ∧ s.dapAllowed (clA 0 0 0) 1 = true ∧
     ({ s with tap := { instr := 0x11 } }.wordWrite dapId (clA 0 0 0) 7).resp = .err) := by decide +kernel

end Sys2Proof.Tests
end

section
/-!
PROOFS. The address map's tile windows and their logical aliases (R9, R14), the write of CL_SLOT_MAP (R15), and the count of a link's
retransmissions (R37).
-/
namespace Sys2Proof.Machine

/-! ## Bits of a word after a field is put -/

/-- A bit is the field of that bit alone. -/
theorem bit_eq_bits (n i : Nat) : bit n i = (bits n i i == 1) := by
  rw [bit, bits, Nat.add_sub_cancel_left, Nat.pow_one]

theorem bit_putBit_self (n i : Nat) (b : Bool) : bit (putBit n i b) i = b := by
  rw [bit_eq_testBit, putBit, testBit_putBits _ _ _ (Nat.le_refl _)]
  cases b <;> simp

theorem bit_putBits_ne (n v : Nat) {hi lo i : Nat} (h : lo ≤ hi) (hd : i < lo ∨ hi < i) :
    bit (putBits n hi lo v) i = bit n i := by
  rw [bit_eq_testBit, bit_eq_testBit, testBit_putBits _ _ _ h, if_neg (by omega)]

theorem putBit_lt {n w i : Nat} (b : Bool) (hi : i < w) (hn : n < 2 ^ w) : putBit n i b < 2 ^ w :=
  putBits_lt (Nat.le_refl _) hi hn

/-! ## The address map -/

/-- A cluster's window lies in the cluster range, and die, cluster and offset are read back from an address in it. -/
theorem cluBase_add_parts {d c r : Nat} (hd : d < 4) (hc : c < 8) (hr : r < 0x10000000) :
    0x80000000000 ≤ cluBase d c + r ∧ cluBase d c + r < 0x80200000000 ∧
    (cluBase d c + r - 0x80000000000) / 0x80000000 = d ∧
    (cluBase d c + r - 0x80000000000) % 0x80000000 / 0x10000000 = c ∧
    (cluBase d c + r - 0x80000000000) % 0x10000000 = r := by
  unfold cluBase
  omega

/-- The slots of a window `b` are 4 MiB apart: slot and offset are read back from an address of the window. -/
theorem slotWindow_parts (b n : Nat) {o : Nat} (ho : o < 0x200000) :
    b ≤ b + n * 0x400000 + o ∧ (b + n * 0x400000 + o - b) / 0x400000 = n ∧ (b + n * 0x400000 + o - b) % 0x400000 = o := by
  omega

/-- The first 2 MiB of a physical slot's 4 MiB are its tile memory (R9). -/
theorem placeOf_tileBase_add {d c n o : Nat} (hd : d < 4) (hc : c < 8) (hn : n < 9) (ho : o < 0x200000) :
    placeOf (tileBase d c n + o) = (.tile d c n, none) := by
  have e : tileBase d c n + o = cluBase d c + (0x4000000 + n * 0x400000 + o) := by unfold tileBase; omega
  obtain ⟨hlo, hhi, hdie, hclu, hoff⟩ := cluBase_add_parts hd hc (r := 0x4000000 + n * 0x400000 + o) (by omega)
  obtain ⟨hle, hslot, hin⟩ := slotWindow_parts 0x4000000 n ho
  rw [e, placeOf, if_neg (by omega), if_neg (by omega), if_pos ⟨hlo, hhi⟩]
  dsimp only
  rw [hdie, hclu, hoff, if_neg (by omega), if_pos ⟨hle, by omega, by rwa [hin]⟩, hslot]

/-- The aliases of the logical slots stand 0x8000000 into the cluster's window (R9, R14). -/
theorem placeOf_alias_add {d c l o : Nat} (hd : d < 4) (hc : c < 8) (hl : l < 8) (ho : o < 0x200000) :
    placeOf (cluBase d c + 0x8000000 + l * 0x400000 + o) = (.tile d c l, some l) := by
  have e : cluBase d c + 0x8000000 + l * 0x400000 + o = cluBase d c + (0x8000000 + l * 0x400000 + o) := by omega
  obtain ⟨hlo, hhi, hdie, hclu, hoff⟩ := cluBase_add_parts hd hc (r := 0x8000000 + l * 0x400000 + o) (by omega)
  obtain ⟨hle, hslot, hin⟩ := slotWindow_parts 0x8000000 l ho
  rw [e, placeOf, if_neg (by omega), if_neg (by omega), if_pos ⟨hlo, hhi⟩]
  dsimp only
  rw [hdie, hclu, hoff, if_neg (by omega), if_neg (by omega), if_pos ⟨hle, by omega, by rwa [hin]⟩, hslot]

/-- A physical slot's own address is what an access to it reaches. -/
theorem phys_tileBase_add (s : State) {d c n o : Nat} (hd : d < 4) (hc : c < 8) (hn : n < 9) (ho : o < 0x200000) :
    s.phys (tileBase d c n + o) = tileBase d c n + o := by
  rw [State.phys, placeOf_tileBase_add hd hc hn ho]

/-- An alias reaches the same offset in the slot that serves it. -/
theorem phys_alias_add (s : State) {d c l o : Nat} (hd : d < 4) (hc : c < 8) (hl : l < 8) (ho : o < 0x200000) :
    s.phys (cluBase d c + 0x8000000 + l * 0x400000 + o) = tileBase d c (s.physSlot d c l) + o := by
  have hoff : (cluBase d c + 0x8000000 + l * 0x400000 + o - cluBase d c - 0x8000000) % 0x400000 = o := by
    rw [Nat.sub_sub]
    exact (slotWindow_parts _ l ho).2.2
  rw [State.phys, placeOf_alias_add hd hc hl ho]
  dsimp only
  rw [hoff]

/-- CL_SLOT_MAP's choice, by its fields SPARE_ACTIVE and SPARE_FOR. -/
theorem physSlot_eq (s : State) (d c l : Nat) :
    s.physSlot d c l = if s.rbit (clA d c 0x40) 31 = true ∧ s.fld (clA d c 0x40) 26 24 = l then 8 else l := by
  have hserved : (bit (s.reg (clA d c 0x40)) 31 && bits (s.reg (clA d c 0x40)) 26 24 == l) = true ↔
      s.rbit (clA d c 0x40) 31 = true ∧ s.fld (clA d c 0x40) 26 24 = l := by
    rw [Bool.and_eq_true, beq_iff_eq, State.rbit, State.fld]
  exact ite_congr (propext hserved) (fun _ => rfl) (fun _ => rfl)

/-- Settles O9: the address map tells an alias from a physical slot's own address, and only an alias goes through CL_SLOT_MAP. -/
theorem slotAliasReachesTheServingSlot : Obligations.SlotAliasReachesTheServingSlot := by
  intro s d c l o hd hc hl ho
  refine ⟨?_, fun n hn => phys_tileBase_add s hd hc hn ho⟩
  rw [phys_alias_add s hd hc hl ho, physSlot_eq]

/-! ## Link retransmissions (R37) -/

theorem reg_bumpBy_self (s : State) (a n : Nat) : (s.bumpBy a n).reg a = min (s.reg a + n) (2 ^ 32 - 1) := by
  rw [State.bumpBy, reg_setReg_self, satAdd, Nat.mod_eq_of_lt]
  exact Nat.lt_of_le_of_lt (Nat.min_le_right _ _) (by decide)

theorem reg_bumpBy_ne (s : State) {a b : Nat} (n : Nat) (h : b ≠ a) : (s.bumpBy a n).reg b = s.reg b :=
  reg_setReg_ne s _ h

/-- LINK_FLIT_ERROR counts the retransmissions, and presents the link's failure when the fourth one failed. -/
theorem exec_linkFlitError (link : Fin 8) (far : Bool) (n : Fin 5) (ok : Bool) (s : State) :
    exec (.linkFlitError link far n ok) s =
      .next (if n.val = 4 ∧ ok = false
        then (s.bumpBy (srlA (0x60 + 4 * link)) n).present ⟨0x0A, 5, linkEndId link far, 4, link, 4, 0x5000 + link⟩
        else s.bumpBy (srlA (0x60 + 4 * link)) n) := by
  have harm : exec (.linkFlitError link far n ok) s = execLinkFlitError link far n ok s := by rfl
  rw [harm, execLinkFlitError]
  cases ok <;> simp

/-! ## The write of CL_SLOT_MAP (R15) -/

/-- The slots that a write of CL_SLOT_MAP moves: the one that serves the logical slot now, and the one that would. -/
def State.slotMapBusy (s : State) (d c v : Nat) : Bool :=
  s.slotBusy ⟨d, c, s.physSlot d c (bits v 26 24)⟩ || s.slotBusy ⟨d, c, if bit v 31 then 8 else bits v 26 24⟩

/-- A word of CL_SLOT_MAP with SPARE_ACTIVE and SPARE_FOR as written. -/
def slotMapFields (old v : Nat) : Nat := putBits (putBit old 31 (bit v 31)) 26 24 (bits v 26 24)

/-- CL_SLOT_MAP after a write that takes effect: a written 1 clears MAP_REJECT besides. -/
def slotMapWord (old v : Nat) : Nat := if bit v 30 then putBit (slotMapFields old v) 30 false else slotMapFields old v

theorem slotMapWord_lt {old : Nat} (v : Nat) (h : old < 2 ^ 32) : slotMapWord old v < 2 ^ 32 := by
  have hn : slotMapFields old v < 2 ^ 32 := putBits_lt (by decide) (by decide) (putBit_lt _ (by decide) h)
  unfold slotMapWord
  split
  · exact putBit_lt _ (by decide) hn
  · exact hn

/-- Clearing MAP_REJECT leaves every field but bit 30 alone. -/
theorem bits_slotMapWord (old v : Nat) {hi lo : Nat} (h : hi < 30 ∨ 30 < lo) :
    bits (slotMapWord old v) hi lo = bits (slotMapFields old v) hi lo := by
  unfold slotMapWord
  split
  · exact bits_putBits_ne _ _ (by decide) h
  · rfl

theorem bit_slotMapWord_spareActive (old v : Nat) : bit (slotMapWord old v) 31 = bit v 31 := by
  rw [bit_eq_bits, bits_slotMapWord _ _ (by decide), ← bit_eq_bits, slotMapFields, bit_putBits_ne _ _ (by decide) (by decide),
    bit_putBit_self]

theorem bits_slotMapWord_spareFor (old v : Nat) : bits (slotMapWord old v) 26 24 = bits v 26 24 := by
  rw [bits_slotMapWord _ _ (by decide), slotMapFields, bits_putBits_self _ _ (by decide), Nat.mod_eq_of_lt (bits_lt v 26 24)]

theorem bits_slotMapWord_fenced (old v : Nat) : bits (slotMapWord old v) 8 0 = bits old 8 0 := by
  rw [bits_slotMapWord _ _ (by decide), slotMapFields, bits_putBits_ne _ _ (by decide) (by decide), putBit,
    bits_putBits_ne _ _ (by decide) (by decide)]

/-- With a busy slot the write sets MAP_REJECT and does nothing else. -/
theorem slotMapWrite_of_busy {s : State} {d c v : Nat} (h : s.slotMapBusy d c v = true) :
    s.slotMapWrite d c v = s.setRbit (clA d c 0x40) 30 true := if_pos h

/-- What a write that takes effect does to slot 8: its TC_CYCLES is stored when it stops to serve, and its clock's start when it
starts to. -/
def State.spareClock (s : State) (d c v : Nat) : State :=
  let x : Core3 := ⟨d, c, 8⟩
  let old := s.reg (clA d c 0x40)
  let t := if bit old 31 && !bit v 31 then s.setReg64 (x.reg 0x420) (s.tcCycles x) else s
  if !bit old 31 && bit v 31 then t.tileSet x { t.tileGet x with awake := t.cycle } else t

theorem spareClock_mem (s : State) (d c v : Nat) : (s.spareClock d c v).mem = s.mem := by
  rw [State.spareClock, apply_ite State.mem, tileSet_mem, ite_self, apply_ite State.mem, setReg64_mem, ite_self]

theorem reg_spareClock_ne (s : State) (d c v : Nat) {a : Nat} (h0 : a ≠ tcA d c 8 0x420) (h4 : a ≠ tcA d c 8 0x424) :
    (s.spareClock d c v).reg a = s.reg a := by
  have h4' : a ≠ tcA d c 8 0x420 + 4 := by
    unfold tcA at h4 ⊢
    omega
  unfold State.spareClock
  extract_lets x old t
  have ht : t.reg a = s.reg a := by
    unfold t
    split
    · exact reg_setReg64_ne s _ h0 h4'
    · rfl
  split
  · rw [tileSet_reg, ht]
  · exact ht

/-- With idle slots the write stores the new word, beside what it does to slot 8. -/
theorem slotMapWrite_of_idle {s : State} {d c v : Nat} (h : s.slotMapBusy d c v = false) :
    s.slotMapWrite d c v = (s.spareClock d c v).setReg (clA d c 0x40) (slotMapWord (s.reg (clA d c 0x40)) v) := by
  have hb : ¬ s.slotMapBusy d c v = true := by simp [h]
  unfold State.slotMapBusy at hb
  unfold State.slotMapWrite State.spareClock slotMapWord slotMapFields
  dsimp only
  rw [if_neg hb]

theorem slotMapWrite_mem (s : State) (d c v : Nat) : (s.slotMapWrite d c v).mem = s.mem := by
  cases h : s.slotMapBusy d c v
  · rw [slotMapWrite_of_idle h, setReg_mem, spareClock_mem]
  · rw [slotMapWrite_of_busy h, State.setRbit, setFld_mem]

/-- A management core is no management function, so no consent keeps it from a page (R310). -/
theorem consentBar_of_isMgmtCore (s : State) {ini : Nat} (a : Nat) (h : isMgmtCore ini = true) : s.consentBar ini a = false := by
  have hfn : isMgmtFn ini = false := by
    simp only [isMgmtCore, Bool.and_eq_true, beq_iff_eq] at h
    obtain ⟨⟨hdie, -⟩, -⟩ := h
    simp [isMgmtFn, hdie]
  simp [State.consentBar, hfn]

theorem guarded_of_isMgmtCore (s f : State) {ini : Nat} (a : Nat) (h : isMgmtCore ini = true) :
    s.guarded (isMgmt ini) ini a f = f.answer (.ok 0) := by
  simp [State.guarded, consentBar_of_isMgmtCore s a h, isMgmt, h]

theorem exec_clSlotMapWrite_of_isMgmtCore (s : State) {ini : Nat} (d : Fin 4) (c : Fin 8) (v : Word) (h : isMgmtCore ini = true) :
    exec (.clSlotMapWrite ini d c v) s = .next ((s.slotMapWrite d c v.toNat).answer (.ok 0)) :=
  congrArg Host.Outcome.next (guarded_of_isMgmtCore s _ _ h)

/-- A refused write keeps every logical slot where it is. -/
theorem physSlot_setRbit_mapReject (s : State) (d c : Nat) (b : Bool) :
    (s.setRbit (clA d c 0x40) 30 b).physSlot d c = s.physSlot d c := by
  funext l
  have hfor : (s.setRbit (clA d c 0x40) 30 b).fld (clA d c 0x40) 26 24 = s.fld (clA d c 0x40) 26 24 :=
    fld_setFld_ne s _ _ (by decide) (by decide) (by decide)
  rw [physSlot_eq, physSlot_eq, rbit_setRbit_ne _ _ _ (by decide) (by decide), hfor]

theorem answer_rbit (s : State) (r : Resp) (a i : Nat) : (s.answer r).rbit a i = s.rbit a i := by
  rw [State.rbit, answer_reg, State.rbit]

theorem answer_fld (s : State) (r : Resp) (a hi lo : Nat) : (s.answer r).fld a hi lo = s.fld a hi lo := by
  rw [State.fld, answer_reg, State.fld]

theorem answer_physSlot (s : State) (r : Resp) (d c : Nat) : (s.answer r).physSlot d c = s.physSlot d c := by
  funext l
  rw [physSlot_eq, physSlot_eq, answer_rbit, answer_fld]

/-- Settles O8: the flit's retransmissions go through the saturating counter alone; a write of CL_SLOT_MAP with a busy slot only sets
MAP_REJECT, and one with idle slots stores the written SPARE_ACTIVE and SPARE_FOR over the word. -/
theorem slotMapAndLinkRetransmissions : Obligations.SlotMapAndLinkRetransmissions := by
  refine ⟨fun s link far n ok => ⟨_, exec_linkFlitError link far n ok s, ?_⟩,
    fun s ini d c v hini => ⟨_, exec_clSlotMapWrite_of_isMgmtCore s d c v hini, rfl, slotMapWrite_mem s d c _, fun hb => ?_, fun hb => ?_⟩⟩
  case refine_1 =>
    split
    · exact ⟨reg_bumpBy_self s _ _, fun a ha => reg_bumpBy_ne s _ ha, rfl, rfl⟩
    · exact ⟨reg_bumpBy_self s _ _, fun a ha => reg_bumpBy_ne s _ ha, (List.append_nil _).symm, rfl⟩
  case refine_2 =>
    rw [slotMapWrite_of_busy hb, answer_rbit, answer_physSlot, answer_fld]
    refine ⟨rbit_setRbit_self s _ true (by decide), physSlot_setRbit_mapReject s d c true,
      fld_setFld_ne s _ _ (by decide) (by decide) (by decide), fun a ha => ?_⟩
    rw [answer_reg, State.setRbit, reg_setFld_ne s _ _ _ ha]
  case refine_3 =>
    have hmap : ((s.slotMapWrite d c v.toNat).answer (.ok 0)).reg (clA d c 0x40) = slotMapWord (s.reg (clA d c 0x40)) v.toNat := by
      rw [answer_reg, slotMapWrite_of_idle hb, reg_setReg_self, Nat.mod_eq_of_lt (slotMapWord_lt _ (reg_lt s _))]
    refine ⟨?_, ?_, fun a ha => ?_⟩
    · rw [physSlot_eq, State.rbit, State.fld, hmap, bit_slotMapWord_spareActive, bits_slotMapWord_spareFor]
      simp
    · rw [State.fld, hmap, bits_slotMapWord_fenced, State.fld]
    · simp only [List.mem_cons, List.not_mem_nil, or_false, not_or] at ha
      obtain ⟨hmapA, h0, h4⟩ := ha
      rw [answer_reg, slotMapWrite_of_idle hb, reg_setReg_ne _ _ hmapA, reg_spareClock_ne s _ _ _ h0 h4]

end Sys2Proof.Machine
end

section
/-!
PROOFS. Conversion of a value to its own format (R41, R42, R46): two's complement for the integer formats; for the floating-point formats
the fields of an encoding, the values on the format's grid, and the exactness of rounding and encoding them.
-/
namespace Sys2Proof.Machine

/-! ## Rounding to a step that divides the value -/

theorem roundInt_self (r : Rnd) (neg : Bool) (q : Nat) (e : Int) : roundInt r neg q e e = (q, false) := by
  simp [roundInt]

theorem shiftQ_zero (q : Nat) : shiftQ q 0 = (q, false) := by simp [shiftQ]

/-! ## Integer formats: two's complement -/

theorem toInt_eq_toInt_ofNat {w : Nat} (hw : 0 < w) (n : Nat) : toInt w n = (BitVec.ofNat w n).toInt := by
  have hmsb : (BitVec.ofNat w n).msb = bit n (w - 1) := by
    rw [bit_eq_testBit, BitVec.msb_eq_getLsbD_last, BitVec.getLsbD_ofNat,
      decide_eq_true (Nat.sub_one_lt_of_lt hw), Bool.true_and]
  rw [toInt, BitVec.toInt_eq_msb_cond, hmsb, BitVec.toNat_ofNat]

theorem ofInt_toInt {w n : Nat} (hw : 0 < w) (hn : n < 2 ^ w) : ofInt w (toInt w n) = n := by
  rw [toInt_eq_toInt_ofNat hw, ofInt, ← BitVec.toNat_ofInt, BitVec.ofInt_toInt, BitVec.toNat_ofNat, Nat.mod_eq_of_lt hn]

/-- A two's complement value lies in the range that saturation leaves alone (R46). -/
theorem natAbs_toInt_le {w : Nat} (hw : 0 < w) (n : Nat) :
    (toInt w n).natAbs ≤ if decide (toInt w n < 0) then 2 ^ (w - 1) else 2 ^ (w - 1) - 1 := by
  rw [toInt_eq_toInt_ofNat hw]
  have hlow := BitVec.le_toInt (BitVec.ofNat w n)
  have hhigh := BitVec.toInt_lt (x := BitVec.ofNat w n)
  have hcast : ((2 ^ (w - 1) : Nat) : Int) = 2 ^ (w - 1) := by push_cast; rfl
  rw [← hcast] at hlow hhigh
  split
  case isTrue h => omega
  case isFalse h => rw [decide_eq_true_eq] at h; omega

theorem roundToInt_of_le (f : Fmt) (r : Rnd) {neg : Bool} {q : Nat} (hneg : neg = true → q ≠ 0)
    (hq : q ≤ if neg then 2 ^ (f.width - 1) else 2 ^ (f.width - 1) - 1) : roundToInt f r (.fin neg q 0) = ⟨.fin neg q 0, 0⟩ := by
  have hsign : (neg && decide (q ≠ 0)) = neg := by cases neg <;> simp_all
  simp only [roundToInt, roundInt_self, if_neg (Nat.not_lt.mpr hq), hsign]

theorem decode_of_isInt {f : Fmt} (hf : f.isInt = true) (w : Nat) :
    f.decode w = .fin (decide (toInt f.width w < 0)) (toInt f.width w).natAbs 0 := if_pos hf

theorem encode_of_isInt {f : Fmt} (hf : f.isInt = true) (neg : Bool) (q : Nat) :
    f.encode (.fin neg q 0) = ofInt f.width (if neg then -(q : Int) else q) := by
  simp only [Fmt.encode, if_pos hf, shiftQ_zero]

theorem put_decode_of_isInt {f : Fmt} (hf : f.isInt = true) (hpos : 0 < f.width) {w : Nat} (hw : w < 2 ^ f.width) (r : Rnd) :
    f.put r (f.decode w) = (w, 0) := by
  have hsigned : (if decide (toInt f.width w < 0) then -((toInt f.width w).natAbs : Int) else (toInt f.width w).natAbs) =
      toInt f.width w := by
    simp only [decide_eq_true_eq]
    omega
  have hround : f.round r (f.decode w) = ⟨f.decode w, 0⟩ := by
    rw [Fmt.round, if_pos hf, decode_of_isInt hf]
    refine roundToInt_of_le f r (fun h => ?_) (natAbs_toInt_le hpos w)
    rw [decide_eq_true_eq] at h
    omega
  simp only [Fmt.put, hround]
  rw [decode_of_isInt hf, encode_of_isInt hf, hsigned, ofInt_toInt hpos hw]

/-! ## Floating-point formats: the fields of an encoding -/

/-- What the arithmetic below needs of a floating-point format: a mantissa bit, two exponent bits, and all-ones read as NaN only
where the format has no infinities. -/
structure Fmt.Regular (f : Fmt) : Prop where
  notInt : f.isInt = false
  m_pos : 1 ≤ f.m
  ebits_ge : 2 ≤ f.ebits
  width_eq : f.width = f.m + f.ebits + 1
  noInf : f.nanOnes = true → f.hasInf = false

/-- The formats of R42: the integers, and the floating-point formats, all of them regular. -/
theorem isInt_or_regular_of_fmtOf {code : Nat} {f : Fmt} (h : fmtOf code = some f) : (f.isInt = true ∧ 0 < f.width) ∨ f.Regular := by
  have hfields : (f.isInt = true ∧ 0 < f.width) ∨ (f.isInt = false ∧ 1 ≤ f.m ∧ 2 ≤ f.ebits ∧ f.width = f.m + f.ebits + 1 ∧
      (f.nanOnes = true → f.hasInf = false)) := by
    unfold fmtOf at h
    split at h <;> cases h <;> decide
  exact hfields.imp_right fun ⟨hInt, hm, he, hwidth, hinf⟩ => ⟨hInt, hm, he, hwidth, hinf⟩

/-- The exponent field. -/
def Fmt.expField (f : Fmt) (w : Nat) : Nat := bits w (f.width - 2) f.m

/-- The mantissa field. -/
def Fmt.fracField (f : Fmt) (w : Nat) : Nat := w % 2 ^ f.m

/-- The sign bit at its place. -/
def Fmt.signPart (f : Fmt) (neg : Bool) : Nat := if neg then 2 ^ (f.width - 1) else 0

theorem fracField_lt (f : Fmt) (w : Nat) : f.fracField w < 2 ^ f.m := Nat.mod_lt _ (Nat.two_pow_pos _)

theorem log2_two_pow_add_fracField (f : Fmt) (w : Nat) : Nat.log2 (2 ^ f.m + f.fracField w) = f.m := by
  have hfrac := fracField_lt f w
  have hpos := Nat.two_pow_pos f.m
  rw [Nat.log2_eq_iff (by omega)]
  omega

theorem two_pow_m_succ_le_maxMant (f : Fmt) : 2 ^ (f.m + 1) - 2 ≤ f.maxMant := by
  rw [Fmt.maxMant]
  split <;> omega

section
variable {f : Fmt} (hf : f.Regular)
include hf

theorem expField_le (w : Nat) : f.expField w ≤ 2 ^ f.ebits - 1 := by
  have hlt : f.expField w < 2 ^ (f.width - 2 + 1 - f.m) := bits_lt _ _ _
  obtain ⟨-, -, he, hwidth, -⟩ := hf
  rw [show f.width - 2 + 1 - f.m = f.ebits by omega] at hlt
  omega

theorem two_pow_ebits_ge : 4 ≤ 2 ^ f.ebits := Nat.pow_le_pow_right (n := 2) (by decide) hf.ebits_ge

/-- An encoding is its sign, exponent and mantissa fields. -/
theorem signPart_add_expField_add_fracField {w : Nat} (hw : w < 2 ^ f.width) :
    f.signPart (bit w (f.width - 1)) + f.expField w * 2 ^ f.m + f.fracField w = w := by
  obtain ⟨-, -, he, hwidth, -⟩ := hf
  have hsplit := bits_split w (show f.m ≤ f.width - 2 by omega)
  rw [show f.width - 2 + 1 = f.width - 1 by omega] at hsplit
  have htop : w / 2 ^ (f.width - 1) < 2 := by
    rw [Nat.div_lt_iff_lt_mul (Nat.two_pow_pos _), ← Nat.pow_succ']
    rwa [show (f.width - 1).succ = f.width by omega]
  have hsign : f.signPart (bit w (f.width - 1)) = w / 2 ^ (f.width - 1) * 2 ^ (f.width - 1) := by
    rw [Fmt.signPart, bit, Nat.mod_eq_of_lt htop]
    rcases Nat.le_one_iff_eq_zero_or_eq_one.mp (Nat.lt_succ_iff.mp htop) with h | h <;> simp [h]
  rw [hsign]
  exact hsplit.symm

/-- An encoding that is not a NaN is an infinity, a zero or subnormal, or a normal value (R41). -/
theorem decode_cases {w : Nat} (hnan : f.decode w ≠ .nan) :
    (f.hasInf = true ∧ f.expField w = 2 ^ f.ebits - 1 ∧ f.fracField w = 0 ∧ f.decode w = .inf (bit w (f.width - 1))) ∨
    (f.expField w = 0 ∧ f.decode w = .fin (bit w (f.width - 1)) (f.fracField w) (f.emin - f.m)) ∨
    (f.expField w ≠ 0 ∧
      (f.expField w = 2 ^ f.ebits - 1 → f.hasInf = false ∧ (f.nanOnes = true → f.fracField w ≠ 2 ^ f.m - 1)) ∧
      f.decode w = .fin (bit w (f.width - 1)) (2 ^ f.m + f.fracField w) ((f.expField w : Int) - f.bias - f.m)) := by
  have hdec : f.decode w =
      if f.expField w = 2 ^ f.ebits - 1 ∧ f.hasInf then (if f.fracField w = 0 then .inf (bit w (f.width - 1)) else .nan)
      else if f.expField w = 2 ^ f.ebits - 1 ∧ f.nanOnes ∧ f.fracField w = 2 ^ f.m - 1 then .nan
      else if f.expField w = 0 then .fin (bit w (f.width - 1)) (f.fracField w) (f.emin - f.m)
      else .fin (bit w (f.width - 1)) (2 ^ f.m + f.fracField w) ((f.expField w : Int) - f.bias - f.m) := by
    simp only [Fmt.decode, hf.notInt, Fmt.expField, Fmt.fracField]
    rfl
  by_cases hinf : f.expField w = 2 ^ f.ebits - 1 ∧ f.hasInf
  case pos =>
    rw [if_pos hinf] at hdec
    by_cases hfrac : f.fracField w = 0
    · exact .inl ⟨hinf.2, hinf.1, hfrac, by rw [hdec, if_pos hfrac]⟩
    · exact absurd (by rw [hdec, if_neg hfrac]) hnan
  case neg =>
    rw [if_neg hinf] at hdec
    by_cases hones : f.expField w = 2 ^ f.ebits - 1 ∧ f.nanOnes ∧ f.fracField w = 2 ^ f.m - 1
    · exact absurd (by rw [hdec, if_pos hones]) hnan
    · rw [if_neg hones] at hdec
      by_cases hzero : f.expField w = 0
      · exact .inr (.inl ⟨hzero, by rw [hdec, if_pos hzero]⟩)
      · exact .inr (.inr ⟨hzero,
          fun hlast => ⟨Bool.eq_false_iff.mpr fun h => hinf ⟨hlast, h⟩, fun hn hq => hones ⟨hlast, hn, hq⟩⟩,
          by rw [hdec, if_neg hzero]⟩)

/-! ## Floating-point formats: rounding a value on the grid -/

theorem emax_sub_m_eq : f.emax - f.m = (2 ^ f.ebits : Nat) - 1 - f.bias - (if f.hasInf then 1 else 0) - f.m := by
  have := two_pow_ebits_ge hf
  rw [Fmt.emax]
  omega

end

/-- q × 2^exp is a nonzero value of the format: the rounding step at its exponent is 2^exp itself, and it is not past the largest
finite value. -/
structure Fmt.OnGrid (f : Fmt) (q : Nat) (exp : Int) : Prop where
  ne_zero : q ≠ 0
  step_eq : max (exp + Nat.log2 q) f.emin - f.m = exp
  le_top : exp ≤ f.emax - f.m
  le_maxMant : exp = f.emax - f.m → q ≤ f.maxMant

section
variable {f : Fmt} (hf : f.Regular)
include hf

/-- Below the top step even twice the largest mantissa bounds q, which has at most m + 1 bits. -/
theorem le_scaled_maxMant_of_onGrid {q : Nat} {exp : Int} (h : f.OnGrid q exp) (hlt : exp < f.emax - f.m) :
    q ≤ f.maxMant * 2 ^ (f.emax - f.m - exp).toNat := by
  have hlog : Nat.log2 q ≤ f.m := by have := h.step_eq; omega
  have hq : q < 2 ^ (f.m + 1) := (Nat.log2_lt h.ne_zero).mp (Nat.lt_succ_of_le hlog)
  have hm : 2 ^ 2 ≤ 2 ^ (f.m + 1) := Nat.pow_le_pow_right (by decide) (Nat.succ_le_succ hf.m_pos)
  have hscale : 2 ^ 1 ≤ 2 ^ (f.emax - f.m - exp).toNat := Nat.pow_le_pow_right (by decide) (by omega)
  calc q ≤ f.maxMant * 2 ^ 1 := by have := two_pow_m_succ_le_maxMant f; omega
    _ ≤ f.maxMant * 2 ^ (f.emax - f.m - exp).toNat := Nat.mul_le_mul_left _ hscale

/-- A value on the grid is rounded to itself, with no flag: it is exact and does not overflow. -/
theorem roundToFp_of_onGrid (r : Rnd) (neg : Bool) {q : Nat} {exp : Int} (h : f.OnGrid q exp) :
    roundToFp f r (.fin neg q exp) = ⟨.fin neg q exp, 0⟩ := by
  have hpast : (if f.emax - f.m ≤ exp then decide (f.maxMant < q * 2 ^ (exp - (f.emax - f.m)).toNat)
      else decide (f.maxMant * 2 ^ (f.emax - f.m - exp).toNat < q)) = false := by
    split
    case isTrue htop =>
      have heq : exp = f.emax - f.m := Int.le_antisymm h.le_top htop
      simpa [heq] using h.le_maxMant heq
    case isFalse htop => simpa using le_scaled_maxMant_of_onGrid hf h (Int.not_le.mp htop)
  simp only [roundToFp, if_neg h.ne_zero, h.step_eq, roundInt_self, hpast]
  rfl

theorem onGrid_of_expField_zero {w : Nat} (h0 : f.fracField w ≠ 0) : f.OnGrid (f.fracField w) (f.emin - f.m) := by
  have hfrac := fracField_lt f w
  have hlog : Nat.log2 (f.fracField w) < f.m := (Nat.log2_lt h0).mpr hfrac
  have htwo : 2 ^ 1 ≤ 2 ^ f.m := Nat.pow_le_pow_right (by decide) hf.m_pos
  have htop := emax_sub_m_eq hf
  have hbig := two_pow_ebits_ge hf
  refine ⟨h0, by omega, ?_, fun _ => ?_⟩
  · rw [htop, Fmt.emin]
    split <;> omega
  · have := two_pow_m_succ_le_maxMant f
    omega

theorem onGrid_of_expField_ne_zero {w : Nat} (h0 : f.expField w ≠ 0)
    (hlast : f.expField w = 2 ^ f.ebits - 1 → f.hasInf = false ∧ (f.nanOnes = true → f.fracField w ≠ 2 ^ f.m - 1)) :
    f.OnGrid (2 ^ f.m + f.fracField w) ((f.expField w : Int) - f.bias - f.m) := by
  have hfrac := fracField_lt f w
  have hpos := Nat.two_pow_pos f.m
  have htop := emax_sub_m_eq hf
  have hbig := two_pow_ebits_ge hf
  have he := expField_le hf w
  refine ⟨by omega, ?_, ?_, fun heq => ?_⟩
  · rw [log2_two_pow_add_fracField f, Fmt.emin]
    omega
  · rw [htop]
    split
    case isTrue hinf =>
      have : f.expField w ≠ 2 ^ f.ebits - 1 := fun h => by simp [hinf] at hlast; exact hlast h
      omega
    case isFalse hinf => omega
  · rw [htop] at heq
    rw [Fmt.maxMant]
    split
    case isTrue hn =>
      simp only [hf.noInf hn, Bool.false_eq_true, if_false] at heq
      have hq := (hlast (by omega)).2 hn
      omega
    case isFalse hn => omega

/-! ## Floating-point formats: encoding a value on the grid -/

theorem encode_inf (neg : Bool) : f.encode (.inf neg) = f.signPart neg + (2 ^ f.ebits - 1) * 2 ^ f.m := by
  simp [Fmt.encode, hf.notInt, Fmt.signPart]

theorem encode_zero (neg : Bool) (exp : Int) : f.encode (.fin neg 0 exp) = f.signPart neg := by
  simp [Fmt.encode, hf.notInt, Fmt.signPart]

/-- A subnormal value: the exponent field stays 0. -/
theorem encode_subnormal (neg : Bool) {q : Nat} (h0 : q ≠ 0) (hq : q < 2 ^ f.m) :
    f.encode (.fin neg q (f.emin - f.m)) = f.signPart neg + q := by
  have hlog : Nat.log2 q < f.m := (Nat.log2_lt h0).mpr hq
  have hsub : f.emin - f.m + (Nat.log2 q : Int) < f.emin := by omega
  simp [Fmt.encode, hf.notInt, h0, hsub, Fmt.signPart, shiftQ_zero]

/-- A normal value with exponent field e and mantissa field q. -/
theorem encode_normal (neg : Bool) {e q : Nat} (he : e ≠ 0) (hlog : Nat.log2 (2 ^ f.m + q) = f.m) :
    f.encode (.fin neg (2 ^ f.m + q) ((e : Int) - f.bias - f.m)) = f.signPart neg + e * 2 ^ f.m + q := by
  have hne : 2 ^ f.m + q ≠ 0 := by have := Nat.two_pow_pos f.m; omega
  have hex : (e : Int) - f.bias - f.m + f.m = e - f.bias := by omega
  have hnormal : ¬ (e : Int) - f.bias < f.emin := by rw [Fmt.emin]; omega
  have hfield : ((e : Int) - f.bias + f.bias).toNat = e := by omega
  simp only [Fmt.encode, hf.notInt, Bool.false_eq_true, if_false, if_neg hne, hlog, hex, if_neg hnormal, hfield, Int.sub_self,
    shiftQ_zero, Nat.add_sub_cancel_left, Fmt.signPart]

/-! ## Conversion to the same format -/

theorem put_of_roundToFp {r : Rnd} {v : FV} (h : roundToFp f r v = ⟨v, 0⟩) : f.put r v = (f.encode v, 0) := by
  simp only [Fmt.put, Fmt.round, hf.notInt, Bool.false_eq_true, if_false, h]

theorem put_inf {r : Rnd} (hinf : f.hasInf = true) (hsat : r.sat = false) (neg : Bool) :
    f.put r (.inf neg) = (f.signPart neg + (2 ^ f.ebits - 1) * 2 ^ f.m, 0) := by
  rw [put_of_roundToFp hf (by simp [roundToFp, hinf, hsat]), encode_inf hf]

theorem put_zero (r : Rnd) (neg : Bool) (exp : Int) : f.put r (.fin neg 0 exp) = (f.signPart neg, 0) := by
  have hround : f.round r (.fin neg 0 exp) = ⟨.fin neg 0 0, 0⟩ := by simp [Fmt.round, hf.notInt, roundToFp]
  simp only [Fmt.put, hround, encode_zero hf]

theorem put_of_expField_zero (r : Rnd) (neg : Bool) (w : Nat) :
    f.put r (.fin neg (f.fracField w) (f.emin - f.m)) = (f.signPart neg + f.fracField w, 0) := by
  by_cases h0 : f.fracField w = 0
  case pos => rw [h0, put_zero hf, Nat.add_zero]
  case neg => rw [put_of_roundToFp hf (roundToFp_of_onGrid hf r neg (onGrid_of_expField_zero hf h0)),
    encode_subnormal hf neg h0 (fracField_lt f w)]

theorem put_decode_of_regular {w : Nat} {r : Rnd} (hw : w < 2 ^ f.width) (hnan : f.decode w ≠ .nan)
    (hsat : r.sat = false ∨ (f.decode w).isFin = true) : f.put r (f.decode w) = (w, 0) := by
  have hparts := signPart_add_expField_add_fracField hf hw
  rcases decode_cases hf hnan with ⟨hinf, hlast, hfrac, hdec⟩ | ⟨hzero, hdec⟩ | ⟨hne, hlast, hdec⟩
  case inl =>
    have hoff : r.sat = false := hsat.resolve_right (by simp [hdec, FV.isFin])
    rw [hlast, hfrac, Nat.add_zero] at hparts
    rw [hdec, put_inf hf hinf hoff, hparts]
  case inr.inl =>
    rw [hzero, Nat.zero_mul, Nat.add_zero] at hparts
    rw [hdec, put_of_expField_zero hf, hparts]
  case inr.inr =>
    have hround := roundToFp_of_onGrid hf r (bit w (f.width - 1)) (onGrid_of_expField_ne_zero hf hne hlast)
    rw [hdec, put_of_roundToFp hf hround, encode_normal hf _ hne (log2_two_pow_add_fracField f w), hparts]

end

/-- Settles O10: an integer's value is in its two's complement range, and a floating-point value lies on its format's grid, so the
rounding is exact and the encoding puts its fields back. -/
theorem formatsHoldTheirOwnValues : Obligations.FormatsHoldTheirOwnValues := by
  intro code f w r hcode hw hnan hsat
  rcases isInt_or_regular_of_fmtOf hcode with ⟨hInt, hpos⟩ | hreg
  · exact put_decode_of_isInt hInt hpos hw r
  · exact put_decode_of_regular hreg hw hnan hsat

end Sys2Proof.Machine
end

section
/-!
PROOFS. The halo step of CONV (R131, R136): the bits of AG_STATUS, a slot with one command, and how the step goes on at its deadline
and at the end of each copy.
-/
namespace Sys2Proof.Machine

/-! ## The halo bits of AG_STATUS -/

theorem bits_one_zero (n : Nat) : bits n 1 0 = 2 * (bit n 1).toNat + (bit n 0).toNat := by
  rw [bit_eq_testBit, bit_eq_testBit, Nat.toNat_testBit, Nat.toNat_testBit, bits]
  omega

@[simp] theorem haloBits_tileGet (s : State) (x y : Core3) (copy wait : Bool) : (s.haloBits x copy wait).tileGet y = s.tileGet y := by
  rw [State.haloBits, setRbit_tileGet, setRbit_tileGet]

@[simp] theorem haloBits_sync (s : State) (x : Core3) (copy wait : Bool) : (s.haloBits x copy wait).sync = s.sync := by
  rw [State.haloBits, setRbit_sync, setRbit_sync]

theorem haloBits_fld (s : State) (x : Core3) (copy wait : Bool) :
    (s.haloBits x copy wait).fld (x.reg 0x500) 1 0 = 2 * copy.toNat + wait.toNat := by
  have hcopy : (s.haloBits x copy wait).rbit (x.reg 0x500) 1 = copy := by
    rw [State.haloBits, rbit_setRbit_ne _ _ _ (by decide) (by decide), rbit_setRbit_self _ _ _ (by decide)]
  have hwait : (s.haloBits x copy wait).rbit (x.reg 0x500) 0 = wait := by
    rw [State.haloBits, rbit_setRbit_self _ _ _ (by decide)]
  rw [State.fld, bits_one_zero, ← State.rbit, ← State.rbit, hcopy, hwait]

theorem haloBits_reg_ne (s : State) (x : Core3) (copy wait : Bool) {a : Nat} (h : a ≠ x.reg 0x500) :
    (s.haloBits x copy wait).reg a = s.reg a := by
  rw [State.haloBits, State.setRbit, reg_setFld_ne _ _ _ _ h, State.setRbit, reg_setFld_ne _ _ _ _ h]

/-! ## A slot with one command -/

section
variable {s : State} {x : Core3} {e : Cmd} (hcmds : (s.tileGet x).cmds = [e])
include hcmds

theorem cmd?_of_cmds_eq_singleton : s.cmd? x e.num = some e := by
  simp [State.cmd?, hcmds]

theorem haloCmd_of_cmds_eq_singleton {p : CmdStage → Bool} (hp : p e.stage = true) : s.haloCmd x p = some e := by
  simp [State.haloCmd, hcmds, hp]

/-- The only command goes to another stage, and stays the only one. -/
theorem setCmd_stage_of_cmds_eq_singleton (g : CmdStage) :
    s.setCmd x { e with stage := g } = s.tileSet x { s.tileGet x with cmds := [{ e with stage := g }] } := by
  simp [State.setCmd, hcmds]

end

/-! ## Waits that are cancelled -/

@[simp] theorem cancelWaits_reg (s : State) (p : Waiter → Bool) (a : Nat) : (s.cancelWaits p).reg a = s.reg a := rfl
@[simp] theorem cancelWaits_tileGet (s : State) (p : Waiter → Bool) (x : Core3) : (s.cancelWaits p).tileGet x = s.tileGet x := rfl

theorem cancelWaits_waiters_of_singleton {s : State} {p : Waiter → Bool} {w : Waiter} (hws : s.sync.waiters = [w]) (hp : p w = true) :
    (s.cancelWaits p).sync.waiters = [] := by
  simp [State.cancelWaits, hws, hp]

/-! ## What the step leaves alone

The words written are variables here, so that only the fields of the states are compared. -/

theorem setReg_tileSet_frame (s : State) (a v : Nat) (x : Core3) (t : TileState) :
    (s.setReg a v).tileSet x t =
      { s with tile := ((s.setReg a v).tileSet x t).tile, regs := ((s.setReg a v).tileSet x t).regs } := by
  rfl

theorem cancelWaits_tileSet_setReg_setReg_frame (s : State) (p : Waiter → Bool) (x : Core3) (t : TileState) (a v b w : Nat) :
    (((s.cancelWaits p).tileSet x t).setReg a v).setReg b w =
      { s with tile := ((((s.cancelWaits p).tileSet x t).setReg a v).setReg b w).tile,
               sync := ((((s.cancelWaits p).tileSet x t).setReg a v).setReg b w).sync,
               regs := ((((s.cancelWaits p).tileSet x t).setReg a v).setReg b w).regs } := by
  rfl

theorem cancelWaits_tileSet_haloBits_frame (s : State) (p : Waiter → Bool) (x : Core3) (t : TileState) (copy wait : Bool) :
    ((s.cancelWaits p).tileSet x t).haloBits x copy wait =
      { s with tile := (((s.cancelWaits p).tileSet x t).haloBits x copy wait).tile,
               sync := (((s.cancelWaits p).tileSet x t).haloBits x copy wait).sync,
               regs := (((s.cancelWaits p).tileSet x t).haloBits x copy wait).regs } :=
  cancelWaits_tileSet_setReg_setReg_frame s p x t _ _ _ _

/-! ## The deadline (R131 step 4) -/

theorem haloLate_of_haloWait {s : State} {x : Core3} {n : Nat} {c : Cmd} (hc : s.cmd? x n = some c) (hst : c.stage = .haloWait) :
    s.haloLate x n = (s.setCmd x { c with stage := .haloAlt true }).haloBits x true false := by
  simp [State.haloLate, hc, hst]

/-- A registered wait that is the only one and whose deadline passed leaves the waiter table, and the halo step goes on late. -/
theorem exec_haloDeadlineExpiry_of_late {s : State} {d : Fin 4} {c : Fin 8} {sl : Fin 9} {w : Waiter} {n t₀ : Nat}
    (harr : s.sync.arriving = []) (hws : s.sync.waiters = [w]) (hwho : w.who = .halo (Core3.ix ⟨d, c, sl⟩) n)
    (hdl : w.deadline = some t₀) (hlate : t₀ < s.cycle) :
    exec (.haloDeadlineExpiry d c sl) s =
      .next ((s.cancelWaits (fun v => decide (v.who = .halo (Core3.ix ⟨d, c, sl⟩) n))).haloLate ⟨d, c, sl⟩ n) := by
  have harm : exec (.haloDeadlineExpiry d c sl) s = execHaloDeadlineExpiry d c sl s := by rfl
  rw [harm, execHaloDeadlineExpiry]
  simp [harr, hws, hwho, hdl, hlate]

/-! ## The ends of the copies (R131 steps 2 to 4, R136) -/

theorem exec_haloMailboxCopyDone (d : Fin 4) (c : Fin 8) (sl : Fin 9) (s : State) :
    exec (.haloMailboxCopyDone d c sl) s = .next (s.haloMailDone ⟨d, c, sl⟩) := by rfl

theorem exec_haloAltCopyDone (d : Fin 4) (c : Fin 8) (sl : Fin 9) (s : State) :
    exec (.haloAltCopyDone d c sl) s = .next (s.haloAltDone ⟨d, c, sl⟩) := by rfl

section
variable {s : State} {x : Core3} {e : Cmd} (hcmds : (s.tileGet x).cmds = [e]) (hab : s.aborting x = false)
include hcmds hab

/-- BEGIN_OBJ at HALO_GEN + 2 or above: the mailbox copy is torn. -/
theorem haloMailDone_of_torn (hst : e.stage = .haloMail) (htorn : wf e.walk 0x18 4 + 2 ≤ s.obj (bits (wf e.walk 0x14 4) 17 0)) :
    s.haloMailDone x = (s.bump (x.reg 0x50C)).setCmd x { e with stage := .haloAlt false } := by
  have hcmd : s.haloCmd x (· == .haloMail) = some e := haloCmd_of_cmds_eq_singleton hcmds (by simp [hst])
  simp [State.haloMailDone, hcmd, hab, htorn]

/-- A mailbox copy that is not torn and reads and writes without error. -/
theorem haloMailDone_of_copied {u : State} (hst : e.stage = .haloMail)
    (hgen : s.obj (bits (wf e.walk 0x14 4) 17 0) < wf e.walk 0x18 4 + 2)
    (hcopy : haloCopy s x e.walk (wf e.walk 0x20 8 : Nat) ((walkDim e.walk (wf e.walk 0xC 1)).pitch : Nat) = (u, true)) :
    s.haloMailDone x = ((u.bump (x.reg 0x504)).haloBits x false false).runCmd x e := by
  have hcmd : s.haloCmd x (· == .haloMail) = some e := haloCmd_of_cmds_eq_singleton hcmds (by simp [hst])
  simp [State.haloMailDone, hcmd, hab, Nat.not_le.mpr hgen, hcopy]

/-- A copy from ALT_ADDR that reads and writes without error; the deadline's own copy is counted. -/
theorem haloAltDone_of_copied {u : State} {late : Bool} (hst : e.stage = .haloAlt late)
    (hcopy : haloCopy s x e.walk (wf e.walk 0x28 8 : Nat) (toInt 32 (wf e.walk 0x30 4)) = (u, true)) :
    s.haloAltDone x = ((if late then u.bump (x.reg 0x508) else u).haloBits x false false).runCmd x e := by
  rw [State.haloAltDone, haloCmd_of_cmds_eq_singleton hcmds]
  · simp [hab, hst, hcopy]
  · rw [hst]

end

/-- Settles O19: the sole waiter's deadline moves the command to ALT_ADDR; the test of BEGIN_OBJ parts the torn mailbox copy from the
good one; the copy from ALT_ADDR is counted only where the deadline brought it. -/
theorem haloStepEndsByItsThreeWays : Obligations.HaloStepEndsByItsThreeWays := by
  intro s d c sl e x hcmds hab
  refine ⟨fun w t₀ hst harr hws hwho hdl hlate => ?_, fun hst htorn => ?_, fun u hst hgen hcopy => ?_, fun u late hst hcopy => ?_⟩
  case refine_1 =>
    have hcmds₁ (p : Waiter → Bool) : ((s.cancelWaits p).tileGet x).cmds = [e] := by rw [cancelWaits_tileGet, hcmds]
    have hexec := exec_haloDeadlineExpiry_of_late harr hws hwho hdl hlate
    rw [haloLate_of_haloWait (cmd?_of_cmds_eq_singleton (hcmds₁ _)) hst, setCmd_stage_of_cmds_eq_singleton (hcmds₁ _)] at hexec
    refine ⟨_, hexec, ?_, ?_, haloBits_fld _ x true false, fun a ha => ?_, cancelWaits_tileSet_haloBits_frame s _ x _ true false⟩
    · rw [haloBits_sync, tileSet_sync, cancelWaits_waiters_of_singleton hws (decide_eq_true hwho)]
    · rw [haloBits_tileGet, tileSet_tileGet_self, cancelWaits_tileGet]
    · rw [haloBits_reg_ne _ x true false ha, tileSet_reg, cancelWaits_reg]
  case refine_2 =>
    have hcmds₁ : ((s.bump (x.reg 0x50C)).tileGet x).cmds = [e] := by rw [bump_tileGet, hcmds]
    have hexec := exec_haloMailboxCopyDone d c sl s
    rw [haloMailDone_of_torn hcmds hab hst htorn, setCmd_stage_of_cmds_eq_singleton hcmds₁] at hexec
    refine ⟨_, hexec, ?_, ?_, fun a ha => ?_, setReg_tileSet_frame s _ _ x _⟩
    · rw [tileSet_tileGet_self, bump_tileGet]
    · rw [tileSet_reg, reg_bump_self]
    · rw [tileSet_reg, reg_bump_ne s ha]
  case refine_3 =>
    rw [exec_haloMailboxCopyDone, haloMailDone_of_copied hcmds hab hst hgen hcopy]
  case refine_4 =>
    rw [exec_haloAltCopyDone, haloAltDone_of_copied hcmds hab hst hcopy]

end Sys2Proof.Machine
end

section
/-!
PROOFS. Acceptance of a step's drafts and tokens, and the draft cap (R231 to R233).
-/
namespace Sys2Proof.Machine

/-! ## The drafts accepted (R231 step 2) -/

/-- Draft d[i] of a result record is the token c[i − 1] chosen before it, for i from 1: the drafts lie from 0x44 on, the chosen
tokens from 4 on. -/
def DraftMatches (rec_ : List Byte) (i : Nat) : Prop := fieldLe rec_ (0x40 + 4 * i) 4 = fieldLe rec_ (4 * i) 4

/-- The match as the model's addresses spell it, with drafts and tokens counted from 0. -/
theorem draftMatches_iff (rec_ : List Byte) {i : Nat} (hi : 0 < i) :
    DraftMatches rec_ i ↔ fieldLe rec_ (0x44 + 4 * (i - 1)) 4 = fieldLe rec_ (4 + 4 * (i - 1)) 4 := by
  rw [DraftMatches, show 0x40 + 4 * i = 0x44 + 4 * (i - 1) by omega, show 4 * i = 4 + 4 * (i - 1) by omega]

/-- With n + 1 drafts left, the next one is d[len − n]. -/
theorem draftRun_succ_of_match {rec_ : List Byte} {len n : Nat} (hn : n < len) (h : DraftMatches rec_ (len - n)) :
    draftRun rec_ len (n + 1) = 1 + draftRun rec_ len n := by
  rw [draftRun, if_pos ((draftMatches_iff rec_ (Nat.sub_pos_of_lt hn)).mp h)]

theorem draftRun_succ_of_mismatch {rec_ : List Byte} {len n : Nat} (hn : n < len) (h : ¬ DraftMatches rec_ (len - n)) :
    draftRun rec_ len (n + 1) = 0 := by
  rw [draftRun, if_neg (mt (draftMatches_iff rec_ (Nat.sub_pos_of_lt hn)).mpr h)]

/-- With n of len drafts left, the run counted is the longest run of matches that begins at draft len − n + 1. -/
theorem draftRun_longest (rec_ : List Byte) {len n : Nat} (hn : n ≤ len) :
    draftRun rec_ len n ≤ n ∧
    (∀ i, len - n < i → i ≤ len - n + draftRun rec_ len n → DraftMatches rec_ i) ∧
    (draftRun rec_ len n < n → ¬ DraftMatches rec_ (len - n + draftRun rec_ len n + 1)) := by
  induction n with
  | zero => exact ⟨Nat.le_refl _, fun i hlo hhi => absurd hlo (Nat.not_lt.mpr hhi), fun h => absurd h (Nat.lt_irrefl _)⟩
  | succ n ih =>
    obtain ⟨hle, hrun, hstop⟩ := ih (Nat.le_of_succ_le hn)
    have hfirst : len - (n + 1) + 1 = len - n := by omega
    by_cases h : DraftMatches rec_ (len - n)
    case pos =>
      have hend : len - (n + 1) + (1 + draftRun rec_ len n) = len - n + draftRun rec_ len n := by omega
      rw [draftRun_succ_of_match hn h, hend]
      refine ⟨by omega, fun i hlo hhi => ?_, fun hlt => hstop (by omega)⟩
      obtain rfl | hgt : i = len - n ∨ len - n < i := by omega
      · exact h
      · exact hrun i hgt hhi
    case neg =>
      rw [draftRun_succ_of_mismatch hn h, Nat.add_zero, hfirst]
      exact ⟨Nat.zero_le _, fun i hlo hhi => absurd hlo (Nat.not_lt.mpr hhi), fun _ => h⟩

/-! ## The tokens committed (R231 step 3) -/

/-- Without a stop token in the room left, the room is filled. -/
theorem commitTokens_of_no_stop {stops toks : List Nat} {room : Nat} (h : ∀ c ∈ toks.take room, c ∉ stops) :
    commitTokens stops room toks = (toks.take room, false) := by
  induction toks generalizing room with
  | nil => rw [commitTokens, List.take_nil]
  | cons c cs ih =>
    cases room with
    | zero => rw [commitTokens, if_pos rfl, List.take_zero]
    | succ room =>
      rw [List.take_succ_cons, List.forall_mem_cons] at h
      obtain ⟨hc, hcs⟩ := h
      simp [commitTokens, hc, ih hcs]

/-- Committing ends with the first stop token that the room reaches. -/
theorem commitTokens_of_first_stop {stops pre rest : List Nat} {c room : Nat} (hpre : ∀ x ∈ pre, x ∉ stops) (hc : c ∈ stops)
    (hroom : pre.length < room) : commitTokens stops room (pre ++ c :: rest) = (pre ++ [c], true) := by
  induction pre generalizing room with
  | nil => simp [commitTokens, hc, Nat.ne_zero_of_lt hroom]
  | cons x xs ih =>
    rw [List.forall_mem_cons] at hpre
    obtain ⟨hx, hxs⟩ := hpre
    rw [List.length_cons] at hroom
    simp [commitTokens, hx, Nat.ne_zero_of_lt hroom, ih hxs (Nat.lt_sub_of_add_lt hroom)]

/-- The two ways committing can end, as the two lemmas above take them: the first stop token lies past the room left or within it. -/
theorem no_stop_or_first_stop (stops toks : List Nat) (room : Nat) :
    (∀ c ∈ toks.take room, c ∉ stops) ∨
    ∃ pre c rest, toks = pre ++ c :: rest ∧ pre.length < room ∧ c ∈ stops ∧ ∀ x ∈ pre, x ∉ stops := by
  cases hfind : (toks.take room).find? (· ∈ stops) with
  | none => exact .inl (by simpa using hfind)
  | some c =>
    obtain ⟨hc, pre, rest, htake, hpre⟩ := List.find?_eq_some_iff_append.mp hfind
    have hroom : (pre ++ c :: rest).length ≤ room := htake ▸ List.length_take_le room toks
    rw [List.length_append, List.length_cons] at hroom
    refine .inr ⟨pre, c, rest ++ toks.drop room, ?_, by omega, by simpa using hc, by simpa using hpre⟩
    calc toks = toks.take room ++ toks.drop room := (List.take_append_drop room toks).symm
      _ = pre ++ c :: (rest ++ toks.drop room) := by rw [htake, List.append_assoc, List.cons_append]

/-! ## The draft cap (R232, R233) -/

/-- CAP after a step with L ≥ 1, where speculation stays on: the table of R232. -/
def ReqEntry.capAfter (e : ReqEntry) (l : Lane) (len a : Nat) : Nat :=
  if a = len then min (e.cap + 1) (l.d 0x16 1)
  else if 0 < a then max (a + 1) (l.d 0x17 1)
  else max (e.cap / 2) (l.d 0x17 1)

/-- REJ_RUN after such a step: the table of R232, kept within its byte. -/
def ReqEntry.rejRunAfter (e : ReqEntry) (a : Nat) : Nat := if a = 0 then min (e.rejRun + 1) 255 else 0

theorem adapt_of_len_eq_zero (e : ReqEntry) (l : Lane) (a : Nat) : e.adapt l 0 a = e := rfl

theorem adapt_of_len_ne_zero (e : ReqEntry) (l : Lane) {len : Nat} (a : Nat) (hlen : len ≠ 0) :
    e.adapt l len a = if l.d 0x18 1 ≤ e.rejRunAfter a
      then { e with cap := 0, rejRun := e.rejRunAfter a, flags := putBit e.flags 5 true }
      else { e with cap := e.capAfter l len a, rejRun := e.rejRunAfter a } := by
  by_cases hall : a = len
  case pos => simp [ReqEntry.adapt, ReqEntry.capAfter, ReqEntry.rejRunAfter, hall, hlen]
  case neg =>
    by_cases hnone : a = 0
    · simp [ReqEntry.adapt, ReqEntry.capAfter, ReqEntry.rejRunAfter, hnone, hlen, Ne.symm hlen]
    · simp [ReqEntry.adapt, ReqEntry.capAfter, ReqEntry.rejRunAfter, hnone, hlen, hall, Nat.pos_of_ne_zero hnone]

theorem adapt_off_or_cap_eq_capAfter (e : ReqEntry) (l : Lane) {len : Nat} (a : Nat) (hlen : len ≠ 0) :
    (bit (e.adapt l len a).flags 5 = true ∧ (e.adapt l len a).cap = 0) ∨ (e.adapt l len a).cap = e.capAfter l len a := by
  rw [adapt_of_len_ne_zero e l a hlen]
  split
  · exact .inl ⟨bit_putBit_self _ _ _, rfl⟩
  · exact .inr rfl

theorem capAfter_bounds {e : ReqEntry} {l : Lane} {len a : Nat} (hlohi : l.d 0x17 1 ≤ l.d 0x16 1) (hlo : l.d 0x17 1 ≤ e.cap)
    (hhi : e.cap ≤ l.d 0x16 1) (hlen : len ≤ e.cap) (ha : a ≤ len) :
    l.d 0x17 1 ≤ e.capAfter l len a ∧ e.capAfter l len a ≤ l.d 0x16 1 := by
  rw [ReqEntry.capAfter]
  split
  case isTrue => omega
  case isFalse hall =>
    have hlt : a < len := Nat.lt_of_le_of_ne ha hall
    split <;> omega

/-- Settles O28: the accepted run by induction on the drafts left; the committed tokens by where the first stop token lies; the cap
by the three outcomes of R232. -/
theorem draftsAreAcceptedAndTheCapAdapts : Obligations.DraftsAreAcceptedAndTheCapAdapts := by
  refine ⟨fun rec_ len => ?_, fun stops toks room => ?_, fun e l len a hlohi hlo hhi hlen ha => ?_⟩
  case refine_1 =>
    have hlongest := draftRun_longest rec_ (Nat.le_refl len)
    rwa [Nat.sub_self, Nat.zero_add] at hlongest
  case refine_2 =>
    obtain hnone | ⟨pre, c, rest, rfl, hroom, hc, hpre⟩ := no_stop_or_first_stop stops toks room
    · have htake : toks.take (min room toks.length) = toks.take room := List.take_eq_take_min.symm
      rw [commitTokens_of_no_stop hnone]
      exact ⟨min room toks.length, Nat.min_le_left _ _, htake.symm, fun _ => ⟨htake ▸ hnone, rfl⟩, nofun⟩
    · rw [commitTokens_of_first_stop hpre hc hroom]
      have htake : (pre ++ c :: rest).take (pre.length + 1) = pre ++ [c] := by
        rw [List.take_length_add_append, List.take_succ_cons, List.take_zero]
      have hstop : (pre ++ c :: rest)[pre.length]? = some c := by
        rw [List.getElem?_append_right (Nat.le_refl _), Nat.sub_self, List.getElem?_cons_zero]
      have hbefore : (pre ++ c :: rest).take pre.length = pre := List.take_left
      refine ⟨pre.length + 1, hroom, htake.symm, nofun, fun _ => ⟨Nat.succ_pos _, ⟨c, hc, hstop⟩, ?_⟩⟩
      rwa [Nat.add_sub_cancel, hbefore]
  case refine_3 =>
    by_cases hzero : len = 0
    · subst hzero
      exact .inr ⟨hlo, hhi⟩
    · obtain hoff | hcap := adapt_off_or_cap_eq_capAfter e l a hzero
      · exact .inl hoff
      · exact .inr (hcap ▸ capAfter_bounds hlohi hlo hhi hlen ha)

end Sys2Proof.Machine
end
